-- ==== Sys2Proof/Word.lean ====
section
/-!
DEFINITION. The word types of the block and the plainest helpers over numbers, vectors and association lists.
-/

namespace Sys2Proof

/-- One byte; multi-byte data is little-endian (R7). -/
abbrev Byte := BitVec 8
/-- A binary32 value, a register of 32 bits (R8, R72). -/
abbrev W32 := BitVec 32
/-- A 64-bit register or address. -/
abbrev W64 := BitVec 64
/-- One 128-byte submission entry or completion record (R366, R367). -/
abbrev Entry := BitVec 1024

/-- Bits [lo+w-1:lo] of a natural number (R7: bit 0 is the least significant). -/
def bitsAt (x lo w : Nat) : Nat := (x >>> lo) % 2 ^ w

/-- Bit i of a natural number. -/
def bitAt (x i : Nat) : Bool := bitsAt x i 1 == 1

/-- Ceiling division. -/
def cdiv (a b : Nat) : Nat := (a + b - 1) / b

/-- One element of a vector changed by f. -/
def upd {α : Type} {n : Nat} (v : Vector α n) (i : Fin n) (f : α → α) : Vector α n :=
  v.set i.val (f (v[i.val]'i.isLt)) i.isLt

/-- One element of a vector. -/
def pick {α : Type} {n : Nat} (v : Vector α n) (i : Fin n) : α := v[i.val]'i.isLt

/-- The value an association list gives a key. -/
def assoc {κ α : Type} [DecidableEq κ] : List (κ × α) → κ → Option α
  | [], _ => none
  | (k, a) :: l, x => if k = x then some a else assoc l x

/-- The association list without a key. -/
def assocDel {κ α : Type} [DecidableEq κ] (l : List (κ × α)) (x : κ) : List (κ × α) :=
  l.filter fun p => !decide (p.1 = x)

/-- The association list with a key set: at its place, or at the end when it is new. -/
def assocSet {κ α : Type} [DecidableEq κ] : List (κ × α) → κ → α → List (κ × α)
  | [], x, v => [(x, v)]
  | (k, a) :: l, x, v => if k = x then (x, v) :: l else (k, a) :: assocSet l x v

/-- Every element that satisfies p changed by f. -/
def updWhere {α : Type} (l : List α) (p : α → Bool) (f : α → α) : List α :=
  l.map fun a => if p a then f a else a

/-- The first element that satisfies p changed by f. -/
def updFirst {α : Type} : List α → (α → Bool) → (α → α) → List α
  | [], _, _ => []
  | a :: l, p, f => if p a then f a :: l else a :: updFirst l p f

/-- The list without its first element that satisfies p. -/
def dropFirst {α : Type} : List α → (α → Bool) → List α
  | [], _ => []
  | a :: l, p => if p a then l else a :: dropFirst l p

/-- The little-endian bytes of a number, n of them. -/
def leBytes (x : Nat) : Nat → List Byte
  | 0 => []
  | n + 1 => BitVec.ofNat 8 x :: leBytes (x / 256) n

/-- The number a little-endian byte list spells. -/
def leNat : List Byte → Nat
  | [] => 0
  | b :: l => b.toNat + 256 * leNat l

/-- The minimum element of a list under a key, the first among equals. -/
def minBy {α : Type} (key : α → Nat) : List α → Option α
  | [] => none
  | a :: l => match minBy key l with
    | none => some a
    | some b => if key a ≤ key b then some a else some b

/-- The first number below a bound (from lo on) that satisfies p. -/
def firstNat (p : Nat → Bool) (lo : Nat) : Nat → Option Nat
  | 0 => none
  | n + 1 => if p lo then some lo else firstNat p (lo + 1) n

end Sys2Proof
end

