-- ==== Sys2Proof/Syntax.lean ====
section
/-!
DEFINITION. The commands of the block: one constructor of `Instr` per row of spec/opcode_table.json, with the operands
the spec gives the row, and the small types those operands use.
-/

namespace Sys2Proof

/-- Where an ECI submission entry came from (R364, R383, R355). -/
inductive Src where
  | pair (q : Fin 64)
  | urgent (u : Fin 4)
  | mgmt
  deriving DecidableEq, Repr

/-- Who reaches the register window or the debug port: the host over CXL, or a core (R25, R112, R361). -/
inductive Path where
  | host
  | core (c : Fin 64)
  deriving DecidableEq, Repr

/-- What error correction found in a DRAM line (R282, R283, R285). -/
inductive Ecc where
  | clean | corrected
  /-- 5 to 8 erroneous bytes within 4 bytes of another codeword: corrected to that one, whose data is open (R282). -/
  | miscorrected
  | uncorrectable
  deriving DecidableEq, Repr

/-- The mark of an aligned 64-byte chunk (R255): 00, 01 LATE, 10 UNREADABLE. -/
inductive Mark where
  | none | late | unreadable
  deriving DecidableEq, Repr

/-- Coherent requesters: core L2s, schedule engine caches, snooping DMA of a Squall, the control processor
cluster's cache, the IO proxy and the K engines (R300, R304). -/
inductive Agent where
  | core (c : Fin 64)
  | sched (q : Fin 64)
  | dma (q : Fin 64)
  | cluster
  | ioProxy
  | kEngines
  deriving DecidableEq, Repr

/-- What a coherent request asks for (R301, R297): a read, ownership with data, ownership without data. -/
inductive CohKind where
  | read | own | ownNoData
  deriving DecidableEq, Repr

/-- The two kinds of access an ordinary core load or store can be (R296, R308). -/
inductive CoreForm where
  | plain | vector | amo | lrsc
  deriving DecidableEq, Repr

/-- What the page of a core's access says of its memory type: the type of the physical range, Svpbmt NC, or Svpbmt IO (R295). -/
inductive PageAttr where
  | pma | nc | io
  deriving DecidableEq, Repr

/-- SPDM and management transports (R356, R354). -/
inductive Transport where
  | mctp | doe
  deriving DecidableEq, Repr

/-- A Denbel flit as it reaches the link layer (Table 13.7), after its codeword was decoded or not. -/
structure Flit where
  seq : BitVec 10
  ack : BitVec 10
  ackv : Bool
  nak : Bool
  kind : BitVec 2
  stag : BitVec 7
  crvc : BitVec 3
  crcnt : BitVec 6
  payload : List Byte
  deriving DecidableEq, Repr

/-- A Denbel message header with its data units (Table 13.8). -/
structure Msg where
  opc : BitVec 8
  dst : BitVec 8
  src : BitVec 8
  vc : BitVec 3
  hops : BitVec 3
  tag : BitVec 16
  marks : BitVec 8
  addr : BitVec 48
  aux : BitVec 16
  data : List Byte
  deriving DecidableEq, Repr

/-- Which weight frame: model, index of the object in its manifest, frame within the object (R225, R247). -/
structure FrameId where
  model : BitVec 32
  obj : Nat
  f : Nat
  deriving DecidableEq, Repr

/-- Who waits on a weight frame: a DMA channel of a Squall (R246, R254). -/
structure Reader where
  sq : Fin 64
  ch : Fin 8
  deriving DecidableEq, Repr

/-- One reading of a sensor: the index of R403 and degrees Celsius. -/
structure Reading where
  die : Nat
  celsius : Int
  deriving DecidableEq, Repr

/-- How a tagged read takes a slot (R106). -/
inductive ReadKind where
  | consume | peek
  deriving DecidableEq, Repr

/-- How a KVX control message bears on a transfer (R211, R215): the peer's import or export stands ready, or the
peer ended it with a status. -/
inductive KvxWord where
  | exportReady (kvfmt layers groups b0 b1 : Nat) (stream : Bool)
  /-- Sub-frames that a stream export may write, from the given place of the reservation on (R213). -/
  | places (first : Nat) (addrs : List Nat)
  | importReady (kvfmt layers groups : Nat)
  | cancelled
  | layoutMismatch
  | linkLost
  /-- The importer is suspended, or goes on (R215). -/
  | held (on : Bool)
  /-- The exporter has sent its last block set: how many, and n_x. -/
  | finished (sent nx : Nat)
  deriving DecidableEq, Repr

/-- The kind of unit that failed, with its cause code (Table 16.3, R417). -/
inductive FailedUnit where
  | squall (q : Fin 64)
  | core (c : Fin 64)
  deriving DecidableEq, Repr

/-- A 64-bit word that fails its parity as a command reads it (R129): of core memory, an operand buffer or chip memory, of a
vector register, or of a line of the schedule engine's cache. -/
inductive BadWord where
  | mem (pa : BitVec 48)
  | vreg
  | cache (line : BitVec 42)
  /-- Not parity but error correction: what a read of the command finds in a line of DRAM (R283, R285). -/
  | dram (pa : BitVec 48) (found : Ecc)
  deriving DecidableEq, Repr

/-- The commands: one constructor per row of spec/opcode_table.json, in the table's order. -/
inductive Instr where
  -- ECI commands (14_eci Table 14.7): the entry stands at its source
  | attach (src : Src)
  | detach (src : Src)
  | reattach (src : Src)
  | modelLoad (src : Src)
  | modelLoadComplete (op : Nat)
  | modelInstall (src : Src)
  | modelInstallComplete (op : Nat)
  | installSwitch (model : BitVec 32)
  | modelEvict (src : Src)
  | roleSet (src : Src)
  | policySet (src : Src)
  | powerCapSet (src : Src)
  | regionRegister (src : Src)
  | regionRelease (src : Src)
  | seqOpen (src : Src)
  | seqClose (src : Src)
  | stepSubmit (src : Src)
  | kvExport (src : Src)
  | kvImport (src : Src)
  | kvTransferComplete (op : Nat)
  | suspend (src : Src)
  | resume (src : Src)
  | cancel (src : Src)
  | longOpSafePoint (op : Nat)
  | query (src : Src)
  | countersRead (src : Src)
  | logRead (src : Src)
  | pageRetire (src : Src)
  | fwStage (src : Src)
  | fwStageComplete (op : Nat)
  | fwCommit (src : Src)
  | resetScope (src : Src)
  | scrub (src : Src)
  | scrubComplete (op : Nat)
  -- registers and the queue engine
  | eciSqTail (q : Fin 64) (v : BitVec 32) (path : Path)
  | eciCqHead (q : Fin 64) (v : BitVec 32)
  | eciQCfg (q : Fin 64) (v : BitVec 32)
  | eciUrgDoorbell (v : BitVec 32)
  | eciBeat (v : BitVec 32)
  | eciGustDefault (v : BitVec 32)
  | memImbWindow (v : BitVec 32)
  | cohOrderMode (k : Fin 40) (v : BitVec 64)
  | cohCfgLock (v : BitVec 32)
  | cohDevTimeout (v : BitVec 32)
  | capModeSet (v : BitVec 32)
  | learnClear (v : BitVec 32)
  | hdmDecoderCommit (ways : Nat) (hostBase hostSize : BitVec 64)
  | registerWrite (offset : BitVec 16) (size : Nat) (v : BitVec 64) (path : Path)
  | sqFetch
  | hostPushComplete (q : Fin 64)
  -- steps
  | gustExpire (model : BitVec 32) (chain : Fin 16)
  | stepDispatch (model : BitVec 32) (chain : Fin 16)
  | kvAllocate (model : BitVec 32) (seq : Nat)
  | waveRelease (front : Fin 8) (model : BitVec 32) (chain : Fin 16) (wave : Fin 8)
  -- schedule records: the next record of the Squall's list
  | task (sq : Fin 64) (parity : Option BadWord)
  | endTask (sq : Fin 64) (parity : Option BadWord)
  | loop (sq : Fin 64) (parity : Option BadWord)
  | endLoop (sq : Fin 64) (parity : Option BadWord)
  | passMac (sq : Fin 64) (parity : Option BadWord)
  | passL1 (sq : Fin 64) (parity : Option BadWord)
  | passL2 (sq : Fin 64) (parity : Option BadWord)
  | passMaxplus (sq : Fin 64) (parity : Option BadWord)
  | passMinplus (sq : Fin 64) (parity : Option BadWord)
  | passCmpcount (sq : Fin 64) (parity : Option BadWord)
  | passEwise (sq : Fin 64) (parity : Option BadWord)
  -- phases of a pass
  | tileStage (sq : Fin 64) (e : Fin 4) (parity : Option BadWord)
  | tileLoad (sq : Fin 64) (e : Fin 4) (parity : Option BadWord)
  | rowFetch (sq : Fin 64) (e : Fin 4) (parity : Option BadWord)
  | rowEntry (sq : Fin 64) (e : Fin 4) (parity : Option BadWord)
  | sumPromote (sq : Fin 64) (e : Fin 4) (row : Fin 256) (col : Fin 128) (parity : Option BadWord)
  | passVerdict (sq : Fin 64) (e : Fin 4)
  | passRepeat (sq : Fin 64) (e : Fin 4) (parity : Option BadWord)
  | heldPassEject (sq : Fin 64) (e : Fin 4) (parity : Option BadWord)
  | epilogueRead (sq : Fin 64) (e : Fin 4) (parity : Option BadWord)
  | epilogueWrite (sq : Fin 64) (e : Fin 4) (parity : Option BadWord)
  | passRetire (sq : Fin 64) (e : Fin 4)
  -- vector operations
  | vopAdd (sq : Fin 64) (parity : Option BadWord)
  | vopMul (sq : Fin 64) (parity : Option BadWord)
  | vopFma (sq : Fin 64) (parity : Option BadWord)
  | vopMin (sq : Fin 64) (parity : Option BadWord)
  | vopMax (sq : Fin 64) (parity : Option BadWord)
  | vopCmp (sq : Fin 64) (parity : Option BadWord)
  | vopSelect (sq : Fin 64) (parity : Option BadWord)
  | vopExp2 (sq : Fin 64) (parity : Option BadWord)
  | vopLog2 (sq : Fin 64) (parity : Option BadWord)
  | vopRcp (sq : Fin 64) (parity : Option BadWord)
  | vopRsqrt (sq : Fin 64) (parity : Option BadWord)
  | vopSqrt (sq : Fin 64) (parity : Option BadWord)
  | vopTanh (sq : Fin 64) (parity : Option BadWord)
  | vopSigmoid (sq : Fin 64) (parity : Option BadWord)
  | vopSum (sq : Fin 64) (parity : Option BadWord)
  | vopRowMax (sq : Fin 64) (parity : Option BadWord)
  | vopRowMin (sq : Fin 64) (parity : Option BadWord)
  | vopNorm (sq : Fin 64) (parity : Option BadWord)
  | vopSoftmax (sq : Fin 64) (parity : Option BadWord)
  | vopRotary (sq : Fin 64) (parity : Option BadWord)
  | vopTopk (sq : Fin 64) (parity : Option BadWord)
  | vopGather (sq : Fin 64) (parity : Option BadWord)
  | vopScatter (sq : Fin 64) (parity : Option BadWord)
  | vopMerge (sq : Fin 64) (arrival : List Nat) (parity : Option BadWord)
  | vopMergeRoot (sq : Fin 64) (arrival : List Nat) (parity : Option BadWord)
  -- DMA
  | dma (sq : Fin 64) (parity : Option BadWord)
  | dmaProgramStart (sq : Fin 64) (ch : Fin 8) (parity : Option BadWord)
  | dmaLoad (sq : Fin 64) (ch : Fin 8) (parity : Option BadWord)
  | dmaStore (sq : Fin 64) (ch : Fin 8) (parity : Option BadWord)
  | dmaXfer (sq : Fin 64) (ch : Fin 8) (parity : Option BadWord)
  | dmaGather (sq : Fin 64) (ch : Fin 8) (parity : Option BadWord)
  | dmaScatter (sq : Fin 64) (ch : Fin 8) (parity : Option BadWord)
  | dmaMove (sq : Fin 64) (ch : Fin 8) (parity : Option BadWord)
  | dmaProgramComplete (sq : Fin 64) (ch : Fin 8)
  | fenceCore (sq : Fin 64) (parity : Option BadWord)
  | fenceChip (sq : Fin 64) (parity : Option BadWord)
  | fenceSys (sq : Fin 64) (parity : Option BadWord)
  | fenceRetire (sq : Fin 64)
  | slotRelease (sq : Fin 64) (slot : Fin 4096) (count : Fin 16)
  | slotRead (sq : Fin 64) (slot : Fin 4096) (kind : ReadKind) (parity : Option BadWord)
  | tagStall (sq : Fin 64)
  | taskFinal (sq : Fin 64)
  | stepEnd (model : BitVec 32) (chain : Fin 16)
  | commitCopyComplete (model : BitVec 32) (chain : Fin 16) (ok : Bool)
  | prefixInsert (model : BitVec 32) (chain : Fin 16)
  | debugLoad (path : Path) (pa : BitVec 48) (size : Nat) (parity : Option BadWord)
  | debugStore (path : Path) (pa : BitVec 48) (data : List Byte)
  -- cores and coherence
  | cboClean (c : Fin 64) (pa : BitVec 48) (attr : PageAttr)
  | cboFlush (c : Fin 64) (pa : BitVec 48) (attr : PageAttr)
  | cboInval (c : Fin 64) (pa : BitVec 48) (attr : PageAttr) (cbie : BitVec 2)
  | cboZero (c : Fin 64) (pa : BitVec 48) (attr : PageAttr)
  | coreFence (c : Fin 64) (predWrites : Bool)
  | trapEntry (c : Fin 64)
  | deviceLoad (c : Fin 64) (pa : BitVec 48) (size : Nat) (form : CoreForm) (answered : Bool)
  | deviceStore (c : Fin 64) (pa : BitVec 48) (va : BitVec 64) (size : Nat) (v : BitVec 64) (form : CoreForm) (answered : Bool)
  | devTimeout (c : Fin 64)
  | storeDrainTimeout (c : Fin 64)
  | coreInvalidateDone (c : Fin 64)
  | cohRequest (a : Agent) (line : BitVec 42) (kind : CohKind)
  | cohSnoop (a : Agent) (req : Nat)
  | cohSnoopAnswer (a : Agent) (req : Nat)
  | cohWriteback (a : Agent) (req : Nat)
  | cohGrant (req : Nat) (ecc : Ecc)
  | cohNack (req : Nat)
  | nackRetry (req : Nat)
  | escalationServe (home : Fin 9)
  | reservationExpire (line : BitVec 42)
  -- DRAM
  | dramAccess (ch : Fin 576) (ecc : Ecc)
  | prefetchAgePromote (ch : Fin 576)
  | refreshDue (ch : Fin 576) (bank : Fin 48)
  | dramTempRead (device : Fin 32) (celsius : Int)
  | patrolScrub (ecc : Ecc)
  | imbWindowEnd
  -- tiers and flash
  | weightFrameRead (r : Reader) (fid : FrameId)
  | liftComplete (fid : FrameId) (crcOk : Bool)
  | flashReadRetry (fid : FrameId) (decoded : Bool)
  | weightLateExpire (r : Reader) (fid : FrameId)
  | kvDemoteComplete (model : BitVec 32) (sub : Nat)
  | kvPromote (model : BitVec 32) (sub : Nat)
  | predPrefetch (model : BitVec 32) (chain : Fin 16) (candidates : List (Nat × Nat))
  | drizzleRelocate (block : Nat)
  | drizzleScan (block : Nat) (retried thresholdPassed : Bool)
  | wearRelocate (block : Nat)
  -- power, thermal, sleep
  | periodBoundary (cpuWatts ioWatts : Nat)
  | powerWindow (inputMicroJoules : Nat) (railMicroJoules : List Nat)
  | droopFire (die : Fin 16)
  | droopBurstEnd (die : Fin 16)
  | tempSample (readings : List Reading)
  | thermalTrip (die : Nat) (celsius : Int)
  | tripRelease (readings : List Reading)
  | frontCalmEnter (front : Fin 8)
  | frontLullEnter (front : Fin 8)
  | moduleLullEnter
  | frostEnter
  | frontWake (front : Fin 8)
  | moduleWake
  | wakeComplete
  -- supply, reset, boot
  | inputLoss
  | inputLow
  | inputOvervoltage
  | inputRestore
  | refclkLoss
  | resetNAssert (microseconds : Nat)
  | resetNDeassert (addr : BitVec 3) (cohProfile : BitVec 2)
  | bootStart
  | bootStageComplete (failedStacks failedPackages : List Nat) (failedUnits : List FailedUnit)
  | bootReady
  | bootWatchdog
  | heartbeatTick
  | heartbeatWatchdog
  | sessionBeatLapse (session : BitVec 16)
  | lifetimeRecordWrite
  | unitFailed (u : FailedUnit) (cause : Fin 4)
  | moduleFailed (cause : Fin 3)
  -- CXL
  | cxlMemRead (dpa : BitVec 48) (size : Nat) (ecc : Ecc)
  | cxlMemWrite (dpa : BitVec 48) (data : List Byte) (poison : Bool)
  | bar4Read (offset : BitVec 42) (size : Nat) (requester : BitVec 16) (ecc : Ecc)
  | bar4Write (offset : BitVec 42) (data : List Byte) (requester : BitVec 16) (poison : Bool)
  | cxlConfigRequest
  | cxlLinkRecovery
  | cxlLinkL0
  | cxlLinkTimeout
  | cxlHotReset
  | cxlLinkDisable
  | cxlFlr
  | perstNAssert
  | identifyMemoryDevice
  | getSupportedLogs
  | getLog (offset length : Nat)
  | getEventRecords (log : Fin 4)
  | clearEventRecords (log : Fin 4) (handles : List Nat)
  | mailboxUnsupported (opcode : BitVec 16)
  -- SPDM and management
  | getVersion (t : Transport)
  | getCapabilities (t : Transport)
  | negotiateAlgorithms (t : Transport)
  | getDigests (t : Transport)
  | getCertificate (t : Transport) (slot offset length : Nat)
  | challenge (t : Transport) (slot : Nat) (nonce : List Byte)
  | getMeasurements (t : Transport) (index : Nat) (nonce : List Byte)
  | mgmtEciRequest (entry : Entry) (image : List Byte)
  | mctpControl (message : List Byte)
  | i3cCcc (code : BitVec 8) (dynamicAddress : BitVec 7)
  -- Denbel
  | dnbFlitReceive (p : Fin 4) (flit : Flit) (decodable corrected : Bool)
  | dnbNak (p : Fin 4) (ack : BitVec 10)
  | dnbRetrain (p : Fin 4)
  | dnbPortUp (p : Fin 4) (lanes : Nat)
  | dnbPortDown (p : Fin 4)
  | dnbForward (m : Msg)
  | dnbWr (m : Msg)
  | dnbWrp (m : Msg)
  | dnbRd (m : Msg) (ecc : Ecc)
  | dnbRdr (m : Msg)
  | dnbWack (m : Msg)
  | dnbLift (m : Msg)
  | dnbStreamOpen (p : Fin 4) (m : Msg)
  | dnbStreamFlit (p : Fin 4) (stag : BitVec 7) (data : List Byte)
  | dnbStreamEnd (p : Fin 4) (m : Msg)
  | dnbKvx (m : Msg) (word : KvxWord)
  | dnbPod (p : Fin 4) (neighbour : BitVec 8)
  | peerTimeout (tag : BitVec 16)
  | powerUp
  | inputInRange
  | perstNDeassert
  | cxlLinkUp (lanes : Nat) (gigatransfers : Nat)
  | selfTestComplete (passed : Bool)
  | coreLoad (c : Fin 64) (pa : BitVec 48) (size : Nat) (attr : PageAttr) (form : CoreForm) (parity : Option BadWord)
  | coreStore (c : Fin 64) (pa : BitVec 48) (size : Nat) (v : BitVec 64) (attr : PageAttr) (form : CoreForm)
  | uncorrectableFlashRead (fid : FrameId) (page : Fin 32)
  | reattachLockEnd
  deriving DecidableEq, Repr

end Sys2Proof
end

