-- ==== Sys2Proof/WellFormed.lean ====
section
/-!
DEFINITION. Which operands a command may carry: the sizes and ranges the spec gives its accesses and messages.
-/

namespace Sys2Proof

/-- Sizes a core or the debug port moves in one access (R102, R308): 1, 2, 4, 8 bytes and vectors up to 64. -/
def accessSize (n : Nat) : Bool := [1, 2, 4, 8, 16, 32, 64].contains n

/-- The data units of a Denbel message are at most 20, of 16 bytes each (Table 13.8). -/
def msgWf (m : Msg) : Bool := decide (m.data.length ≤ 320) && m.data.length % 16 == 0

/-- A flit carries 640 payload bytes, or none when idle or link control (R344). -/
def flitWf (f : Flit) : Bool :=
  if f.kind = 1 ∨ f.kind = 2 then f.payload.length == 640 else f.payload.length == 0

/-- The operands of a command lie in their ranges. -/
def Instr.wf : Instr → Bool
  | .registerWrite offset size _ _ => accessSize size && decide (offset.toNat + size ≤ 0x10000)
  | .debugLoad _ _ size _ => accessSize size
  | .debugStore _ _ data => accessSize data.length
  | .deviceLoad _ _ size _ _ => accessSize size
  | .deviceStore _ _ _ size _ _ _ => accessSize size
  | .coreLoad _ _ size _ _ _ => accessSize size
  | .coreStore _ _ size _ _ _ => accessSize size
  | .cxlMemRead dpa size _ => size == 64 && dpa.toNat % 64 == 0
  | .cxlMemWrite dpa data _ => data.length == 64 && dpa.toNat % 64 == 0
  | .bar4Read _ size _ _ => decide (1 ≤ size) && decide (size ≤ 4096)
  | .bar4Write _ data _ _ => decide (1 ≤ data.length) && decide (data.length ≤ 512)
  | .dnbFlitReceive _ f _ _ => flitWf f
  | .dnbStreamFlit _ _ data => data.length == 640
  | .dnbForward m => msgWf m
  | .dnbWr m => msgWf m && decide (64 ≤ m.data.length) && decide (m.data.length ≤ 256) && m.data.length % 64 == 0
  | .dnbWrp m => msgWf m && m.data.length == 80
  | .dnbRd m _ => decide (1 ≤ m.aux.toNat) && decide (m.aux.toNat ≤ 4) && m.data.length == 0
  | .dnbRdr m => msgWf m && decide (64 ≤ m.data.length) && decide (m.data.length ≤ 256) && m.data.length % 64 == 0
  | .dnbWack m => decide (1 ≤ m.aux.toNat) && m.data.length == 0
  | .dnbLift m => m.data.length == 16
  | .dnbStreamOpen _ m => m.data.length == 16
  | .dnbStreamEnd _ m => decide (m.aux.toNat ≤ 2) && m.data.length == 0
  | .challenge _ _ nonce => nonce.length == 32
  | .getMeasurements _ _ nonce => nonce.length == 32
  | .powerWindow _ rails => rails.length == 8
  | _ => true

end Sys2Proof
end

