-- ==== Sys2Proof/Config.lean ====
section
/-!
DEFINITION. What the spec leaves open, as constants without a body: nothing in Lean can tell their values
(log entries 2, 7, 13), and the sizes the spec fixes for the module.
-/

namespace Sys2Proof.Config

/-- A byte of a memory whose contents are undefined (R105, R108, R118, R62): the value seen at an address under
the count of events that made contents undefined. Log entry 2. -/
opaque freeByte : Nat → Nat → Byte

/-- A free word, drawn at the machine's own counter: re-attach tokens, keys, seeds (R206, R274, R374, R426), and every
result the spec leaves undefined. Log entry 2. -/
opaque freeWord : Nat → Nat → W64

/-- How far, in ulps of binary32, a transcendental result of the vector unit lies from its reference (R125);
the bound of Table 5.7 is applied where it is used. Log entry 14. -/
opaque ulpOffset : Nat → W32 → Nat

/-- Ed25519 verification of a signature over a message digest under a public key, a published standard the
spec names and does not define (R372, R419). Log entry 13. -/
opaque ed25519Ok : List Byte → List Byte → List Byte → Bool

/-- Ed25519 signing with the alias key of a boot (R424), uninterpreted. Log entry 13. -/
opaque aliasSign : Nat → List Byte → List Byte

/-- SHA-512, a published standard the spec names and does not define (R262, R372, R418, R419, R425). Log entry 13. -/
opaque sha512Bits : List Byte → BitVec 512

/-- The 64 bytes of a digest. -/
def sha512 (m : List Byte) : List Byte := leBytes (sha512Bits m).toNat 64

/-- The certificate a certificate slot holds, issued outside the module (R424). Log entry 13. -/
opaque certificate : Nat → List Byte

/-- The Walcel root public key, whose digest is fused on die K (R419). Log entry 13. -/
opaque walcelRoot : List Byte

/-- The part serial (Table 16.6, R424), given at manufacture. Log entry 6. -/
opaque partSerial : List Byte

/-- QUEUE_DEPTH of a unit kind other than the engine, which the spec does not state (Table 1.3). Log entry 30. -/
opaque queueDepth : Nat → Nat

/-- The undisclosed keyed functions of R271 and R273, by key: the hash of an HBM frame number that selects among the stack pairs; the
number of the permutation of a page's 64 lines, by memory (0 HBM3E, 1 LPDDR5X) and page; the hash of page and place from which bank (0),
row (1) and column (2) follow. Log entry 15. -/
opaque pairHash : Nat → Nat → Nat
opaque pageOrder : Nat → Nat → Nat → Nat
opaque spotHash : Nat → Nat → Nat → Nat → Nat → Nat

/-- The firmware release the running image reports is that of its manifest; the built-in energy profile of component
0x05 (R391) is given per phase and activity. Log entry 16. -/
opaque builtinWeight : Nat → Nat → W32

/-- Minutes of VDD_ME of a compute die in a bin of the lifetime record, by bin index and time: no command brings the voltage
(Table 16.6, section 0x02). Log entry 33. -/
opaque railMinutes : Nat → Nat → Nat

/-- The calendar month a time of the time base falls in, counted from one the spec does not name (R283). Log entry 33. -/
opaque month : Nat → Nat

/-- Whether the routes of the whole pod, of which a pod description holds this module's part only, are longer than 7 hops
or have a cycle of channel dependencies (R349). Log entry 20. -/
opaque podRoutesBad : List Byte → Bool

/-- The host's requester ID on CXL.io, which the spec does not state (Table 13.4). Log entry 44. -/
opaque hostRequester : BitVec 16

/-- Bytes of a mailbox payload that the spec does not give, by opcode and place (R329). Log entry 52. -/
opaque mailboxByte : Nat → Nat → Byte

/-- Bytes of digests of what the module is made with, its boot ROM and first image, and value types of measurement blocks
(R425). Log entry 53. -/
opaque bootByte : Nat → Nat → Byte

/-- Frames of HBM3E in one stack pair, and in the module (R240, R272). -/
def framesPerPair : Nat := 98304
def hbmFrames : Nat := 786432
/-- Frames 0-2,047 hold firmware tables and are no pool frames (R240). -/
def fwFrames : Nat := 2048
/-- LPDDR5X frames (R240). -/
def lpdFrames : Nat := 524288
/-- Bytes of a frame, a sub-frame and a page (R236, R241). -/
def frameBytes : Nat := 0x200000
def subBytes : Nat := 0x10000
def pageBytes : Nat := 4096

end Sys2Proof.Config
end

