-- ==== Sys2Proof/Machine/State.lean ====
section
/-!
DEFINITION. The state of the module as plain data, every piece the spec names, with its value at reset; the reasons a
step can stop. A field marked "model's own" is listed as such in INVENTORY.md.
-/

namespace Sys2Proof.Machine

/-- Reasons a step stops with a fault. -/
inductive Fault where
  /-- Raised by `step` never and by no meaning of the table: kept so that a memory helper asked for an address
  outside the map of R24 and R333 has a name to answer with. Safe: the machine stops. -/
  | addressOutsideMap (pa : Nat)
  deriving DecidableEq, Repr

/-- Reasons a step is refused. -/
inductive Refusal where
  /-- An arm of exec whose command has no meaning yet. Safe. -/
  | notModelled (mnemonic : String)
  deriving DecidableEq, Repr

/-- Device states (Table 14.2). -/
inductive DevState where
  | uninit | booting | ready | serving | draining | suspended | degraded | faulted | updating
  deriving DecidableEq, Repr

/-- Module roles (Table 0.1, Table 14.2). -/
inductive Role where
  | prefill | decode | cache | mixed
  deriving DecidableEq, Repr

/-- Status codes (Table 14.11). -/
inductive Status where
  | done | invalidOpcode | invalidField | stateConflict | noSession | notPermitted | notOnPort | notFound
  | alreadyFinal | badToken | reattachLocked | longOpLimit | modelBusy | regionBusy | regionInvalid | podInvalid
  | capRange | retireFull
  | cancelled | scopeReset | tagStall | scratchParity | accessDenied | xlateFault | selectRange | routeOverflow
  | commitFailed | weightLate | weightUnreadable | hostLinkLost | peerLinkLost | dataUnreadable | powerLost
  | unitOffline | moduleFault
  | regionMismatch | rowsExceed | kvSpace | maskInvalid | seqBusy | kvLayout
  | imageInvalid | poolCeiling | manifestInvalid | fwInvalid | fwRollback | installSpace
  deriving DecidableEq, Repr

/-- What the last step answered at the port it came from (model's own, log 4). -/
inductive Answer where
  /-- Nothing to answer. -/
  | none
  /-- The event's condition does not hold in this state: the event does not occur, nothing changed. -/
  | notDue
  /-- The step waits for a tag, room, a frame or a credit, and will be presented again. -/
  | waits
  /-- The step was performed. -/
  | done
  /-- Data returned to a reader, with the mark or poison it carries. -/
  | data (bytes : List Byte) (mark : Mark)
  /-- Completion with Unsupported Request status (R112, R335, R361). -/
  | unsupportedRequest
  /-- Configuration Request Retry Status (R436). -/
  | configRetry
  /-- A precise access-fault exception on a core: cause and trap value (R309). -/
  | accessFault (cause : Nat) (tval : Nat)
  /-- A mailbox return: 0 success, 0x15 Unsupported, with its payload (R329). -/
  | mailbox (code : Nat) (payload : List Byte)
  /-- An SPDM response message (R356), its code and its fields. -/
  | spdm (code : Nat) (fields : List Byte)
  /-- A management answer: the completion entry of a vendor-defined request (R355). -/
  | completion (e : Entry)
  /-- An MCTP control response or an I3C acknowledgement (R354). -/
  | acknowledged (value : Nat)
  /-- A not-acknowledge on the management bus (R433). -/
  | nacked
  deriving DecidableEq, Repr

/-! ## Memory -/

/-- Memory: address and byte, addresses strictly rising, no entry equal to what an unlisted address reads as. -/
abbrev Memory := List Host.Cell

/-! ## Formats and records of a schedule image (chapters 3 and 6) -/

/-- Format codes (Table 6.13). -/
inductive Fmt where
  | nb4 | nb6e3m2 | nb6e2m3 | nb8e4m3 | nb8e5m2 | int8 | bf16 | fp16 | fp32 | int4 | int2
  deriving DecidableEq, Repr

/-- Pass operations (Table 2.4, Table 6.12). -/
inductive PassOp where
  | mac | l1 | l2 | maxplus | minplus | cmpcount | ewise
  deriving DecidableEq, Repr

/-- A PASS record (Table 6.12); `rows` is the row count, 1-256. -/
structure PassRec where
  engine : Fin 4 := 0
  op : PassOp := .mac
  wfmt : Fmt := .nb8e4m3
  afmt : Fmt := .nb8e4m3
  wblk : Bool := false
  ablk : Bool := false
  sparse : Bool := false
  trans : Bool := false
  lane : Nat := 0
  rows : Nat := 1
  keep : Bool := false
  held : Bool := false
  ahold : Bool := false
  next : Bool := false
  final : Bool := false
  ewop : Nat := 0
  scale : Nat := 0
  bias : Bool := false
  biasBf16 : Bool := false
  ew : Nat := 0
  ewfmt : Fmt := .fp32
  ewblk : Bool := false
  ofmt : Fmt := .fp32
  oblk : Bool := false
  sat : Bool := false
  sr : Bool := false
  stream : Nat := 0
  ocount : Nat := 1
  ewpeek : Bool := false
  tsrc : Nat := 0
  aaddr : Nat := 0
  saddr : Nat := 0
  baddr : Nat := 0
  eaddr : Nat := 0
  daddr : Nat := 0
  astride : Nat := 0
  estride : Nat := 0
  dstride : Nat := 0
  deriving DecidableEq, Repr

/-- A VOP record (Table 6.16); `len` and `rows` are counts. -/
structure VopRec where
  opc : Nat := 0
  infmt : Fmt := .fp32
  outfmt : Fmt := .fp32
  inblk : Bool := false
  outblk : Bool := false
  sat : Bool := false
  param : Nat := 0
  len : Nat := 1
  rows : Nat := 1
  src0 : Nat := 0
  src1 : Nat := 0xFFFFFF
  src2 : Nat := 0xFFFFFF
  dst : Nat := 0
  sstride : Nat := 0
  dstride : Nat := 0
  peek : Nat := 0
  ocount : Nat := 1
  eps : W32 := 0
  scale : Nat := 0
  bias : Bool := false
  biasBf16 : Bool := false
  ew : Nat := 0
  ewfmt : Fmt := .fp32
  ewblk : Bool := false
  rndSr : Bool := false
  eaddr : Nat := 0
  deriving DecidableEq, Repr

/-- A TASK record (R152); `item` none stands for 0xFFFF, every item of the step. -/
structure TaskRec where
  spec : Bool := false
  tag : Nat := 0
  phase : Fin 4 := 0
  item : Option Nat := none
  id : Nat := 0
  deriving DecidableEq, Repr

/-- Fence scopes (R156). -/
inductive Scope where
  | core | chip | sys
  deriving DecidableEq, Repr

/-- The records of a list (Table 6.11). -/
inductive Rec where
  | pass (r : PassRec)
  | vop (r : VopRec)
  | dma (channel : Fin 8) (prog : Nat)
  | fence (scope : Scope)
  | task (r : TaskRec)
  | endTask
  | loop (count cinc pinc : Nat)
  | endLoop
  deriving DecidableEq, Repr

/-- Descriptor kinds (Table 6.18). -/
inductive DKind where
  | stop | load | store | xfer | gather | scatter | move
  deriving DecidableEq, Repr

/-- A DMA descriptor (Table 6.18); n0, n1, n2 are counts; mstride is signed. -/
structure Desc where
  kind : DKind := .stop
  untag : Bool := false
  peek : Bool := false
  count : Nat := 1
  ra : Bool := false
  snoop : Bool := false
  prio : Nat := 0
  gen : Bool := false
  sfmt : Fmt := .fp32
  dfmt : Fmt := .fp32
  sblk : Bool := false
  dblk : Bool := false
  sat : Bool := false
  sr : Bool := false
  stream : Nat := 0
  coff : Nat := 0
  va : Nat := 0
  xlunit : Nat := 0
  va2 : Nat := 0
  chunk : Nat := 0
  n0 : Nat := 1
  n1 : Nat := 1
  n2 : Nat := 1
  ms1 : Nat := 0
  ms2 : Nat := 0
  cs1 : Nat := 0
  cs2 : Nat := 0
  idx : Nat := 0
  mstride : Int := 0
  region : Nat := 0
  deriving DecidableEq, Repr

/-- Sources of a dimension's index (Table 6.6). -/
inductive DimSource where
  | gate | prior | submit
  deriving DecidableEq, Repr

structure Dim where
  buckets : Nat
  source : DimSource
  kind : Nat
  quantum : Nat
  deriving DecidableEq, Repr

/-- A family record (Table 6.5). -/
structure Family where
  dims : List Dim := []
  decode : Bool := false
  chains : Nat := 0
  firstVariant : Nat := 0
  variantCount : Nat := 1
  fillRows : Nat := 1
  maxRows : Nat := 1
  deriving DecidableEq, Repr

/-- A split entry (Table 6.9). -/
structure Split where
  lunit : Nat
  kind : Nat
  members : Nat
  active : Nat
  fronts : BitVec 8
  deriving DecidableEq, Repr

/-- A list directory entry with its records (Table 6.10, R151). -/
structure ListDir where
  lunit : Nat
  wave : Fin 8
  recs : List Rec
  /-- Byte offset of its first record in the image (Table 6.10). -/
  at_ : Nat := 0
  deriving DecidableEq, Repr

/-- An access map entry (Table 6.19). -/
structure MapEntry where
  vpn : Nat
  pages : Nat
  rd : Bool
  wr : Bool
  sw : Bool
  host : Bool
  peer : Bool
  region : Nat
  deriving DecidableEq, Repr

/-- A variant (Table 6.7) with its lists, its access map and its split table. -/
structure Variant where
  family : Nat := 0
  lists : List ListDir := []
  map : List MapEntry := []
  energy : Nat := 0
  specTasks : Nat := 0
  shadowNeed : Nat := 0
  splits : List Split := []
  /-- Byte offsets of its access map and its split table in the image (R149, R160). -/
  mapAt : Nat := 0
  splitAt : Nat := 0
  deriving DecidableEq, Repr

/-- An attention plan record (Table 7.3). -/
structure AttnPlan where
  attn : Bool := false
  kvfmt : Nat := 0
  sparse : Bool := false
  groups : Nat := 0
  layers : Nat := 0
  hpg : Nat := 0
  ksel : Nat := 0
  sink : Nat := 0
  local_ : Nat := 0
  maskSlot : Nat := 0
  arenaVa : Nat := 0
  areaVa : Nat := 0
  ropeVa : Nat := 0
  ropeRows : Nat := 0
  maxSeq : Nat := 0
  seqAreaVa : Nat := 0
  seqs : Nat := 0
  deriving DecidableEq, Repr

/-- The expert plan header (Table 8.2) and its geometry entries (SLOTS, ASSIGN) (Table 8.3). -/
structure ExpertPlan where
  moeLayers : Nat := 0
  experts : Nat := 0
  localCount : Nat := 0
  topk : Nat := 0
  fandim : Nat := 0
  pred : Nat := 0
  cap : Nat := 0
  sources : Nat := 0
  modLunit : Nat := 0
  predBudget : Nat := 0
  weightVa : Nat := 0
  objFrames : Nat := 0
  statusVa : Nat := 0
  histVa : Nat := 0
  geom : List (Nat × Nat) := []
  deriving DecidableEq, Repr

/-- A resident entry (Table 6.14). -/
structure Resident where
  lunit : Nat
  chipMem : Bool
  offset : Nat
  bytes : Nat
  src : Nat
  deriving DecidableEq, Repr

/-- A region slot entry (Table 6.15). -/
structure RegionSlot where
  slot : Nat
  host : Bool
  write : Bool
  minBytes : Nat
  deriving DecidableEq, Repr

/-- A schedule image as MODEL_LOAD reads it (R138, R139). -/
structure Image where
  families : List Family := []
  variants : List Variant := []
  descs : List Desc := []
  lunits : Nat := 0
  regionSlots : List RegionSlot := []
  chains : Nat := 1
  shadowSlots : Nat := 0
  gustUs : Nat := 0
  selVa : Nat := 0
  attn : List AttnPlan := []
  expert : ExpertPlan := {}
  energy : List (List W32) := []
  resident : List Resident := []
  /-- Byte offset of DESCPROGS in the image (R157). -/
  descAt : Nat := 0
  deriving DecidableEq, Repr

/-- A weight object of a manifest (Table 14.6). -/
structure WObject where
  frame : Nat
  frames : Nat
  sources : List Nat
  digest : List Byte
  deriving DecidableEq, Repr

structure Manifest where
  modelId : BitVec 32 := 0
  arenaVa : Nat := 0
  objects : List WObject := []
  digest : List Byte := []
  deriving DecidableEq, Repr

/-! ## Queue pairs, sessions, operations (chapter 14) -/

/-- A command that waits for its final record: source, identifier, session. -/
structure RecRef where
  src : Src
  cid : BitVec 16 := 0
  session : BitVec 16 := 0
  deriving DecidableEq, Repr

/-- Queue pair q (R362-R365, Table 14.1, Table 14.3). -/
structure Pair where
  sqBase : W64 := 0
  cqBase : W64 := 0
  sqLog2 : BitVec 4 := 0
  cqLog2 : BitVec 4 := 0
  enable : Bool := false
  irq : Bool := false
  active : Bool := false
  session : Option (BitVec 16) := none
  shadow : Bool := false
  stopped : Bool := false
  sqHead : BitVec 12 := 0
  cqTail : BitVec 12 := 0
  sqTail : BitVec 12 := 0
  cqHead : BitVec 12 := 0
  phase : Bool := true
  /-- V: reserved records (R365). -/
  reserved : Nat := 0
  /-- U: written records the head has not passed (R365). -/
  unread : Nat := 0
  /-- Records written into the shadow queue and not passed by the head (R376). -/
  shadowUnread : Nat := 0
  /-- Fetched entries that have not been executed, oldest first (R368). -/
  inbox : List Entry := []
  /-- The doorbells of the pair are written by a core (R374). -/
  onPkg : Option Bool := none
  deriving DecidableEq, Repr

/-- A completion record that waits for its non-posted push (R338). -/
structure Post where
  q : Fin 64
  body : Entry
  /-- The step whose completion record it is: model and chain (R27, R177). -/
  step : Option (BitVec 32 × Fin 16) := none
  deriving DecidableEq, Repr

structure JournalItem where
  session : BitVec 16
  sqid : BitVec 6
  cid : BitVec 16
  model : BitVec 32
  deriving DecidableEq, Repr

/-- A session (R374, R375, R387). -/
structure Session where
  id : BitVec 16
  tenant : BitVec 32 := 0
  token : W64 := 1
  onPkg : Bool := false
  lost : Bool := false
  pairs : List (Fin 64) := []
  beatMs : Nat := 0
  lastBeat : Nat := 0
  /-- Journalled items whose records a REATTACH delivers (R387). -/
  journal : List JournalItem := []
  deriving DecidableEq, Repr

structure Journal where
  cause : Nat
  tLoss : Nat
  boots : Nat
  sessions : List Session
  items : List JournalItem
  deriving DecidableEq, Repr

inductive LongKind where
  | modelLoad | modelInstall | kvExport | kvImport | fwStage | scrub
  deriving DecidableEq, Repr

inductive OpState where
  | running | suspending | suspended | ending
  deriving DecidableEq, Repr

/-- A long operation in flight (R381, R382). -/
structure LongOp where
  handle : Nat
  kind : LongKind
  st : OpState := .running
  ref : RecRef
  tenant : BitVec 32 := 0
  model : BitVec 32 := 0
  entry : Entry := 0
  /-- Safe points passed and in total (R370). -/
  passed : Nat := 0
  total : Nat := 0
  suspenders : List RecRef := []
  /-- Suspended by a SUSPEND of the module (R380). -/
  byModule : Bool := false
  cancellers : List RecRef := []
  deriving DecidableEq, Repr

/-- A registered region (R334, Table 13.4). -/
structure Region where
  handle : BitVec 16
  base : Nat
  pages : Nat
  host : Bool := false
  adapter : Bool := false
  peer : Bool := false
  write : Bool := false
  snoop : Bool := false
  gen : Bool := false
  requesters : List (BitVec 16) := []
  modules : List Nat := []
  session : BitVec 16 := 0
  deriving DecidableEq, Repr

/-- A tenant's policies and pool counts (R242, Table 9.3, Table 14.8). -/
structure Tenant where
  id : BitVec 32
  floor : Nat := 0
  ceiling : Option Nat := none
  modelKey : Option (List Byte) := none
  evicted : Nat := 0
  demoted : Nat := 0
  deriving DecidableEq, Repr

/-- The pod description in force (Table 14.12): per module primary and alternate port codes. -/
structure Pod where
  self : Nat
  count : Nat
  routes : List (Nat × Nat)
  neighbours : List Nat
  targets : List Nat
  groups : List Nat
  windows : List (Nat × Nat)
  raw : List Byte
  deriving DecidableEq, Repr

inductive DrainWhy where
  | suspend | fwCommit
  deriving DecidableEq, Repr

/-- A REATTACH that delivers journalled records first: its record, its pair, the items left, its result (R387). -/
structure Deliver where
  ref : RecRef
  q : Fin 64
  items : List JournalItem
  handle : Nat
  pairs : Nat
  deriving DecidableEq, Repr

/-- Device-wide command interface state (Table 14.1, 14.2, 14.8). -/
structure Eci where
  devState : DevState := .uninit
  role : Option Role := none
  pod : Option Pod := none
  moduleIndex : BitVec 8 := 0
  debugOn : Bool := false
  debugEver : Bool := false
  heartbeat : BitVec 32 := 0
  lastHeartbeat : Nat := 0
  bootEndedAt : Nat := 0
  fwRelease : BitVec 16 := 0
  gustDefault : BitVec 32 := 0x96
  drainWhy : Option (DrainWhy × RecRef) := none
  stateBefore : DevState := .ready
  mixedPrefill : BitVec 8 := 3
  cacheAwake : BitVec 8 := 0
  rekeyWanted : Bool := false
  pairs : Vector Pair 64 := Vector.replicate 64 {}
  rrNext : Fin 64 := 0
  urgEntry : Vector Entry 4 := Vector.replicate 4 0
  urgCpl : Vector Entry 4 := Vector.replicate 4 0
  urgBusy : Vector Bool 4 := Vector.replicate 4 false
  urgDone : Vector Bool 4 := Vector.replicate 4 false
  mgmtInbox : List (Entry × List Byte) := []
  posts : List Post := []
  /-- MSI-X vectors sent, oldest first (R338, R412). -/
  msix : List Nat := []
  lastVector64 : Option Nat := none
  /-- A vector 64 is held back by the 1 ms limit of R412. -/
  vector64Owed : Bool := false
  /-- Commands begun whose final record is still to come and that are no long operation and no item (R368). -/
  waiting : List RecRef := []
  /-- Urgent slots rung and management requests received that have not begun, in arrival order (R384). -/
  arrivals : List Src := []
  /-- REATTACHes whose journalled records have not all found room (R387, R365). -/
  delivering : List Deliver := []
  badTokens : List Nat := []
  reattachLockUntil : Option Nat := none
  sessions : List Session := []
  /-- DETACHes that wait for the final records of their session's work (R377). -/
  detaching : List (RecRef × BitVec 16) := []
  journal : Option Journal := none
  ops : List LongOp := []
  nextHandle : Nat := 1
  regions : List Region := []
  tenants : List Tenant := []
  deriving DecidableEq, Repr

/-! ## Models and steps (chapters 6 to 8) -/

/-- A contiguous virtual range of a model mapped to physical addresses (R441). -/
structure PinRange where
  va : Nat
  bytes : Nat
  pa : Nat
  deriving DecidableEq, Repr

/-- A shadow slot in use (R171): target address, data, tag, and the marks of its chunks. -/
structure ShadowRun where
  /-- The address it goes to: in the model's space, or an offset in the region bound to a slot (R164, R171). -/
  target : Nat
  region : Nat := 0
  data : List Byte
  tag : Nat
  chain : Fin 16 := 0
  marks : List (Nat × Mark) := []
  deriving DecidableEq, Repr

/-- What a logical unit is bound to: UNIT_KIND and the member indices (R149, R21). -/
structure Binding where
  lunit : Nat
  kind : Nat
  members : List Nat
  /-- Group index of a bound group (R9, R21), none for a single unit. -/
  group : Option Nat := none
  deriving DecidableEq, Repr

structure Model where
  id : BitVec 32
  tenant : BitVec 32 := 0
  manifest : Manifest := {}
  image : Image := {}
  bindings : List Binding := []
  prefillSet : BitVec 8 := 3
  weightCeiling : Option Nat := none
  ahead : Nat := 8
  lateMs : Nat := 2000
  pins : List PinRange := []
  shadow : List ShadowRun := []
  /-- An install of loaded objects waits for a step boundary: object indices with their new copies (R263). -/
  switching : List (Nat × Nat) := []
  /-- Region handles whose mask arena has been given the pattern table (R195). -/
  patterned : List Nat := []
  /-- Where the schedule engines read the image: the address that MODEL_LOAD named (R120; log 88). -/
  imageAt : Nat := 0
  deriving DecidableEq, Repr

inductive CloseWhy where
  | fill | gust | flush | bind
  deriving DecidableEq, Repr

/-- One accepted item (Table 14.9). -/
structure Item where
  ref : RecRef
  tenant : BitVec 32 := 0
  t : Nat := 0
  nodes : Nat := 0
  seq : Option Nat := none
  seed : W64 := 0
  submit : W64 := 0
  maskOff : Nat := 0
  outSlot : Nat := 0
  outOff : Nat := 0
  outLen : Nat := 0
  tokensPa : Nat := 0
  share : Bool := false
  flush : Bool := false
  handles : List Nat := []
  cancelled : Bool := false
  /-- n at dispatch (Table 7.5). -/
  nAt : Nat := 0
  /-- The first failure of the item (R415). -/
  reason : Option Status := none
  deriving DecidableEq, Repr

structure Gate where
  items : List Item := []
  rows : Nat := 0
  tOpen : Nat := 0
  /-- The Gust timer: when it was started and its limit in microseconds, read at the start (R166). -/
  limitUs : Nat := 150
  deriving DecidableEq, Repr

structure Closed where
  items : List Item
  tOpen : Nat
  tClose : Nat
  why : CloseWhy
  /-- Since when its dispatch waits for pool frames (R184, R254). -/
  poolSince : Option Nat := none
  /-- The model's WEIGHT_LATE_MS when that wait began (R254, R371). -/
  poolLimit : Nat := 0
  deriving DecidableEq, Repr

/-- A task of a running step on one Squall (R152, R318). -/
structure RunTask where
  sq : Fin 64
  rc : TaskRec
  /-- The logical unit and the member index of the list it runs in (R19, R20). -/
  lunit : Nat := 0
  member : Nat := 0
  /-- Which list of the variant, and which record of it opens the task: the parts of one task agree in both (R20). -/
  list : Nat := 0
  pos : Nat := 0
  status : Option Status := none
  /-- When the task started on the Squall; none while its TASK record has not been issued (R18). -/
  tStart : Option Nat := none
  tEnd : Nat := 0
  /-- Its spans on the engines of the Squall: engine, start and end (R18). -/
  spans : List (Nat × Nat × Nat) := []
  deriving DecidableEq, Repr

inductive StepPhase where
  | running
  /-- Committing the tasks with these tags, oldest first (R173 order 3). -/
  | committing (tags : List Nat)
  /-- The completion records have left and are not all written (R27, R173 order 6). -/
  | recording
  deriving DecidableEq, Repr

/-- A dispatched step (R146-R148, R173). -/
structure Run where
  items : List Item
  tOpen : Nat
  tClose : Nat
  why : CloseWhy
  tDispatch : Nat
  idx : List Nat := []
  variant : Nat := 0
  phase : StepPhase := .running
  replay : Bool := false
  attempts : Nat := 1
  reruns : Nat := 0
  tasks : List RunTask := []
  /-- Tasks of earlier attempts that reached final status (R18). -/
  past : List RunTask := []
  /-- Was it dispatched: a step that failed under R147 or R417 runs no task. -/
  dispatched : Bool := true
  /-- When the copy of the next task to commit began (R178), and when the last completion record so far was written (R177). -/
  tCopy : Nat := 0
  tRecord : Nat := 0
  /-- Waves released on each Front, bit w of entry f (R401). -/
  waves : Vector (BitVec 8) 8 := Vector.replicate 8 0
  /-- When the attempt's wave 0 was released (R401). -/
  tWave : Nat := 0
  stallSince : Option (Nat × Nat) := none
  stalls : Vector Nat 4 := Vector.replicate 4 0
  committed : List Nat := []
  discarded : Nat := 0
  ended : Option Status := none
  deriving DecidableEq, Repr

/-- A step record (Table 6.23). -/
structure StepRec where
  seq : Nat
  chain : Fin 16
  why : CloseWhy
  variant : Nat
  reruns : Nat
  tOpen : Nat
  tClose : Nat
  tDispatch : Nat
  tEnd : Nat
  stalls : Vector Nat 4
  committed : Nat
  discarded : Nat
  items : Nat
  deriving DecidableEq, Repr

structure Chain where
  model : BitVec 32
  chain : Fin 16
  gate : Option Gate := none
  closed : List Closed := []
  run : Option Run := none
  seq : Nat := 0
  records : List StepRec := []
  /-- Items of the last ended step whose prefix insertion is due (R208). -/
  inserting : List Item := []
  deriving DecidableEq, Repr

/-- A sequence (R182, R183, R209). -/
structure Seq where
  model : BitVec 32
  handle : Nat
  tenant : BitVec 32 := 0
  session : BitVec 16 := 0
  n : Nat := 0
  table : List Nat := []
  /-- Directory entries it holds a reference on, by identifier. -/
  shared : List Nat := []
  closing : Bool := false
  importing : Bool := false
  /-- Positions at or above n that a failed step wrote: zero-filled before the next dispatch (R183). -/
  zeroFrom : Option Nat := none
  deriving DecidableEq, Repr

/-- A block set of the key-value arena (R180, R241, R243). -/
structure BlockSet where
  model : BitVec 32
  sub : Nat
  tenant : BitVec 32 := 0
  subs : Nat := 1
  inPool : Bool := true
  demoting : Bool := false
  /-- Physical addresses of its sub-frames, in order. -/
  places : List Nat := []
  stamp : Nat := 0
  /-- A step has written its first position (R184). -/
  begun : Bool := false
  deriving DecidableEq, Repr

/-- An entry of the prefix directory (R206-R209). -/
structure DirEntry where
  id : Nat
  model : BitVec 32
  tenant : BitVec 32
  hash : W64
  parent : Option Nat
  tokens : List (BitVec 32)
  sub : Nat
  refs : Nat := 1
  children : Nat := 0
  stamp : Nat := 0
  deriving DecidableEq, Repr

/-- A key-value transfer this module takes part in (R211-R215). -/
structure Transfer where
  op : Nat
  isExport : Bool
  tag : BitVec 32
  peer : BitVec 8
  model : BitVec 32
  seq : Nat
  newSeq : Bool := false
  stream : Bool := false
  b0 : Nat := 0
  b1 : Nat := 0
  /-- n of the source when data starts to move (R212). -/
  nx : Option Nat := none
  peerReady : Bool := false
  moved : Nat := 0
  unreadable : Bool := false
  /-- Import: the range is known, its block sets are reserved, its stream has ended with a status. -/
  known : Bool := false
  reserved : Bool := false
  streamEnd : Option Nat := none
  /-- The peer has ended it and needs no word of the end. -/
  quiet : Bool := false
  /-- Stream export: the sub-frames of the destination's reservation in order (R213). -/
  places : List Nat := []
  /-- Export: the importer is suspended (R215). -/
  peerHeld : Bool := false
  deriving DecidableEq, Repr

/-- An export that a peer announced before this module's KV_IMPORT named its tag (R211: either command comes first). -/
structure Heard where
  tag : BitVec 32
  peer : BitVec 8
  kvfmt : Nat
  layers : Nat
  groups : Nat
  b0 : Nat
  b1 : Nat
  stream : Bool
  deriving DecidableEq, Repr

/-- A group unit (R9, R19, R21): its index, the kind of its members, their identifiers, and the model whose split
tables formed it, none for a group of the pod description. -/
structure Group where
  index : Nat
  kind : Nat
  members : List (BitVec 32)
  model : Option (BitVec 32) := none
  taskNs : Nat := 0
  stepNs : Nat := 0
  deriving DecidableEq, Repr

/-- The serving state of the control processor: models, chains, sequences, prefix directory, transfers. -/
structure Serving where
  models : List Model := []
  chains : List Chain := []
  seqs : List Seq := []
  blocks : List BlockSet := []
  dirKey : List Byte := []
  dir : List DirEntry := []
  nextDir : Nat := 0
  transfers : List Transfer := []
  heard : List Heard := []
  groups : List Group := []
  nextGroup : Nat := 0
  deriving DecidableEq, Repr

/-! ## Pool, Updraft, flash (chapter 9) -/

inductive FrameClass where
  | pinned | weight | kv
  deriving DecidableEq, Repr

structure PoolFrame where
  frame : Nat
  cls : FrameClass
  tenant : BitVec 32 := 0
  model : BitVec 32 := 0
  fid : Option FrameId := none
  stamp : Nat := 0
  stepRead : Bool := false
  /-- Sub-frames of block sets in a KV frame (R241): first address unit in use. -/
  subs : List Nat := []
  deriving DecidableEq, Repr

/-- Who queued the lift of a frame, for the counters of R234 and R268. -/
inductive LiftBy where
  | demand | ahead | pred
  deriving DecidableEq, Repr

/-- Weight frame states (Table 9.4); a frame not listed is ABSENT. -/
inductive WState where
  | lifting | present | poisoned
  deriving DecidableEq, Repr

structure WFrame where
  fid : FrameId
  st : WState
  frame : Option Nat := none
  by_ : LiftBy := .demand
  /-- A demand read has met the frame during its stay (R234, R268). -/
  used : Bool := false
  deriving DecidableEq, Repr

/-- A lift queued or in flight (R249, R443, R258). -/
structure Lift where
  fid : FrameId
  cls : Nat
  since : Nat
  /-- Index of the source in the object's preference order. -/
  source : Nat := 0
  /-- Retries of the page in question so far (R258). -/
  retries : Nat := 0
  /-- A page of it could not be decoded, and a retry is due (R258). -/
  retrying : Bool := false
  /-- Pages of it that have been read again, the one in question last (R258). -/
  pages : List Nat := []
  /-- The local copy was found unreadable under this lift: a peer that delivers it recovers the frame (R259). -/
  recover : Bool := false
  started : Bool := false
  /-- A peer has delivered every byte of it (R251). -/
  delivered : Bool := false
  /-- The pool frame taken for it, none while it waits (POOL_FULL). -/
  frame : Option Nat := none
  /-- A peer asked for it: module and request tag; it goes to a transit buffer (R251). -/
  transit : Option (BitVec 8 × BitVec 16) := none
  deriving DecidableEq, Repr

/-- A read registered on a frame, which holds the frame once it is there (R245, R252); `late` once its wait reached WEIGHT_LATE_MS (R254),
`bad` once no source was left (R247, R260): either way it completes marked. -/
structure WaitRead where
  who : Reader
  fid : FrameId
  since : Nat
  /-- The model's WEIGHT_LATE_MS when the wait began (R254, R371). -/
  limitMs : Nat
  late : Bool := false
  bad : Bool := false
  deriving DecidableEq, Repr

/-- Objects installed in flash (R262, R263): where their frames lie in flash space. -/
structure Installed where
  model : BitVec 32
  obj : Nat
  frames : Nat
  place : Nat
  digest : List Byte
  /-- The CRC-64 of each frame (R248, R262). -/
  crcs : List W64 := []
  deriving DecidableEq, Repr

/-- A 64 KiB piece of a frame: the flash page that holds it, and that page's CRC-64 (R264, R265). -/
structure Piece where
  piece : Nat
  page : Nat
  crc : W64 := 0
  deriving DecidableEq, Repr

/-- A flash block of 32 pages (R264, R265; log 32). -/
structure FBlock where
  id : Nat
  reads : Nat := 0
  erases : Nat := 0
  relocate : Bool := false
  lastScan : Nat := 0
  deriving DecidableEq, Repr

structure Tiers where
  /-- Frames of the pool in force, its first frame being 2,048 (R240, R272). -/
  poolSize : Nat := 784384
  frames : List PoolFrame := []
  weights : List WFrame := []
  lifts : List Lift := []
  /-- Predictions accepted in the current microsecond: until it ends a demand read of the frame makes them a demand fetch (R235). -/
  predNew : List FrameId := []
  waits : List WaitRead := []
  /-- Frames whose local flash copy is marked unreadable (R259). -/
  unreadable : List FrameId := []
  installed : List Installed := []
  /-- The bytes of flash, by page and offset (R264). -/
  flash : Memory := []
  pieces : List Piece := []
  flashUsed : Nat := 0
  blocks : List FBlock := []
  /-- Lengths written by each install operation in flight (R262). -/
  writing : List (Nat × Nat) := []
  /-- Average program/erase count (R264). -/
  eraseAverage : Nat := 0
  /-- LPDDR5X frames of the overflow area in use (R240, R241): block set places. -/
  overflow : List Nat := []
  deriving DecidableEq, Repr

/-! ## Cache lines (R294, R301) -/

inductive Mesi where
  | m | e | s
  deriving DecidableEq, Repr

structure CLine where
  line : Nat
  st : Mesi
  data : List Byte
  /-- The line held uncorrectable data when it was read (R285, R294). -/
  poison : Bool := false
  deriving DecidableEq, Repr

/-- A cache: its lines and its pseudo-LRU trees, one per set that has been used (R294). -/
structure Cache where
  lines : List CLine := []
  /-- The way each line stands in: line and way. -/
  ways : List (Nat × Nat) := []
  trees : List (Nat × Nat) := []
  deriving DecidableEq, Repr

/-! ## Squalls and engines (chapters 2 to 6) -/

inductive TagSt where
  | empty | filling | full | resident
  deriving DecidableEq, Repr

/-- What a stale slot's data is fetched again with (R267): whose descriptor it is, and the descriptor. -/
structure Refetch where
  model : BitVec 32
  chain : Fin 16
  member : Nat
  d : Desc
  deriving DecidableEq, Repr

/-- A slot tag (R104) with the writer that fills it and what run-ahead recorded (R267). -/
structure Tag where
  st : TagSt := .empty
  readers : Nat := 0
  /-- Model whose residency pins the slot (R135). -/
  pin : Option (BitVec 32) := none
  /-- Generations recorded by a GEN run-ahead fill, with what fetches the slot again (R267). -/
  gens : List (Nat × Nat) := []
  refetch : Option Refetch := none
  /-- Rows of that transfer that fall in the slot: source address, core memory offset, and the mark of the index that named the row. -/
  rows : List (Nat × Nat × Mark) := []
  /-- Filled by run-ahead from the key-value arena and not yet read, and a read already waited when it became FULL (KVP counters,
  R268). -/
  kvp : Bool := false
  late : Bool := false
  /-- It is being fetched again from its source (R267). -/
  again : Bool := false
  /-- When the writer that fills it acquired it (R109). -/
  since : Nat := 0
  /-- Its place in the order in which the Squall's slots became FULL (R97). -/
  order : Nat := 0
  deriving DecidableEq, Repr

structure LoopCtx where
  start : Nat
  left : Nat
  cinc : Nat
  pinc : Nat
  iter : Nat := 0
  deriving DecidableEq, Repr

/-- A list the schedule engine holds (R119, R150, R156). -/
structure ListCtx where
  model : BitVec 32
  chain : Fin 16
  lunit : Nat
  member : Nat
  wave : Fin 8
  recs : List Rec
  /-- Address of its first record (R120; log 88). -/
  at_ : Nat := 0
  /-- Which list of the variant it is. -/
  list : Nat := 0
  pos : Nat := 0
  loops : List LoopCtx := []
  deriving DecidableEq, Repr

/-- A task in flight on a Squall (R119, R152). -/
structure SqTask where
  key : Nat
  model : BitVec 32
  chain : Fin 16
  rc : TaskRec
  lunit : Nat := 0
  member : Nat := 0
  /-- Which list of the variant, and which record of it opened the task (R20). -/
  list : Nat := 0
  pos : Nat := 0
  ended : Bool := false
  reason : Option Status := none
  tStart : Nat := 0
  /-- Per engine, when its first pass was offered and when its last pass so far retired (R18). -/
  spans : List (Nat × Nat × Nat) := []
  deriving DecidableEq, Repr

/-- A tagged write into core memory that is under way: the offset and the bytes still to come, the consumer count, the slots whose last
bytes of this writer it brings, the slots acquired and not released, and what their tags record (R105, R267, R268). -/
structure CoreWrite where
  sq : Fin 64
  off : Nat
  data : List (Byte × Mark)
  count : Nat
  ends : List Nat
  mine : List Nat := []
  kvp : Bool := false
  gens : List (Nat × Nat) := []
  refetch : Option Refetch := none
  row : Option (Nat × Nat × Mark) := none
  deriving DecidableEq, Repr

/-- An operation of the vector unit: the rows issued into the lanes, the parts of the next row read from slots that have been given up,
with those slots' places in the order of R97, and its results still to be written, with the slots acquired for them (R105, R106, R440). -/
structure VopEntry where
  seq : Nat
  task : Nat
  rc : VopRec
  row : Nat := 0
  buf : List (Nat × List (Byte × Mark)) := []
  came : List (Nat × Nat) := []
  writes : List CoreWrite := []
  mine : List Nat := []
  deriving DecidableEq, Repr

/-- A descriptor program waiting or running on a channel (R159). -/
structure Prog where
  seq : Nat
  task : Nat
  at_ : Nat
  member : Nat := 0
  model : BitVec 32 := 0
  /-- The descriptor in progress, the rows of it that are done, and the slots acquired and not released (R105, R159). -/
  pc : Nat := 0
  row : Nat := 0
  filling : List Nat := []
  /-- The part of the row's source read from core memory so far, the row's write under way, and last rows of earlier descriptors whose
  writes are still under way (R105, R106, R159). -/
  src : List (Byte × Mark) := []
  write : Option CoreWrite := none
  late : List CoreWrite := []
  deriving DecidableEq, Repr

structure Chan where
  queue : List Prog := []
  run : Option Prog := none
  deriving DecidableEq, Repr

structure FenceEntry where
  seq : Nat
  task : Nat
  scope : Scope
  deriving DecidableEq, Repr

inductive Verdict where
  | none | clean | repeatWanted
  deriving DecidableEq, Repr

/-- Where a pass's tile stands (R43, R46). -/
inductive TilePlace where
  | none
  | staged (half : Fin 2)
  | loaded (bank : Fin 2)
  deriving DecidableEq, Repr

/-- What a tile is: the format of its image, its block size, whether it is 2-of-4, its bytes, and the highest mark among its
chunks (R48, R74, R256). -/
structure Tile where
  fmt : Fmt := .nb8e4m3
  blk : Bool := false
  sparse : Bool := false
  mark : Mark := .none
  bytes : Nat := 0
  deriving DecidableEq, Repr

/-- A register bank of the cells (R46): its tile, the image in the layout of R48. -/
structure Bank where
  tile : Tile := {}
  image : List Byte := []
  deriving DecidableEq, Repr

/-- A pass of an engine in issue order, with how far its phases have come (Table 2.6). -/
structure Pass where
  seq : Nat
  task : Nat
  rc : PassRec
  /-- The LOAD record whose tile it uses: its own, or for a KEEP pass that of the pass it follows (R46, R50). -/
  src : PassRec := {}
  tile : TilePlace := .none
  /-- What its bank held when its first row entered: the tile that every row of it meets (R46, R47). -/
  fed : Option Bank := none
  /-- Rows are in activation slots (phase 4), and in which, in order: first those of its rows, then those of an EWISE pass's
  second stream. -/
  fetched : Bool := false
  /-- The pass whose fetch supplied its rows: itself, or for a HELD pass an earlier one (R439). -/
  rowsFrom : Nat := 0
  slots : List Nat := []
  ewSlots : List Nat := []
  /-- Per row: largest block exponent, none for a row without a contributing block (R87, R89); mark; blocks skipped (R57). -/
  rowExp : List (Option Int) := []
  rowMark : List Mark := []
  skips : List Nat := []
  /-- E_1 and E_safe, once the first row has entered (R88, R89). -/
  exps : Option (Int × Int) := none
  entered : Nat := 0
  /-- Per column, the rows whose sums have left the array: each promoted, or in the overflow map (R49). -/
  sums : Vector Nat 128 := Vector.replicate 128 0
  ovf : List (Nat × Nat) := []
  verdict : Verdict := .none
  /-- Destination slots its epilogue has acquired and not released (R45). -/
  acq : List Nat := []
  /-- Accumulator rows read by the epilogue and not yet written, and the rows written. -/
  reads : List (Nat × List (W32 × Mark)) := []
  written : List Nat := []
  /-- State of its stochastic-rounding stream before row 0 (R82). -/
  sr0 : Option W64 := none
  retired : Bool := false
  deriving DecidableEq, Repr

/-- A staging half (Table 2.1): the tile that fills it, and the pass it belongs to. -/
structure Half where
  full : Option Tile := none
  owner : Nat := 0
  deriving DecidableEq, Repr

/-- Rows held in the activation buffer under their source (R439). -/
structure HeldRows where
  task : Nat
  aaddr : Nat
  astride : Nat
  rows : Nat
  afmt : Fmt
  ablk : Bool
  /-- Bytes of a row as it was fetched. -/
  size : Nat
  slots : List Nat
  /-- The issue that fetched them: its slots are released with them (R52). -/
  reader : Nat
  rowExp : List (Option Int)
  rowMark : List Mark
  skips : List Nat
  deriving DecidableEq, Repr

structure Engine where
  passes : List Pass := []
  /-- Tags of the 512 operand buffer slots in the order of Table 2.1, EMPTY where not listed (R33, R104). -/
  opTags : List (Nat × TagSt) := []
  banks : Vector Bank 2 := Vector.replicate 2 {}
  halves : Vector Half 2 := Vector.replicate 2 {}
  /-- Bank of the newest pass that has left the list. -/
  lastBank : Option (Fin 2) := none
  held : List HeldRows := []
  /-- Repeats in their issue order: the pass, and the pass directly after which the repeat enters (R50, R91). -/
  repeats : List (Nat × Nat) := []
  /-- A promotion that holds the array: pass and row (R45). -/
  hold : Option (Nat × Nat) := none
  slotCount : Nat := 0
  passRepeat : Nat := 0
  runaheadClipped : Nat := 0
  taskNs : Nat := 0
  stepNs : Nat := 0
  deriving DecidableEq, Repr

structure Squall where
  tags : List (Nat × Tag) := []
  /-- Slots that have become FULL so far (R97). -/
  fills : Nat := 0
  lists : List ListCtx := []
  tasks : List SqTask := []
  current : Option Nat := none
  nextKey : Nat := 0
  nextSeq : Nat := 0
  /-- Issued records that have not retired: sequence number and task (R315, R119). -/
  open_ : List (Nat × Nat) := []
  /-- Consuming reads in progress: the issue, its part (0 tile, 1 rows, 2 second tensor) and the slot (R106). -/
  holds : List (Nat × Nat × Nat) := []
  vq : List VopEntry := []
  chans : Vector Chan 8 := Vector.replicate 8 {}
  fences : List FenceEntry := []
  engines : Vector Engine 4 := Vector.replicate 4 {}
  /-- Vector registers: register x lane to its word; lanes not listed hold what nothing has written (R122). -/
  vregs : List (Nat × W32) := []
  /-- Marks of the vector registers: register x group of 16 lanes; groups not listed have none (R255). -/
  vmarks : List (Nat × Mark) := []
  /-- Stochastic-rounding streams that have drawn in this step: stream and its xorshift state (R82). -/
  streams : List (Nat × W64) := []
  /-- Schedule engine cache: lines held in S (R120, R301). -/
  cache : Cache := {}
  /-- Translation cache: the pages of a model's space that it holds, oldest first, at most 1,024 (R121). -/
  tlb : List (BitVec 32 × Nat) := []
  /-- Tag watchdogs running: the request that waits (stationary feeders 0-3, activation feeders 4-7, epilogues 8-11, vector
  12, channels 16-23, 64 more for one that waits to write, channels 88-95 with a late write), its slot (4,096 x (1 + q) more for a slot of Squall q that an XFER
  writes, 2^20 + 512 x e more for an operand buffer slot of engine e), and the time its count began (R109). -/
  watch : List ((Nat × Nat) × Nat) := []
  gapCount : Nat := 0
  inService : Bool := true
  tagStall : Nat := 0
  parityDetect : Nat := 0
  runaheadClipped : Nat := 0
  residentWriteDrop : Nat := 0
  taskNs : Nat := 0
  stepNs : Nat := 0
  deriving DecidableEq, Repr

/-! ## Cores and coherence (chapter 11) -/

/-- A store in the store buffer (R310). -/
structure BufStore where
  pa : Nat
  data : List Byte
  cacheable : Bool
  deriving DecidableEq, Repr

inductive CoreRst where
  | running | draining (since : Nat) | invalidating
  deriving DecidableEq, Repr

/-- A device access that has left the core and has no answer yet (R309). -/
structure DevAcc where
  isStore : Bool
  pa : Nat
  va : Nat
  size : Nat
  since : Nat
  /-- The value of a store. -/
  val : Nat := 0
  deriving DecidableEq, Repr

structure CoreSt where
  sb : List BufStore := []
  l1i : Cache := {}
  l1d : Cache := {}
  l2 : Cache := {}
  dev : List DevAcc := []
  /-- The address of the oldest failed device store whose fault is pending (R309). -/
  pending : Option Nat := none
  wfi : Bool := true
  irq : Bool := false
  /-- The line of a load-reserved that still holds (the profile's LR and SC, R293; log 36). -/
  reserved : Option Nat := none
  rst : CoreRst := .running
  inService : Bool := true
  /-- Offload-queue tasks in flight, by the command that submitted each (R24, R311). -/
  offload : List RecRef := []
  nackRetry : Nat := 0
  escalated : Nat := 0
  devTimeout : Nat := 0
  devStoreDiscard : Nat := 0
  taskNs : Nat := 0
  stepNs : Nat := 0
  deriving DecidableEq, Repr

inductive ReqPhase where
  /-- Ordered at the home stop, snoop round open: agents that still have to answer, and those that answered. -/
  | snooping
  | granted
  | nacked
  /-- Waits for its retry delay. -/
  | retrying
  /-- In the home agent's escalation queue. -/
  | escalated
  deriving DecidableEq, Repr

/-- A coherent request in flight (R302, R303). -/
structure CohReq where
  id : Nat
  agent : Agent
  line : Nat
  kind : CohKind
  phase : ReqPhase := .snooping
  issue : Nat := 1
  /-- Agents snooped whose answers are on their way: agent and whether it is a NACK. -/
  answers : List (Agent × Bool) := []
  waiting : List Agent := []
  nackSeen : Bool := false
  /-- A write-back is still to arrive from this owner. -/
  writeback : Option (Agent × List Byte) := none
  /-- The line of that write-back is poisoned (R285, R294). -/
  backPoison : Bool := false
  deriving DecidableEq, Repr

/-- An owner-ordered reservation: the line, the request that holds its turn, the owner that gave it (R306). -/
structure Reservation where
  line : Nat
  req : Nat
  owner : Agent
  deriving DecidableEq, Repr

/-- A write of a Squall's DMA to an aligned 64-byte chunk that has not reached the visibility point of FENCE.CHIP: the Squall and the
task, what the chunk held before, and the observers that have seen it (R313 to R315). -/
structure Fresh where
  chunk : Nat
  sq : Fin 64
  key : Nat
  old : List (Byte × Mark)
  seen : List Agent
  deriving DecidableEq, Repr

structure Coherence where
  orderMode : Vector W64 40 := Vector.replicate 40 0
  locked : Bool := false
  devTimeout : BitVec 32 := 0x64
  cluster : Cache := {}
  reqs : List CohReq := []
  nextReq : Nat := 0
  /-- Escalation queues of the nine home agents, request identifiers in arrival order (R304). -/
  queues : Vector (List Nat) 9 := Vector.replicate 9 []
  /-- Owner-ordered reservations (R306). -/
  reservations : List Reservation := []
  /-- Writes whose order is fixed and that need not be visible yet, oldest first (R313, R314). -/
  fresh : List Fresh := []
  deriving DecidableEq, Repr

/-! ## DRAM (chapter 10) -/

/-- A waiting access of a channel (R277-R279). -/
structure DramReq where
  cls : Nat
  line : Nat
  write : Bool := false
  since : Nat := 0
  /-- Later requests of its own class served before it (R278). -/
  passed : Nat := 0
  /-- The physical line asked for, which a retired page's spare may stand for (R285, R286). -/
  asked : Nat := 0
  /-- What error correction finds in it is known already: its reader has met it (R285). -/
  checked : Bool := false
  /-- An access of the check line of an LPDDR5X group of lines, whose first line is `line` (R273). -/
  check : Bool := false
  deriving DecidableEq, Repr

structure Channel where
  queue : List DramReq := []
  /-- Classes of the last 10 accesses served, newest first (R278). -/
  last : List Nat := []
  /-- The open row of each bank (R278). -/
  openRows : List (Nat × Nat) := []
  /-- When each bank's last refresh fell due (R280). -/
  refreshed : List (Nat × Nat) := []
  /-- Times of the last accesses, newest first, at most 3 (R281). -/
  times : List Nat := []
  /-- Refreshes postponed per bank (R279). -/
  postponed : List (Nat × Nat) := []
  count : Nat := 0
  deriving DecidableEq, Repr

structure Device where
  celsius : Int := 25
  /-- Refresh rate: 1, 2 or 4 (Table 10.5). -/
  rate : Nat := 1
  throttled : Bool := false
  /-- When its temperature was last read: every 1 ms (R270). -/
  readAt : Option Nat := none
  deriving DecidableEq, Repr

/-- A row of a corrected-row table (R283). -/
structure RowCount where
  row : Nat
  count : Nat
  /-- When the last corrected errors of 24 hours were counted, newest first, at most 16. -/
  recent : List Nat := []
  last : Nat
  advised : Bool := false
  deriving DecidableEq, Repr

structure Dram where
  channels : Vector Channel 576 := Vector.replicate 576 {}
  devices : Vector Device 32 := Vector.replicate 32 {}
  rows : Vector (List RowCount) 9 := Vector.replicate 9 []
  /-- Retired pages: physical page and its spare (R286). -/
  retired : List (Nat × Nat) := []
  spares : Vector Nat 2 := Vector.replicate 2 0
  patrolAt : Nat := 0
  patrolLines : Nat := 0
  /-- When the patrol began its present pass (R284). -/
  patrolSince : Nat := 0
  imbWindow : BitVec 32 := 0x3E8403E8
  imbPending : Option (BitVec 32) := none
  imbLast : BitVec 32 := 0
  imbStart : Nat := 0
  imbRun : Vector Nat 2 := Vector.replicate 2 0
  imbArmed : Vector Bool 2 := Vector.replicate 2 true
  excluded : BitVec 8 := 0
  hbmKey : Nat := 0
  lpdKey : Nat := 0
  deriving DecidableEq, Repr

/-! ## Power, thermal, sleep (chapter 15) -/

inductive FrontSleep where
  | awake
  | calm (since : Nat)
  | lull (since : Nat)
  | waking (since : Nat) (fromLull : Bool)
  deriving DecidableEq, Repr

inductive ModSleep where
  | awake
  | lull (since : Nat)
  | frost (since : Nat)
  | waking (since : Nat) (fromFrost : Bool)
  deriving DecidableEq, Repr

structure FrontPwr where
  /-- Activity counts of the running period: 4 phases x 16 activities (Table 15.2). -/
  counts : List (Nat × Nat) := []
  phaseNow : Fin 4 := 0
  /-- The energy profile of the variant whose task started last on the Front; empty before any, when the built-in one applies (R391). -/
  profile : List W32 := []
  factor : Vector Rat 4 := Vector.replicate 4 1
  bubble : Fin 61 := 0
  gap : Fin 61 := 0
  share : Rat := 0
  estimate : Rat := 0
  meEstimate : Rat := 0
  /-- Estimates of the millisecond by phase, for the factors of R392. -/
  phaseEnergy : Vector Rat 4 := Vector.replicate 4 0
  /-- Largest E/(1-b) of each phase in the running step (R397). -/
  peaks : Vector (Option Rat) 4 := Vector.replicate 4 none
  /-- Need override for the first two periods after T_DISPATCH (R402). -/
  override : Option (Nat × Rat) := none
  sleep : FrontSleep := .awake
  energyMj : Nat := 0
  energyPart : Rat := 0
  bubbleSlots : Nat := 0
  entrySlots : Nat := 0
  calmMs : Nat := 0
  lullMs : Nat := 0
  stepNs : Nat := 0
  taskNs : Nat := 0
  awakeNs : Nat := 0
  deriving DecidableEq, Repr

/-- A learned demand: last samples, newest first, at most 1,000 (R397). -/
structure Demand where
  model : BitVec 32
  front : Fin 8
  phase : Fin 4
  samples : List Rat
  deriving DecidableEq, Repr

structure Power where
  cap : Nat := 3200
  capWanted : Option Nat := none
  lastChange : Nat := 0
  /-- PWR_CAP_MODE as last written (its RW fields), and a write that waits for the next period boundary (R400). -/
  capMode : BitVec 32 := 0
  capModeDue : Option (BitVec 32) := none
  /-- MODE, LULL_AFTER and FROST_AFTER in force. -/
  mode : BitVec 2 := 0
  lullAfter : BitVec 8 := 0
  frostAfter : BitVec 8 := 0
  fronts : Vector FrontPwr 8 := Vector.replicate 8 {}
  demands : List Demand := []
  /-- Thermal factors t of the eight Fronts, the CPU and the IO group, in twentieths (R403). -/
  thermal : Vector (Fin 21) 10 := Vector.replicate 10 20
  throttled : Vector Bool 10 := Vector.replicate 10 false
  /-- 100 us samples of one kind seen since the factor last moved, above 0 hot ones, below 0 cool ones (it moves per 1 ms, R403). -/
  thermalTick : Vector Int 10 := Vector.replicate 10 0
  excess : Rat := 0
  inputLow : Bool := false
  /-- The last 10 us estimates of the CPU and the IO group (R391). -/
  cpuEst : Nat := 0
  ioEst : Nat := 0
  cpuShare : Rat := 0
  ioShare : Rat := 0
  droop : Vector Bool 16 := Vector.replicate 16 false
  sleep : ModSleep := .awake
  tripped : Bool := false
  /-- A module RESET_SCOPE was accepted while tripped and waits for the sensors (R404). -/
  tripReset : Bool := false
  /-- Last reading of each die and stack, by the index of R403. -/
  temps : List (Nat × Int) := []
  /-- Time base of the last CXL or Denbel request for the module (R406). -/
  lastRequest : Nat := 0
  /-- A wake event has arrived while the module slept (R407). -/
  wakeOwed : Bool := false
  /-- The period boundary and the 1 ms window last formed (R391, R389). -/
  lastPeriod : Option Nat := none
  lastWindow : Option Nat := none
  /-- When the temperature sensors were last read (R403). -/
  lastTemp : Option Nat := none
  energyPart : Nat := 0
  deriving DecidableEq, Repr

/-! ## Ports (chapter 13) -/

inductive LinkState where
  | down | training | up | degraded | pcieOnly
  deriving DecidableEq, Repr

/-- A host-bound request waiting in the egress queue (R338, R339). -/
structure Egress where
  addr : Nat
  data : List Byte
  mark : Mark := .none
  /-- The Squall and task that wait for it (R316, R341). -/
  task : Option (Fin 64 × Nat) := none
  session : BitVec 16 := 0
  deriving DecidableEq, Repr

structure Cxl where
  state : LinkState := .down
  width : Nat := 0
  speed : Nat := 0
  tState : Nat := 0
  retrains : Nat := 0
  leftL0 : Option Nat := none
  egress : List Egress := []
  hdmCommitted : Bool := false
  hdmError : Bool := false
  hdmBase : W64 := 0
  hdmSize : W64 := 0
  viral : Bool := false
  microcode : Bool := false
  lastDenied : Vector (Option Nat) 6 := Vector.replicate 6 none
  deriving DecidableEq, Repr

/-- A stream open on a Denbel port (R346). -/
structure Stream where
  stag : BitVec 7
  src : BitVec 8
  dst : BitVec 8
  /-- The tag of its STREAM_OPEN and STREAM_END messages. -/
  mtag : BitVec 16
  purpose : Nat
  tag : Nat
  length : Nat
  got : Nat := 0
  deriving DecidableEq, Repr

structure DnbPort where
  state : LinkState := .down
  width : Nat := 0
  neighbour : BitVec 8 := 0xFF
  heldDown : Bool := false
  tState : Nat := 0
  leftUp : Option Nat := none
  txSeq : BitVec 10 := 0
  replay : List Flit := []
  rxSeq : BitVec 10 := 0
  nakOwed : Bool := false
  replays : List Nat := []
  /-- Credits this side may spend, per class (Table 13.10). -/
  credits : Vector Nat 5 := Vector.replicate 5 0
  /-- Credits this side advertised and the far side has not spent, per class. -/
  granted : Vector Nat 5 := Vector.replicate 5 0
  streams : List Stream := []
  /-- Stream tags taken on this link for streams that it sends: the tag, the stream's source, destination and message tag (R346). -/
  txTags : List (BitVec 7 × BitVec 8 × BitVec 8 × BitVec 16) := []
  /-- Flits to send, oldest first. -/
  sendQ : List Flit := []
  retrains : Nat := 0
  deriving DecidableEq, Repr

/-- What a peer request waits for (R352). -/
inductive PeerWhat where
  | write (task : Option (Fin 64 × Nat))
  | read (task : Option (Fin 64 × Nat))
  | coreLoad (c : Fin 64)
  | coreStore (c : Fin 64) (va : Nat) (size : Nat)
  | lift (fid : FrameId)
  | stream (op : Nat)
  deriving DecidableEq, Repr

structure PeerReq where
  tag : BitVec 16
  dst : BitVec 8
  what : PeerWhat
  since : Nat
  /-- A read: the window address of its first chunk, and what RDR brought, each byte with its chunk's mark. -/
  base : Nat := 0
  chunks : Nat := 0
  got : List (Byte × Mark) := []
  deriving DecidableEq, Repr

structure Denbel where
  ports : Vector DnbPort 4 := Vector.replicate 4 {}
  /-- Route table: module to the port code in use (0-3 DLn, 8 SELF, 15 NONE), and switches under way (R349, R350). -/
  routes : List (Nat × Nat) := []
  switching : List Nat := []
  reqs : List PeerReq := []
  nextTag : BitVec 16 := 0
  /-- Messages for ports, in issue order (R348). -/
  outbox : List Msg := []
  deriving DecidableEq, Repr

structure SpdmConn where
  versionDone : Bool := false
  capsDone : Bool := false
  algsDone : Bool := false
  deriving DecidableEq, Repr

structure Mgmt where
  dynamicAddress : Option (BitVec 7) := none
  mctpEid : BitVec 8 := 0
  spdmMctp : SpdmConn := {}
  spdmDoe : SpdmConn := {}
  /-- In-band interrupts raised (R357). -/
  ibi : Nat := 0
  /-- Completion entries sent to the chassis controller, oldest first (R355). -/
  responses : List Entry := []
  deriving DecidableEq, Repr

/-! ## Boot, trust, faults (chapters 16 and 17) -/

structure FwSlot where
  valid : Bool := false
  svn : Nat := 0
  advance : Bool := false
  release : BitVec 16 := 0
  digest : List Byte := []
  image : List Byte := []
  deriving DecidableEq, Repr

inductive Supply where
  | off | inRange | low | overvoltage | lost
  deriving DecidableEq, Repr

structure Boot where
  supply : Supply := .off
  lostAt : Option Nat := none
  pwrgood : Bool := false
  /-- Since when the module is UNINIT with input present (Table 16.6, section 0x09). -/
  offSince : Option Nat := none
  resetN : Bool := false
  /-- When RESET_N was last deasserted, or power came back with it deasserted (R433). -/
  releasedAt : Nat := 0
  perstN : Bool := true
  strapAddr : BitVec 3 := 7
  strapCoh : BitVec 2 := 3
  holdover : Bool := false
  /-- Bring-up stage running, 1-8; 9 once all have ended; 0 while none has begun or the module has stopped (Table 17.5). -/
  stage : Nat := 0
  cold : Bool := true
  /-- An LPDDR5X package failed training: the boot has stopped (R436). -/
  stopped : Bool := false
  startedAt : Nat := 0
  failed : Nat := 0
  /-- The other slot is being booted after a fallback (R420). -/
  fellBack : Bool := false
  romFaulted : Bool := false
  slots : Vector FwSlot 2 := #v[{ valid := true }, {}]
  active : Fin 2 := 0
  trial : Bool := false
  fuses : Fin 129 := 0
  staged : Option (Fin 2) := none
  /-- Units found failing at boot, whose events are raised at READY (R417). -/
  bootFailures : List FailedUnit := []
  bootCount : Nat := 0
  aliasKey : Nat := 0
  deriving DecidableEq, Repr

/-- An event record (Table 16.2); args [447:192]. -/
structure Event where
  seq : Nat
  cls : Fin 5
  read : Bool := false
  code : BitVec 16
  time : Nat
  unit : BitVec 32 := 0xFFFFFFFF
  session : BitVec 16 := 0
  args : BitVec 256 := 0
  deriving DecidableEq, Repr

/-- The unit a RESET_SCOPE is resetting, with the commands that wait (R416). -/
structure UnitReset where
  unit : BitVec 32
  cold : Bool
  /-- Its self-test runs in turn; the commands get their records when it ends. -/
  waiting : List RecRef
  since : Nat
  deriving DecidableEq, Repr

/-- The lifetime record: sections kept as counts by section and index (Table 16.6). -/
structure Lifetime where
  counts : List ((Nat × Nat) × Nat) := []
  writes : Nat := 0
  lastWrite : Nat := 0
  /-- Which flash copy is older, and the counts as last written to each copy. -/
  older : Fin 2 := 0
  copies : Vector (List ((Nat × Nat) × Nat)) 2 := Vector.replicate 2 []
  faults : List Event := []
  /-- Retired pages: memory (0 HBM3E, 1 LPDDR5X) and DRAM location (R287). -/
  retirements : List (Nat × Nat) := []
  deriving DecidableEq, Repr

structure Logs where
  events : List Event := []
  nextSeq : Nat := 0
  resets : List UnitReset := []
  life : Lifetime := {}
  deriving DecidableEq, Repr

/-- The counters of the module's counter block (R137, R228, R233, R234, R268, R283, R284, R292, R310, R359, R409, R411). -/
inductive Ctr where
  | stepNs | taskNs | stepRerun | routeReplay | runaheadClipped | predFrames | predUsed | predTimely
  | updDemand | updAheadFrames | updAheadUsed | updAheadTimely | kvpSlots | kvpUsed | kvpTimely | prefetchStale
  | poolEvict | kvDemote | kvPromote | flashRetry | peerRecovered | framesPoisoned | drizzleReloc | drizzleScanned
  | dramCorrected | dramUncorrected | dramScrubbed | hbmRekey | resetStoreDiscard
  | cxlRetrain | hostLoss | inDropHost | inDropAdapter | inDropPeer | inDenyRead
  | dnbFecCorr0 | dnbFecCorr1 | dnbFecCorr2 | dnbFecCorr3
  | dnbReplay0 | dnbReplay1 | dnbReplay2 | dnbReplay3
  | dnbRetrain0 | dnbRetrain1 | dnbRetrain2 | dnbRetrain3
  | dnbDown0 | dnbDown1 | dnbDown2 | dnbDown3 | dnbUnroutable | peerTimeout
  | inputEnergyMj | capChange | capExceed | droopBurst | thermThrottle | moduleLullMs | frostMs | wake | eventLost
  deriving DecidableEq, Repr

/-- The state of the module. -/
structure State where
  now : Nat := 0
  free : Nat := 0
  out : Answer := .none
  pending : List Instr := []
  mem : Memory := []
  marks : List (Nat × Mark) := []
  gens : List (Nat × Nat) := []
  eci : Eci := {}
  srv : Serving := {}
  tiers : Tiers := {}
  squalls : Vector Squall 64 := Vector.replicate 64 {}
  cores : Vector CoreSt 64 := Vector.replicate 64 {}
  coh : Coherence := {}
  dram : Dram := {}
  pwr : Power := {}
  cxl : Cxl := {}
  dnb : Denbel := {}
  mgmt : Mgmt := {}
  boot : Boot := {}
  logs : Logs := {}
  ctrs : List (Ctr × Nat) := []
  deriving DecidableEq, Repr

/-- The module with input power off and RESET_N asserted: every field at the value the spec states for reset, or at
the value a log entry names; a program comes to run from it as log entry 17 says. -/
def State.reset : State := {}

end Sys2Proof.Machine
end

