-- ==== Sys2Proof/Machine/Ops.lean ====
section
/-!
DEFINITION. The named operations over memory, marks, generations and the parts of State: every meaning reads and
writes them through these.
-/

namespace Sys2Proof.Machine

/-- The outcome of a command: every meaning answers one. -/
abbrev Res := Host.Outcome State Fault Refusal

/-! ## The parts of State -/

def State.answer (s : State) (a : Answer) : State := { s with out := a }
/-- The event's condition does not hold: nothing changes (log 4). -/
def State.notDue (s : State) : State := s.answer .notDue
/-- The step waits; it will be presented again (log 4). -/
def State.waits (s : State) : State := s.answer .waits
def State.ok (s : State) : State := s.answer .done

def State.pair (s : State) (q : Fin 64) : Pair := pick s.eci.pairs q
def State.updPair (s : State) (q : Fin 64) (f : Pair → Pair) : State :=
  { s with eci := { s.eci with pairs := upd s.eci.pairs q f } }
def State.sq (s : State) (q : Fin 64) : Squall := pick s.squalls q
def State.updSq (s : State) (q : Fin 64) (f : Squall → Squall) : State :=
  { s with squalls := upd s.squalls q f }
def State.eng (s : State) (q : Fin 64) (e : Fin 4) : Engine := pick (s.sq q).engines e
def State.updEng (s : State) (q : Fin 64) (e : Fin 4) (f : Engine → Engine) : State :=
  s.updSq q fun x => { x with engines := upd x.engines e f }
def State.core (s : State) (c : Fin 64) : CoreSt := pick s.cores c
def State.updCore (s : State) (c : Fin 64) (f : CoreSt → CoreSt) : State := { s with cores := upd s.cores c f }
def State.front (s : State) (f : Fin 8) : FrontPwr := pick s.pwr.fronts f
def State.updFront (s : State) (f : Fin 8) (g : FrontPwr → FrontPwr) : State :=
  { s with pwr := { s.pwr with fronts := upd s.pwr.fronts f g } }
def State.port (s : State) (p : Fin 4) : DnbPort := pick s.dnb.ports p
def State.updPort (s : State) (p : Fin 4) (f : DnbPort → DnbPort) : State :=
  { s with dnb := { s.dnb with ports := upd s.dnb.ports p f } }
def State.updEci (s : State) (f : Eci → Eci) : State := { s with eci := f s.eci }
def State.updSrv (s : State) (f : Serving → Serving) : State := { s with srv := f s.srv }
def State.updTiers (s : State) (f : Tiers → Tiers) : State := { s with tiers := f s.tiers }
def State.updPwr (s : State) (f : Power → Power) : State := { s with pwr := f s.pwr }
def State.updCxl (s : State) (f : Cxl → Cxl) : State := { s with cxl := f s.cxl }
def State.updDnb (s : State) (f : Denbel → Denbel) : State := { s with dnb := f s.dnb }
def State.updCoh (s : State) (f : Coherence → Coherence) : State := { s with coh := f s.coh }
def State.updDram (s : State) (f : Dram → Dram) : State := { s with dram := f s.dram }
def State.updBoot (s : State) (f : Boot → Boot) : State := { s with boot := f s.boot }
def State.updLogs (s : State) (f : Logs → Logs) : State := { s with logs := f s.logs }

/-- The local Squall k of Front f, and back (R11). -/
def squallOf (f : Fin 8) (k : Fin 8) : Fin 64 := ⟨8 * f.val + k.val, by omega⟩
def frontOf (q : Fin 64) : Fin 8 := ⟨q.val / 8, by omega⟩
/-- The global engine number of an engine (R11). -/
def engineNo (q : Fin 64) (e : Fin 4) : Nat := 4 * q.val + e.val

/-! ## The physical map (Table 1.6, Table 11.3, R333, R351) -/

def hbmBase : Nat := 0x010000000000
def dramEnd : Nat := 0x028000000000
def chipBase : Nat := 0x030000000000
def chipBytes : Nat := 0x10000000
def coreMemBase : Nat := 0x030100000000
def coreMemStride : Nat := 0x1000000
def engineBase : Nat := 0x030200000000
def engineStride : Nat := 0x80000
def registerBase : Nat := 0x038000000000
/-- The core unit windows: the last 2,048 LPDDR5X frames (R240; log 90). -/
def coreWindows : Nat := 0xFE00000000
def peerBase : Nat := 0x040000000000
/-- The end of the peer windows (R351). -/
def peerEnd : Nat := 0x440000000000
def hostBase : Nat := 0x800000000000
def hostEnd : Nat := 0x1000000000000

/-- LPDDR5X and HBM3E addresses. -/
def isDram (a : Nat) : Bool := decide (a < dramEnd)
def isHbm (a : Nat) : Bool := decide (hbmBase ≤ a) && decide (a < dramEnd)
def isLpd (a : Nat) : Bool := decide (a < hbmBase)
/-- Chip memory of a Front: its 256 MiB. -/
def isChip (a : Nat) : Bool := decide (chipBase ≤ a) && decide (a < chipBase + 8 * chipBytes)
def isHost (a : Nat) : Bool := decide (hostBase ≤ a) && decide (a < hostEnd)
def isPeer (a : Nat) : Bool := decide (peerBase ≤ a) && decide (a < peerEnd)
def isRegister (a : Nat) : Bool := decide (registerBase ≤ a) && decide (a < registerBase + 0x10000)

/-! ## Memory -/

/-- What an address memory does not list reads as: zero in DRAM and in host memory (R436; log 1); nothing in the
memories whose contents are undefined until written (R105, R108, R118, R62), where a read is a free value. -/
def unlisted (a : Nat) : Option Byte :=
  if a < dramEnd then some 0 else if hostBase ≤ a then some 0 else none

/-- The byte a memory lists at an address. -/
def Memory.lookup : Memory → Nat → Option Byte
  | [], _ => none
  | (k, b) :: m, a => if k = a then some b else Memory.lookup m a

/-- A byte stored: the canonical form is kept. -/
def Memory.put : Memory → Nat → Byte → Memory
  | [], a, b => if unlisted a = some b then [] else [(a, b)]
  | (k, c) :: m, a, b =>
    if a < k then (if unlisted a = some b then (k, c) :: m else (a, b) :: (k, c) :: m)
    else if a = k then (if unlisted a = some b then m else (a, b) :: m)
    else (k, c) :: Memory.put m a b

/-- A list of bytes stored from an address up. -/
def Memory.putList : Memory → Nat → List Byte → Memory
  | m, _, [] => m
  | m, a, b :: bs => Memory.putList (m.put a b) (a + 1) bs

/-- The memory without what it lists under a set of addresses. -/
def Memory.drop (m : Memory) (p : Nat → Bool) : Memory := m.filter fun c => !p c.1

/-- Every address of a memory is above a bound. -/
def Memory.above (lo : Nat) : Memory → Bool
  | [] => true
  | (k, _) :: m => decide (lo < k) && Memory.above lo m

/-- The canonical form: addresses strictly rising, no entry equal to what an unlisted address reads as. -/
def Memory.wf : Memory → Bool
  | [] => true
  | (k, b) :: m => decide (unlisted k ≠ some b) && Memory.above k m && Memory.wf m

/-- Where an address of a retired page now lies (R286). -/
def State.real (s : State) (pa : Nat) : Nat :=
  match assoc s.dram.retired (pa / Config.pageBytes) with
  | some sp => sp * Config.pageBytes + pa % Config.pageBytes
  | none => pa

/-- One byte as a reader sees it. -/
def State.byteAt (s : State) (pa : Nat) : Byte :=
  let a := s.real pa
  match s.mem.lookup a with
  | some b => b
  | none => (unlisted a).getD (Config.freeByte s.free a)

/-- n bytes from an address up. -/
def State.bytes (s : State) (pa : Nat) : Nat → List Byte
  | 0 => []
  | n + 1 => s.byteAt pa :: State.bytes s (pa + 1) n

/-- n bytes from an address as a little-endian number (R7). -/
def State.word (s : State) (pa n : Nat) : Nat := leNat (s.bytes pa n)

/-- One byte stored at an address. -/
def State.putByte (s : State) (pa : Nat) (b : Byte) : State := { s with mem := s.mem.put (s.real pa) b }

/-- A list of bytes stored from an address up. -/
def State.putBytes (s : State) (pa : Nat) : List Byte → State
  | [] => s
  | b :: bs => State.putBytes (s.putByte pa b) (pa + 1) bs

/-- A number stored in n little-endian bytes. -/
def State.putWord (s : State) (pa n v : Nat) : State := s.putBytes pa (leBytes v n)

/-- The address that real maps to a listed address, for range operations: a spare page stands for its page. -/
def State.home (s : State) (a : Nat) : Option Nat :=
  match s.dram.retired.find? (fun p => p.2 == a / Config.pageBytes) with
  | some p => some (p.1 * Config.pageBytes + a % Config.pageBytes)
  | none => if (assoc s.dram.retired (a / Config.pageBytes)).isSome then none else some a

/-- Is an address in a range of n bytes. -/
def inRange (lo n a : Nat) : Bool := decide (lo ≤ a) && decide (a < lo + n)

/-- A range made to read as unlisted memory does: zeros in DRAM, undefined contents elsewhere. -/
def State.clear (s : State) (pa n : Nat) : State :=
  { s with mem := s.mem.drop fun a => match s.home a with
      | some h => inRange pa n h
      | none => false }

/-- A range copied: n bytes from one address to another, read before anything is written. -/
def State.copy (s : State) (src dst n : Nat) : State := s.putBytes dst (s.bytes src n)

/-- The contents of undefined memories drawn anew: later reads of bytes nothing has written see other free values. -/
def State.draw (s : State) : State := { s with free := s.free + 1 }

/-- One free word, and the state with the counter advanced (log 2). -/
def State.drawn (s : State) (k : Nat) : W64 := Config.freeWord s.free k

/-! ## Marks (R255) and generations (R266) -/

/-- The aligned 64-byte chunk of an address. -/
def chunkOf (pa : Nat) : Nat := pa / 64

def State.markAt (s : State) (pa : Nat) : Mark := (assoc s.marks (chunkOf (s.real pa))).getD .none

def State.setMark (s : State) (pa : Nat) (m : Mark) : State :=
  let c := chunkOf (s.real pa)
  { s with marks := if m = .none then assocDel s.marks c else assocSet s.marks c m }

/-- UNREADABLE prevails over LATE, LATE over none (R255). -/
def joinMark : Mark → Mark → Mark
  | .unreadable, _ => .unreadable
  | _, .unreadable => .unreadable
  | .late, _ => .late
  | _, .late => .late
  | .none, .none => .none

/-- The chunks that n bytes from an address touch, by their first addresses. -/
def chunksOf (pa n : Nat) : List Nat :=
  if n = 0 then [] else (List.range ((pa + n - 1) / 64 - pa / 64 + 1)).map fun i => 64 * (pa / 64 + i)

/-- The mark a read of n bytes meets. -/
def State.markOf (s : State) (pa n : Nat) : Mark :=
  (chunksOf pa n).foldl (fun m a => joinMark m (s.markAt a)) .none

/-- The mark of a write of n bytes: a chunk that it covers takes the mark, a chunk it covers in part keeps the higher of its
old mark and the write's (R256). -/
def State.markRange (s : State) (pa n : Nat) (m : Mark) : State :=
  (chunksOf pa n).foldl (fun t a =>
    t.setMark a (if pa ≤ a ∧ a + 64 ≤ pa + n then m else joinMark m (t.markAt a))) s

/-- A set of addresses whose contents become undefined: nothing is listed there, and no mark stands (R105, R108). -/
def State.undefine (s : State) (p : Nat → Bool) : State :=
  { s with mem := s.mem.drop p, marks := s.marks.filter (fun c => !p (64 * c.1)), free := s.free + 1 }

/-- Generation of the 64 KiB granule of an address (R266). -/
def State.genAt (s : State) (pa : Nat) : Nat := (assoc s.gens (pa / Config.subBytes)).getD 0

/-- Generations count modulo 2^32 (R266). -/
def State.bumpGen (s : State) (pa : Nat) : State :=
  { s with gens := assocSet s.gens (pa / Config.subBytes) ((s.genAt pa + 1) % 2 ^ 32) }

/-- The 64 KiB granules that n bytes from an address touch, by an address in each. -/
def granulesOf (pa n : Nat) : List Nat :=
  if n = 0 then [] else
    (List.range ((pa + n - 1) / Config.subBytes - pa / Config.subBytes + 1)).map fun i => Config.subBytes * (pa / Config.subBytes + i)

/-- A write that reaches its home agent or base die: bytes, marks, and the generation of each granule (R255, R256, R266). -/
def State.store (s : State) (pa : Nat) (data : List Byte) (m : Mark) : State :=
  let s1 := (s.putBytes pa data).markRange pa data.length m
  if isDram pa then (granulesOf pa data.length).foldl (fun u a => u.bumpGen a) s1 else s1

/-! ## Finding things -/

def State.model (s : State) (id : BitVec 32) : Option Model := s.srv.models.find? (·.id == id)
def State.updModel (s : State) (id : BitVec 32) (f : Model → Model) : State :=
  s.updSrv fun v => { v with models := updWhere v.models (·.id == id) f }
def State.chain (s : State) (m : BitVec 32) (c : Fin 16) : Option Chain :=
  s.srv.chains.find? fun x => x.model == m && x.chain == c
/-- A chain's state changed, made when the chain has none yet. -/
def State.updChain (s : State) (m : BitVec 32) (c : Fin 16) (f : Chain → Chain) : State :=
  s.updSrv fun v =>
    if v.chains.any (fun x => x.model == m && x.chain == c) then
      { v with chains := updFirst v.chains (fun x => x.model == m && x.chain == c) f }
    else { v with chains := v.chains ++ [f { model := m, chain := c }] }
/-- A chain's running step changed. -/
def State.updRun (s : State) (m : BitVec 32) (c : Fin 16) (g : Run → Run) : State :=
  s.updChain m c fun x => { x with run := x.run.map g }
def State.session (s : State) (id : BitVec 16) : Option Session := s.eci.sessions.find? (·.id == id)
def State.updSession (s : State) (id : BitVec 16) (f : Session → Session) : State :=
  s.updEci fun v => { v with sessions := updWhere v.sessions (·.id == id) f }
def State.seqOf (s : State) (m : BitVec 32) (h : Nat) : Option Seq :=
  s.srv.seqs.find? fun x => x.model == m && x.handle == h
def State.updSeq (s : State) (m : BitVec 32) (h : Nat) (f : Seq → Seq) : State :=
  s.updSrv fun v => { v with seqs := updWhere v.seqs (fun x => x.model == m && x.handle == h) f }
def State.op (s : State) (h : Nat) : Option LongOp := s.eci.ops.find? (·.handle == h)
def State.updOp (s : State) (h : Nat) (f : LongOp → LongOp) : State :=
  s.updEci fun v => { v with ops := updWhere v.ops (·.handle == h) f }

/-- Every running step with its chain. -/
def State.running (s : State) : List (Chain × Run) := s.srv.chains.filterMap fun c => c.run.map fun r => (c, r)

/-- Milliseconds and microseconds in ns of the time base (R4). -/
def ms (n : Nat) : Nat := n * 1000000
def us (n : Nat) : Nat := n * 1000

end Sys2Proof.Machine
end

