-- ==== Sys2Proof/Machine/DramMap.lean ====
section
/-!
DEFINITION. Where a DRAM line lies, and the access queues of its channel (R269, R271 to R273, R277, R279).
-/

namespace Sys2Proof.Machine

/-! ## The mapping (R271, R273; its keyed functions: log 15) -/

/-- Key of a memory (0 HBM3E, 1 LPDDR5X). -/
def State.dramKey (s : State) (mem : Nat) : Nat := if mem = 0 then s.dram.hbmKey else s.dram.lpdKey
def memOf (pa : Nat) : Nat := if isHbm pa then 0 else 1

/-- The end of DRAM: HBM shrinks by an excluded pair's frames (R272). -/
def State.dramTop (s : State) : Nat := hbmBase + (Config.fwFrames + s.tiers.poolSize) * Config.frameBytes

/-- Is an address in populated DRAM (R272, R295). -/
def State.populated (s : State) (a : Nat) : Bool := decide (a < s.dramTop)

/-- The stack pairs in service (R272). -/
def State.pairsIn (s : State) : List Nat := (List.range 8).filter fun p => !s.dram.excluded.getLsbD p

/-- The stack pair of an HBM frame, among those in service (R271, R272). -/
def State.framePair (s : State) (f : Nat) : Nat := s.pairsIn.getD (Config.pairHash s.dram.hbmKey f % s.pairsIn.length) 0

/-- The k-th permutation of a list: one element after another by the digits of k. -/
def permuted : Nat → List Nat → Nat → List Nat
  | 0, _, _ => []
  | n + 1, l, k => l.getD (k % l.length) 0 :: permuted n (l.eraseIdx (k % l.length)) (k / l.length)

/-- The pseudo-channel of a pair, or the LPDDR5X channel, that a line falls on: the 64 lines of its page go one to each. -/
def State.dramSlot (s : State) (pa : Nat) : Nat :=
  (permuted 64 (List.range 64) (Config.pageOrder (s.dramKey (memOf pa)) (memOf pa) (pa / Config.pageBytes))).getD (pa / 64 % 64) 0 % 64

/-- Device of a line: 0-15 H0-H15, 16-31 L0-L15 (Table 16.3). -/
def State.dramDevice (s : State) (pa : Nat) : Nat :=
  if isHbm pa then 2 * s.framePair ((pa - hbmBase) / Config.frameBytes) + s.dramSlot pa / 32 else 16 + s.dramSlot pa / 4

/-- Its pseudo-channel in the stack, or its channel in the package. -/
def State.dramSub (s : State) (pa : Nat) : Nat := if isHbm pa then s.dramSlot pa % 32 else s.dramSlot pa % 4

/-- Channel of the model: HBM pseudo-channels 0-511, LPDDR5X channels 512-575 (R269). -/
def State.dramChannel (s : State) (pa : Nat) : Fin 576 :=
  if isHbm pa then ⟨(32 * s.dramDevice pa + s.dramSub pa) % 576, by omega⟩ else ⟨(512 + s.dramSlot pa) % 576, by omega⟩

/-- The device of a channel, its banks, and the columns of 64 bytes and rows of a bank, for the memory (Table 10.1). -/
def channelDevice (ch : Fin 576) : Fin 32 := if ch.val < 512 then ⟨ch.val / 32 % 32, by omega⟩ else ⟨(16 + (ch.val - 512) / 4) % 32, by omega⟩
def banksOf (mem : Nat) : Nat := if mem = 0 then 48 else 16
def columnsOf (mem : Nat) : Nat := if mem = 0 then 16 else 32
def rowsOf (mem : Nat) : Nat := if mem = 0 then 65536 else 524288

/-- Bank, row and column of place j of a page: places 0-63 are its lines, 64-71 the check lines of its groups of 512 bytes. -/
def State.spotOf (s : State) (pa j k : Nat) : Nat := Config.spotHash (s.dramKey (memOf pa)) (memOf pa) (pa / Config.pageBytes) j k
def State.dramBank (s : State) (pa : Nat) : Nat := s.spotOf pa (pa / 64 % 64) 0 % banksOf (memOf pa)
def State.dramRow (s : State) (pa : Nat) : Nat := s.spotOf pa (pa / 64 % 64) 1 % rowsOf (memOf pa)
def State.dramColumn (s : State) (pa : Nat) : Nat := s.spotOf pa (pa / 64 % 64) 2 % columnsOf (memOf pa)

/-- Bank and row of an access. -/
def State.reqBank (s : State) (r : DramReq) : Nat :=
  if r.check then s.spotOf (64 * r.line) (64 + r.line / 8 % 8) 0 % banksOf 1 else s.dramBank (64 * r.line)
def State.reqRow (s : State) (r : DramReq) : Nat :=
  if r.check then s.spotOf (64 * r.line) (64 + r.line / 8 % 8) 1 % rowsOf 1 else s.dramRow (64 * r.line)

/-- Where the line of an address lies in DRAM, as one number: device, channel, bank, row and column (R271, R273, R287). -/
def State.dramLoc (s : State) (a : Nat) : Nat :=
  s.dramDevice a + s.dramSub a <<< 8 + s.dramBank a <<< 16 + s.dramRow a <<< 24 + s.dramColumn a <<< 56

/-- The physical page that holds a DRAM location of a memory under the key in force (R287). -/
def State.pageAt (s : State) (mem loc : Nat) : Option Nat :=
  let lo := if mem = 0 then hbmBase else 0
  let hi := if mem = 0 then s.dramTop else hbmBase
  firstNat (fun p => (List.range 64).any fun j => s.dramLoc (p * Config.pageBytes + 64 * j) == loc) (lo / Config.pageBytes) ((hi - lo) / Config.pageBytes)

/-- Home agent of a line: that of the base die whose pair holds its frame, or that of IO-M (R269, R271). -/
def State.homeOf (s : State) (pa : Nat) : Fin 9 := if isHbm pa then ⟨s.framePair ((pa - hbmBase) / Config.frameBytes) % 9, by omega⟩ else 8

/-- A row of DRAM as one number: row, bank, and channel within the memory (log 30). -/
def State.rowOf (s : State) (pa : Nat) : Nat :=
  s.dramRow pa + s.dramBank pa <<< 19 + ((s.dramChannel pa).val - if isHbm pa then 32 * (s.dramDevice pa / 2 * 2) else 512) <<< 25

/-! ## Access queues (R273, R277, R279) -/

/-- The DRAM lines that n bytes from an address touch, by number. -/
def dramLines (pa n : Nat) : List Nat := (chunksOf pa n).map fun a => a / 64

/-- One access asked of its channel: a read that finds a write of the line waiting is answered with that write's data, a demand read that
finds a prefetch of it waiting raises that request, and both complete together (R279). -/
def Channel.ask (c : Channel) (r : DramReq) : Channel :=
  let same (x : DramReq) : Bool := x.line == r.line && x.check == r.check
  if !r.write && c.queue.any (fun x => x.write && same x) then c
  else if !r.write && r.cls == 1 && c.queue.any (fun x => !x.write && x.cls == 2 && same x) then
    { c with queue := updFirst c.queue (fun x => !x.write && x.cls == 2 && same x) fun x => { x with cls := 1 } }
  else { c with queue := c.queue ++ [r] }

def State.ask (s : State) (r : DramReq) : State :=
  s.updDram fun d => { d with channels := upd d.channels (s.dramChannel (64 * r.line)) fun c => c.ask r }

/-- The accesses that a range of DRAM takes, in their class; nothing outside DRAM. For LPDDR5X the check line of each group of eight lines
is read once, and written back behind the last of its lines that changed (R273). -/
def State.dramAsk (s : State) (cls : Nat) (write checked : Bool) (pa n : Nat) : State :=
  if !isDram pa then s
  else
    let lines := (dramLines pa n).map fun l => (l, s.real (64 * l) / 64)
    let s1 := lines.foldl (fun u l =>
      u.ask { cls := cls, line := l.2, write := write, since := u.now, asked := l.1, checked := checked }) s
    if isHbm pa then s1
    else ((lines.map fun l => l.2 / 8 * 8).eraseDups).foldl (fun u g =>
      u.ask { cls := cls, line := g, write := write, since := u.now, asked := g, checked := true, check := true }) s1

/-- Accesses whose errors come to light when their channel serves them (log 42). -/
def State.dramUse (s : State) (cls : Nat) (write : Bool) (pa n : Nat) : State := s.dramAsk cls write false pa n

/-- Reads whose outcome their command has met (R285). -/
def State.dramRead (s : State) (cls pa n : Nat) : State := s.dramAsk cls false true pa n

/-- Reads of a line that their commands have met and that wait at its channel. -/
def State.readsOf (s : State) (pa : Nat) : Nat :=
  ((pick s.dram.channels (s.dramChannel (s.real pa / 64 * 64))).queue.filter fun r => !r.write && !r.check && r.checked && r.asked == pa / 64).length

end Sys2Proof.Machine
end

