-- ==== Sys2Proof/Machine/Flags.lean ====
section
/-!
DEFINITION. Status, events, counters and interrupts: what the module reports (chapters 14 and 16).
-/

namespace Sys2Proof.Machine

/-- Codes of the device states (Table 14.2). -/
def DevState.code : DevState → Nat
  | .uninit => 0 | .booting => 1 | .ready => 2 | .serving => 3 | .draining => 4
  | .suspended => 5 | .degraded => 6 | .faulted => 7 | .updating => 8

def Role.code : Role → Nat
  | .prefill => 0 | .decode => 1 | .cache => 2 | .mixed => 3

def Role.ofCode : Nat → Option Role
  | 0 => some .prefill | 1 => some .decode | 2 => some .cache | 3 => some .mixed | _ => none

/-- Status codes (Table 14.11). -/
def Status.code : Status → Nat
  | .done => 0x0000 | .invalidOpcode => 0x0101 | .invalidField => 0x0102 | .stateConflict => 0x0103
  | .noSession => 0x0104 | .notPermitted => 0x0105 | .notOnPort => 0x0106 | .notFound => 0x0107
  | .alreadyFinal => 0x0108 | .badToken => 0x0109 | .reattachLocked => 0x010A | .longOpLimit => 0x010B
  | .modelBusy => 0x010C | .regionBusy => 0x010D | .regionInvalid => 0x010E | .podInvalid => 0x010F
  | .capRange => 0x0110 | .retireFull => 0x0111
  | .cancelled => 0x0201 | .scopeReset => 0x0202 | .tagStall => 0x0203 | .scratchParity => 0x0204
  | .accessDenied => 0x0205 | .xlateFault => 0x0206 | .selectRange => 0x0207 | .routeOverflow => 0x0208
  | .commitFailed => 0x0209 | .weightLate => 0x020A | .weightUnreadable => 0x020B | .hostLinkLost => 0x020C
  | .peerLinkLost => 0x020D | .dataUnreadable => 0x020E | .powerLost => 0x020F | .unitOffline => 0x0210
  | .moduleFault => 0x0211
  | .regionMismatch => 0x0220 | .rowsExceed => 0x0221 | .kvSpace => 0x0222 | .maskInvalid => 0x0223
  | .seqBusy => 0x0224 | .kvLayout => 0x0225
  | .imageInvalid => 0x0230 | .poolCeiling => 0x0231 | .manifestInvalid => 0x0232 | .fwInvalid => 0x0233
  | .fwRollback => 0x0234 | .installSpace => 0x0235

/-! ## Counters -/

def State.ctr (s : State) (c : Ctr) : Nat := (assoc s.ctrs c).getD 0

/-- A counter of the module's block rises (R18: counters increase monotonically). -/
def State.add (s : State) (c : Ctr) (n : Nat) : State := { s with ctrs := assocSet s.ctrs c (s.ctr c + n) }
def State.count (s : State) (c : Ctr) : State := s.add c 1

/-- A count of the lifetime record rises: section and index (Table 16.6). -/
def State.lifeAdd (s : State) (sec idx n : Nat) : State :=
  s.updLogs fun l => { l with life := { l.life with
    counts := assocSet l.life.counts (sec, idx) ((assoc l.life.counts (sec, idx)).getD 0 + n) } }
def State.lifeCount (s : State) (sec idx : Nat) : Nat := (assoc s.logs.life.counts (sec, idx)).getD 0

/-! ## Unit identifiers (Table 1.4) -/

def unitNone : BitVec 32 := 0xFFFFFFFF
/-- Form 00: module, Front, Squall and engine positions, 0xF where absent. -/
def pathId (d f k e : Nat) : BitVec 32 := BitVec.ofNat 32 (d <<< 16 + f <<< 12 + k <<< 8 + e <<< 4)
def State.moduleId (s : State) : BitVec 32 := pathId s.eci.moduleIndex.toNat 0xF 0xF 0xF
def State.frontId (s : State) (f : Fin 8) : BitVec 32 := pathId s.eci.moduleIndex.toNat f.val 0xF 0xF
def State.squallId (s : State) (q : Fin 64) : BitVec 32 :=
  pathId s.eci.moduleIndex.toNat (q.val / 8) (q.val % 8) 0xF
def State.engineId (s : State) (q : Fin 64) (e : Fin 4) : BitVec 32 :=
  pathId s.eci.moduleIndex.toNat (q.val / 8) (q.val % 8) e.val
/-- Form 01: module and core number. -/
def State.coreId (s : State) (c : Fin 64) : BitVec 32 :=
  BitVec.ofNat 32 (1 <<< 30 + s.eci.moduleIndex.toNat <<< 16 + (c.val / 16) <<< 4 + c.val % 16)

/-! ## Events (R410-R412) -/

/-- Is a session of the CXL path attached, lost ones left out (R412). -/
def State.cxlSession (s : State) : Bool := s.eci.sessions.any fun x => !x.onPkg && !x.lost

def State.sendMsix (s : State) (v : Nat) : State := s.updEci fun e => { e with msix := e.msix ++ [v] }

/-- MSI-X vector 64, at most once in 1 ms of the time base and only while a CXL session is attached (R412). -/
def State.vector64 (s : State) : State :=
  if !s.cxlSession then s
  else if s.eci.lastVector64.all fun t => decide (t + ms 1 ≤ s.now) then
    (s.sendMsix 64).updEci fun e => { e with lastVector64 := some s.now, vector64Owed := false }
  else s.updEci fun e => { e with vector64Owed := true }

/-- Is ALERT_N asserted (R357): an unread event of class 1 or higher. -/
def State.alertN (s : State) : Bool := s.logs.events.any fun e => decide (1 ≤ e.cls.val) && !e.read

/-- A new record in the log of 4,096: it replaces the oldest read record, or else the oldest of the lowest class
present, or is dropped when that class is above its own (R411). The answer says whether a record was lost. -/
def logInsert (l : List Event) (e : Event) : List Event × Bool :=
  if l.length < 4096 then (l ++ [e], false)
  else if l.any (·.read) then (dropFirst l (·.read) ++ [e], true)
  else
    let low := l.foldl (fun m x => min m x.cls.val) 4
    if e.cls.val < low then (l, true) else (dropFirst l (fun x => x.cls.val == low) ++ [e], true)

/-- A detected error writes one event record (R411), raises ALERT_N with an in-band interrupt (R357), sends vector 64
from class 1 up (R412) and enters the lifetime record from class 3 up (Table 16.6, section 0x0C). -/
def State.event (s : State) (cls : Fin 5) (code : Nat) (unit : BitVec 32) (session : BitVec 16) (args : Nat) : State :=
  let e : Event := { seq := s.logs.nextSeq, cls := cls, code := BitVec.ofNat 16 code, time := s.now, unit := unit, session := session, args := BitVec.ofNat 256 args }
  let r := logInsert s.logs.events e
  let was := s.alertN
  let s1 := s.updLogs fun l => { l with
    events := r.1, nextSeq := (l.nextSeq + 1) % 2 ^ 32,
    life := if 3 ≤ cls.val then { l.life with faults := (l.life.faults ++ [e]).drop (l.life.faults.length + 1 - 256) }
      else l.life }
  let s2 := if r.2 then (s1.count .eventLost).lifeAdd 0x0C 1 1 else s1
  let s3 := if s2.alertN && !was then { s2 with mgmt := { s2.mgmt with ibi := s2.mgmt.ibi + 1 } } else s2
  if 1 ≤ cls.val then s3.vector64 else s3

/-- Event arguments packed at their bit positions. -/
def argBits : List (Nat × Nat) → Nat
  | [] => 0
  | (lo, v) :: l => v <<< lo + argBits l

/-- A Denbel counter of a port. -/
def portCtr (c0 c1 c2 c3 : Ctr) (p : Fin 4) : Ctr :=
  match p with
  | 0 => c0 | 1 => c1 | 2 => c2 | 3 => c3

/-! ## The registers of state that are computed (Table 14.2) -/

/-- ECI_STATE. -/
def State.eciState (s : State) : BitVec 32 :=
  BitVec.ofNat 32 (s.eci.devState.code + ((s.eci.role.map Role.code).getD 7) <<< 4
    + (if s.eci.pod.isSome then 1 <<< 7 else 0) + s.eci.moduleIndex.toNat <<< 8
    + (if s.eci.debugOn then 1 <<< 16 else 0) + (s.eci.sessions.length % 256) <<< 24)

/-- ECI_ERR_SUMMARY. -/
def State.errSummary (s : State) : BitVec 32 :=
  let unread := s.logs.events.filter fun e => !e.read
  let bit (c : Nat) : Nat := if unread.any (fun e => e.cls.val == c) then 1 <<< c else 0
  BitVec.ofNat 32 (bit 0 + bit 1 + bit 2 + bit 3 + bit 4 + (min unread.length 0xFFFF) <<< 16)

/-- ECI_URG_STATUS. -/
def State.urgStatus (s : State) : BitVec 32 :=
  let b (v : Vector Bool 4) (u : Fin 4) : Nat := if pick v u then 1 else 0
  let bits (v : Vector Bool 4) : Nat := b v 0 + 2 * b v 1 + 4 * b v 2 + 8 * b v 3
  BitVec.ofNat 32 (bits s.eci.urgBusy + (bits s.eci.urgDone) <<< 4)

/-- ECI_Q_STATUS of a pair (Table 14.3). -/
def Pair.status (p : Pair) : BitVec 32 :=
  BitVec.ofNat 32 ((if p.active then 1 else 0) + (if p.session.isSome then 2 else 0) + (if p.shadow then 4 else 0)
    + (if p.stopped then 8 else 0) + p.sqHead.toNat <<< 4 + p.cqTail.toNat <<< 16)

/-- The module's state changes (R380); entering FAULTED on a module-failing error also enters Viral where the event
does (R329). -/
def State.setDev (s : State) (d : DevState) : State := s.updEci fun e => { e with devState := d }

def ModSleep.asleep : ModSleep → Bool
  | .lull _ | .frost _ => true
  | .awake | .waking _ _ => false

/-- A wake event: the module, if it sleeps, wakes for it (R407). -/
def State.rouse (s : State) : State := if s.pwr.sleep.asleep then s.updPwr fun p => { p with wakeOwed := true } else s

/-- A CXL or Denbel request for the module (R406). -/
def State.requested (s : State) : State := s.rouse.updPwr fun p => { p with lastRequest := s.now }

end Sys2Proof.Machine
end

