-- ==== Sys2Proof/Machine/Retire.lean ====
section
/-!
DEFINITION. Retired pages, and the retirements that a new key or a boot brings again (R286, R287).
-/

namespace Sys2Proof.Machine

/-- The first byte of the spare pages of a memory (0 HBM3E, 1 LPDDR5X): 256 MiB each (R286; the places: log 21). -/
def spareBase (m : Nat) : Nat := if m = 0 then hbmBase else 0x7FF0000000
def spareCount : Nat := 65536

/-- The page copied to a spare page, marks with it, and redirected. -/
def State.redirect (s : State) (page spare : Nat) : State :=
  let src := page * Config.pageBytes
  let dst := spare * Config.pageBytes
  let s1 := s.putBytes dst (s.bytes src Config.pageBytes)
  let s2 := (chunksOf src Config.pageBytes).foldl (fun u a => u.setMark (a - src + dst) (s.markAt a)) s1
  s2.updDram fun d => { d with retired := d.retired ++ [(page, spare)] }

/-- A page retired by the next spare of its memory; none when no spare is left. -/
def State.retirePage (s : State) (page : Nat) : Option State :=
  let m : Fin 2 := if isHbm (page * Config.pageBytes) then 0 else 1
  let n := pick s.dram.spares m
  if spareCount ≤ n then none
  else
    let spare := spareBase m.val + n * Config.pageBytes
    let s1 := s.dramUse 3 false (page * Config.pageBytes) Config.pageBytes
    some (((s1.redirect page (spare / Config.pageBytes)).dramUse 3 true spare Config.pageBytes).updDram fun d =>
      { d with spares := upd d.spares m (· + 1) })

/-- Every retired HBM page stands at its own place again, as a change of the HBM key leaves it (R287, R292). -/
def State.giveBack (s : State) : State :=
  let old := s.dram.retired.filter fun r => isHbm (r.1 * Config.pageBytes)
  let kept := old.map fun r =>
    let a := r.1 * Config.pageBytes
    (a, s.bytes a Config.pageBytes, (chunksOf a Config.pageBytes).map fun c => (c, s.markAt c))
  let s1 := s.updDram fun d => { d with retired := d.retired.filter fun r => !isHbm (r.1 * Config.pageBytes), spares := upd d.spares 0 fun _ => 0 }
  kept.foldl (fun u k => k.2.2.foldl (fun v c => v.setMark c.1 c.2) (u.putBytes k.1 k.2.1)) s1

/-- Recorded locations of a memory mapped to pages under the key now in force, and retired again (R287). -/
def State.reapply (s : State) (mem : Nat) : State :=
  (s.logs.life.retirements.filter (·.1 == mem)).foldl (fun u r =>
    match u.pageAt mem r.2 with
    | none => u
    | some page => if (assoc u.dram.retired page).isSome || !u.populated (page * Config.pageBytes) then u else (u.retirePage page).getD u) s

end Sys2Proof.Machine
end

