-- ==== Sys2Proof/Machine/DramErr.lean ====
section
/-!
DEFINITION. What error correction finds in a DRAM line, and what follows (R261, R283, R285).
-/

namespace Sys2Proof.Machine

/-- The pages that hold lines of the row of an address: one location per column of the row, read backwards (R283). -/
def State.rowPages (s : State) (pa : Nat) : List Nat :=
  let loc := s.dramLoc pa - s.dramColumn pa <<< 56
  ((pa / Config.pageBytes) :: (List.range (columnsOf (memOf pa))).filterMap fun c => s.pageAt (memOf pa) (loc + c <<< 56)).eraseDups

/-- RETIRE_ADVISED for a row: records of up to three pages each (Table 16.3). -/
def State.adviseRetire (s : State) (pa : Nat) : State :=
  let pages := s.rowPages pa
  (List.range (cdiv pages.length 3)).foldl (fun u k =>
    let here := (pages.drop (3 * k)).take 3
    let p (i : Nat) : Nat := here.getD i 0 * Config.pageBytes
    u.event 0 0x0002 unitNone 0 (argBits [(0, pages.length), (8, 3 * k), (16, here.length), (32, u.dramRow pa), (64, p 0), (128, p 1), (192, p 2)])) s

/-- A day, in ns. -/
def dayNs : Nat := 86400000000000

/-- One corrected error of a row: the table of 4,096 rows saturates its counts and gives up its least recently raised row. -/
def raiseRow (l : List RowCount) (row now : Nat) : List RowCount :=
  let old := (l.find? (·.row == row)).getD { row := row, count := 0, recent := [], last := 0, advised := false }
  let rec_ := (now :: (old.recent.filter fun t => decide (now < t + dayNs))).take 16
  let new : RowCount := { old with count := min 65535 (old.count + 1), recent := rec_, last := now, advised := old.advised && rec_.length == 16 }
  let others := l.filter (·.row != row)
  let room := if others.length < 4096 then others
    else match minBy (fun r : RowCount => r.last) others with
      | some v => dropFirst others (· == v)
      | none => others
  room ++ [new]

/-- The corrected line's write-back, unless a write of the line waits already (R283). -/
def State.fixBack (s : State) (pa : Nat) : State :=
  let line := s.real (64 * (pa / 64)) / 64
  if (pick s.dram.channels (s.dramChannel (64 * line))).queue.any fun r => r.write && !r.check && r.line == line then s else s.dramUse 3 true pa 64

/-- A corrected line (R283): counted for its DRAM row, its device's month and the module; written back in class 3. -/
def State.dramFixed (s : State) (pa : Nat) : State :=
  let at_ := s.real pa
  let home := s.homeOf at_
  let row := s.rowOf at_
  let s1 := (((s.fixBack pa).count .dramCorrected).lifeAdd 3 (s.dramDevice at_ * 2 ^ 32 + Config.month s.now) 1).updDram fun d =>
    { d with rows := upd d.rows home fun l => raiseRow l row s.now }
  match (pick s1.dram.rows home).find? (·.row == row) with
  | some r =>
    if r.recent.length = 16 ∧ !r.advised then
      (s1.updDram fun d => { d with rows := upd d.rows home fun l => updFirst l (·.row == row) fun x => { x with advised := true } }).adviseRetire at_
    else s1
  | none => s1

/-- The weight frame whose pool copy holds an address. -/
def State.weightAt (s : State) (pa : Nat) : Option WFrame :=
  if !isHbm pa then none
  else s.tiers.weights.find? fun w => w.st == .present && w.frame == some ((pa - hbmBase) / Config.frameBytes)

/-- An uncorrectable line (R285), named by its physical page and by where it lies in DRAM: poisoned, counted and reported; a weight frame's copy becomes ABSENT and the page is retired
(R261). -/
def State.dramBad (s : State) (pa : Nat) : State :=
  let a := pa / 64 * 64
  let at_ := s.real a
  let args := argBits [(0, a / Config.pageBytes * Config.pageBytes), (64, a / 64 % 64),
    (72, s.dramDevice at_ + s.dramSub at_ <<< 8 + s.dramBank at_ <<< 16), (96, s.dramRow at_), (128, s.dramColumn at_)]
  let s1 := ((s.setMark a .unreadable).count .dramUncorrected).event 1 0x0101 unitNone 0 args
  match s1.weightAt a with
  | none => s1
  | some w =>
    let s2 := s1.updTiers fun t => { t with
      weights := t.weights.filter (fun x => x.fid != w.fid)
      frames := t.frames.filter fun f => w.frame != some f.frame || f.cls != .weight }
    let page := a / Config.pageBytes
    if (assoc s2.dram.retired page).isSome then s2
    else match s2.retirePage page with
      | some s3 => s3.updLogs fun l => { l with life := { l.life with retirements := l.life.retirements ++ [(memOf a, s.dramLoc a)] } }
      | none => s2

/-- What a read of a line's DRAM found; a line corrected to another codeword holds open data from then on (R282; log 42). -/
def State.dramCheck (s : State) (pa : Nat) : Ecc → State
  | .clean => s
  | .corrected => s.dramFixed pa
  | .miscorrected =>
    ((s.putBytes (pa / 64 * 64) ((List.range 64).map fun i => Config.freeByte s.free (pa / 64 * 64 + i))).draw).dramFixed pa
  | .uncorrectable => s.dramBad pa

end Sys2Proof.Machine
end

