-- ==== Sys2Proof/Machine/Num.lean ====
section
/-!
DEFINITION. Exact values, the number formats of chapter 3, conversion and rounding, and binary32 arithmetic
(R65-R82, R90, R99, R122-R125).
-/

namespace Sys2Proof.Machine

/-- A value before encoding: NaN, an infinity, or (-1)^neg x m x 2^e exactly; a zero keeps its sign (R71). -/
inductive Val where
  | nan
  | inf (neg : Bool)
  | fin (neg : Bool) (m : Nat) (e : Int)
  deriving DecidableEq, Repr

/-- The signed integer a finite value holds at a scale of 2^e no finer than its own. -/
def Val.signed (neg : Bool) (m : Nat) : Int := if neg then -(m : Int) else (m : Int)

/-- 2^n for a natural exponent given as an integer, 1 when it is negative. -/
def pow2 (n : Int) : Nat := 2 ^ n.toNat

/-- Layout and largest finite value n x 2^q of a floating element format (Table 3.2, Table 3.3). -/
structure FFmt where
  e : Nat
  m : Nat
  bias : Nat
  maxN : Nat
  maxQ : Int
  emax : Int

def Fmt.layout : Fmt → Option FFmt
  | .nb4 => some ⟨2, 1, 1, 3, 1, 2⟩
  | .nb6e3m2 => some ⟨3, 2, 3, 7, 2, 4⟩
  | .nb6e2m3 => some ⟨2, 3, 1, 15, -1, 2⟩
  | .nb8e4m3 => some ⟨4, 3, 7, 14, 5, 8⟩
  | .nb8e5m2 => some ⟨5, 2, 15, 7, 13, 15⟩
  | .bf16 => some ⟨8, 7, 127, 255, 120, 127⟩
  | .fp16 => some ⟨5, 10, 15, 2047, 5, 15⟩
  | .fp32 => some ⟨8, 23, 127, 16777215, 104, 127⟩
  | .int8 | .int4 | .int2 => none

/-- Bits of one element (Table 3.2). -/
def Fmt.width : Fmt → Nat
  | .nb4 => 4 | .nb6e3m2 => 6 | .nb6e2m3 => 6 | .nb8e4m3 => 8 | .nb8e5m2 => 8
  | .int8 => 8 | .bf16 => 16 | .fp16 => 16 | .fp32 => 32 | .int4 => 4 | .int2 => 2

/-- The block-scaled formats (section 3.1). -/
def Fmt.isNb : Fmt → Bool
  | .nb4 | .nb6e3m2 | .nb6e2m3 | .nb8e4m3 | .nb8e5m2 => true
  | _ => false

/-- c_F of Table 4.1. -/
def Fmt.cF : Fmt → Int
  | .nb4 => 3 | .nb6e3m2 => 5 | .nb6e2m3 => 3 | .nb8e4m3 => 9 | .nb8e5m2 => 16
  | .bf16 => 1 | .fp16 => 1 | .int8 => 7 | _ => 1

/-- Codes of a format that are NaN (Table 3.3): the canonical one. -/
def Fmt.canonNan : Fmt → Nat
  | .bf16 => 0x7FC0 | .fp16 => 0x7E00 | .fp32 => 0x7FC00000 | _ => 0

/-- The value of an element code before any block scale (R69, R70, R72). -/
def Fmt.elem (f : Fmt) (x : Nat) : Val :=
  match f.layout with
  | none =>
    let w := f.width
    if f = .int8 then (if bitAt x 7 then .fin true (256 - bitsAt x 0 8) 0 else .fin false (bitsAt x 0 8) 0)
    else .fin false (bitsAt x 0 w) 0
  | some l =>
    let s := bitAt x (l.e + l.m)
    let e := bitsAt x l.m l.e
    let m := bitsAt x 0 l.m
    let top := 2 ^ l.e - 1
    if f = .nb8e4m3 ∧ e = top ∧ m = 7 then .nan
    else if (f = .nb8e5m2 ∨ f = .bf16 ∨ f = .fp16 ∨ f = .fp32) ∧ e = top then
      (if m = 0 then .inf s else .nan)
    else if e = 0 then .fin s m (1 - (l.bias : Int) - l.m)
    else .fin s (2 ^ l.m + m) ((e : Int) - l.bias - l.m)

/-- The value of an element in a block whose exponent byte is c (R66, R67). -/
def blockElem (f : Fmt) (c x : Nat) : Val :=
  if c = 0 then .fin false 0 0
  else if c = 0xFF then .nan
  else match f.elem x with
    | .fin s m e => .fin s m (e + ((c : Int) - 127))
    | v => v

/-- How a conversion rounds: to nearest even, or stochastically with the 16-bit draw r (R80, R81). -/
inductive Rounding where
  | rne
  | sr (r : Nat)
  deriving DecidableEq, Repr

/-- A magnitude m x 2^e rounded to a multiple of 2^q: the multiple. -/
def roundTo (rnd : Rounding) (m : Nat) (e q : Int) : Nat :=
  if q ≤ e then m * pow2 (e - q)
  else
    let s := (q - e).toNat
    let n := m >>> s
    let rem := m % 2 ^ s
    match rnd with
    | .rne =>
      if 2 * rem > 2 ^ s ∨ (2 * rem = 2 ^ s ∧ n % 2 = 1) then n + 1 else n
    | .sr r => if rem ≠ 0 ∧ (rem * 65536) >>> s + r ≥ 65536 then n + 1 else n

/-- floor(log2 (m x 2^e)) of a positive magnitude. -/
def floorLog2 (m : Nat) (e : Int) : Int := (m.log2 : Int) + e

/-- The exponent of the grid of a format at a magnitude: its unit in the last place. -/
def FFmt.gridAt (l : FFmt) (m : Nat) (e : Int) : Int :=
  max (floorLog2 m e - l.m) (1 - (l.bias : Int) - l.m)

/-- Is a x 2^p greater than b x 2^q. -/
def magGt (a : Nat) (p : Int) (b : Nat) (q : Int) : Bool :=
  decide (a * pow2 (p - min p q) > b * pow2 (q - min p q))

/-- The code of a magnitude n x 2^q that lies on a format's grid (q its grid exponent there). -/
def FFmt.code (l : FFmt) (neg : Bool) (n : Nat) (q : Int) : Nat :=
  let sgn := if neg then 2 ^ (l.e + l.m) else 0
  if n < 2 ^ l.m then sgn + n
  else
    let n' := if n = 2 ^ (l.m + 1) then 2 ^ l.m else n
    let q' := if n = 2 ^ (l.m + 1) then q + 1 else q
    sgn + (q' + l.m + l.bias).toNat * 2 ^ l.m + (n' - 2 ^ l.m)

/-- The largest finite code of a format. -/
def FFmt.maxCode (l : FFmt) (neg : Bool) : Nat := l.code neg l.maxN l.maxQ

/-- A plain floating encode (R78): BF16, FP16, FP32. -/
def encodePlain (f : Fmt) (sat : Bool) (rnd : Rounding) (v : Val) : Nat :=
  match f.layout with
  | none => 0
  | some l =>
    let infCode (neg : Bool) := (if neg then 2 ^ (l.e + l.m) else 0) + (2 ^ l.e - 1) * 2 ^ l.m
    match v with
    | .nan => f.canonNan
    | .inf neg => infCode neg
    | .fin neg m e =>
      if m = 0 then l.code neg 0 0
      else
        let q := l.gridAt m e
        let n := roundTo rnd m e q
        if magGt n q l.maxN l.maxQ then (if sat then l.maxCode neg else infCode neg)
        else l.code neg n q

/-- An INT8 encode (R79). -/
def encodeInt8 (rnd : Rounding) (v : Val) : Nat :=
  match v with
  | .nan => 0
  | .inf neg => if neg then 0x80 else 0x7F
  | .fin neg m e =>
    let n := roundTo rnd m e 0
    if neg then (256 - min n 128) % 256 else min n 127

/-- The magnitude of a value scaled by 2^-x as an element of format F: rounded, saturated, coded (R77). -/
def encodeElem (f : Fmt) (l : FFmt) (rnd : Rounding) (x : Int) (v : Val) : Nat :=
  match v with
  | .nan => 0
  | .inf neg => if f = .nb8e5m2 then (if neg then 0xFC else 0x7C) else l.maxCode neg
  | .fin neg m e =>
    if m = 0 then l.code neg 0 0
    else
      let q := l.gridAt m (e - x)
      let n := roundTo rnd m (e - x) q
      if magGt n q l.maxN l.maxQ then l.maxCode neg else l.code neg n q

/-- The largest floor(log2 |v|) over the non-zero finite values. -/
def maxLog : List Val → Option Int
  | [] => none
  | .fin _ m e :: l =>
    if m = 0 then maxLog l
    else match maxLog l with
      | none => some (floorLog2 m e)
      | some k => some (max (floorLog2 m e) k)
  | _ :: l => maxLog l

/-- A block encode (R77): the exponent byte and the element codes; one rounding per element. -/
def encodeBlock (f : Fmt) (vs : List Val) (rnds : List Rounding) : Nat × List Nat :=
  match f.layout with
  | none => (0, [])
  | some l =>
    if vs.any (· == .nan) then (0xFF, vs.map fun _ => 0)
    else match maxLog vs with
      | none =>
        if vs.any (fun v => match v with | .inf _ => true | _ => false) then
          (127, (vs.zip rnds).map fun p => encodeElem f l p.2 0 p.1)
        else (0, vs.map fun v => match v with | .fin true _ _ => 2 ^ (l.e + l.m) | _ => 0)
      | some k =>
        let x := max (-126) (min 127 (k - l.emax))
        ((x + 127).toNat, (vs.zip rnds).map fun p => encodeElem f l p.2 x p.1)

/-! ## Binary32 arithmetic -/

def f32Nan : W32 := 0x7FC00000
def f32Inf (neg : Bool) : W32 := if neg then 0xFF800000 else 0x7F800000

def valOf (x : W32) : Val := Fmt.fp32.elem x.toNat

/-- Encode to binary32, round to nearest even, overflow to infinity (R78 with SAT = 0). -/
def toF32 (v : Val) : W32 := BitVec.ofNat 32 (encodePlain .fp32 false .rne v)

/-- The exact value of a signed integer times 2^e; `zneg` is the sign of a zero. -/
def ofInt (zneg : Bool) (m : Int) (e : Int) : Val :=
  if m = 0 then .fin zneg 0 0 else .fin (decide (m < 0)) m.natAbs e

/-- Exact sum; a zero sum of opposite signs is +0 under round to nearest. -/
def Val.add (a b : Val) : Val :=
  match a, b with
  | .nan, _ => .nan
  | _, .nan => .nan
  | .inf s, .inf t => if s = t then .inf s else .nan
  | .inf s, _ => .inf s
  | _, .inf t => .inf t
  | .fin s m e, .fin t n g =>
    let k := min e g
    ofInt (s && t) (Val.signed s (m * pow2 (e - k)) + Val.signed t (n * pow2 (g - k))) k

/-- Exact product; zero times infinity is NaN. -/
def Val.mul (a b : Val) : Val :=
  match a, b with
  | .nan, _ => .nan
  | _, .nan => .nan
  | .inf s, .inf t => .inf (s != t)
  | .inf s, .fin t n _ => if n = 0 then .nan else .inf (s != t)
  | .fin s m _, .inf t => if m = 0 then .nan else .inf (s != t)
  | .fin s m e, .fin t n g => .fin (s != t) (m * n) (e + g)

def Val.neg : Val → Val
  | .nan => .nan
  | .inf s => .inf (!s)
  | .fin s m e => .fin (!s) m e

/-- Order of two values that are not NaN; a zero is a zero whatever its sign (R71). -/
def Val.lt (a b : Val) : Bool :=
  match a, b with
  | .nan, _ => false
  | _, .nan => false
  | .inf s, .inf t => s && !t
  | .inf s, .fin .. => s
  | .fin .., .inf t => !t
  | .fin s m e, .fin t n g =>
    let k := min e g
    decide (Val.signed s (m * pow2 (e - k)) < Val.signed t (n * pow2 (g - k)))

def Val.eqv (a b : Val) : Bool := a != .nan && b != .nan && !a.lt b && !b.lt a

def Val.isNeg : Val → Bool
  | .nan => false
  | .inf s => s
  | .fin s _ _ => s

def f32Add (a b : W32) : W32 := toF32 ((valOf a).add (valOf b))
def f32Mul (a b : W32) : W32 := toF32 ((valOf a).mul (valOf b))
/-- Fused multiply-add rounded once (R122). -/
def f32Fma (a b c : W32) : W32 := toF32 (((valOf a).mul (valOf b)).add (valOf c))
def f32Sub (a b : W32) : W32 := toF32 ((valOf a).add (valOf b).neg)

/-- IEEE 754-2019 maximum: a NaN operand gives the canonical NaN, -0 is less than +0 (R90). -/
def f32Max (a b : W32) : W32 :=
  match valOf a, valOf b with
  | .nan, _ => f32Nan
  | _, .nan => f32Nan
  | x, y => if x.lt y then b else if y.lt x then a else if x.isNeg then b else a

/-- IEEE 754-2019 minimum (R90). -/
def f32Min (a b : W32) : W32 :=
  match valOf a, valOf b with
  | .nan, _ => f32Nan
  | _, .nan => f32Nan
  | x, y => if x.lt y then a else if y.lt x then b else if x.isNeg then a else b

/-- The binary32 of the largest magnitude not above num/den, and whether it is exact. -/
def truncF32 (neg : Bool) (num den : Nat) : W32 × Bool :=
  if num = 0 ∨ den = 0 then (if neg then 0x80000000 else 0, true)
  else
    -- scale so that the quotient keeps at least 32 bits
    let k : Int := (num.log2 : Int) - den.log2
    let q := max (k - 24) (-149)
    let n := if 0 ≤ q then num / (den * pow2 q) else (num * pow2 (-q)) / den
    let r := if 0 ≤ q then num % (den * pow2 q) else (num * pow2 (-q)) % den
    match Fmt.fp32.layout with
    | none => (0, true)
    | some l =>
      if n = 0 then (if neg then 0x80000000 else 0, false)
      else
        let g := l.gridAt n q
        let s := (g - q).toNat
        let n' := n >>> s
        let exact := r == 0 && n % 2 ^ s == 0
        if magGt n' g l.maxN l.maxQ then (f32Inf neg, false)
        else (BitVec.ofNat 32 (l.code neg n' g), exact)

/-- A binary32 number moved by k units in the last place of its magnitude, held between 0 and infinity. -/
def stepUlps (x : W32) (k : Int) : W32 :=
  let mag := bitsAt x.toNat 0 31
  let m' := max 0 (min (0x7F800000 : Int) ((mag : Int) + k))
  BitVec.ofNat 32 ((if bitAt x.toNat 31 then 2 ^ 31 else 0) + m'.toNat)

/-- Quotient rounded to nearest even (log 14). -/
def f32Div (a b : W32) : W32 :=
  match valOf a, valOf b with
  | .nan, _ => f32Nan
  | _, .nan => f32Nan
  | .inf _, .inf _ => f32Nan
  | .inf s, .fin t _ _ => f32Inf (s != t)
  | .fin s _ _, .inf t => if s != t then 0x80000000 else 0
  | .fin s m e, .fin t n g =>
    if n = 0 then (if m = 0 then f32Nan else f32Inf (s != t))
    else if m = 0 then (if s != t then 0x80000000 else 0)
    else
      let d := e - g
      let num := m * pow2 d * 2 ^ 220
      let den := n * pow2 (-d)
      let quo := num / den
      let sticky := if num % den = 0 then 0 else 1
      toF32 (.fin (s != t) (2 * quo + sticky) (-221))

/-! ## Transcendental references (R125) -/

/-- Integer square root, one bit of the root per unit of fuel. -/
def isqrtGo (n : Nat) : Nat → Nat → Nat
  | 0, r => r
  | k + 1, r => let c := r + 2 ^ k; if c * c ≤ n then isqrtGo n k c else isqrtGo n k r

def isqrt (n : Nat) : Nat := isqrtGo n (n.log2 / 2 + 1) 0

/-- 2^(f / 2^96) scaled by 2^96, for f below 2^96: the product of the roots of two that the bits of f name. -/
def exp2Fix (f : Nat) : Nat → Nat → Nat → Nat
  | 0, _, acc => acc
  | k + 1, root, acc =>
    let root' := isqrt (root * 2 ^ 96)
    exp2Fix f k root' (if bitAt f k then (acc * root') >>> 96 else acc)

/-- 2^y for y = n / 2^96: mantissa scaled by 2^96 in [1, 2) and integer exponent. -/
def exp2Parts (n : Int) : Nat × Int :=
  let k := n / (2 ^ 96 : Int)
  let f := (n - k * 2 ^ 96).toNat
  (exp2Fix f 96 (2 * 2 ^ 96) (2 ^ 96), k)

/-- Bits of log2(m / 2^160) for m / 2^160 in [1, 2), n of them. -/
def log2Bits : Nat → Nat → Nat → Nat
  | 0, _, acc => acc
  | k + 1, m, acc =>
    let sq := (m * m) >>> 160
    if sq ≥ 2 * 2 ^ 160 then log2Bits k (sq / 2) (2 * acc + 1) else log2Bits k sq (2 * acc)

/-- log2(e) scaled by 2^160. -/
def log2E : Nat := 2108501164428393954197770173035669514763056903505

/-- x scaled by 2^96 for a finite value, truncated toward minus infinity. -/
def fix96 (neg : Bool) (m : Nat) (e : Int) : Int :=
  let s := e + 96
  if 0 ≤ s then Val.signed neg (m * pow2 s) else Val.signed neg m / (pow2 (-s) : Int)

/-- A reference result: the largest binary32 magnitude not above the exact one, and whether it is exact. -/
def refOfParts (neg : Bool) (mant : Nat) (k : Int) : W32 × Bool :=
  truncF32 neg (mant * pow2 (k - 96)) (pow2 (96 - k))

/-- The reference moved by the free offset of an operation, within n ulps of the exact value, an ulp at a binade boundary being the step
to the next representable number (R125; DESIGN CHOICE, log 14). -/
def withinUlps (op n : Nat) (x : W32) (r : W32 × Bool) : W32 :=
  let v := Config.ulpOffset op x
  if r.2 then stepUlps r.1 ((v % (2 * n + 1) : Nat) - (n : Int))
  else stepUlps r.1 ((v % (2 * n) : Nat) - ((n : Int) - 1))

def f32Exp2 (x : W32) : W32 :=
  match valOf x with
  | .nan => f32Nan
  | .inf neg => if neg then 0 else f32Inf false
  | .fin neg m e =>
    if m = 0 then withinUlps 0 2 x (0x3F800000, true)
    else
      let big := floorLog2 m e ≥ 9
      if big then (if neg then withinUlps 0 2 x (0, false) else f32Inf false)
      else
        let p := exp2Parts (fix96 neg m e)
        if p.2 ≥ 128 then f32Inf false
        else
          let r := refOfParts false p.1 p.2
          withinUlps 0 2 x (r.1, r.2 && (fix96 neg m e) % (2 ^ 96 : Int) == 0)

def f32Log2 (x : W32) : W32 :=
  match valOf x with
  | .nan => f32Nan
  | .inf neg => if neg then f32Nan else f32Inf false
  | .fin neg m e =>
    if m = 0 then f32Inf true
    else if neg then f32Nan
    else
      let k := floorLog2 m e
      let man := m * 2 ^ (160 - m.log2)
      let y : Int := k * 2 ^ 100 + (log2Bits 100 man 0 : Nat)
      let r := truncF32 (decide (y < 0)) y.natAbs (2 ^ 100)
      withinUlps 1 2 x (r.1, r.2 && man == 2 ^ 160)

def f32Rcp (x : W32) : W32 :=
  match valOf x with
  | .nan => f32Nan
  | .inf neg => if neg then 0x80000000 else 0
  | .fin neg m e =>
    if m = 0 then f32Inf neg else withinUlps 2 1 x (truncF32 neg (pow2 (-e)) (m * pow2 e))

/-- sqrt of m x 2^e truncated to binary32, by the root of a scaled even power. -/
def sqrtParts (m : Nat) (e : Int) : W32 × Bool :=
  let odd := e % 2 != 0
  let m' := if odd then 2 * m else m
  let e' := if odd then e - 1 else e
  let n := m' * 2 ^ 128
  let r := isqrt n
  let t := truncF32 false (r * pow2 (e' / 2 - 64)) (pow2 (64 - e' / 2))
  (t.1, t.2 && r * r == n)

def f32Sqrt (x : W32) : W32 :=
  match valOf x with
  | .nan => f32Nan
  | .inf neg => if neg then f32Nan else f32Inf false
  | .fin neg m e =>
    if m = 0 then x else if neg then f32Nan else withinUlps 4 1 x (sqrtParts m e)

def f32Rsqrt (x : W32) : W32 :=
  match valOf x with
  | .nan => f32Nan
  | .inf neg => if neg then f32Nan else 0
  | .fin neg m e =>
    if m = 0 then f32Inf neg
    else if neg then f32Nan
    else
      let odd := e % 2 != 0
      let m' := if odd then 2 * m else m
      let e' := if odd then e - 1 else e
      let n := m' * 2 ^ 128
      let r := isqrt n
      let t := truncF32 false (pow2 (64 - e' / 2)) (r * pow2 (e' / 2 - 64))
      withinUlps 3 1 x (t.1, t.2 && r * r == n)

/-- e^y as mantissa scaled by 2^96 and exponent, for |x| below 2^9. -/
def expParts (neg : Bool) (m : Nat) (e : Int) : Nat × Int :=
  let s := e + 96 - 160
  let mag := if 0 ≤ s then m * log2E * pow2 s else (m * log2E) / pow2 (-s)
  exp2Parts (Val.signed neg mag)

def f32Tanh (x : W32) : W32 :=
  match valOf x with
  | .nan => f32Nan
  | .inf neg => if neg then 0xBF800000 else 0x3F800000
  | .fin neg m e =>
    if m = 0 then x
    else
      let k := floorLog2 m e
      if k < -12 then
        -- x - x^3/3, whose next term lies below 2^-48 of the result
        let num := 3 * m * pow2 (-2 * e) - m * m * m
        withinUlps 5 3 x (truncF32 neg num (3 * pow2 (-3 * e)))
      else if k ≥ 6 then withinUlps 5 3 x (if neg then 0xBF7FFFFF else 0x3F7FFFFF, false)
      else
        let p := expParts false m (e + 1)
        let one := 2 ^ 96 * pow2 (-p.2)
        let ex := p.1 * pow2 p.2
        withinUlps 5 3 x (truncF32 neg (ex - one) (ex + one))

def f32Sigmoid (x : W32) : W32 :=
  match valOf x with
  | .nan => f32Nan
  | .inf neg => if neg then 0 else 0x3F800000
  | .fin neg m e =>
    if m = 0 then withinUlps 6 3 x (0x3F000000, true)
    else
      let k := floorLog2 m e
      if k ≥ 9 then (if neg then withinUlps 6 3 x (0, false) else withinUlps 6 3 x (0x3F7FFFFF, false))
      else
        let p := expParts neg m e
        let one := 2 ^ 96 * pow2 (-p.2)
        let ex := p.1 * pow2 p.2
        withinUlps 6 3 x (truncF32 false ex (ex + one))

/-! ## Stochastic-rounding streams (R82) -/

def mask64 (x : Nat) : Nat := x % 2 ^ 64

/-- Seed of stream s of global Squall g under a step's SR_SEED. -/
def streamSeed (srSeed : W64) (g s : Nat) : W64 :=
  srSeed ^^^ BitVec.ofNat 64 ((256 * g + s) * 0xD1B54A32D192ED03)

/-- A stream's state before its first draw. -/
def streamStart (seed : W64) : W64 :=
  let st := seed ^^^ 0x9E3779B97F4A7C15
  if st = 0 then 0x9E3779B97F4A7C15 else st

/-- One draw: the next state and the 16-bit value. -/
def streamDraw (st : W64) : W64 × Nat :=
  let a := st ^^^ (st >>> 12)
  let b := a ^^^ (a <<< 25)
  let c := b ^^^ (b >>> 27)
  (c, ((c * 0x2545F4914F6CDD1D) >>> 48).toNat)

/-- n draws in order. -/
def streamDraws : Nat → W64 → W64 × List Nat
  | 0, st => (st, [])
  | n + 1, st =>
    let d := streamDraw st
    let r := streamDraws n d.1
    (r.1, d.2 :: r.2)

end Sys2Proof.Machine
end

