-- ==== Sys2Proof/Machine/Image.lean ====
section
/-!
DEFINITION. The schedule image and the model manifest as byte strings: their layouts read into records (sections 6.1 to
6.6, 7.2, 8.2, Table 14.6), and how a list of records is walked (R151, R156).
-/

namespace Sys2Proof.Machine

/-! ## Reading -/

/-- n bytes of an image at an offset, little-endian. -/
def imgNat (raw : List Byte) (off n : Nat) : Nat := leNat ((raw.drop off).take n)

/-- k records of n bytes from an offset. -/
def imgRecs (raw : List Byte) (off n k : Nat) : List Nat := (List.range k).map fun i => imgNat raw (off + n * i) n

/-- The format a code names (Table 6.13); reserved codes none. -/
def Fmt.ofCode : Nat → Option Fmt
  | 0 => some .nb4 | 1 => some .nb6e3m2 | 2 => some .nb6e2m3 | 3 => some .nb8e4m3 | 4 => some .nb8e5m2
  | 5 => some .int8 | 6 => some .bf16 | 7 => some .fp16 | 8 => some .fp32 | 9 => some .int4 | 10 => some .int2
  | _ => none

/-- A format code read where its validity is checked apart. -/
def fmtAt (x lo : Nat) : Fmt := (Fmt.ofCode (bitsAt x lo 4)).getD .fp32

def PassOp.ofCode : Nat → Option PassOp
  | 0 => some .mac | 1 => some .l1 | 2 => some .l2 | 3 => some .maxplus | 4 => some .minplus | 5 => some .cmpcount
  | 6 => some .ewise | _ => none

/-- Table 6.12. -/
def passOf (x : Nat) : PassRec :=
  { engine := ⟨bitsAt x 4 2, by simp only [bitsAt]; omega⟩, op := (PassOp.ofCode (bitsAt x 6 3)).getD .mac,
    wfmt := fmtAt x 9, afmt := fmtAt x 13, wblk := bitAt x 17, ablk := bitAt x 18, sparse := bitAt x 19,
    trans := bitAt x 20, lane := bitsAt x 21 2, rows := bitsAt x 23 8 + 1, keep := bitAt x 31, held := bitAt x 32,
    ahold := bitAt x 33, next := bitAt x 34, final := bitAt x 35, ewop := bitsAt x 36 2, scale := bitsAt x 38 2,
    bias := bitAt x 40, biasBf16 := bitAt x 41, ew := bitsAt x 42 2, ewfmt := fmtAt x 44, ewblk := bitAt x 48,
    ofmt := fmtAt x 49, oblk := bitAt x 53, sat := bitAt x 54, sr := bitAt x 55, stream := bitsAt x 56 8,
    ocount := bitsAt x 64 4, ewpeek := bitAt x 68, tsrc := bitsAt x 72 24, aaddr := bitsAt x 96 24,
    saddr := bitsAt x 120 24, baddr := bitsAt x 144 24, eaddr := bitsAt x 168 24, daddr := bitsAt x 192 24,
    astride := bitsAt x 216 24, estride := bitsAt x 240 24, dstride := bitsAt x 264 24 }

/-- Table 6.16. -/
def vopOf (x : Nat) : VopRec :=
  { opc := bitsAt x 4 8, infmt := fmtAt x 12, outfmt := fmtAt x 16, inblk := bitAt x 20, outblk := bitAt x 21,
    sat := bitAt x 22, param := bitsAt x 23 8, len := bitsAt x 32 17 + 1, rows := bitsAt x 49 15 + 1,
    src0 := bitsAt x 64 24, src1 := bitsAt x 88 24, src2 := bitsAt x 112 24, dst := bitsAt x 136 24,
    sstride := bitsAt x 160 24, dstride := bitsAt x 184 24, peek := bitsAt x 208 3, ocount := bitsAt x 211 4,
    eps := BitVec.ofNat 32 (bitsAt x 216 32), scale := bitsAt x 256 2, bias := bitAt x 258, biasBf16 := bitAt x 259,
    ew := bitsAt x 260 2, ewfmt := fmtAt x 262, ewblk := bitAt x 266, rndSr := bitAt x 267, eaddr := bitsAt x 276 24 }

/-- R152. -/
def taskOf (x : Nat) : TaskRec :=
  { spec := bitAt x 4, tag := bitsAt x 5 13, phase := ⟨bitsAt x 18 3 % 4, by omega⟩,
    item := if bitsAt x 32 16 = 0xFFFF then none else some (bitsAt x 32 16), id := bitsAt x 48 16 }

/-- A record of a list (Table 6.11); none for a reserved type. -/
def recOf (x : Nat) : Option Rec :=
  match bitsAt x 0 4 with
  | 1 => some (.pass (passOf x))
  | 2 => some (.vop (vopOf x))
  | 3 => some (.dma ⟨bitsAt x 4 3, by simp only [bitsAt]; omega⟩ (bitsAt x 8 32))
  | 4 => some (.fence (match bitsAt x 4 2 with
      | 0 => .core
      | 1 => .chip
      | _ => .sys))
  | 5 => some (.task (taskOf x))
  | 6 => some .endTask
  | 7 => some (.loop (bitsAt x 8 24) (bitsAt x 32 24) (bitsAt x 56 16))
  | 8 => some .endLoop
  | _ => none

def DKind.ofCode : Nat → Option DKind
  | 0 => some .stop | 1 => some .load | 2 => some .store | 3 => some .xfer | 4 => some .gather | 5 => some .scatter
  | 6 => some .move | _ => none

/-- A two's-complement field. -/
def signedAt (x lo w : Nat) : Int :=
  let v := bitsAt x lo w
  if 2 ^ (w - 1) ≤ v then (v : Int) - 2 ^ w else v

/-- Table 6.18. -/
def descOf (x : Nat) : Desc :=
  { kind := (DKind.ofCode (bitsAt x 0 4)).getD .stop, untag := bitAt x 4, peek := bitAt x 5, count := bitsAt x 6 4,
    ra := bitAt x 10, snoop := bitAt x 11, prio := bitsAt x 12 2, gen := bitAt x 14, sfmt := fmtAt x 16, dfmt := fmtAt x 20,
    sblk := bitAt x 24, dblk := bitAt x 25, sat := bitAt x 26, sr := bitAt x 27, stream := bitsAt x 28 8,
    coff := bitsAt x 36 24, va := bitsAt x 64 48, xlunit := bitsAt x 112 16, va2 := bitsAt x 128 48,
    chunk := bitsAt x 176 16, n0 := bitsAt x 192 16 + 1, n1 := bitsAt x 208 16 + 1, n2 := bitsAt x 224 16 + 1,
    ms1 := bitsAt x 240 32, ms2 := bitsAt x 272 32, cs1 := bitsAt x 304 24, cs2 := bitsAt x 328 24, idx := bitsAt x 352 24,
    mstride := signedAt x 376 32, region := bitsAt x 408 8 }

def dimOf (x : Nat) : Dim :=
  { buckets := bitsAt x 0 8, source := (match bitsAt x 8 2 with
      | 0 => .gate
      | 1 => .prior
      | _ => .submit), kind := bitsAt x 10 3, quantum := bitsAt x 16 16 }

/-- Table 6.5. -/
def familyOf (x : Nat) : Family :=
  { dims := (List.range (bitsAt x 16 4)).map fun d => dimOf (bitsAt x (128 + 32 * d) 32), decode := bitAt x 20,
    chains := bitsAt x 32 16, firstVariant := bitsAt x 48 16, variantCount := bitsAt x 64 32, fillRows := bitsAt x 96 11,
    maxRows := bitsAt x 107 11 }

def splitOf (x : Nat) : Split :=
  { lunit := bitsAt x 0 16, kind := bitsAt x 16 8, members := bitsAt x 24 16, active := bitsAt x 40 16,
    fronts := BitVec.ofNat 8 (bitsAt x 56 8) }

def mapOf (x : Nat) : MapEntry :=
  { vpn := bitsAt x 0 36, pages := bitsAt x 40 32, rd := bitAt x 72, wr := bitAt x 73, sw := bitAt x 74, host := bitAt x 75,
    peer := bitAt x 76, region := bitsAt x 80 8 }

def residentOf (x : Nat) : Resident :=
  { lunit := bitsAt x 0 16, chipMem := bitsAt x 16 8 == 2, offset := bitsAt x 24 28, bytes := bitsAt x 64 32, src := bitsAt x 96 48 }

def regionSlotOf (x : Nat) : RegionSlot :=
  { slot := bitsAt x 0 8, host := bitAt x 8, write := bitAt x 9, minBytes := bitsAt x 16 48 }

/-- Table 7.3. -/
def attnOf (x : Nat) : AttnPlan :=
  { kvfmt := bitsAt x 0 4, attn := bitAt x 4, sparse := bitAt x 5, groups := bitsAt x 8 8, layers := bitsAt x 16 16,
    hpg := bitsAt x 32 8, ksel := bitsAt x 40 7, sink := bitsAt x 48 4, local_ := bitsAt x 52 4, maskSlot := bitsAt x 56 8,
    arenaVa := bitsAt x 64 48, areaVa := bitsAt x 128 48, ropeVa := bitsAt x 192 48, ropeRows := bitsAt x 256 32,
    maxSeq := bitsAt x 288 32, seqAreaVa := bitsAt x 320 48, seqs := bitsAt x 384 16 }

/-- Table 8.2 with the geometry entries of Table 8.3. -/
def expertOf (x : Nat) (geom : List Nat) : ExpertPlan :=
  { moeLayers := bitsAt x 0 16, experts := bitsAt x 16 16, localCount := bitsAt x 32 16, topk := bitsAt x 48 7,
    fandim := bitsAt x 56 3, pred := bitsAt x 60 2, cap := bitsAt x 64 8, sources := bitsAt x 72 8, modLunit := bitsAt x 80 16,
    predBudget := bitsAt x 96 16, weightVa := bitsAt x 128 48, objFrames := bitsAt x 192 11, statusVa := bitsAt x 256 48,
    histVa := bitsAt x 320 48, geom := geom.map fun g => (bitsAt g 0 16, bitsAt g 16 16) }

/-! ## Sections (R138, R139) -/

/-- A section table entry: kind, entries, offset, bytes. -/
structure Section where
  kind : Nat
  entries : Nat
  offset : Nat
  bytes : Nat
  raw : Nat
  deriving DecidableEq, Repr

def sectionOf (x : Nat) : Section :=
  { kind := bitsAt x 0 8, entries := bitsAt x 32 32, offset := bitsAt x 64 64, bytes := bitsAt x 128 64, raw := x }

def sectionsOf (raw : List Byte) : List Section := (imgRecs raw 256 32 (imgNat raw 6 2)).map sectionOf

def findSection (l : List Section) (k : Nat) : Section := (l.find? (·.kind == k)).getD { kind := k, entries := 0, offset := 0, bytes := 0, raw := 0 }

/-- Fixed entry size of a section kind; 0 for kinds of variable layout. -/
def entrySize : Nat → Nat
  | 1 => 64 | 2 => 64 | 4 => 64 | 5 => 8 | 6 => 16 | 7 => 256 | 9 => 32 | 10 => 8 | _ => 0

/-- The list directory entries of a variant record and their records as 512-bit numbers. -/
def variantOf (raw : List Byte) (secs : List Section) (x : Nat) : Variant :=
  let tl := (findSection secs 3).offset
  let dirs := imgRecs raw (tl + bitsAt x 32 32) 16 (bitsAt x 16 16)
  let list (d : Nat) : ListDir :=
    { lunit := bitsAt d 0 16, at_ := tl + bitsAt d 64 64, wave := ⟨bitsAt d 16 3, by simp only [bitsAt]; omega⟩,
      recs := (imgRecs raw (tl + bitsAt d 64 64) 64 (bitsAt d 32 32)).filterMap recOf }
  { family := bitsAt x 0 16, lists := dirs.map list,
    map := (imgRecs raw ((findSection secs 6).offset + bitsAt x 64 32) 16 (bitsAt x 96 13)).map mapOf,
    energy := bitsAt x 112 8, specTasks := bitsAt x 128 14, shadowNeed := bitsAt x 144 32,
    splits := (imgRecs raw ((findSection secs 5).offset + bitsAt x 176 32) 8 (bitsAt x 208 13)).map splitOf,
    mapAt := (findSection secs 6).offset + bitsAt x 64 32, splitAt := (findSection secs 5).offset + bitsAt x 176 32 }

/-- The image read whole; what it may hold is checked apart (ImageCheck). -/
def imageOf (raw : List Byte) : Image :=
  let secs := sectionsOf raw
  let at_ (k : Nat) : Section := findSection secs k
  let chains := imgNat raw 23 1
  let plans := at_ 8
  let moe := imgNat raw (plans.offset + 64 * chains) 64
  let has := secs.any (·.kind == 8)
  { families := (imgRecs raw (at_ 1).offset 64 (imgNat raw 16 2)).map familyOf
    variants := (imgRecs raw (at_ 2).offset 64 (imgNat raw 18 2)).map (variantOf raw secs)
    descs := (imgRecs raw (at_ 4).offset 64 (at_ 4).entries).map descOf
    lunits := imgNat raw 20 2
    regionSlots := (imgRecs raw (at_ 10).offset 8 (at_ 10).entries).map regionSlotOf
    chains := chains, shadowSlots := imgNat raw 24 4, gustUs := imgNat raw 28 4, selVa := imgNat raw 32 6
    attn := if has then (imgRecs raw plans.offset 64 chains).map attnOf else List.replicate chains {}
    expert := if has then expertOf moe (imgRecs raw (plans.offset + 64 * chains + 64) 8
      (if bitsAt moe 0 16 = 0 then 0 else bitsAt moe 112 8)) else {}
    energy := (List.range (at_ 7).entries).map fun i => (imgRecs raw ((at_ 7).offset + 256 * i) 4 64).map fun w => BitVec.ofNat 32 w
    resident := (imgRecs raw (at_ 9).offset 32 (at_ 9).entries).map residentOf
    descAt := (at_ 4).offset }

/-! ## Walking a list (R151, R156) -/

/-- The loop offsets in force: Σ i × CINC and Σ i × PINC over the open loops. -/
def loopC (l : List LoopCtx) : Nat := l.foldl (fun n x => n + x.iter * x.cinc) 0
def loopP (l : List LoopCtx) : Nat := l.foldl (fun n x => n + x.iter * x.pinc) 0

/-- A core memory offset in an iteration: modulo 2^24. -/
def addOff (o c : Nat) : Nat := (o + c) % 2 ^ 24
/-- Offsets of SRC1 and SRC2: the value that means none stays (R156). -/
def addSrc (o c : Nat) : Nat := if o = 0xFFFFFF then o else addOff o c

/-- A record as issued in an iteration. -/
def Rec.shifted (loops : List LoopCtx) : Rec → Rec
  | .pass r =>
    let c := loopC loops
    .pass { r with tsrc := addOff r.tsrc c, aaddr := addOff r.aaddr c, saddr := addOff r.saddr c, baddr := addOff r.baddr c, eaddr := addOff r.eaddr c, daddr := addOff r.daddr c }
  | .vop r =>
    let c := loopC loops
    .vop { r with src0 := addOff r.src0 c, src1 := addSrc r.src1 c, src2 := addSrc r.src2 c, dst := addOff r.dst c, eaddr := addOff r.eaddr c }
  | .dma ch p => .dma ch (p + loopP loops)
  | r => r

/-- The next record of a list, as issued. -/
def ListCtx.head (l : ListCtx) : Option Rec := (l.recs[l.pos]?).map (Rec.shifted l.loops)

/-- The list behind its next record: a LOOP opens a context, an ENDLOOP goes back while iterations are left. -/
def ListCtx.advance (l : ListCtx) : ListCtx :=
  match l.recs[l.pos]? with
  | some (.loop n c p) => { l with pos := l.pos + 1, loops := { start := l.pos + 1, left := n, cinc := c, pinc := p } :: l.loops }
  | some .endLoop =>
    match l.loops with
    | [] => { l with pos := l.pos + 1 }
    | x :: rest =>
      if x.left ≤ 1 then { l with pos := l.pos + 1, loops := rest }
      else { l with pos := x.start, loops := { x with left := x.left - 1, iter := x.iter + 1 } :: rest }
  | _ => { l with pos := l.pos + 1 }

/-- The records a list issues, in order, as issued. -/
def ListCtx.issues (l : ListCtx) : Nat → List Rec
  | 0 => []
  | n + 1 =>
    match l.head with
    | none => []
    | some r => r :: ListCtx.issues l.advance n

/-- A bound on the records a list issues. -/
def issueBound (recs : List Rec) : Nat :=
  recs.foldl (fun n r => match r with
    | .loop c _ _ => n * (c + 1)
    | _ => n) (recs.length + 1)

/-- All records of a list of an image, loops unrolled. -/
def ListDir.unrolled (d : ListDir) : List Rec :=
  ListCtx.issues { model := 0, chain := 0, lunit := d.lunit, member := 0, wave := d.wave, recs := d.recs } (issueBound d.recs)

/-- The descriptors of a program, its END left out; none where it does not end within DESCPROGS (R157). -/
def progOf (descs : List Desc) (i : Nat) : Option (List Desc) :=
  let rec go (k : Nat) : Nat → Option (List Desc)
    | 0 => none
    | n + 1 =>
      match descs[k]? with
      | none => none
      | some d => if d.kind = .stop then some [] else (go (k + 1) n).map (d :: ·)
  go i (descs.length + 1)

/-! ## The manifest (R372, Table 14.6) -/

def wobjectOf (x : Nat) : WObject :=
  { frame := bitsAt x 0 32, frames := bitsAt x 32 11, sources := (List.range 4).map (fun j => bitsAt x (64 + 8 * j) 8),
    digest := leBytes (bitsAt x 128 512) 64 }

/-- A manifest with its signed part and its signature. -/
structure ManifestRaw where
  m : Manifest
  signed : List Byte
  sig : List Byte
  imageDigest : List Byte
  ok : Bool
  deriving DecidableEq, Repr

/-- Bytes of a manifest with n objects. -/
def manifestBytes (n : Nat) : Nat := 128 + 128 * n + 64

/-- A manifest read from its bytes; `ok` says that no field is reserved or out of range. -/
def manifestOf (raw : List Byte) : ManifestRaw :=
  let h := imgNat raw 0 128
  let n := bitsAt h 96 32
  let es := imgRecs raw 128 128 n
  let objs := es.map wobjectOf
  let entryOk (x : Nat) : Bool := decide (1 ≤ bitsAt x 32 11) && decide (bitsAt x 32 11 ≤ 2047) && bitsAt x 43 21 == 0
    && bitsAt x 96 32 == 0 && bitsAt x 640 384 == 0
  { m := { modelId := BitVec.ofNat 32 (bitsAt h 64 32), arenaVa := bitsAt h 128 48, objects := objs, digest := raw.take (128 + 128 * n) }
    signed := raw.take (128 + 128 * n), sig := (raw.drop (128 + 128 * n)).take 64, imageDigest := (raw.drop 32).take 64
    ok := bitsAt h 0 32 == 0x464E414D && bitsAt h 32 8 == 1 && bitsAt h 40 24 == 0 && bitsAt h 64 32 != 0 && decide (1 ≤ n)
      && bitsAt h 128 48 % Config.frameBytes == 0 && bitsAt h 176 80 == 0 && bitsAt h 768 256 == 0 && es.all entryOk }

end Sys2Proof.Machine
end

