-- ==== Sys2Proof/Machine/Layout.lean ====
section
/-!
DEFINITION. How elements lie in rows and blocks (R65, R68, R85), and the conversion of whole rows (R77 to R85).
-/

namespace Sys2Proof.Machine

/-- The block size a block bit names. -/
def blkOf (b : Bool) : Nat := if b then 32 else 16

/-- Bytes of a chunk of c elements: the codes, then one exponent per block (R68). -/
def chunkBytes (f : Fmt) (b : Bool) (c : Nat) : Nat :=
  cdiv (c * f.width) 8 + if f.isNb then c / blkOf b else 0

/-- The chunk length in force: 0 stands for a whole row; formats without blocks have one chunk. -/
def chunkLen (f : Fmt) (n c : Nat) : Nat := if !f.isNb || c = 0 then n else c

/-- Bytes of a row of n elements (R68). -/
def rowBytes (f : Fmt) (b : Bool) (n c : Nat) : Nat :=
  let k := chunkLen f n c
  if k = 0 then 0 else n / k * chunkBytes f b k + (if n % k = 0 then 0 else chunkBytes f b (n % k))

/-- The code and the exponent byte of element i of a row of n, read from the row as one little-endian number. -/
def rowCode (f : Fmt) (b : Bool) (n c : Nat) (row : Nat) (i : Nat) : Nat × Nat :=
  let k := chunkLen f n c
  if k = 0 then (0, 0)
  else
    let base := i / k * chunkBytes f b k
    let here := min k (n - i / k * k)
    let code := bitsAt row (8 * base + f.width * (i % k)) f.width
    let ex := if f.isNb then bitsAt row (8 * (base + cdiv (here * f.width) 8 + i % k / blkOf b)) 8 else 0
    (code, ex)

/-- The exact values of a row (R66, R67). -/
def rowVals (f : Fmt) (b : Bool) (n c : Nat) (bytes : List Byte) : List Val :=
  let row := leNat bytes
  (List.range n).map fun i =>
    let x := rowCode f b n c row i
    if f.isNb then blockElem f x.2 x.1 else f.elem x.1

/-- The block exponents of a row, block by block; none for formats without blocks. -/
def rowExps (f : Fmt) (b : Bool) (n c : Nat) (bytes : List Byte) : List Nat :=
  if f.isNb then (List.range (n / blkOf b)).map fun j => (rowCode f b n c (leNat bytes) (j * blkOf b)).2 else []

/-- Codes packed from the low bits up (R68). -/
def packCodes (w : Nat) : List Nat → Nat
  | [] => 0
  | x :: l => x % 2 ^ w + packCodes w l <<< w

/-- A list cut into pieces of n, k of them at most. -/
def pieces {α : Type} (n : Nat) : Nat → List α → List (List α)
  | 0, _ => []
  | k + 1, l => if l.isEmpty then [] else l.take n :: pieces n k (l.drop n)

/-- One element in a format without blocks (R78, R79). -/
def encodeOne (f : Fmt) (sat : Bool) (rnd : Rounding) (v : Val) : Nat :=
  if f = .int8 then encodeInt8 rnd v else encodePlain f sat rnd v

/-- The bytes of one chunk of a row. -/
def encodeChunk (f : Fmt) (b sat : Bool) (vs : List (Val × Rounding)) : List Byte :=
  let w := f.width
  if f.isNb then
    let blocks := (pieces (blkOf b) (vs.length + 1) vs).map fun l => encodeBlock f (l.map (·.1)) (l.map (·.2))
    leBytes (packCodes w (blocks.flatMap (·.2))) (cdiv (vs.length * w) 8) ++ blocks.map fun x => BitVec.ofNat 8 x.1
  else leBytes (packCodes w (vs.map fun v => encodeOne f sat v.2 v.1)) (cdiv (vs.length * w) 8)

/-- A row encoded: the bytes of its chunks (R68, R77 to R79). -/
def encodeRow (f : Fmt) (b sat : Bool) (c : Nat) (vs : List Val) (rnds : List Rounding) : List Byte :=
  let n := vs.length
  (pieces (chunkLen f n c) (n + 1) (vs.zip rnds)).flatMap (encodeChunk f b sat)

/-- RNE for every element of a row. -/
def rneAll (n : Nat) : List Rounding := List.replicate n .rne

/-- The byte range of the first k elements' codes ends here: where a converted row may stop (R162 is by pages). -/
def Fmt.elemBytes (f : Fmt) (n : Nat) : Nat := cdiv (n * f.width) 8

/-! ## Which conversions exist (Table 3.6) -/

/-- May DL or DS convert between two formats with their block sizes; a copy always may (R84). -/
def dmaConverts (s : Fmt) (sb : Bool) (d : Fmt) (db : Bool) : Bool :=
  if s = d ∧ (sb = db ∨ s.isNb = false) then true
  else match s, d with
    | .fp32, .bf16 | .fp32, .fp16 | .fp32, .int8 => true
    | .bf16, .fp32 | .bf16, .fp16 => true
    | .fp16, .fp32 | .fp16, .bf16 => true
    | .int8, .fp32 | .int8, .bf16 => true
    | .int4, _ | .int2, _ | _, .int4 | _, .int2 => false
    | .fp32, y | .bf16, y | .fp16, y => y.isNb
    | .nb8e4m3, y | .nb8e5m2, y => y.isNb || y == .fp32 || y == .bf16 || y == .fp16
    | .nb6e3m2, y | .nb6e2m3, y =>
      y == .nb8e4m3 || y == .nb8e5m2 || y == .nb6e3m2 || y == .nb6e2m3 || y == .fp32 || y == .bf16 || y == .fp16
    | .nb4, y => y == .nb8e4m3 || y == .nb8e5m2 || y == .nb4 || y == .fp32 || y == .bf16 || y == .fp16
    | _, _ => false

/-- Targets of the output stage and of the vector unit's stores; sources of its loads (Table 3.6). -/
def Fmt.isOut (f : Fmt) : Bool := f != .int4 && f != .int2

/-- Elements per cell of a format (Table 2.2). -/
def Fmt.packing : Fmt → Nat
  | .nb4 => 4
  | .nb6e3m2 | .nb6e2m3 | .nb8e4m3 | .nb8e5m2 | .int8 => 2
  | _ => 1

/-- Operand pairs of MAC (Table 2.3). -/
def macPair (w a : Fmt) : Bool :=
  (w.isNb && a.isNb) || (w == a && (w == .int8 || w == .bf16 || w == .fp16))

/-- Operand pairs of the comparison operations and L1, L2 (R37): NB8 in any combination and BF16. -/
def cmpPair (w a : Fmt) : Bool :=
  let nb8 (f : Fmt) : Bool := f == .nb8e4m3 || f == .nb8e5m2
  (nb8 w && nb8 a) || (w == .bf16 && a == .bf16)

/-- Activation formats of Table 2.3. -/
def Fmt.isAct (f : Fmt) : Bool := f.isNb || f == .int8 || f == .bf16 || f == .fp16

/-- The packing of a pair: that of the wider format (R37). -/
def pairPacking (w a : Fmt) : Nat := min w.packing a.packing

/-- Activation elements of one row of a pass (R36, R54, R55, R58). -/
def PassRec.rowElems (r : PassRec) (w : Fmt) : Nat :=
  if r.op = .ewise ∨ r.trans then 128
  else 128 * pairPacking w r.afmt * (if r.sparse then 2 else 1)

/-- Bytes of one row at AADDR: one chunk for the whole row (R48, R68). -/
def PassRec.rowSize (r : PassRec) (w : Fmt) : Nat := rowBytes r.afmt r.ablk (r.rowElems w) 0

/-- Stored elements per column of a tile, and its dense K (Table 2.2). -/
def tileK (w a : Fmt) : Nat := 128 * pairPacking w a

/-- Bytes of a tile image (R48, Table 2.7); K is that of the stationary format's own packing. -/
def tileBytes (w : Fmt) (blk sparse : Bool) (k : Nat) : Nat :=
  let dense := if sparse then 2 * k else k
  128 * (cdiv (k * w.width) 8 + (if w.isNb then dense / blkOf blk else 0) + (if sparse then dense / 8 else 0))

end Sys2Proof.Machine
end

