-- ==== Sys2Proof/Machine/ImageCheck.lean ====
section
/-!
DEFINITION. The checks MODEL_LOAD makes of an image before it binds, pins or reserves anything (R140): each gives the
detail code of Table 6.4 it stands for, and the lowest that applies is reported.
-/

namespace Sys2Proof.Machine

/-- What the checks need besides the image: the module's role, the weight arena of the manifest (first address, bytes). -/
structure CheckEnv where
  mixed : Bool := false
  arenaVa : Nat := 0
  arenaBytes : Nat := 0
  deriving DecidableEq, Repr

/-- A check: whether it failed, with its detail code. -/
abbrev Check := Nat × Bool

/-- Bits [lo+w-1:lo] are zero. -/
def zeroAt (x lo w : Nat) : Bool := bitsAt x lo w == 0

/-- A range of numbers, ends included. -/
def within (lo hi v : Nat) : Bool := decide (lo ≤ v) && decide (v ≤ hi)

/-! ## 0x01: header and section table (R138, R139) -/

/-- Every pair of a list satisfies r, the earlier element first. -/
def pairwiseB {α : Type} (r : α → α → Bool) : List α → Bool
  | [] => true
  | a :: l => l.all (r a) && pairwiseB r l

def headerOk (raw : List Byte) (bytes : Nat) : Bool :=
  let h := imgNat raw 0 256
  bitsAt h 0 32 == 0x48544441 && bitsAt h 32 8 == 1 && bitsAt h 40 8 == 0x32 && within 7 10 (bitsAt h 48 16)
    && bitsAt h 64 64 == bytes && within 1 256 (bitsAt h 128 16) && within 1 65535 (bitsAt h 144 16)
    && within 1 4096 (bitsAt h 160 16) && decide (bitsAt h 176 8 ≤ 64) && within 1 16 (bitsAt h 184 8)
    && (bitsAt h 224 32 == 0 || within 10 100000 (bitsAt h 224 32)) && bitsAt h 256 48 % 4096 == 0 && zeroAt h 304 1744

def sectionsOk (raw : List Byte) (bytes : Nat) : Bool :=
  let l := sectionsOf raw
  let tableEnd := 256 + 32 * imgNat raw 6 2
  l.all (fun e => within 1 10 e.kind && zeroAt e.raw 8 24 && zeroAt e.raw 192 64 && e.offset % 64 == 0
      && decide (tableEnd ≤ e.offset) && decide (e.offset + e.bytes ≤ bytes)
      && (if entrySize e.kind = 0 then e.entries == 0 else e.bytes == e.entries * entrySize e.kind))
    && pairwiseB (fun a b => a.kind != b.kind
      && (a.bytes == 0 || b.bytes == 0 || decide (a.offset + a.bytes ≤ b.offset) || decide (b.offset + b.bytes ≤ a.offset))) l
    && [1, 2, 3, 4, 5, 6, 7].all (fun k => l.any (·.kind == k))
    && (findSection l 1).entries == imgNat raw 16 2 && (findSection l 2).entries == imgNat raw 18 2

/-! ## 0x02: families (R141 to R143) -/

def product : List Nat → Nat
  | [] => 1
  | a :: l => a * product l

def dimOk (x : Nat) : Bool :=
  let src := bitsAt x 8 2
  decide (1 ≤ bitsAt x 0 8) && src != 3 && decide (bitsAt x 10 3 ≤ 4) && zeroAt x 13 3
    && (if src = 0 then decide (1 ≤ bitsAt x 16 16) else zeroAt x 16 16)

/-- The fields of a family record; CHAINS bits at or above the number of chains are rejected (R141, R143; DESIGN CHOICE, log 85). -/
def familyOk (img : Image) (i x : Nat) : Bool :=
  let f := familyOf x
  let n := bitsAt x 16 4
  bitsAt x 0 16 == i && within 1 8 n && decide (bitsAt x 20 2 ≤ 1) && zeroAt x 22 10 && zeroAt x 118 10 && zeroAt x 384 128
    && within 1 f.maxRows f.fillRows && decide (f.maxRows ≤ 1024)
    && (List.range n).all (fun d => dimOk (bitsAt x (128 + 32 * d) 32)) && zeroAt x (128 + 32 * n) (384 - (128 + 32 * n))
    && f.variantCount == product (f.dims.map (·.buckets)) && decide (f.firstVariant + f.variantCount ≤ img.variants.length)
    && decide ((f.dims.filter (·.source == .gate)).length ≤ 1)
    && f.dims.all (fun d => d.source != .gate || decide (f.maxRows ≤ d.buckets * d.quantum))
    && decide (f.chains < 2 ^ img.chains)

/-- Every chain lies in exactly one family's mask (R141). -/
def chainsOk (img : Image) : Bool :=
  (List.range img.chains).all fun c => (img.families.filter fun f => bitAt f.chains c).length == 1

/-- Every variant lies in the range of the family it names, and in no other family's (R143, R144). -/
def variantFamilyOk (img : Image) : Bool :=
  let holds (f : Family) (i : Nat) : Bool := decide (f.firstVariant ≤ i) && decide (i < f.firstVariant + f.variantCount)
  (img.variants.zipIdx).all fun p =>
    (img.families.zipIdx).all fun f => holds f.1 p.2 == (f.2 == p.1.family)

/-! ## 0x02: variants, splits and lists (R144, R149 to R152, R156) -/

def variantRawOk (img : Image) (secs : List Section) (x : Nat) : Bool :=
  within 1 4096 (bitsAt x 16 16) && zeroAt x 109 3 && zeroAt x 120 8 && zeroAt x 142 2 && zeroAt x 221 291
    && within 1 4096 (bitsAt x 96 13) && within 1 4096 (bitsAt x 208 13) && decide (bitsAt x 112 8 < img.energy.length)
    && decide (bitsAt x 32 32 + 16 * bitsAt x 16 16 ≤ (findSection secs 3).bytes)
    && decide (bitsAt x 176 32 + 8 * bitsAt x 208 13 ≤ (findSection secs 5).bytes)
    && decide (bitsAt x 64 32 + 16 * bitsAt x 96 13 ≤ (findSection secs 6).bytes)

def splitOk (img : Image) (s : Split) : Bool :=
  decide (s.lunit < img.lunits) && within 2 4 s.kind && within 1 4096 s.members && within 1 s.members s.active

/-- A logical unit is named once per table, and alike in every table that names it (R149). -/
def splitsOk (img : Image) : Bool :=
  let all := img.variants.flatMap (·.splits)
  img.variants.all (fun v => pairwiseB (fun a b => a.lunit != b.lunit) v.splits && v.splits.all (splitOk img))
    && all.all fun s =>
      match all.find? (·.lunit == s.lunit) with
      | none => true
      | some t => s.kind == t.kind && s.members == t.members && s.fronts == t.fronts

def Variant.split (v : Variant) (lunit : Nat) : Option Split := v.splits.find? (·.lunit == lunit)

/-- A list directory entry names a Squall unit and lies in its section. -/
def listDirOk (secs : List Section) (v : Variant) (d : Nat) : Bool :=
  zeroAt d 19 13 && ((v.split (bitsAt d 0 16)).any fun s => s.kind == 2)
    && decide (bitsAt d 64 64 + 64 * bitsAt d 32 32 ≤ (findSection secs 3).bytes)

/-- Reserved bits of a record (Table 6.11, R152, R156); passes and vector operations apart. -/
def recRawOk (x : Nat) : Bool :=
  match bitsAt x 0 4 with
  | 1 => zeroAt x 69 3 && zeroAt x 288 224
  | 2 => zeroAt x 31 1 && zeroAt x 215 1 && zeroAt x 248 8 && zeroAt x 268 8 && zeroAt x 300 212
  | 3 => zeroAt x 7 1 && zeroAt x 40 472
  | 4 => bitsAt x 4 2 != 3 && zeroAt x 6 506
  | 5 => decide (bitsAt x 18 3 ≤ 3) && zeroAt x 21 11 && zeroAt x 64 448 && (bitAt x 4 || zeroAt x 5 13)
      && !(bitAt x 4 && bitsAt x 32 16 == 0xFFFF)
  | 6 => zeroAt x 4 508
  | 7 => decide (1 ≤ bitsAt x 8 24) && zeroAt x 4 4 && zeroAt x 72 440
  | 8 => zeroAt x 4 508
  | _ => false

/-- TASK, END, LOOP and ENDLOOP pair off: work lies in a task, a loop body wholly in one task (R152, R156). -/
def nestOk : Bool → Nat → List Rec → Bool
  | inTask, depth, [] => !inTask && depth == 0
  | inTask, depth, r :: l =>
    match r with
    | .task _ => !inTask && nestOk true 0 l
    | .endTask => inTask && depth == 0 && nestOk false 0 l
    | .loop _ _ _ => inTask && nestOk true (depth + 1) l
    | .endLoop => inTask && decide (0 < depth) && nestOk true (depth - 1) l
    | .pass _ | .vop _ | .dma _ _ | .fence _ => inTask && nestOk true depth l

/-- The deepest nesting of loops. -/
def loopDepth : Nat → List Rec → Nat
  | d, [] => d
  | d, .loop _ _ _ :: l => max (d + 1) (loopDepth (d + 1) l)
  | d, .endLoop :: l => loopDepth (d - 1) l
  | d, _ :: l => loopDepth d l

def Rec.task? : Rec → Option TaskRec
  | .task t => some t
  | _ => none

/-- The speculative tasks of a variant, each with its tag (R152). -/
def Variant.specs (v : Variant) : List Nat :=
  v.lists.flatMap fun d => d.recs.filterMap fun r => (r.task?).bind fun t => if t.spec then some t.tag else none

/-! ## 0x02: programs and plans -/

/-- A descriptor's own fields, those of an END descriptor as well (Table 6.18, Table 6.4). -/
def descOk (x : Nat) : Bool :=
  let d := descOf x
  decide (bitsAt x 0 4 ≤ 6) && d.prio != 3 && (!d.ra || d.prio == 1) && zeroAt x 15 1 && zeroAt x 60 4 && zeroAt x 416 96
    && !((d.kind == .load || d.kind == .gather || d.kind == .xfer) && !d.untag && d.count == 0)
    && !(d.kind == .xfer && decide (2 ^ 24 ≤ d.va2))

/-- Every program that a list names, in any iteration, ends within the section, and its XFERs reach Squall units of the
variant (R157, R158; log 85). -/
def programsOk (img : Image) (v : Variant) : Bool :=
  v.lists.all fun d => d.unrolled.all fun r =>
    match r with
    | .dma _ p =>
      match progOf img.descs p with
      | none => false
      | some ds => ds.all fun x => x.kind != .xfer ||
        (match v.split x.xlunit, v.split d.lunit with
          | some t, some me => t.kind == 2 && (t.members == 1 || decide (me.active ≤ t.members))
          | _, _ => false)
    | _ => true

def attnOk (x : Nat) : Bool :=
  let a := attnOf x
  if !a.attn then x == 0
  else
    (a.kvfmt == 3 || a.kvfmt == 4 || a.kvfmt == 6) && zeroAt x 6 2 && zeroAt x 47 1 && zeroAt x 112 16 && zeroAt x 176 16
      && zeroAt x 240 16 && zeroAt x 368 16 && zeroAt x 400 112 && within 1 64 a.groups && within 1 1024 a.layers
      && within 1 128 a.hpg && (if a.sparse then within 1 64 a.ksel && a.kvfmt != 6 else a.ksel == 0)
      && within 1 64 a.maskSlot && a.arenaVa % 65536 == 0 && a.areaVa % 65536 == 0
      && a.maxSeq % 128 == 0 && within 128 1048576 a.maxSeq && decide (a.maxSeq ≤ a.ropeRows) && within 1 65535 a.seqs

/-- The attention chains of an image agree in what the arena depends on (R185). -/
def attnAgree (img : Image) : Bool :=
  let l := img.attn.filter (·.attn)
  pairwiseB (fun a b => a.kvfmt == b.kvfmt && a.groups == b.groups && a.layers == b.layers && a.arenaVa == b.arenaVa
    && a.seqAreaVa == b.seqAreaVa && a.maxSeq == b.maxSeq) l

/-- The expert plan's own fields (Table 8.2, 8.3, R217, R218). -/
def expertRawOk (x : Nat) (geom : List Nat) : Bool :=
  let e := expertOf x geom
  if e.moeLayers = 0 then x == 0
  else
    decide (e.moeLayers ≤ 1024) && within 1 65534 e.experts && within 1 e.experts e.localCount && within 1 64 e.topk
      && decide (e.topk ≤ e.experts) && zeroAt x 55 1 && zeroAt x 59 1 && zeroAt x 62 2 && zeroAt x 120 8 && zeroAt x 176 16
      && zeroAt x 203 53 && zeroAt x 304 16 && zeroAt x 368 144 && decide (1 ≤ e.sources) && within 1 255 (bitsAt x 112 8)
      && e.weightVa % Config.frameBytes == 0 && within 1 2047 e.objFrames && e.statusVa % 4096 == 0 && e.histVa % 4096 == 0
      && geom.all (fun g => decide (1 ≤ bitsAt g 0 16) && decide (1 ≤ bitsAt g 16 16) && zeroAt g 32 32)

/-- The expert plan against the families and the splits (R219, Table 8.2 MOD_LUNIT). -/
def expertOk (img : Image) : Bool :=
  let e := img.expert
  if e.moeLayers = 0 then true
  else
    let rmax := img.families.foldl (fun m f => max m f.maxRows) 0
    let safe := e.geom.getLastD (0, 0)
    img.families.all (fun f => (f.dims[e.fandim]?).any fun d => d.source == .prior && d.buckets == e.geom.length)
      && decide (rmax * e.topk * e.sources ≤ safe.2)
      && decide (min e.localCount safe.2 + safe.2 / (e.cap + 1) ≤ safe.1)
      && (e.modLunit == 0xFFFF || (img.variants.any fun v => v.splits.any fun s => s.lunit == e.modLunit && s.kind == 4))

/-- The step kinds, prefill first, of the families whose variants name a logical unit. -/
def Image.stepKinds (img : Image) (lunit : Nat) : Bool × Bool :=
  let fams := (img.variants.filter fun v => v.splits.any (·.lunit == lunit)).filterMap fun v => img.families[v.family]?
  (fams.any fun f => !f.decode, fams.any (·.decode))

/-- In MIXED role no logical unit serves both step kinds (R29). -/
def mixedOk (img : Image) : Bool :=
  (List.range img.lunits).all fun l => !((img.stepKinds l).1 && (img.stepKinds l).2)

/-! ## 0x03 and 0x04: passes, epilogues, formats (R42, R98, R126, R153, R65, R73, R84, R154) -/

def blkBitOk (f : Fmt) (b : Bool) : Bool := f.isNb || !b
def Fmt.narrow (f : Fmt) : Bool := f == .int4 || f == .int2

def passPairOk (r : PassRec) : Bool :=
  match r.op with
  | .mac => if r.wfmt.narrow then r.afmt.isNb || r.afmt == .bf16 else macPair r.wfmt r.afmt
  | .ewise => r.wfmt.isAct && r.afmt.isAct
  | _ => cmpPair r.wfmt r.afmt

/-- Table 2.5, Table 4.3, R58, R153. -/
def passOk (x : Nat) : Bool :=
  let r := passOf x
  let p := if r.wfmt.narrow then (if r.afmt = .bf16 then 1 else 2) else pairPacking r.wfmt r.afmt
  decide (bitsAt x 6 3 ≤ 6) && passPairOk r && (!r.sparse || (r.op == .mac && !r.trans)) && (!r.trans || r.op == .mac)
    && decide (r.lane < if r.trans then p else 1) && (!(r.keep || r.op == .ewise) || r.tsrc == 0)
    && (if r.final then r.ocount != 0 && r.ew != 3 && (r.op == .ewise || r.ewop == 0) && r.ofmt.isOut
          && r.ewfmt.isOut
        else zeroAt x 36 36)
    && (r.op != .ewise || (r.final && !r.bias && r.ew == 0 && r.ewfmt.isAct))

def passFmtOk (x : Nat) : Bool :=
  let r := passOf x
  (Fmt.ofCode (bitsAt x 9 4)).isSome && (Fmt.ofCode (bitsAt x 13 4)).isSome && (Fmt.ofCode (bitsAt x 44 4)).isSome
    && (Fmt.ofCode (bitsAt x 49 4)).isSome && blkBitOk r.wfmt r.wblk && blkBitOk r.afmt r.ablk && blkBitOk r.ewfmt r.ewblk
    && blkBitOk r.ofmt r.oblk && !r.afmt.narrow && (!r.wfmt.narrow || (r.op == .mac && !r.sparse && !r.trans))
    && (!r.final || r.ofmt.isOut)

/-- Opcodes with the PARAM each admits (Table 6.17). -/
def vopParamOk (opc p : Nat) : Bool :=
  if [1, 2, 3, 4, 5, 7, 0x10, 0x11, 0x12, 0x13, 0x14, 0x15, 0x16, 0x20, 0x21, 0x22, 0x29, 0x40, 0x41].contains opc then p == 0
  else if opc = 6 then decide (p ≤ 3)
  else if opc = 0x28 ∨ opc = 0x30 then decide (p ≤ 1)
  else if opc = 0x38 then within 1 64 p
  else if opc = 0x48 then within 2 8 p
  else if opc = 0x49 then within 1 8 p
  else false

/-- A vector record's structure (R155, Table 6.16). -/
def vopOk (x : Nat) : Bool :=
  let r := vopOf x
  vopParamOk r.opc r.param && decide (r.len ≤ 65536) && r.ocount != 0 && !r.rndSr && r.ew != 3 && (r.opc == 0x28 || r.eps == 0)
    && (r.opc == 0x49 || zeroAt x 256 44)

/-- Formats and blocks of a vector record; rows of NB formats are whole blocks (R65, R154; DESIGN CHOICE, log 86). -/
def vopFmtOk (x : Nat) : Bool :=
  let r := vopOf x
  (Fmt.ofCode (bitsAt x 12 4)).isSome && (Fmt.ofCode (bitsAt x 16 4)).isSome && r.infmt.isOut && r.outfmt.isOut
    && blkBitOk r.infmt r.inblk && blkBitOk r.outfmt r.outblk
    && (!r.infmt.isNb || r.len % blkOf r.inblk == 0)
    && (!r.outfmt.isNb || r.opc == 6 || (r.len % blkOf r.outblk == 0 && !within 0x20 0x22 r.opc))
    && (r.opc != 0x49 || ((Fmt.ofCode (bitsAt x 262 4)).isSome && r.ewfmt.isOut && blkBitOk r.ewfmt r.ewblk
        && (r.ew == 0 || !r.ewfmt.isNb || r.len % blkOf r.ewblk == 0)))

/-- Formats, blocks and conversion of a descriptor (R65, R68, R80, R84, R154, R158); RND = SR where no store rounds is rejected
(DESIGN CHOICE, log 86). An END descriptor has no rows to convert. -/
def descFmtOk (x : Nat) : Bool :=
  let d := descOf x
  let whole (f : Fmt) (b : Bool) : Bool :=
    !f.isNb || (d.n0 % blkOf b == 0 && d.chunk % blkOf b == 0 && decide (d.chunk ≤ d.n0))
  (Fmt.ofCode (bitsAt x 16 4)).isSome && (Fmt.ofCode (bitsAt x 20 4)).isSome && blkBitOk d.sfmt d.sblk && blkBitOk d.dfmt d.dblk
    && (bitsAt x 0 4 == 0 ||
      (whole d.sfmt d.sblk && whole d.dfmt d.dblk
      && (match d.kind with
        | .xfer | .move => d.sfmt == d.dfmt && d.sblk == d.dblk
        | _ => dmaConverts d.sfmt d.sblk d.dfmt d.dblk)
      && (!d.sr || d.kind == .store || d.kind == .scatter || d.kind == .xfer)))

/-- Rows a pass keeps or feeds in the activation buffer, by source (R439). -/
structure HeldKey where
  aaddr : Nat
  astride : Nat
  rows : Nat
  afmt : Fmt
  ablk : Bool
  slots : Nat
  deriving DecidableEq, Repr

/-- The activation slots of rows: whole slots of 1 KiB (Table 2.1; log 83). -/
def slotSpan (rows bytes : Nat) : Nat := cdiv (rows * bytes) 1024

/-- The walk of one engine's passes of one task: KEEP never first, HELD rows held, all within the 256 slots of the activation
buffer; the second row stream of an EWISE pass takes slots only while the pass is fed (R42, R58, R439). -/
def heldOk : Bool → List HeldKey → List PassRec → Bool
  | _, _, [] => true
  | first, held, r :: l =>
    let w : Fmt := if r.wfmt.narrow then (if r.afmt = .bf16 then .bf16 else .nb8e4m3) else r.wfmt
    let k : HeldKey := { aaddr := r.aaddr, astride := r.astride, rows := r.rows, afmt := r.afmt, ablk := r.ablk,
                         slots := slotSpan r.rows (r.rowSize w) }
    let same (h : HeldKey) : Bool := { h with slots := 0 } == { k with slots := 0 }
    let used := held.foldl (fun n h => n + h.slots) 0
      + (if r.op = .ewise then slotSpan r.rows (rowBytes r.ewfmt r.ewblk 128 0) else 0) + (if r.held then 0 else k.slots)
    !(r.keep && first) && decide (used ≤ 256) && (!r.held || held.any same)
      && heldOk false (if r.held then (if r.ahold then held else dropFirst held same) else if r.ahold then held ++ [k] else held) l

/-- The passes of each task of a list on an engine, in issue order. -/
def taskPasses (e : Fin 4) : List Rec → List (List PassRec)
  | [] => [[]]
  | .pass r :: l =>
    match taskPasses e l with
    | [] => [[r]]
    | x :: rest => if r.engine = e then (r :: x) :: rest else x :: rest
  | .task _ :: l => [] :: taskPasses e l
  | _ :: l => taskPasses e l

def listHeldOk (d : ListDir) : Bool :=
  (List.finRange 4).all fun e => (taskPasses e d.unrolled).all (heldOk true [])

/-! ## 0x05: stochastic-rounding streams (R82) -/

/-- The stores of a list that name a stream: the stream and which store it is. -/
def listStores (img : Image) (n : Nat) (d : ListDir) : List (Nat × (Nat × Nat × Nat)) :=
  let passes := d.recs.zipIdx.filterMap fun p =>
    match p.1 with
    | .pass r => if r.final && r.sr then some (r.stream, (0, n, p.2)) else none
    | _ => none
  let descs := d.unrolled.flatMap fun r =>
    match r with
    | .dma _ p =>
      match progOf img.descs p with
      | none => []
      | some ds => ds.zipIdx.filterMap fun q => if q.1.sr then some (q.1.stream, (1, p + q.2, 0)) else none
    | _ => []
  passes ++ descs

def streamsOk (img : Image) (v : Variant) : Bool :=
  (v.lists.zipIdx).all fun p =>
    let same := (v.lists.zipIdx).filter fun q => q.1.lunit == p.1.lunit
    let l := same.flatMap fun q => listStores img q.2 q.1
    l.all fun a => l.all fun b => a.1 != b.1 || a.2 == b.2

/-! ## Accesses of a variant outside T0 -/

/-- The logical Fronts of an image, which have a chip view (R441). -/
def Image.views (img : Image) : List Nat :=
  (((img.variants.flatMap (·.splits)).filter fun s => s.kind == 3 && s.members == 1).map (·.lunit)).eraseDups

/-- Is a model virtual address in one of the chip views. -/
def inViews (views : List Nat) (va : Nat) : Bool := decide (chipBase ≤ va) && views.contains ((va - chipBase) / chipBytes)

/-- One access whose addresses do not depend on run-time data. -/
structure Acc where
  list : Nat
  wave : Nat
  ord : Nat
  lunit : Nat
  member : Nat
  spec : Bool
  write : Bool
  region : Nat
  va : Nat
  bytes : Nat
  deriving DecidableEq, Repr

/-- The rows of a descriptor: plane and row offsets at the memory end. -/
def Desc.rowOffs (d : Desc) : List Nat :=
  (List.range d.n2).flatMap fun i2 => (List.range d.n1).map fun i1 => i1 * d.ms1 + i2 * d.ms2

def memberVa (va : Nat) (d : Desc) (m : Nat) : Nat := ((va : Int) + m * d.mstride * 64).toNat

/-- The fixed accesses of one descriptor in a member: (write, region, address, bytes). -/
def Desc.accesses (d : Desc) (m : Nat) : List (Bool × Nat × Nat × Nat) :=
  let src := rowBytes d.sfmt d.sblk d.n0 d.chunk
  let dst := rowBytes d.dfmt d.dblk d.n0 d.chunk
  match d.kind with
  | .load => d.rowOffs.map fun o => (false, d.region, memberVa d.va d m + o, src)
  | .store => d.rowOffs.map fun o => (true, d.region, memberVa d.va d m + o, dst)
  | .move => d.rowOffs.flatMap fun o =>
      [(false, d.region, memberVa d.va d m + o, src), (true, 0, memberVa d.va2 d m + o, dst)]
  | .gather | .scatter | .xfer | .stop => []

/-- The accesses of one list in one member, in issue order. -/
def listAccs (img : Image) (n : Nat) (d : ListDir) (m : Nat) : List Acc :=
  let rec go (spec : Bool) (k : Nat) : List Rec → List Acc
    | [] => []
    | .task t :: l => go t.spec k l
    | .dma _ p :: l =>
      let here := ((progOf img.descs p).getD []).zipIdx.flatMap fun q => (q.1.accesses m).map fun a =>
        ({ list := n, wave := d.wave.val, ord := k + q.2, lunit := d.lunit, member := m, spec := spec, write := a.1,
           region := a.2.1, va := a.2.2.1, bytes := a.2.2.2 } : Acc)
      here ++ go spec (k + ((progOf img.descs p).getD []).length + 1) l
    | _ :: l => go spec k l
  go false 0 d.unrolled

def Variant.accs (img : Image) (v : Variant) : List Acc :=
  v.lists.zipIdx.flatMap fun p =>
    (List.range (((v.split p.1.lunit).map (·.active)).getD 0)).flatMap fun m => listAccs img p.2 p.1 m

/-! ## 0x06: access map and address space (R160, R164, R237, R441, R195) -/

def mapRawOk (x : Nat) : Bool := zeroAt x 36 4 && zeroAt x 77 3 && zeroAt x 88 40 && decide (1 ≤ bitsAt x 40 32)

def mapEntryOk (env : CheckEnv) (img : Image) (e : MapEntry) : Bool :=
  let lo := e.vpn * 4096
  let n := e.pages * 4096
  decide (e.region ≤ img.regionSlots.length) && decide (e.vpn + e.pages ≤ 2 ^ 36) && !(e.region == 0 && e.host)
    && !(e.region == 0 && e.peer && !(decide (peerBase ≤ lo) && decide (lo + n ≤ peerEnd)))
    && !(e.region == 0 && (e.wr || e.sw) && decide (lo < env.arenaVa + env.arenaBytes) && decide (env.arenaVa < lo + n))

/-- The map of a variant covers the selection block of every chain that may run it (R160; log 87). -/
def selCovered (img : Image) (v : Variant) : Bool :=
  (List.range img.chains).all fun c =>
    !((img.families[v.family]?).any fun f => bitAt f.chains c)
      || v.map.any fun e => e.region == 0 && decide (e.vpn ≤ img.selVa / 4096 + c) && decide (img.selVa / 4096 + c < e.vpn + e.pages)

def mapSorted : List MapEntry → Bool
  | a :: b :: l =>
    (decide (a.region < b.region) || (a.region == b.region && decide (a.vpn + a.pages ≤ b.vpn))) && mapSorted (b :: l)
  | _ => true

def regionSlotsOk (raw : List Byte) (img : Image) : Bool :=
  let secs := sectionsOf raw
  let n := imgNat raw 22 1
  (secs.any (·.kind == 10)) == (n != 0) && img.regionSlots.length == n
    && (List.range n).all (fun i => (img.regionSlots.filter (·.slot == i + 1)).length == 1)
    && (imgRecs raw (findSection secs 10).offset 8 n).all (fun x => zeroAt x 10 6)
    && img.descs.all (fun d => decide (d.region ≤ n))
    && img.attn.all (fun a => !a.attn || (img.regionSlots.any fun s => s.slot == a.maskSlot && decide (0xC0000 ≤ s.minBytes)))

/-! ## 0x07: speculative restrictions (R172, R224) -/

/-- Page ranges no speculative task may write: selection blocks, route status blocks, history bitmaps. -/
def Image.guarded (img : Image) : List (Nat × Nat) :=
  let e := img.expert
  let pages (n : Nat) : Nat := cdiv n 4096 * 4096
  (img.selVa, img.chains * 4096) ::
    (if e.moeLayers = 0 then []
     else [(e.statusVa, img.chains * 4096), (e.histVa, pages (img.chains * e.moeLayers * 64 * cdiv e.localCount 512))])

def touches (lo n : Nat) (r : Nat × Nat) : Bool := decide (lo < r.1 + r.2) && decide (r.1 < lo + n)

def specOk (img : Image) (v : Variant) : Bool :=
  let pageLo (a : Nat) : Nat := a / 4096 * 4096
  let pageN (a n : Nat) : Nat := cdiv (a + n) 4096 * 4096 - pageLo a
  let rec lists (spec : Bool) : List Rec → Bool
    | [] => true
    | .task t :: l => lists t.spec l
    | .dma _ p :: l =>
      (!spec || ((progOf img.descs p).getD []).all fun d =>
          !(d.region != 0 && (img.regionSlots.any fun s => s.slot == d.region && s.host))
            && !(d.kind == .xfer && ((v.split d.xlunit).any fun s => s.kind == 4)))
        && lists spec l
    | _ :: l => lists spec l
  v.lists.all (fun d => lists false d.unrolled)
    && (v.accs img).all (fun a => !(a.spec && a.write && a.region == 0 && a.bytes != 0
        && img.guarded.any (touches (pageLo a.va) (pageN a.va a.bytes))))
    && v.map.all (fun e => !(e.sw && e.region == 0 && img.guarded.any (touches (e.vpn * 4096) (e.pages * 4096))))

/-! ## 0x08: resident areas (R135, Table 6.14) -/

def viewBase (lunit : Nat) : Nat := chipBase + lunit * chipBytes

def Image.splitOf (img : Image) (lunit : Nat) : Option Split :=
  (img.variants.flatMap (·.splits)).find? (·.lunit == lunit)

def residentRawOk (x : Nat) : Bool := (bitsAt x 16 8 == 1 || bitsAt x 16 8 == 2) && zeroAt x 52 12 && zeroAt x 144 112

def residentOk (img : Image) : Bool :=
  img.resident.all (fun r =>
      r.offset % 4096 == 0 && r.bytes % 4096 == 0 && r.bytes != 0
        && decide (r.offset + r.bytes ≤ if r.chipMem then chipBytes else coreMemStride)
        && ((img.splitOf r.lunit).any fun s => s.kind == if r.chipMem then 3 else 2)
        && decide (((img.resident.filter fun q => q.lunit == r.lunit && q.chipMem == r.chipMem).foldl (fun n q => n + q.bytes) 0)
            ≤ if r.chipMem then 192 * 2 ^ 20 else 8 * 2 ^ 20))
    && pairwiseB (fun a b => a.lunit != b.lunit || a.chipMem != b.chipMem || !touches a.offset a.bytes (b.offset, b.bytes)) img.resident

/-- The core memory ranges that one issued record writes tagged in the Squall of logical unit `lunit`. -/
def taggedWrites (img : Image) (lunit : Nat) : Rec → List (Nat × Nat × Nat)
  | .pass r =>
    if !r.final then [] else (List.range r.rows).map fun i => (lunit, r.daddr + i * r.dstride, rowBytes r.ofmt r.oblk 128 0)
  | .vop r =>
    if r.opc = 6 then [(lunit, r.dst, 16 * cdiv r.len 128 * r.rows)]
    else
      let n := if r.opc = 0x38 then 8 * r.param
        else rowBytes r.outfmt r.outblk (if within 0x20 0x22 r.opc then 1 else r.len) 0
      (List.range r.rows).map (fun i => (lunit, r.dst + i * r.dstride, n))
        ++ (if r.opc = 0x29 then [(lunit, r.dst + r.rows * r.dstride, 8 * r.rows)] else [])
  | .dma _ p => ((progOf img.descs p).getD []).flatMap fun d =>
      let n := rowBytes d.dfmt d.dblk d.n0 d.chunk
      let rows (l base : Nat) : List (Nat × Nat × Nat) :=
        (List.range d.n2).flatMap fun i2 => (List.range d.n1).map fun i1 => (l, base + i1 * d.cs1 + i2 * d.cs2, n)
      if d.untag then []
      else match d.kind with
        | .load | .gather => rows lunit d.coff
        | .xfer => rows d.xlunit (d.va2 % 2 ^ 24)
        | _ => []
  | _ => []

/-- An offset range modulo 2^24 against a resident area. -/
def slotHit (lo n : Nat) (r : Nat × Nat) : Bool :=
  let a := lo % 2 ^ 24
  n != 0 && (touches a n r || touches a n (r.1 + 2 ^ 24, r.2))

def residentWritesOk (img : Image) (v : Variant) : Bool :=
  let core := img.resident.filter fun r => !r.chipMem
  let chip := img.resident.filter (·.chipMem)
  let fronts (l : Nat) : Nat := match (img.splitOf l).map (·.fronts.toNat) with
    | some 0 => 0xFF
    | some f => f
    | none => 0
  let views := img.views
  v.lists.all (fun d => d.unrolled.all fun r => (taggedWrites img d.lunit r).all fun w =>
      !(core.any fun x => x.lunit == w.1 && slotHit w.2.1 w.2.2 (x.offset, x.bytes)))
    && (v.accs img).all (fun a => !(a.write && a.region == 0 && a.bytes != 0 && views.any fun l => chip.any fun x =>
        (x.lunit == l || fronts x.lunit &&& fronts l != 0) && touches a.va a.bytes (viewBase l + x.offset, x.bytes)))

/-! ## 0x04: headers of narrow tile sources (R74) -/

/-- A header of a narrow tile source without reserved values (Table 3.4). -/
def narrowHeaderOk (h : Nat) : Bool :=
  decide (bitsAt h 0 2 ≤ 1) && decide (bitsAt h 2 2 ≤ 1) && bitsAt h 4 2 != 3 && !(bitAt h 6 && bitsAt h 4 2 == 2)
    && bitsAt h 7 2 != 3 && (bitsAt h 0 2 == 1 || bitsAt h 7 2 == 0) && zeroAt h 9 247 && (bitsAt h 0 2 == 0 || zeroAt h 256 256)

/-- The core memory rows that the unpacked LOADs of one list of a variant write: offset, bytes, and the address that they come from. -/
def loadedRows (img : Image) (d : ListDir) : List (Nat × Nat × Nat) :=
  d.unrolled.flatMap fun r => match r with
    | .dma _ p => ((progOf img.descs p).getD []).flatMap fun x =>
        if x.kind == .load && x.region == 0 && x.sfmt == x.dfmt && x.sblk == x.dblk then
          (List.range x.n2).flatMap fun i2 => (List.range x.n1).map fun i1 =>
            ((x.coff + i1 * x.cs1 + i2 * x.cs2) % 2 ^ 24, rowBytes x.dfmt x.dblk x.n0 x.chunk, x.va + i1 * x.ms1 + i2 * x.ms2)
        else []
    | _ => []

/-- Where the header of a narrow tile source comes from, where the image alone says it: a resident area, or the only row that any list
of the logical Squall writes there (log 89). -/
def Image.headerVa (img : Image) (v : Variant) (lunit tsrc : Nat) : Option Nat :=
  match img.resident.find? fun r => r.lunit == lunit && !r.chipMem && decide (r.offset ≤ tsrc) && decide (tsrc + 64 ≤ r.offset + r.bytes) with
  | some r => some (r.src + (tsrc - r.offset))
  | none =>
    let here (w : Nat × Nat × Nat) : Bool := w.1 == lunit && slotHit w.2.1 w.2.2 (tsrc, 64)
    let writes := v.lists.flatMap fun d => d.unrolled.flatMap fun r => (taggedWrites img d.lunit r).filter here
    match (v.lists.filter (·.lunit == lunit)).flatMap fun d => (loadedRows img d).filter fun w => here (lunit, w.1, w.2.1) with
    | [w] => if writes.length ≤ 1 && decide (w.1 ≤ tsrc) && decide (tsrc + 64 ≤ w.1 + w.2.1) then some (w.2.2 + (tsrc - w.1)) else none
    | _ => none

/-- The addresses of the headers that the lists of an image name and that are known before binding. -/
def Image.headers (img : Image) : List Nat :=
  (img.variants.flatMap fun v => v.lists.flatMap fun d => d.unrolled.filterMap fun r => match r with
    | .pass p => if p.wfmt.narrow && !p.keep then img.headerVa v d.lunit p.tsrc else none
    | _ => none).eraseDups

/-! ## 0x09: writes after reads (R132, R230) -/

/-- What is left of ranges once others are taken away. -/
def rangeSub (lo hi : Nat) : List (Nat × Nat) → List (Nat × Nat)
  | [] => if lo < hi then [(lo, hi)] else []
  | (a, b) :: l =>
    if lo < hi then rangeSub lo (min hi a) l ++ rangeSub (max lo b) hi l else []

/-- Does an access come before another: earlier in the same list and member, or in a list of an earlier wave (log 24). -/
def Acc.before (a b : Acc) : Bool :=
  if a.list = b.list ∧ a.member = b.member then decide (a.ord < b.ord) else decide (a.wave < b.wave)

/-- No byte that a task of `writer` writes outside T0 is read by any task of `reader`, a speculative one too, before `reader` writes
it. What speculative tasks write reaches its target only after the last rerun (R171, R176). -/
def rerunSafe (img : Image) (reader writer : List Acc) : Bool :=
  let views := img.views
  let outside (a : Acc) : Bool := !(a.region == 0 && inViews views a.va)
  let ws := writer.filter fun a => a.write && !a.spec && outside a
  let own := reader.filter fun a => a.write && !a.spec && outside a
  (reader.filter fun a => !a.write && outside a).all fun r =>
    let before := (own.filter fun w => w.region == r.region && w.before r).map fun w => (w.va, w.va + w.bytes)
    (rangeSub r.va (r.va + r.bytes) before).all fun g =>
      !(ws.any fun w => w.region == r.region && decide (w.va < g.2) && decide (g.1 < w.va + w.bytes))

/-- The index of the variant with the safe fan-out bucket in place of a variant's own (R228, R230). -/
def Image.safeVariant (img : Image) (vi : Nat) : Option Nat :=
  let e := img.expert
  if e.moeLayers = 0 then none
  else (img.variants[vi]?).bind fun v => (img.families[v.family]?).bind fun f =>
    let stride := product ((f.dims.take e.fandim).map (·.buckets))
    (f.dims[e.fandim]?).map fun d =>
      let own := (vi - f.firstVariant) / stride % d.buckets
      vi + (d.buckets - 1 - own) * stride

def rerunOk (img : Image) : Bool :=
  img.variants.zipIdx.all fun p =>
    let a := p.1.accs img
    rerunSafe img a a && (match (img.safeVariant p.2).bind fun k => img.variants[k]? with
      | some sv => rerunSafe img (sv.accs img) a
      | none => true)

/-! ## The whole check (R140) -/

/-- Raw records of every list of every variant. -/
def rawRecords (raw : List Byte) : List Nat :=
  let secs := sectionsOf raw
  let tl := (findSection secs 3).offset
  (imgRecs raw (findSection secs 2).offset 64 (imgNat raw 18 2)).flatMap fun x =>
    (imgRecs raw (tl + bitsAt x 32 32) 16 (bitsAt x 16 16)).flatMap fun d =>
      imgRecs raw (tl + bitsAt d 64 64) 64 (bitsAt d 32 32)

/-- The checks of an image whose header and section table are sound. -/
def imageChecks (env : CheckEnv) (raw : List Byte) : List Check :=
  let img := imageOf raw
  let secs := sectionsOf raw
  let fams := imgRecs raw (findSection secs 1).offset 64 img.families.length
  let vars := imgRecs raw (findSection secs 2).offset 64 img.variants.length
  let recs := rawRecords raw
  let descs := imgRecs raw (findSection secs 4).offset 64 (findSection secs 4).entries
  let plans := findSection secs 8
  let has := secs.any (·.kind == 8)
  let moe := imgNat raw (plans.offset + 64 * img.chains) 64
  let geom := imgRecs raw (plans.offset + 64 * img.chains + 64) 8 (if bitsAt moe 0 16 = 0 then 0 else bitsAt moe 112 8)
  let dirs := (vars.zip img.variants).flatMap fun p =>
    (imgRecs raw ((findSection secs 3).offset + bitsAt p.1 32 32) 16 (bitsAt p.1 16 16)).map fun d => (p.2, d)
  let maps := vars.flatMap fun x => imgRecs raw ((findSection secs 6).offset + bitsAt x 64 32) 16 (bitsAt x 96 13)
  let kind (k : Nat) : List Nat := recs.filter fun x => bitsAt x 0 4 == k
  [ (0x02, !(fams.zipIdx.all fun p => familyOk img p.2 p.1)), (0x02, !chainsOk img), (0x02, !variantFamilyOk img),
    (0x02, !(vars.all (variantRawOk img secs))), (0x02, !splitsOk img), (0x02, !(dirs.all fun p => listDirOk secs p.1 p.2)),
    (0x02, !(recs.all recRawOk)), (0x02, !(img.variants.all fun v => v.lists.all fun d => nestOk false 0 d.recs)),
    (0x02, !(img.variants.all fun v => pairwiseB (· != ·) v.specs)), (0x02, !(descs.all descOk)),
    (0x02, !(img.variants.all (programsOk img))), (0x02, !((kind 2).all vopOk)),
    (0x02, has && !((imgRecs raw plans.offset 64 img.chains).all attnOk)), (0x02, !attnAgree img),
    (0x02, has && !expertRawOk moe geom), (0x02, !expertOk img), (0x02, env.mixed && !mixedOk img),
    (0x03, !((kind 1).all passOk)), (0x03, !((kind 2).all fun x => bitsAt x 4 8 != 0x38 || bitsAt x 16 4 == 8)),
    (0x03, !(img.variants.all fun v => v.lists.all listHeldOk)),
    (0x04, !((kind 1).all passFmtOk)), (0x04, !((kind 2).all vopFmtOk)), (0x04, !(descs.all descFmtOk)),
    (0x05, !(img.variants.all (streamsOk img))),
    (0x06, !(maps.all mapRawOk)), (0x06, !(img.variants.all fun v => mapSorted v.map && v.map.all (mapEntryOk env img) && selCovered img v)),
    (0x06, !regionSlotsOk raw img),
    (0x07, !(img.variants.all (specOk img))),
    (0x08, !((imgRecs raw (findSection secs 9).offset 32 (findSection secs 9).entries).all residentRawOk)),
    (0x08, !residentOk img), (0x08, !(img.variants.all (residentWritesOk img))),
    (0x09, !rerunOk img),
    (0x0A, !(dirs.all fun p => within 1 65536 (bitsAt p.2 32 32))),
    (0x0A, !(img.variants.all fun v => v.lists.all fun d => decide (loopDepth 0 d.recs ≤ 4))),
    (0x0A, !(img.variants.all fun v => decide (v.shadowNeed ≤ img.shadowSlots) && decide (v.specTasks ≤ 8192)
      && v.specTasks == v.specs.length)) ]

/-- The detail code of the first check that fails, in ascending order of codes; none for a sound image (R140). -/
def imageDetail (env : CheckEnv) (raw : List Byte) (bytes : Nat) : Option Nat :=
  if !headerOk raw bytes || !sectionsOk raw bytes then some 0x01
  else ((imageChecks env raw).find? (·.2)).map (·.1)

end Sys2Proof.Machine
end

