-- ==== Sys2Proof/Machine/Lines.lean ====
section
/-!
DEFINITION. One cache: its lines, its ways and tree pseudo-LRU (R294), and the lines that a schedule engine fetches (R120).
-/

namespace Sys2Proof.Machine

/-! ## One cache -/

/-- Sets, ways, and log2 of the ways. -/
structure Geometry where
  sets : Nat
  ways : Nat
  levels : Nat
  deriving DecidableEq, Repr

/-- Table 11.2 and R120. -/
def l1dGeometry : Geometry := ⟨128, 8, 3⟩
def l2Geometry : Geometry := ⟨2048, 16, 4⟩
def schedGeometry : Geometry := ⟨64, 8, 3⟩

def setBit (t i : Nat) (v : Bool) : Nat :=
  if bitAt t i = v then t else if v then t + 2 ^ i else t - 2 ^ i

/-- Every node on a way's path points away from it; nodes are numbered from 1 at the root, bit 1 points right. -/
def treeTouch (way : Nat) : Nat → Nat → Nat → Nat
  | 0, _, tree => tree
  | k + 1, node, tree =>
    let right := bitAt way k
    treeTouch way k (2 * node + if right then 1 else 0) (setBit tree node (!right))

/-- The way that the nodes point to. -/
def treeVictim (tree : Nat) : Nat → Nat → Nat → Nat
  | 0, _, acc => acc
  | k + 1, node, acc =>
    let right := if bitAt tree node then 1 else 0
    treeVictim tree k (2 * node + right) (2 * acc + right)

def Cache.find (c : Cache) (line : Nat) : Option CLine := c.lines.find? (·.line == line)
def Cache.way (c : Cache) (line : Nat) : Nat := (assoc c.ways line).getD 0
def Cache.treeOf (c : Cache) (set : Nat) : Nat := (assoc c.trees set).getD 0

def Cache.touch (g : Geometry) (c : Cache) (line : Nat) : Cache :=
  { c with trees := assocSet c.trees (line % g.sets) (treeTouch (c.way line) g.levels 1 (c.treeOf (line % g.sets))) }

/-- Lines dropped. -/
def Cache.drop (c : Cache) (p : Nat → Bool) : Cache :=
  { c with lines := c.lines.filter (fun l => !p l.line), ways := c.ways.filter fun w => !p w.1 }

/-- A line's contents or state changed in place. -/
def Cache.change (c : Cache) (line : Nat) (f : CLine → CLine) : Cache := { c with lines := updFirst c.lines (·.line == line) f }

def Cache.inSet (g : Geometry) (c : Cache) (line : Nat) : List CLine := c.lines.filter fun l => l.line % g.sets == line % g.sets

/-- The line that a fill of a set must replace: none while a way is free (R294). -/
def Cache.victim (g : Geometry) (c : Cache) (line : Nat) : Option CLine :=
  let here := c.inSet g line
  if here.length < g.ways then none
  else
    let w := treeVictim (c.treeOf (line % g.sets)) g.levels 1 0
    (here.find? fun l => c.way l.line == w).or here.head?

/-- A line placed in the lowest free way of its set. -/
def Cache.place (g : Geometry) (c : Cache) (l : CLine) : Cache :=
  let used := (c.inSet g l.line).map fun x => c.way x.line
  let w := (firstNat (fun k => !used.contains k) 0 g.ways).getD 0
  let c1 : Cache := { c with lines := c.lines ++ [l], ways := assocSet c.ways l.line w }
  c1.touch g l.line

/-- A line brought in, in place of the line that the set must give up. -/
def Cache.fill (g : Geometry) (c : Cache) (l : CLine) : Cache :=
  let c1 := c.drop (· == l.line)
  Cache.place g (match c1.victim g l.line with
    | some v => c1.drop (· == v.line)
    | none => c1) l

/-! ## The schedule engine's cache (R120) -/

/-- A line that a schedule engine reads: found in its cache, or fetched into it in S (log 88). -/
def State.schedFetch (s : State) (q : Fin 64) (line : Nat) : State :=
  if ((s.sq q).cache.find line).isSome then s.updSq q fun x => { x with cache := x.cache.touch schedGeometry line }
  else
    let l : CLine := { line := line, st := .s, data := s.bytes (64 * line) 64, poison := s.markOf (64 * line) 64 != .none }
    (s.dramRead 1 (64 * line) 64).updSq q fun x => { x with cache := x.cache.fill schedGeometry l }

/-- The lines that n bytes from an address touch, read through a schedule engine's cache: records, descriptors, split entries and map
entries of the image, where MODEL_LOAD read it (R120; log 88). -/
def State.schedRead (s : State) (q : Fin 64) (pa n : Nat) : State := (dramLines pa n).foldl (fun u l => u.schedFetch q l) s

end Sys2Proof.Machine
end

