-- ==== Sys2Proof/Machine/Operands.lean ====
section
/-!
DEFINITION. The operands of a command: the fields of a submission entry (Table 14.4, 14.7, 14.9), where the entry
stands, and the completion records a command answers with (Table 14.5, R365-R368).
-/

namespace Sys2Proof.Machine

/-! ## Fields of an entry -/

/-- Bits [lo+w-1:lo] of an entry. -/
def fld (e : Entry) (lo w : Nat) : Nat := bitsAt e.toNat lo w

def opcOf (e : Entry) : Nat := fld e 0 8
def cidOf (e : Entry) : BitVec 16 := BitVec.ofNat 16 (fld e 16 16)
def sessionOf (e : Entry) : BitVec 16 := BitVec.ofNat 16 (fld e 32 16)

/-- An operand field of a command: first bit, width and the values it admits. -/
abbrev FieldSpec := Nat × Nat × (Nat → Bool)

def anyVal : Nat → Bool := fun _ => true
def inVals (lo hi : Nat) : Nat → Bool := fun v => decide (lo ≤ v) && decide (v ≤ hi)

/-- The byte offset of the lowest offending field (R366): a field out of range, or a reserved field that is not zero,
where the bits between and after the named fields are reserved (log 18). -/
def badField (e : Entry) : Nat → List FieldSpec → Option Nat
  | pos, [] => if fld e pos (1024 - pos) ≠ 0 then some (pos / 8) else none
  | pos, (lo, w, ok) :: l =>
    if pos < lo ∧ fld e pos (lo - pos) ≠ 0 then some (pos / 8)
    else if !ok (fld e lo w) then some (lo / 8)
    else badField e (lo + w) l

/-- Commands of Table 14.7, by opcode. -/
def knownOpc (o : Nat) : Bool :=
  [0x01, 0x02, 0x03, 0x10, 0x11, 0x12, 0x18, 0x19, 0x1A, 0x20, 0x21, 0x28, 0x29, 0x2A, 0x30, 0x31, 0x38, 0x39, 0x3A,
   0x40, 0x41, 0x42, 0x48, 0x49, 0x4A, 0x4B, 0x4C].contains o

/-- Commands marked Long in Table 14.7. -/
def longOpc (o : Nat) : Bool := [0x10, 0x11, 0x30, 0x31, 0x49, 0x4C].contains o

/-- Commands marked "op" in Table 14.7; POLICY_SET judges its key (Table 14.8). -/
def operatorOpc (o : Nat) : Bool := [0x18, 0x1A, 0x48, 0x49, 0x4A, 0x4B, 0x4C].contains o

/-- Commands the management port accepts (R355). -/
def mgmtOpc (o : Nat) : Bool :=
  [0x40, 0x41, 0x42, 0x1A, 0x19, 0x3A, 0x38, 0x39, 0x4B, 0x48, 0x02, 0x49, 0x4A].contains o

/-- Commands an urgent slot accepts (R383). -/
def urgentOpc (o : Nat) : Bool := mgmtOpc o && o != 0x49 && o != 0x4A

/-- Marks of Table 14.13. -/
inductive Legal where
  | accepted | urgentOnly | moduleOnly | refused
  deriving DecidableEq, Repr

/-- Table 14.13: commands legal in each state; in UNINIT none is served (R378). -/
def legalIn (o : Nat) (st : DevState) : Legal :=
  let row (booting ready serving draining suspended degraded faulted updating : Legal) : Legal :=
    match st with
    | .uninit => .refused | .booting => booting | .ready => ready | .serving => serving | .draining => draining
    | .suspended => suspended | .degraded => degraded | .faulted => faulted | .updating => updating
  if o = 0x40 ∨ o = 0x41 ∨ o = 0x42 ∨ o = 0x1A then
    row .urgentOnly .accepted .accepted .accepted .accepted .accepted .accepted .urgentOnly
  else if o = 0x01 then row .refused .accepted .accepted .refused .accepted .accepted .refused .refused
  else if o = 0x03 ∨ o = 0x02 ∨ o = 0x19 ∨ o = 0x48 ∨ o = 0x3A ∨ o = 0x38 ∨ o = 0x39 then
    row .refused .accepted .accepted .accepted .accepted .accepted .accepted .refused
  else if o = 0x10 ∨ o = 0x11 ∨ o = 0x4C then
    row .refused .accepted .accepted .refused .refused .accepted .refused .refused
  else if o = 0x12 ∨ o = 0x21 then
    row .refused .accepted .accepted .accepted .accepted .accepted .accepted .refused
  else if o = 0x18 then row .refused .accepted .refused .refused .refused .refused .refused .refused
  else if o = 0x20 then row .refused .accepted .accepted .refused .accepted .accepted .refused .refused
  else if o = 0x28 ∨ o = 0x2A ∨ o = 0x30 ∨ o = 0x31 then
    row .refused .refused .accepted .refused .refused .accepted .refused .refused
  else if o = 0x29 then row .refused .refused .accepted .accepted .accepted .accepted .accepted .refused
  else if o = 0x49 ∨ o = 0x4A then
    row .refused .accepted .accepted .refused .accepted .accepted .accepted .refused
  else if o = 0x4B then row .refused .accepted .accepted .accepted .accepted .accepted .moduleOnly .refused
  else .refused

/-! ## A command being executed -/

/-- A command with its entry and the session it acts for (R369). -/
structure Cmd where
  src : Src
  e : Entry
  session : BitVec 16 := 0
  tenant : BitVec 32 := 0
  /-- Tenant 0 or the management port (R369). -/
  op : Bool := false
  /-- The management port acting for no session: it sees every tenant's objects (log 19). -/
  all : Bool := false

def Cmd.ref (c : Cmd) : RecRef := { src := c.src, cid := cidOf c.e, session := c.session }
def Cmd.f (c : Cmd) (lo w : Nat) : Nat := fld c.e lo w

/-- The image that follows a management FW_STAGE (R355). -/
def State.mgmtImage (s : State) : List Byte := (s.eci.mgmtInbox.head?.map (·.2)).getD []

/-- The entry that waits at a source, if a command may begin there: urgent slots and the management port in arrival
order, ahead of every queue (R384); a queue's command only once the one before it has ended (R368). -/
def State.entryAt (s : State) (src : Src) : Option Entry :=
  match src with
  | .pair q =>
    if s.eci.arrivals ≠ [] ∨ s.eci.waiting.any (·.src == src) then none else (s.pair q).inbox.head?
  | .urgent u => if s.eci.arrivals.head? = some src then some (pick s.eci.urgEntry u) else none
  | .mgmt => if s.eci.arrivals.head? = some src then s.eci.mgmtInbox.head?.map (·.1) else none

/-- Who the command at a source acts for; none: no session, or one that is not attached (R363, R383). -/
def State.caller (s : State) (src : Src) (e : Entry) : Option Cmd :=
  match src with
  | .pair q =>
    match (s.pair q).session with
    | none => none
    | some id =>
      let t := (s.session id).map (·.tenant)
      some { src := src, e := e, session := id, tenant := t.getD 0, op := t == some 0 }
  | .urgent _ =>
    match s.session (sessionOf e) with
    | none => none
    | some x => some { src := src, e := e, session := x.id, tenant := x.tenant, op := x.tenant == 0 }
  | .mgmt =>
    if sessionOf e = 0 then some { src := src, e := e, op := true, all := true }
    else match s.session (sessionOf e) with
      | none => none
      | some x => some { src := src, e := e, session := x.id, tenant := x.tenant, op := true }

/-! ## Completion records (Table 14.5) -/

/-- A record's fields that do not depend on when it is written; `result` holds bits [1023:192] in place. -/
def recBody (cid : BitVec 16) (sqid : Nat) (accepted : Bool) (st : Status) (detail handle result : Nat) : Entry :=
  BitVec.ofNat 1024 (cid.toNat + sqid <<< 16 + (if accepted then 1 <<< 23 else 0) + (detail % 256) <<< 40
    + st.code <<< 48 + (handle % 2 ^ 64) <<< 64 + result)

/-- The fields a record takes when it is written: PHASE, SQ_HEAD, STATE and T_DONE. -/
def recStamp (s : State) (phase : Bool) (sqHead : Nat) (body : Entry) : Entry :=
  body + BitVec.ofNat 1024 ((if phase then 1 <<< 22 else 0) + sqHead <<< 24 + s.eci.devState.code <<< 36
    + (s.now % 2 ^ 64) <<< 128)

def shadowBase (q : Fin 64) : Nat := 0xFFFC000000 + q.val * 0x100000

/-- Where a pair's completion queue lies now (R341, R362). -/
def Pair.cqNow (p : Pair) (q : Fin 64) : Nat := if p.shadow then shadowBase q else p.cqBase.toNat

/-- Entries of a queue of log2 size n. -/
def entriesOf (n : BitVec 4) : Nat := 2 ^ n.toNat

/-- A record written at CQ_TAIL: phase, U and V as R365 lays down, then MSI-X vector q for a CXL session (R338). -/
def State.cqPut (s : State) (q : Fin 64) (body : Entry) : State :=
  let p := s.pair q
  let e := recStamp s p.phase p.sqHead.toNat body
  let n := entriesOf p.cqLog2
  let wraps := p.cqTail.toNat + 1 == n
  let s1 := s.putBytes (p.cqNow q + 128 * p.cqTail.toNat) (leBytes e.toNat 128)
  let s2 := s1.updPair q fun x => { x with
    cqTail := if wraps then 0 else x.cqTail + 1, phase := if wraps then !x.phase else x.phase,
    reserved := x.reserved - 1, unread := x.unread + 1,
    shadowUnread := if x.shadow then x.shadowUnread + 1 else x.shadowUnread }
  let cxl := match p.session.bind s.session with
    | some x => !x.onPkg
    | none => false
  if p.irq && cxl then s2.sendMsix q.val else s2

/-- A record sent to where it belongs: a queue in device memory at once, a queue in host memory after its push
(R326, R338), an urgent slot with DONE and vector 64 (R383), the management port as a response (R355). -/
def State.record (s : State) (r : RecRef) (accepted : Bool) (st : Status) (detail handle result : Nat) : State :=
  match r.src with
  | .pair q =>
    let body := recBody r.cid q.val accepted st detail handle result
    let p := s.pair q
    if isHost (p.cqNow q) then s.updEci fun e => { e with posts := e.posts ++ [{ q := q, body := body }] }
    else s.cqPut q body
  | .urgent u =>
    let e := recStamp s false 0 (recBody r.cid 0 accepted st detail handle result)
    let s1 := s.updEci fun x => { x with
      urgCpl := x.urgCpl.set u.val e, urgBusy := x.urgBusy.set u.val false, urgDone := x.urgDone.set u.val true }
    match s.session r.session with
    | some x => if x.onPkg then s1 else s1.sendMsix 64
    | none => s1
  | .mgmt =>
    let e := recStamp s false 0 (recBody r.cid 0 accepted st detail handle result)
    { s with mgmt := { s.mgmt with responses := s.mgmt.responses ++ [e] }, out := .completion e }

/-- A final record (R367). -/
def State.final (s : State) (r : RecRef) (st : Status) (detail handle result : Nat) : State :=
  s.record r false st detail handle result

/-- The reservation of an accepted record given back with a refused long operation (R365). -/
def State.unreserve (s : State) (src : Src) : State :=
  match src with
  | .pair q => s.updPair q fun p => { p with reserved := p.reserved - 1 }
  | _ => s

/-- Leading entries with an unknown opcode are refused in their turn (R366, R368). -/
def State.flushBad (s : State) (q : Fin 64) : Nat → State
  | 0 => s
  | n + 1 =>
    if s.eci.waiting.any (·.src == .pair q) then s
    else match (s.pair q).inbox with
      | [] => s
      | e :: l =>
        if knownOpc (opcOf e) then s
        else
          let s1 := s.updPair q fun p => { p with inbox := l }
          State.flushBad (s1.final { src := .pair q, cid := cidOf e } .invalidOpcode 0 0 0) q n

/-- The command at a source has begun or ended: its entry leaves the source (an urgent slot stays BUSY until its
completion). -/
def State.popEntry (s : State) (src : Src) : State :=
  match src with
  | .pair q => s.updPair q fun p => { p with inbox := p.inbox.drop 1 }
  | .urgent _ => s.updEci fun e => { e with arrivals := e.arrivals.drop 1 }
  | .mgmt => s.updEci fun e => { e with arrivals := e.arrivals.drop 1, mgmtInbox := e.mgmtInbox.drop 1 }

/-- After a command of a queue has ended, entries with unknown opcodes behind it are refused. -/
def State.nextBad (s : State) (src : Src) : State :=
  match src with
  | .pair q => s.flushBad q ((s.pair q).inbox.length + 1)
  | _ => s

/-- A command that ends with its final record (R368). -/
def State.endCmd (s : State) (c : Cmd) (st : Status) (detail handle result : Nat) : State :=
  ((s.popEntry c.src).final c.ref st detail handle result).nextBad c.src

/-- DONE with a handle and a result. -/
def State.done (s : State) (c : Cmd) (handle result : Nat) : State := s.endCmd c .done 0 handle result

/-- A refusal: no effect but the record (R367, R388). -/
def State.refuse (s : State) (c : Cmd) (st : Status) (detail : Nat) : State :=
  let s1 := if longOpc (opcOf c.e) then s.unreserve c.src else s
  s1.endCmd c st detail 0 0

/-- A command that has begun and whose final record follows (R368). -/
def State.begin (s : State) (c : Cmd) : State :=
  (s.popEntry c.src).updEci fun e => { e with waiting := e.waiting ++ [c.ref] }

/-- The final record of a command that had begun. -/
def State.finish (s : State) (r : RecRef) (st : Status) (detail handle result : Nat) : State :=
  let s1 := s.updEci fun e => { e with waiting := dropFirst e.waiting (· == r) }
  (s1.final r st detail handle result).nextBad r.src

/-- Results placed at their bit positions in a record. -/
def res (l : List (Nat × Nat)) : Nat := argBits l

/-- The header checks of a queue entry: reserved bits and, for queue entries, SESSION zero (Table 14.4). -/
def headerBad (src : Src) (e : Entry) : Option Nat :=
  if fld e 8 8 ≠ 0 then some 1
  else match src with
    | .pair _ => if fld e 32 16 ≠ 0 then some 4 else if fld e 48 16 ≠ 0 then some 6 else none
    | _ => if fld e 48 16 ≠ 0 then some 6 else none

/-- What R378 and R379 answer for a command of opcode o from a source: none where it is legal. Under the ROM in
FAULTED only five commands are served (R420). -/
def State.conflict (s : State) (o : Nat) (c : Cmd) : Bool :=
  match legalIn o s.eci.devState with
  | .refused => true
  | .accepted => s.boot.romFaulted && !([0x40, 0x42, 0x49, 0x4A, 0x4B].contains o)
  | .urgentOnly => match c.src with
    | .pair _ => true
    | _ => false
  | .moduleOnly => o == 0x4B && BitVec.ofNat 32 (c.f 64 32) != s.moduleId

/-- The command of opcode o at a source: path, session, fields, operator and state are checked in this order
(log 18), each with its refusal, and then its own effect follows. -/
def State.command (s : State) (o : Nat) (src : Src) (fields : Cmd → List FieldSpec) (body : Cmd → State → State) : State :=
  match s.entryAt src with
  | none => s.notDue
  | some e =>
    if opcOf e ≠ o ∨ s.eci.devState = .uninit then s.notDue
    else
      let s := s.ok
      let nobody : Cmd := { src := src, e := e, session := sessionOf e }
      let onPath := match src with
        | .pair _ => true
        | .urgent _ => urgentOpc o
        | .mgmt => mgmtOpc o
      if !onPath then s.refuse nobody .notOnPort 0
      else
        let who := match src with
          | .pair _ => if o = 0x01 ∨ o = 0x03 then some ((s.caller src e).getD { src := src, e := e }) else s.caller src e
          | _ => s.caller src e
        match who with
        | none => s.refuse nobody .noSession 0
        | some c =>
          match (match headerBad src e with
            | some d => some d
            | none => badField e 64 (fields c)) with
          | some d => s.refuse c .invalidField d
          | none =>
            if operatorOpc o && !c.op then s.refuse c .notPermitted 0
            else if s.conflict o c then s.refuse c .stateConflict 0
            else body c s

end Sys2Proof.Machine
end

