-- ==== Sys2Proof/Machine/Eci.lean ====
section
/-!
DEFINITION. The register window of die K, the doorbells, the fetch of submission entries and the delivery of completion
records (sections 14.1, 14.2, 14.7; R338).
-/

namespace Sys2Proof.Machine

/-! ## Registers -/

/-- The registers of Table 14.1; `dead` stands for reserved offsets. -/
inductive RegName where
  | id | version | caps | state | heartbeat | errSummary | urgDoorbell | urgStatus | beat
  | urgEntry (u : Fin 4) (byte : Nat) | urgCpl (u : Fin 4) (byte : Nat)
  | sqBase (q : Fin 64) | cqBase (q : Fin 64) | qCfg (q : Fin 64) | qStatus (q : Fin 64) | sqTail (q : Fin 64)
  | cqHead (q : Fin 64)
  | gustDefault | imbWindow | imbLast | orderMode (k : Fin 40) | devTimeout | cfgLock | capMode
  | halfWide | dead
  deriving DecidableEq, Repr

/-- The register at an offset, accessed with a size (R361): none where the size is another than its own. -/
def regAt (off size : Nat) : Option RegName :=
  let w4 (r : RegName) : Option RegName := if size = 4 then some r else none
  let w8 (base : Nat) (r : RegName) : Option RegName :=
    if size = 8 ∧ off = base then some r else if size = 4 then some .halfWide else none
  if (size ≠ 4 ∧ size ≠ 8) ∨ off % size ≠ 0 then none
  else if off = 0x00 then w4 .id
  else if off = 0x04 then w4 .version
  else if off = 0x08 then w4 .caps
  else if off = 0x10 then w4 .state
  else if off = 0x18 then w4 .heartbeat
  else if off = 0x20 then w4 .errSummary
  else if off = 0x40 then w4 .urgDoorbell
  else if off = 0x44 then w4 .urgStatus
  else if off = 0x48 then w4 .beat
  else if 0x400 ≤ off ∧ off < 0x800 then
    let u : Fin 4 := ⟨(off - 0x400) / 0x100 % 4, by omega⟩
    let b := (off - 0x400) % 0x100
    if b < 0x80 then some (.urgEntry u b) else some (.urgCpl u (b - 0x80))
  else if 0x1000 ≤ off ∧ off < 0x1800 then
    let q : Fin 64 := ⟨(off - 0x1000) / 0x20 % 64, by omega⟩
    let base := 0x1000 + 0x20 * q.val
    let b := (off - 0x1000) % 0x20
    if b < 8 then w8 base (.sqBase q)
    else if b < 0x10 then w8 (base + 8) (.cqBase q)
    else if b = 0x10 then w4 (.qCfg q)
    else if b = 0x14 then w4 (.qStatus q)
    else if b = 0x18 then w4 (.sqTail q)
    else w4 (.cqHead q)
  else if off = 0x2040 then w4 .gustDefault
  else if off = 0x2100 then w4 .imbWindow
  else if off = 0x2108 then w4 .imbLast
  else if 0x2200 ≤ off ∧ off < 0x2340 then
    let k : Fin 40 := ⟨(off - 0x2200) / 8 % 40, by omega⟩
    w8 (0x2200 + 8 * k.val) (.orderMode k)
  else if off = 0x2340 then w4 .devTimeout
  else if off = 0x2348 then w4 .cfgLock
  else if off = 0x2400 then w4 .capMode
  else some .dead

/-- The value of a register (R8: WO and RSVD0 fields read zero); in UNINIT reads return zero (R361). -/
def State.regValue (s : State) (off size : Nat) : RegName → Nat
  | .id => 0x00013200
  | .version => 0x0100 + s.eci.fwRelease.toNat <<< 16
  | .caps => 0x08104C40
  | .state => s.eciState.toNat
  | .heartbeat => s.eci.heartbeat.toNat
  | .errSummary => s.errSummary.toNat
  | .urgStatus => s.urgStatus.toNat
  | .urgEntry u b => fld (pick s.eci.urgEntry u) (8 * b) (8 * size)
  | .urgCpl u b => fld (pick s.eci.urgCpl u) (8 * b) (8 * size)
  | .sqBase q => (s.pair q).sqBase.toNat
  | .cqBase q => (s.pair q).cqNow q
  | .qCfg q =>
    let p := s.pair q
    p.sqLog2.toNat + p.cqLog2.toNat <<< 4 + (if p.enable then 1 <<< 8 else 0) + (if p.irq then 1 <<< 9 else 0)
  | .qStatus q => (s.pair q).status.toNat
  | .gustDefault => s.eci.gustDefault.toNat
  | .imbWindow => (s.dram.imbPending.getD s.dram.imbWindow).toNat
  | .imbLast => s.dram.imbLast.toNat
  | .orderMode k => (pick s.coh.orderMode k).toNat
  | .devTimeout => s.coh.devTimeout.toNat
  | .cfgLock => if s.coh.locked then 2 else 0
  | .capMode => s.pwr.capMode.toNat
  | .halfWide =>
    -- half of a 64-bit register
    let lo := off - off % 8
    let whole := if 0x2200 ≤ lo then (pick s.coh.orderMode ⟨(lo - 0x2200) / 8 % 40, by omega⟩).toNat
      else
        let q : Fin 64 := ⟨(lo - 0x1000) / 0x20 % 64, by omega⟩
        if lo % 0x20 = 0 then (s.pair q).sqBase.toNat else (s.pair q).cqNow q
    bitsAt whole (8 * (off % 8)) 32
  | .urgDoorbell | .beat | .sqTail _ | .cqHead _ | .dead => 0

/-- A read of the window: none where the size is another than the register's (R361). -/
def State.regRead (s : State) (off size : Nat) : Option Nat :=
  (regAt off size).map fun r => if s.eci.devState = .uninit then 0 else s.regValue off size r

/-- A base and size lie in the host window or in the ECI queue area, aligned to 4 KiB (R362). -/
def queueOk (base : W64) (log2 : BitVec 4) : Bool :=
  let b := base.toNat
  let n := 128 * entriesOf log2
  decide (4 ≤ log2.toNat) && decide (log2.toNat ≤ 12) && b % 4096 == 0 &&
    ((decide (hostBase ≤ b) && decide (b + n ≤ hostEnd))
      || (decide (0xFFF8000000 ≤ b) && decide (b + n ≤ 0xFFFC000000)))

def Pair.configOk (p : Pair) : Bool := queueOk p.sqBase p.sqLog2 && queueOk p.cqBase p.cqLog2

/-- ECI_Q_CFG (R363). -/
def Pair.writeCfg (p : Pair) (v : BitVec 32) : Pair :=
  if p.session.isSome then p
  else
    let en := bitAt v.toNat 8
    let p1 := { p with
      sqLog2 := BitVec.ofNat 4 (bitsAt v.toNat 0 4), cqLog2 := BitVec.ofNat 4 (bitsAt v.toNat 4 4), enable := en, irq := bitAt v.toNat 9 }
    if !en then { p1 with active := false }
    else if p.enable then { p1 with active := p.active && p1.configOk }
    else if p1.configOk then
      { p1 with active := true, sqHead := 0, cqTail := 0, phase := true, sqTail := 0, cqHead := 0, reserved := 0, unread := 0, shadowUnread := 0, inbox := [] }
    else { p1 with active := false }

/-- ECI_SQ_TAIL (R364, R375): a tail outside the queue, a pair that is not ACTIVE and a pair of a lost session ignore
the write; the path of the doorbell is kept for ATTACH (R374). -/
def State.writeSqTail (s : State) (q : Fin 64) (v : BitVec 32) (path : Path) : State :=
  let p := s.pair q
  let t := bitsAt v.toNat 0 12
  let lost := match p.session.bind s.session with
    | some x => x.lost
    | none => false
  if !p.active || lost || decide (entriesOf p.sqLog2 ≤ t) then s
  else s.rouse.updPair q fun x => { x with sqTail := BitVec.ofNat 12 t, onPkg := some (match path with
    | .host => false
    | .core _ => true) }

/-- A journalled item's record finds room where U + V + 1 stays within the queue (R365). -/
def Pair.room (p : Pair) : Bool := decide (p.unread + p.reserved + 1 ≤ entriesOf p.cqLog2 - 1)

/-- Journalled items of a REATTACH delivered in order while there is room, then its own record (R387). -/
def State.deliver (s : State) (d : Deliver) : Nat → State
  | 0 => s
  | n + 1 =>
    match (s.eci.delivering.find? (· == d)) with
    | none => s
    | some _ =>
      match d.items with
      | [] =>
        (s.updEci fun e => { e with delivering := dropFirst e.delivering (· == d) }).finish d.ref .done 0 d.handle
          (res [(192, d.pairs)])
      | i :: l =>
        if (s.pair d.q).room then
          let d' := { d with items := l }
          let s1 := s.updPair d.q fun p => { p with reserved := p.reserved + 1 }
          let s2 := s1.updEci fun e => { e with delivering := updFirst e.delivering (· == d) fun _ => d' }
          let body := recBody i.cid i.sqid.toNat false .powerLost 0 0 0
          let s3 := if isHost ((s2.pair d.q).cqNow d.q) then
              s2.updEci fun e => { e with posts := e.posts ++ [{ q := d.q, body := body }] }
            else s2.cqPut d.q body
          State.deliver s3 d' n
        else s

/-- Every delivery that waits on a pair goes on. -/
def State.deliverPair (s : State) (q : Fin 64) : State :=
  match s.eci.delivering.find? (·.q == q) with
  | some d => s.deliver d (d.items.length + 1)
  | none => s

/-- ECI_CQ_HEAD (R365): the head moves over records that have been written; another value has no effect. -/
def State.writeCqHead (s : State) (q : Fin 64) (v : BitVec 32) : State :=
  let p := s.pair q
  let h := bitsAt v.toNat 0 12
  let n := entriesOf p.cqLog2
  let k := (h + n - p.cqHead.toNat) % n
  if !p.active || decide (n ≤ h) || decide (p.unread < k) then s
  else (s.updPair q fun x => { x with
    cqHead := BitVec.ofNat 12 h, unread := x.unread - k, shadowUnread := min x.shadowUnread (x.unread - k) }).deliverPair q

/-- The number of the session of a record, for MSI-X. -/
def State.urgRefuse (s : State) (u : Fin 4) (st : Status) : State :=
  let e := pick s.eci.urgEntry u
  s.final { src := .urgent u, cid := cidOf e, session := sessionOf e } st 0 0 0

/-- ECI_URG_DOORBELL (R383): the slot becomes BUSY and its entry waits ahead of every queue; an opcode that is unknown
or that the urgent path does not accept completes at once. -/
def State.writeUrgDoorbell (s : State) (v : BitVec 32) : State :=
  let u : Fin 4 := ⟨bitsAt v.toNat 0 2, by simp only [bitsAt]; omega⟩
  if pick s.eci.urgBusy u then s
  else
    let o := opcOf (pick s.eci.urgEntry u)
    let s1 := s.updEci fun e => { e with urgBusy := e.urgBusy.set u.val true }
    if !knownOpc o then s1.urgRefuse u .invalidOpcode
    else if !urgentOpc o then s1.urgRefuse u .notOnPort
    else s1.rouse.updEci fun e => { e with arrivals := e.arrivals ++ [.urgent u] }

/-- ECI_BEAT (R375): a session that is lost, or whose interval has run out, is not renewed. -/
def State.writeBeat (s : State) (v : BitVec 32) : State :=
  let id := BitVec.ofNat 16 (bitsAt v.toNat 0 16)
  s.updSession id fun x =>
    if x.lost || (x.beatMs != 0 && decide (x.lastBeat + ms x.beatMs < s.now)) then x else { x with lastBeat := s.now }

/-- ECI_GUST_DEFAULT (R167, Table 6.21). -/
def State.writeGust (s : State) (v : BitVec 32) : State :=
  let g := bitsAt v.toNat 0 17
  if 10 ≤ g ∧ g ≤ 100000 then s.updEci fun e => { e with gustDefault := BitVec.ofNat 32 g } else s

/-- MEM_IMB_WINDOW (R291, Table 10.8): valid writes wait for the next window boundary. -/
def State.writeImbWindow (s : State) (v : BitVec 32) : State :=
  let w := bitsAt v.toNat 0 16
  let th := bitsAt v.toNat 16 3
  let pe := bitsAt v.toNat 20 12
  if 100 ≤ w ∧ w ≤ 10000 ∧ 1 ≤ th ∧ th ≤ 5 ∧ 1 ≤ pe then
    s.updDram fun d => { d with imbPending := some (BitVec.ofNat 32 (w + th <<< 16 + pe <<< 20)) }
  else s

/-- COH_ORDER_MODE (R307). -/
def State.writeOrderMode (s : State) (k : Fin 40) (v : BitVec 64) : State :=
  if s.coh.locked then s else s.updCoh fun c => { c with orderMode := c.orderMode.set k.val v }

/-- COH_CFG_LOCK (Table 11.7). -/
def State.writeLock (s : State) (v : BitVec 32) : State :=
  if bitAt v.toNat 0 then s.updCoh fun c => { c with locked := true } else s

/-- COH_DEV_TIMEOUT (Table 11.8). -/
def State.writeDevTimeout (s : State) (v : BitVec 32) : State :=
  let t := bitsAt v.toNat 0 17
  if 10 ≤ t ∧ t ≤ 100000 then s.updCoh fun c => { c with devTimeout := BitVec.ofNat 32 t } else s

/-- PWR_CAP_MODE (R400): a reserved MODE has no effect at all; the rest waits for the next period boundary. A second
write before that boundary adds its LEARN_CLEAR to the one that waits. -/
def State.writeCapMode (s : State) (v : BitVec 32) : State :=
  if 2 ≤ bitsAt v.toNat 0 2 then s
  else
    let rw := bitsAt v.toNat 0 2 + (bitsAt v.toNat 8 16) <<< 8
    let clr := bitAt v.toNat 4 || (s.pwr.capModeDue.any fun w => bitAt w.toNat 4)
    s.updPwr fun p => { p with
      capMode := BitVec.ofNat 32 rw, capModeDue := some (BitVec.ofNat 32 (rw + if clr then 16 else 0)) }

/-- An entry with w bits from bit lo replaced. -/
def entryPut (lo w v : Nat) (x : Entry) : Entry :=
  BitVec.ofNat 1024 (bitsAt x.toNat 0 lo + ((v % 2 ^ w) <<< lo) + ((x.toNat >>> (lo + w)) <<< (lo + w)))

/-- The write of a register by name; RO and reserved registers ignore it, and bits of
RSVD0 fields are dropped (R8; DESIGN CHOICE, log 99). -/
def State.regStore (s : State) (size v : Nat) (path : Path) : RegName → State
  | .urgDoorbell => s.writeUrgDoorbell (BitVec.ofNat 32 v)
  | .urgStatus =>
    let clr (u : Nat) (d : Bool) : Bool := d && !bitAt v (4 + u)
    s.updEci fun e => { e with urgDone := e.urgDone.mapIdx fun u d => clr u d }
  | .beat => s.writeBeat (BitVec.ofNat 32 v)
  | .urgEntry u b =>
    s.updEci fun e => { e with urgEntry := upd e.urgEntry u (entryPut (8 * b) (8 * size) v) }
  | .sqBase q => s.updPair q fun p =>
      if p.session.isSome then p
      else
        let p1 := { p with sqBase := BitVec.ofNat 64 v }
        { p1 with active := p.active && p1.configOk }
  | .cqBase q => s.updPair q fun p =>
      if p.session.isSome && !p.shadow then p
      else
        let p1 := { p with cqBase := BitVec.ofNat 64 v }
        { p1 with active := p.active && (p.session.isSome || p1.configOk) }
  | .qCfg q => s.updPair q fun p => p.writeCfg (BitVec.ofNat 32 v)
  | .sqTail q => s.writeSqTail q (BitVec.ofNat 32 v) path
  | .cqHead q => s.writeCqHead q (BitVec.ofNat 32 v)
  | .gustDefault => s.writeGust (BitVec.ofNat 32 v)
  | .imbWindow => s.writeImbWindow (BitVec.ofNat 32 v)
  | .orderMode k => s.writeOrderMode k (BitVec.ofNat 64 v)
  | .devTimeout => s.writeDevTimeout (BitVec.ofNat 32 v)
  | .cfgLock => s.writeLock (BitVec.ofNat 32 v)
  | .capMode => s.writeCapMode (BitVec.ofNat 32 v)
  | .id | .version | .caps | .state | .heartbeat | .errSummary | .urgCpl _ _ | .qStatus _ | .imbLast | .halfWide
  | .dead => s

/-- A write of the window (R361): in UNINIT it is discarded; another size faults a core (R308) and answers the host
Unsupported Request. -/
def State.regWrite (s : State) (off size v : Nat) (path : Path) : State :=
  match regAt off size with
  | none => match path with
    | .host => s.answer .unsupportedRequest
    | .core _ => s.answer (.accessFault 7 (registerBase + off))
  | some r => if s.eci.devState = .uninit then s.ok else (s.ok).regStore size v path r

/-! ## Meanings of the register rows -/

/-- A register write that die K serves in every state but UNINIT (R361). -/
def State.served (s : State) (f : State → State) : State := if s.eci.devState = .uninit then s.ok else f s.ok

def execEciSqTail (q : Fin 64) (v : BitVec 32) (path : Path) (s : State) : Res :=
  .next (s.served fun t => t.writeSqTail q v path)
def execEciCqHead (q : Fin 64) (v : BitVec 32) (s : State) : Res := .next (s.served fun t => t.writeCqHead q v)
def execEciQCfg (q : Fin 64) (v : BitVec 32) (s : State) : Res :=
  .next (s.served fun t => t.updPair q fun p => p.writeCfg v)
def execEciUrgDoorbell (v : BitVec 32) (s : State) : Res := .next (s.served fun t => t.writeUrgDoorbell v)
def execEciBeat (v : BitVec 32) (s : State) : Res := .next (s.served fun t => t.writeBeat v)
def execEciGustDefault (v : BitVec 32) (s : State) : Res := .next (s.served fun t => t.writeGust v)
def execMemImbWindow (v : BitVec 32) (s : State) : Res := .next (s.served fun t => t.writeImbWindow v)
def execCohOrderMode (k : Fin 40) (v : BitVec 64) (s : State) : Res := .next (s.served fun t => t.writeOrderMode k v)
def execCohCfgLock (v : BitVec 32) (s : State) : Res := .next (s.served fun t => t.writeLock v)
def execCohDevTimeout (v : BitVec 32) (s : State) : Res := .next (s.served fun t => t.writeDevTimeout v)

/-- A write of PWR_CAP_MODE that selects a MODE, LEARN_CLEAR left 0 (R400, R399). -/
def execCapModeSet (v : BitVec 32) (s : State) : Res :=
  .next (s.served fun t => t.writeCapMode (v &&& ~~~ (16 : BitVec 32)))
/-- A write of PWR_CAP_MODE with LEARN_CLEAR set (R397, R400). -/
def execLearnClear (v : BitVec 32) (s : State) : Res := .next (s.served fun t => t.writeCapMode (v ||| 16))

/-- The HDM decoder commits with one interleave way and a host range aligned to 256 MiB (R332). -/
def execHdmDecoderCommit (ways : Nat) (hostBase hostSize : BitVec 64) (s : State) : Res :=
  let ok := ways = 1 ∧ hostBase.toNat % 0x10000000 = 0 ∧ hostSize.toNat % 0x10000000 = 0
  .next ((s.ok).updCxl fun c =>
    if ok then { c with hdmCommitted := true, hdmError := false, hdmBase := hostBase, hdmSize := hostSize }
    else { c with hdmCommitted := false, hdmError := true })

def execRegisterWrite (offset : BitVec 16) (size : Nat) (v : BitVec 64) (path : Path) (s : State) : Res :=
  .next (s.regWrite offset.toNat size v.toNat path)

/-! ## Fetch (R364, R365, R378) -/

/-- The link carries host-bound traffic: it is up at some width and has not left L0 (R339). -/
def State.linkUp (s : State) : Bool :=
  s.cxl.leftL0.isNone && (match s.cxl.state with
    | .up | .degraded | .pcieOnly => true
    | _ => false)

/-- One host-bound write reaches host memory (R338). -/
def State.egressOut (s : State) (e : Egress) : State := (s.putBytes e.addr e.data).markRange e.addr e.data.length e.mark

/-- The egress queue in issue order, while the link carries traffic (R338, R339). -/
def State.drainEgress (s : State) : State :=
  if s.linkUp then s.cxl.egress.foldl (fun u e => u.egressOut e) (s.updCxl fun c => { c with egress := [] }) else s

/-- Is there a host to lose: the link is up, or trains again after having left L0. -/
def State.linkAlive (s : State) : Bool := s.linkUp || s.cxl.leftL0.isSome

/-- A host-bound write issued (R338): it enters the egress queue; once the host is lost it fails (R341). -/
def State.hostWrite (s : State) (pa : Nat) (data : List Byte) (mark : Mark) (task : Option (Fin 64 × Nat)) (session : BitVec 16) : State :=
  if !s.linkAlive then s
  else s.updCxl fun c => { c with egress := c.egress ++ [{ addr := pa, data := data, mark := mark, task := task, session := session }] }

/-- Room for the records of one more command: U + V + 2 ≤ E − 1 (R365). -/
def Pair.fetchRoom (p : Pair) : Bool := decide (p.unread + p.reserved + 2 ≤ entriesOf p.cqLog2 - 1)

/-- May the next entry of a pair be fetched. -/
def State.fetchable (s : State) (q : Fin 64) : Bool :=
  let p := s.pair q
  p.active && !p.stopped && p.sqHead != p.sqTail && p.fetchRoom && (!isHost p.sqBase.toNat || s.linkUp)

/-- The first pair from a start on, cyclically, that has an entry to fetch. -/
def State.nextFetch (s : State) : Option (Fin 64) :=
  (List.finRange 64).map (fun i => s.eci.rrNext + i) |>.find? s.fetchable

/-- The device fetches one entry of pair q. -/
def State.fetch (s : State) (q : Fin 64) : State :=
  let p := s.pair q
  let e : Entry := BitVec.ofNat 1024 (s.word (p.sqBase.toNat + 128 * p.sqHead.toNat) 128)
  let s1 := s.updPair q fun x => { x with
    sqHead := if x.sqHead.toNat + 1 = entriesOf x.sqLog2 then 0 else x.sqHead + 1,
    reserved := x.reserved + (if longOpc (opcOf e) then 2 else 1), inbox := x.inbox ++ [e] }
  (s1.updEci fun x => { x with rrNext := q + 1 }).nextBad (.pair q)

def execSqFetch (s : State) : Res :=
  .next (
    let dev := s.eci.devState
    if dev = .uninit ∨ dev = .booting ∨ dev = .updating then s.notDue
    else if s.eci.arrivals ≠ [] ∨ s.pwr.sleep ≠ .awake then s.waits
    else match s.nextFetch with
      | some q => s.ok.fetch q
      | none => s.notDue)

end Sys2Proof.Machine
end

