-- ==== Sys2Proof/Machine/Flash.lean ====
section
/-!
DEFINITION. The flash behind its translation layer: installed copies, the pages that hold their pieces, wear, and checks (R248, R262,
R264, R265).
-/

namespace Sys2Proof.Machine

/-- The usable flash area in frames (R262). -/
def flashCapacity : Nat := 58720256

/-- Bytes of a piece and of the page that holds it, pages of a block, blocks of the 128 TiB of raw capacity (R262, R264; log 32). -/
def pieceBytes : Nat := 0x10000
def blockPages : Nat := 32
def rawBlocks : Nat := 67108864

/-! ## CRC-64 (R248) -/

/-- One byte under the ECMA-182 polynomial. -/
def crc64Step (c : W64) (b : Byte) : W64 :=
  (List.range 8).foldl (fun x _ => if x.getLsbD 63 then x <<< 1 ^^^ 0x42F0E1EBA9EA3693 else x <<< 1) (c ^^^ b.setWidth 64 <<< 56)

/-- CRC-64 of a list of bytes (log 92). -/
def crc64 (l : List Byte) : W64 := l.foldl crc64Step 0

/-! ## Pieces and blocks (R264) -/

def State.pieceAt (s : State) (k : Nat) : Option Piece := s.tiers.pieces.find? (·.piece == k)

/-- The bytes of a frame's copy, and of one of its pieces, in flash. -/
def State.flashBytes (s : State) (place : Nat) : List Byte :=
  (List.range Config.frameBytes).map fun i => (s.tiers.flash.lookup (place * Config.frameBytes + i)).getD 0
def State.flashPiece (s : State) (k : Nat) : List Byte :=
  (List.range pieceBytes).map fun i => (s.tiers.flash.lookup (k * pieceBytes + i)).getD 0

/-- The block of the page that holds a piece. -/
def Piece.block (p : Piece) : Nat := p.page / blockPages

/-- The flash blocks that hold pieces of installed frames, and of copies that wait for a switch. -/
def State.flashBlocks (s : State) : List Nat := (s.tiers.pieces.map Piece.block).eraseDups

def State.blockOf (s : State) (k : Nat) : FBlock := (s.tiers.blocks.find? (·.id == k)).getD { id := k }

def State.updBlock (s : State) (k : Nat) (f : FBlock → FBlock) : State :=
  s.updTiers fun t => { t with blocks := if t.blocks.any (·.id == k) then updFirst t.blocks (·.id == k) f else t.blocks ++ [f { id := k }] }

/-- The blocks of a frame's copy, each read once more (R265). -/
def State.readFlash (s : State) (place : Nat) (f : FBlock → FBlock) : State :=
  (((s.tiers.pieces.filter fun p => p.piece / 32 == place).map Piece.block).eraseDups).foldl (fun u b =>
    u.updBlock b fun x => f { x with reads := x.reads + 1 }) s

/-- The least-worn free block, the lowest among equals (R264; log 32). -/
def State.freshBlock (s : State) : Nat :=
  let used := s.flashBlocks
  let worn := s.tiers.blocks.filter fun b => !used.contains b.id
  let new := (firstNat (fun i => !used.contains i && !(s.tiers.blocks.any (·.id == i))) 0 rawBlocks).getD rawBlocks
  match minBy (fun b : FBlock => b.erases * 2 ^ 40 + b.id) worn with
  | some b => if rawBlocks ≤ new ∨ (b.erases = 0 ∧ b.id < new) then b.id else new
  | none => new

/-- Average program/erase count over the blocks in use, in whole cycles. -/
def State.averageErases (s : State) : Nat :=
  let n := s.flashBlocks.length
  if n = 0 then 0 else (s.flashBlocks.foldl (fun a k => a + (s.blockOf k).erases) 0) / n

/-- A block that holds nothing more is erased: a program/erase cycle ends, its reads start anew (R264, R265). -/
def State.eraseBlock (s : State) (b : Nat) : State :=
  let s1 := s.updBlock b fun x => { x with reads := 0, erases := x.erases + 1, relocate := false }
  s1.updTiers fun t => { t with eraseAverage := s1.averageErases }

/-- The pieces of n frames from a place leave flash; blocks that held them are erased. -/
def State.dropCopy (s : State) (place n : Nat) : State :=
  let own (p : Piece) : Bool := inRange (32 * place) (32 * n) p.piece
  let blocks := ((s.tiers.pieces.filter own).map Piece.block).eraseDups
  blocks.foldl (fun u b => if u.flashBlocks.contains b then u else u.eraseBlock b)
    (s.updTiers fun t => { t with
      pieces := t.pieces.filter fun p => !own p, flash := t.flash.drop (inRange (place * Config.frameBytes) (n * Config.frameBytes)) })

/-- One frame's data from an address to its place: its pieces go to the pages of a fresh block. -/
def State.writeFrame (s : State) (src place : Nat) : State :=
  let b := s.freshBlock
  let s1 := s.updTiers fun t => { t with
    flash := (List.range Config.frameBytes).foldl (fun m k => Memory.put m (place * Config.frameBytes + k) (s.byteAt (src + k))) t.flash }
  (s1.updTiers fun t => { t with pieces := t.pieces ++ (List.range 32).map fun i =>
    { piece := 32 * place + i, page := blockPages * b + i, crc := crc64 (s1.flashPiece (32 * place + i)) } }).updBlock b fun x => { x with lastScan := s.now }

/-- Data of an install, frame by frame, to its place in flash (R262). -/
def State.writeFlash (s : State) (src place : Nat) : Nat → State
  | 0 => s
  | n + 1 => State.writeFlash (s.writeFrame src place) (src + Config.frameBytes) (place + 1) n

/-- The CRC-64 of each of n frames from a place (R262). -/
def State.frameCrcs (s : State) (place n : Nat) : List W64 := (List.range n).map fun i => crc64 (s.flashBytes (place + i))

/-! ## Relocation (R264, R265) -/

/-- One page copied to the same place of a fresh block: the mapping switches once the copy's CRC matches; no content changes. -/
def State.movePage (s : State) (fresh : Nat) (p : Piece) : State :=
  if crc64 (s.flashPiece p.piece) = p.crc then
    s.updTiers fun t => { t with pieces := updFirst t.pieces (· == p) fun x => { x with page := blockPages * fresh + p.page % blockPages } }
  else s

/-- A block's valid pages moved to a fresh block, page by page; the block is erased once it holds none (R265). -/
def State.relocateBlock (s : State) (k : Nat) : State :=
  let fresh := s.freshBlock
  let s1 := (s.tiers.pieces.filter fun p => p.block == k).foldl (fun u p => u.movePage fresh p) s
  let s2 := s1.updBlock fresh fun x => { x with lastScan := s.now }
  if s2.flashBlocks.contains k then s2 else s2.eraseBlock k

/-- A block read once by the background scrub: a retry it needed, or its corrected bits, name it for relocation (R265). -/
def State.scanBlock (s : State) (k : Nat) (named : Bool) : State :=
  (s.updBlock k fun b => { b with reads := b.reads + 1, lastScan := s.now, relocate := b.relocate || named }).count .drizzleScanned

/-- 14 days, in ns. -/
def scanPeriod : Nat := 14 * 86400000000000

/-- Blocks that the background scrub has not read for 14 days are read now (R265). -/
def State.scanDue (s : State) : State :=
  (s.flashBlocks.filter fun k => decide ((s.blockOf k).lastScan + scanPeriod ≤ s.now)).foldl (fun u k => u.scanBlock k false) s

/-- The states of a rewritten object's frames end: unreadable copies and poison; its WEIGHT frames leave the pool when the
copies switch, and lifts of the old copy end with them (R260, R263). -/
def State.renewObject (s : State) (m : BitVec 32) (obj : Nat) (dropFrames : Bool) : State :=
  let own (f : FrameId) : Bool := f.model == m && f.obj == obj
  s.updTiers fun t => { t with
    unreadable := t.unreadable.filter fun f => !own f
    weights := t.weights.filter fun w => !(own w.fid && (w.st == .poisoned || dropFrames))
    lifts := if dropFrames then t.lifts.filter fun l => !own l.fid || l.transit.isSome else t.lifts
    frames := if dropFrames then t.frames.filter fun f => !(f.cls == .weight && f.fid.any own) else t.frames }

/-- A copy of object i of a model stands at a place of flash, with the CRC-64 of each frame; an older copy leaves flash (R248, R263). -/
def State.nowInstalled (s : State) (m : BitVec 32) (i : Nat) (o : WObject) (place : Nat) : State :=
  let c : Installed := { model := m, obj := i, frames := o.frames, place := place, digest := o.digest, crcs := s.frameCrcs place o.frames }
  let old := s.tiers.installed.filter fun x => x.model == m && x.obj == i
  (old.foldl (fun u x => u.dropCopy x.place x.frames) s).updTiers fun t => { t with installed := (t.installed.filter fun x => !(x.model == m && x.obj == i)) ++ [c] }

/-- A step boundary of a loaded model: the objects written while it was loaded switch to their new copies (R263). -/
def State.switchCopies (s : State) (m : Model) : State :=
  (m.switching.foldl (fun u x => match m.manifest.objects[x.1]? with
    | none => u
    | some o => (u.nowInstalled m.id x.1 o x.2).renewObject m.id x.1 true) s).updModel m.id fun x => { x with switching := [] }

end Sys2Proof.Machine
end

