-- ==== Sys2Proof/Machine/Link.lean ====
section
/-!
DEFINITION. Denbel as a sender: routes, the packing of messages and streams into flits, credits, the replay buffer, and peer
requests with their tags (R344 to R352).
-/

namespace Sys2Proof.Machine

/-! ## Routes (R349) -/

/-- Where a message for a module goes: 0-3 DLn, 8 SELF, 15 NONE; without a pod description only this module is known. -/
def State.route (s : State) (d : BitVec 8) : Nat :=
  if d = s.eci.moduleIndex then 8
  else (assoc s.dnb.routes d.toNat).getD 15

def routePort (r : Nat) : Option (Fin 4) := if h : r < 4 then some ⟨r, h⟩ else none

def LinkState.isUp : LinkState → Bool
  | .up | .degraded => true
  | _ => false

/-- A path to a module is up: its port is UP, at full or degraded width. -/
def State.peerUp (s : State) (d : BitVec 8) : Bool :=
  match routePort (s.route d) with
  | some p => (s.port p).state.isUp
  | none => false

/-! ## Flits (Tables 13.7, 13.8) -/

/-- The sixteen bytes of a message header and its data units. -/
def msgBytes (m : Msg) : List Byte :=
  let h := argBits [(0, m.opc.toNat), (8, m.dst.toNat), (16, m.src.toNat), (24, m.vc.toNat), (27, m.hops.toNat),
    (32, m.data.length / 16), (40, m.tag.toNat), (56, m.marks.toNat), (64, m.addr.toNat), (112, m.aux.toNat)]
  leBytes h 16 ++ m.data

/-- Bytes filled with zeros to the 640 of a payload; zero units are NOP messages. -/
def padFlit (l : List Byte) : List Byte := l ++ List.replicate (640 - l.length) 0

def emptyFlit : Flit := { seq := 0, ack := 0, ackv := false, nak := false, kind := 0, stag := 0, crvc := 7, crcnt := 0, payload := [] }

/-- A message in a flit of its own (the packing is DESIGN CHOICE, log 31). -/
def msgFlit (m : Msg) : Flit := { emptyFlit with kind := 1, payload := padFlit (msgBytes m) }
def streamFlit (stag : BitVec 7) (l : List Byte) : Flit := { emptyFlit with kind := 2, stag := stag, payload := padFlit l }

/-- Units a flit costs, and their class: units of 16 bytes of its message's channel, or one stream flit (Table 13.10). -/
def flitCost (f : Flit) : Fin 5 × Nat :=
  if f.kind = 2 then (4, 1)
  else
    let h := leNat (f.payload.take 16)
    (⟨min 3 (bitsAt h 24 3), by omega⟩, 1 + bitsAt h 32 5)

/-- Credits advertised when a port comes UP (Table 13.10). -/
def advertised : Vector Nat 5 := #v[512, 2048, 2048, 128, 256]

/-- The class with credits to return, and how many, at most 63 (R347). -/
def DnbPort.creditDue (p : DnbPort) : Option (Fin 5 × Nat) :=
  ((List.finRange 5).find? fun c => decide (pick p.granted c < pick advertised c)).map fun c => (c, min 63 (pick advertised c - pick p.granted c))

/-- One flit put on the wire: acknowledgement, NAK and credits ride in its header; a sequenced flit takes the next SEQ and
stays in the replay buffer (R345, R347). -/
def DnbPort.put (p : DnbPort) (f : Flit) : DnbPort :=
  let c := flitCost f
  let due := p.creditDue
  let f1 := { f with
    seq := p.txSeq, ack := p.rxSeq - 1, ackv := true, nak := p.nakOwed
    crvc := BitVec.ofNat 3 ((due.map (·.1.val)).getD 7), crcnt := BitVec.ofNat 6 ((due.map (·.2)).getD 0) }
  { p with
    txSeq := p.txSeq + 1, replay := p.replay ++ [f1], nakOwed := false
    credits := upd p.credits c.1 fun n => n - c.2
    granted := match due with
      | some d => upd p.granted d.1 fun n => n + d.2
      | none => p.granted }

/-- Flits leave a port while it is UP, credits last and fewer than 512 are unacknowledged (R345, R347). -/
def DnbPort.drain (p : DnbPort) : Nat → DnbPort
  | 0 => p
  | n + 1 =>
    match p.sendQ with
    | [] => p
    | f :: l =>
      if p.state.isUp && decide (p.replay.length < 512) && decide ((flitCost f).2 ≤ pick p.credits (flitCost f).1) then
        DnbPort.drain ({ p with sendQ := l }.put f) n
      else p

/-- The lowest stream tag that no stream on this link has. -/
def DnbPort.freeTag (p : DnbPort) : BitVec 7 :=
  (((List.range 128).map (BitVec.ofNat 7)).find? fun t => !p.txTags.any (·.1 == t)).getD 0

def DnbPort.tagFor (p : DnbPort) (src d : BitVec 8) (tag : BitVec 16) : BitVec 7 :=
  ((p.txTags.find? fun t => t.2 == (src, d, tag)).map (·.1)).getD 0

def State.drainPort (s : State) (p : Fin 4) : State := s.updPort p fun x => x.drain (x.sendQ.length)

/-- Messages in issue order to their ports; one whose entry is NONE is discarded and counted, one for a destination that
changes its route waits (R348 to R350). A message for this module itself stays for its own arrival. -/
def State.flushOutbox (s : State) : State :=
  let go (u : State) (m : Msg) : State :=
    if u.dnb.switching.contains m.dst.toNat then u.updDnb fun d => { d with outbox := d.outbox ++ [m] }
    else match routePort (u.route m.dst) with
      | some p => u.updPort p fun x => { x with sendQ := x.sendQ ++ [msgFlit m] }
      | none => if u.route m.dst = 8 then u else u.count .dnbUnroutable
  s.dnb.outbox.foldl go (s.updDnb fun d => { d with outbox := [] })

/-- Everything that can leave does. -/
def State.pump (s : State) : State := (List.finRange 4).foldl (fun u p => u.drainPort p) s.flushOutbox

/-- A Denbel message that this module sends, in issue order (R348). -/
def State.send (s : State) (m : Msg) : State := s.updDnb fun d => { d with outbox := d.outbox ++ [m] }

/-- A message issued and sent as far as it can go. -/
def State.sendNow (s : State) (m : Msg) : State := (s.send m).pump

/-- Stream flits for a module follow the messages issued before them, under the tag that their stream has on the link. -/
def State.sendStream (s : State) (d src : BitVec 8) (tag : BitVec 16) (l : List (List Byte)) : State :=
  let s1 := s.flushOutbox
  match routePort (s1.route d) with
  | some p => (s1.updPort p fun x => { x with sendQ := x.sendQ ++ l.map (streamFlit ((s1.port p).tagFor src d tag)) }).pump
  | none => s1

/-- STREAM_OPEN takes the lowest free stream tag of the link that a stream leaves by (R346). -/
def State.takeTag (s : State) (d src : BitVec 8) (tag : BitVec 16) : BitVec 7 × State :=
  match routePort (s.route d) with
  | some p => ((s.port p).freeTag, s.updPort p fun x => { x with txTags := x.txTags ++ [(x.freeTag, src, d, tag)] })
  | none => (0, s)

/-- STREAM_END gives a stream's tag back. -/
def State.dropTag (s : State) (d src : BitVec 8) (tag : BitVec 16) : State :=
  match routePort (s.route d) with
  | some p => s.updPort p fun x => { x with txTags := x.txTags.filter fun t => t.2 != (src, d, tag) }
  | none => s

/-! ## Peer requests (R351, R352) -/

/-- The target module and address of a physical address in a peer window; none where the page is absent (R351). -/
def State.peerTarget (s : State) (pa : Nat) : Option (BitVec 8 × Nat) :=
  if !isPeer pa then none
  else
    let o := pa - peerBase
    let i := o / 0x40000000000
    let a := o % 0x40000000000
    let named : Nat := ((s.eci.pod.map (·.targets)).getD []).getD i 0xFF
    let near : Nat := (s.eci.pod.map fun d => d.neighbours.getD (i / 4) 0xFF).getD 0xFF
    let t : Nat := if named = 0xFF ∧ i % 4 = 0 then near else named
    if t = 0xFF ∨ 0x30000000000 ≤ a then none else some (BitVec.ofNat 8 t, a)

/-- A peer request with a fresh tag (R346, R352); `base` is the window address that a read starts at. -/
def State.peerAsk (s : State) (dst : BitVec 8) (what : PeerWhat) (base : Nat) (msg : BitVec 16 → Msg) : State :=
  let tag := s.dnb.nextTag
  let m := msg tag
  let r : PeerReq := { tag := tag, dst := dst, what := what, since := s.now, base := base, chunks := if m.opc = 0x03 then m.aux.toNat else 0 }
  (s.updDnb fun d => { d with nextTag := d.nextTag + 1, reqs := d.reqs ++ [r] }).sendNow m

def State.peerRequest (s : State) (dst : BitVec 8) (what : PeerWhat) (msg : BitVec 16 → Msg) : State := s.peerAsk dst what 0 msg

/-- A WR message: whole 64-byte chunks with their marks; data of other lengths goes as masked WRP writes. -/
def wrMsg (self dst : BitVec 8) (tag : BitVec 16) (addr : Nat) (marks : Nat) (data : List Byte) : Msg :=
  { opc := 0x01, dst := dst, src := self, vc := 1, hops := 0, tag := tag, marks := BitVec.ofNat 8 marks, addr := BitVec.ofNat 48 addr, aux := 0, data := data }

def wrpMsg (self dst : BitVec 8) (tag : BitVec 16) (addr : Nat) (marks mask : Nat) (data : List Byte) : Msg :=
  { opc := 0x02, dst := dst, src := self, vc := 1, hops := 0, tag := tag, marks := BitVec.ofNat 8 marks, addr := BitVec.ofNat 48 addr, aux := 0, data := leBytes mask 8 ++ leBytes 0 8 ++ data }

/-- The codes of marks in headers (R255). -/
def markCode : Mark → Nat
  | .none => 0 | .late => 1 | .unreadable => 2

def markOfCode : Nat → Mark
  | 1 => .late | 0 => .none | _ => .unreadable

/-- Bytes written to a peer: one WR or WRP message per 64-byte chunk (DESIGN CHOICE, log 31). -/
def State.peerWrite (s : State) (dst : BitVec 8) (addr : Nat) (data : List Byte) (mark : Mark) (task : Option (Fin 64 × Nat)) : State :=
  (chunksOf addr data.length).foldl (fun u c =>
    let lo := max c addr
    let hi := min (c + 64) (addr + data.length)
    let part := (data.drop (lo - addr)).take (hi - lo)
    u.peerRequest dst (.write task) fun tag =>
      if hi - lo = 64 then wrMsg u.eci.moduleIndex dst tag c (markCode mark) part
      else wrpMsg u.eci.moduleIndex dst tag c (markCode mark) ((2 ^ (hi - lo) - 1) * 2 ^ (lo - c))
        (List.replicate (lo - c) 0 ++ part ++ List.replicate (c + 64 - hi) 0)) s

def rdMsg (self dst : BitVec 8) (tag : BitVec 16) (addr chunks : Nat) : Msg :=
  { opc := 0x03, dst := dst, src := self, vc := 0, hops := 0, tag := tag, marks := 0, addr := BitVec.ofNat 48 addr, aux := BitVec.ofNat 16 chunks, data := [] }

def streamOpenMsg (self dst : BitVec 8) (tag : BitVec 16) (length purpose xfer : Nat) (stag : BitVec 7) : Msg :=
  { opc := 0x07, dst := dst, src := self, vc := 3, hops := 0, tag := tag, marks := 0, addr := 0, aux := stag.setWidth 16,
    data := leBytes length 8 ++ leBytes purpose 4 ++ leBytes xfer 4 }

def streamEndMsg (self dst : BitVec 8) (tag : BitVec 16) (status : Nat) : Msg :=
  { opc := 0x08, dst := dst, src := self, vc := 3, hops := 0, tag := tag, marks := 0, addr := 0, aux := BitVec.ofNat 16 status, data := [] }

/-- The stream of a long operation ends with a status (Table 13.9), and with it the wait for its acknowledgement. -/
def State.endStream (s : State) (op status : Nat) : State :=
  match s.dnb.reqs.find? fun r => r.what == .stream op with
  | none => s
  | some r =>
    let self := s.eci.moduleIndex
    let s1 := s.updDnb fun d => { d with reqs := d.reqs.filter fun x => x.what != .stream op }
    (s1.sendNow (streamEndMsg self r.dst r.tag status)).dropTag r.dst self r.tag

/-- Purposes of a stream: the answer to a LIFT, and key-value data (the codes are DESIGN CHOICE, log 22). -/
def purposeLift : Nat := 0
def purposeKv : Nat := 1

end Sys2Proof.Machine
end

