-- ==== Sys2Proof/Machine/Pool.lean ====
section
/-!
DEFINITION. The shared pool: frames, classes, charges, eviction and the places of key-value block sets (sections 9.2, 9.3).
-/

namespace Sys2Proof.Machine

/-- The physical address of HBM frame f (R240). -/
def frameAddr (f : Nat) : Nat := hbmBase + f * Config.frameBytes

/-! ## Charges (R241, R242) -/

def State.tenant (s : State) (t : BitVec 32) : Tenant := (s.eci.tenants.find? (·.id == t)).getD { id := t }

def State.updTenant (s : State) (t : BitVec 32) (f : Tenant → Tenant) : State :=
  s.updEci fun e =>
    if e.tenants.any (·.id == t) then { e with tenants := updFirst e.tenants (·.id == t) f }
    else { e with tenants := e.tenants ++ [f { id := t }] }

def State.pinnedOf (s : State) (t : BitVec 32) : Nat :=
  (s.tiers.frames.filter fun f => f.tenant == t && f.cls == .pinned).length
def State.weightOf (s : State) (t : BitVec 32) : Nat :=
  (s.tiers.frames.filter fun f => f.tenant == t && f.cls == .weight).length
/-- Key-value sub-frames of a tenant in the pool, and in the overflow area. -/
def State.kvHbm (s : State) (t : BitVec 32) : Nat :=
  (s.srv.blocks.filter fun b => b.tenant == t && b.inPool).foldl (fun n b => n + b.places.length) 0
def State.kvLow (s : State) (t : BitVec 32) : Nat :=
  (s.srv.blocks.filter fun b => b.tenant == t && !b.inPool).foldl (fun n b => n + b.places.length) 0

/-- A tenant's pool use: PINNED + WEIGHT + ⌈KV_HBM / 32⌉ (R242). -/
def State.poolUse (s : State) (t : BitVec 32) : Nat := s.pinnedOf t + s.weightOf t + cdiv (s.kvHbm t) 32

def State.ceilingOf (s : State) (t : BitVec 32) : Nat := (s.tenant t).ceiling.getD s.tiers.poolSize

/-- Weight frames of a model (R242). -/
def State.modelWeight (s : State) (m : BitVec 32) : Nat :=
  (s.tiers.frames.filter fun f => f.model == m && f.cls == .weight).length

/-! ## Taking a frame (R244) -/

/-- Does a registered region cover part of a frame: it keeps the frame from other use (R237, R334; log 21). -/
def State.underRegion (s : State) (f : Nat) : Bool :=
  s.eci.regions.any fun r => decide (r.base < frameAddr f + Config.frameBytes) && decide (frameAddr f < r.base + r.pages * 4096)

/-- The lowest free pool frame that meets a wish (DESIGN CHOICE, log 21). -/
def State.freeFrameFor (s : State) (p : Nat → Bool) : Option Nat :=
  firstNat (fun f => !s.tiers.frames.any (·.frame == f) && !s.underRegion f && p f) Config.fwFrames s.tiers.poolSize

/-- The lowest free pool frame. -/
def State.freeFrame (s : State) : Option Nat := s.freeFrameFor fun _ => true

/-- Block sets that have a sub-frame in a pool frame. -/
def State.blocksIn (s : State) (f : Nat) : List BlockSet :=
  s.srv.blocks.filter fun b => b.inPool && b.places.any fun p => inRange (frameAddr f) Config.frameBytes p

/-- A sequence of a model that holds a block set in its table. -/
def Seq.holds (q : Seq) (b : BlockSet) : Bool := q.model == b.model && q.table.contains b.sub

/-- Is a step of a sequence dispatched and not ended (R238). -/
def State.seqRunning (s : State) (m : BitVec 32) (h : Nat) : Bool :=
  s.srv.chains.any fun c => c.model == m && c.run.any fun r => r.items.any fun i => i.seq == some h

/-- May a block set be demoted now: no running step of a sequence that holds it (R238), and no import into it (R213). -/
def State.demotable (s : State) (b : BlockSet) : Bool :=
  !(s.srv.seqs.any fun q => q.holds b && (q.importing || s.seqRunning q.model q.handle))

/-- Is a block set held only by the prefix directory, by an entry that may be evicted (R209). -/
def State.dirOnly (s : State) (b : BlockSet) : Bool :=
  !(s.srv.seqs.any (·.holds b)) &&
    (s.srv.dir.any fun d => d.model == b.model && d.sub == b.sub && d.refs == 0 && d.children == 0)

/-- The overflow area: LPDDR5X that firmware assigns to nothing else (R240; its base is DESIGN CHOICE, log 21). -/
def overflowBase : Nat := 0x8000000000
def overflowSubs : Nat := (coreWindows - 0x8000000000) / 0x10000

/-- The host-visible windows of the pod description (Table 14.12). -/
def State.hostWindows (s : State) : List (Nat × Nat) := (s.eci.pod.map (·.windows)).getD []

/-- Overflow sub-frames that are free, n of them: not in use, not in a region, not in a host-visible window. -/
def State.freeOverflow (s : State) (n : Nat) : Option (List Nat) :=
  let used := s.tiers.overflow
  let clash (a : Nat) : Bool :=
    used.contains a || s.eci.regions.any (fun r => decide (r.base < a + Config.subBytes) && decide (a < r.base + r.pages * 4096))
      || s.hostWindows.any (fun w => decide (w.1 < a + Config.subBytes) && decide (a < w.1 + w.2 * Config.frameBytes))
  let rec go (k lo : Nat) : Nat → Option (List Nat)
    | 0 => if k = 0 then some [] else none
    | fuel + 1 =>
      if k = 0 then some []
      else
        let a := overflowBase + lo * Config.subBytes
        if clash a then go k (lo + 1) fuel else (go (k - 1) (lo + 1) fuel).map (a :: ·)
  go n 0 overflowSubs

/-- Is a read registered on a weight frame that has not had its data yet (R245). -/
def State.readInFlight (s : State) (fid : FrameId) : Bool := s.tiers.waits.any fun w => w.fid == fid && !w.late && !w.bad

/-- Candidates of R244: never PINNED, never a frame with a read in flight, never LIFTING, for a prefetch never one that a
running step has read, and a KV frame only when its block sets can be freed or demoted; never a frame that a region keeps. -/
def State.candidate (s : State) (prefetch : Bool) (f : PoolFrame) : Bool :=
  !s.underRegion f.frame && match f.cls with
  | .pinned => false
  | .weight =>
    !(f.fid.any s.readInFlight) && !(prefetch && f.stepRead) &&
      !(s.tiers.weights.any fun w => w.frame == some f.frame && w.st == .lifting)
  | .kv =>
    let bs := s.blocksIn f.frame
    let move := bs.filter fun b => !s.dirOnly b
    !(prefetch && f.stepRead) && bs.all (fun b => s.dirOnly b || (s.demotable b && !b.demoting))
      && (s.freeOverflow (move.foldl (fun n b => n + b.subs) 0)).isSome

/-- The age stamp of a block set: its directory entry's where only the directory holds it (R209, R243). -/
def State.blockStamp (s : State) (b : BlockSet) : Nat :=
  if s.dirOnly b then ((s.srv.dir.find? fun d => d.model == b.model && d.sub == b.sub).map (·.stamp)).getD b.stamp else b.stamp

/-- The age stamp of a frame: its own for a weight frame, the newest of its block sets for a KV frame (log 21). -/
def State.stampOf (s : State) (f : PoolFrame) : Nat :=
  match f.cls with
  | .kv => (s.blocksIn f.frame).foldl (fun m b => max m (s.blockStamp b)) 0
  | _ => f.stamp

/-- The oldest stamp first, the lowest frame among equals (R244). -/
def State.oldest (s : State) (l : List PoolFrame) : Option PoolFrame :=
  minBy (fun f => s.stampOf f * 2 ^ 24 + f.frame) l

/-- The sub-frames of a block set leave the pool; a frame with none left is free. -/
def State.freeSubs (s : State) (places : List Nat) : State :=
  let left (f : PoolFrame) : PoolFrame :=
    if f.cls == .kv then
      { f with subs := f.subs.filter fun k => !places.contains (frameAddr f.frame + k * Config.subBytes) }
    else f
  s.updTiers fun t => { t with frames := (t.frames.map left).filter fun f => f.cls != .kv || !f.subs.isEmpty }

/-- A directory entry is removed with its block set: its parent has one child fewer (R209). -/
def State.dropEntry (s : State) (d : DirEntry) : State :=
  s.updSrv fun v => { v with
    dir := updWhere (v.dir.filter fun x => x.id != d.id) (fun x => some x.id == d.parent) fun x => { x with children := x.children - 1 } }

/-- A block set is freed: its sub-frames, in either tier, are given back. -/
def State.freeBlock (s : State) (m : BitVec 32) (sub : Nat) : State :=
  match s.srv.blocks.find? (fun b => b.model == m && b.sub == sub) with
  | none => s
  | some b =>
    let s1 := s.updSrv fun v => { v with blocks := v.blocks.filter fun x => !(x.model == m && x.sub == sub) }
    if b.inPool then s1.freeSubs b.places
    else s1.updTiers fun t => { t with overflow := t.overflow.filter fun a => !b.places.contains a }

/-- Evicting one frame (R241, R244): a WEIGHT frame is dropped and its state becomes ABSENT; in a KV frame, block sets
that only the directory holds are freed and the others begin to be demoted. -/
def State.evictFrame (s : State) (f : PoolFrame) : State :=
  let s1 := (s.count .poolEvict).updTenant f.tenant fun t => { t with evicted := t.evicted + 1 }
  match f.cls with
  | .pinned => s
  | .weight => s1.updTiers fun t => { t with
      frames := t.frames.filter fun x => x.frame != f.frame, weights := t.weights.filter fun w => w.frame != some f.frame }
  | .kv =>
    let bs := s.blocksIn f.frame
    let s2 := (bs.filter s.dirOnly).foldl (fun u b =>
      let u1 := match u.srv.dir.find? (fun d => d.model == b.model && d.sub == b.sub) with
        | some d => u.dropEntry d
        | none => u
      u1.freeBlock b.model b.sub) s1
    let move := (bs.filter fun b => !s.dirOnly b).map fun b => (b.model, b.sub)
    s2.updSrv fun v => { v with blocks := updWhere v.blocks (fun b => move.contains (b.model, b.sub)) fun b => { b with demoting := true } }

/-- What a request for a frame comes to (R244). -/
inductive Took where
  | got (f : Nat)
  /-- The demotion that frees a frame for it is under way: it waits for the copy's end. -/
  | coming
  /-- No candidate: it waits, or, for a prefetch, is not accepted. -/
  | none
  deriving DecidableEq, Repr

/-- KV frames that satisfy a test and that a demotion under way empties. -/
def State.vacating (s : State) (p : PoolFrame → Bool) : Nat :=
  (s.tiers.frames.filter fun f => f.cls == .kv && p f && (s.blocksIn f.frame).any (·.demoting)).length

/-- The oldest candidate that satisfies a test, evicted. Demotions under way serve the requests ahead first: only a request that they do
not serve starts another (log 21). -/
def State.takeFrom (s : State) (p : PoolFrame → Bool) (prefetch : Bool) (ahead : Nat) : Took × State :=
  if ahead < s.vacating p then (.coming, s)
  else match s.oldest (s.tiers.frames.filter fun f => s.candidate prefetch f && p f) with
    | none => (.none, s)
    | some f =>
      let s1 := s.evictFrame f
      if s1.tiers.frames.any (·.frame == f.frame) then (.coming, s1) else (.got f.frame, s1)

/-- Does a frame's tenant use more than its floor. -/
def State.aboveFloor (s : State) (f : PoolFrame) : Bool := decide ((s.tenant f.tenant).floor < s.poolUse f.tenant)

/-- A frame for any request that no ceiling restricts (R244, order 3): a free one, else that of the oldest candidate. -/
def State.takeFrame (s : State) (prefetch : Bool) (ahead : Nat) : Took × State :=
  match s.freeFrame with
  | some f => (.got f, s)
  | none => s.takeFrom s.aboveFloor prefetch ahead

/-- Lifts that wait for a frame. -/
def State.waitingLifts (s : State) : Nat := (s.tiers.lifts.filter fun l => l.frame.isNone && l.transit.isNone).length

def State.addFrame (s : State) (f : PoolFrame) : State := s.updTiers fun t => { t with frames := t.frames ++ [f] }

/-- A frame for a weight lift of a model (R244, orders 2 and 3): past a ceiling only the model's own frames count, past its WEIGHT_CEILING
its WEIGHT frames (log 21). -/
def State.takeWeight (s : State) (m : Model) (prefetch : Bool) (ahead : Nat) : Took × State :=
  let full := decide (m.weightCeiling.getD s.tiers.poolSize < s.modelWeight m.id + 1)
  if full || decide (s.ceilingOf m.tenant < s.poolUse m.tenant + 1) then
    s.takeFrom (fun f => f.model == m.id && (!full || f.cls == .weight)) prefetch ahead
  else s.takeFrame prefetch ahead

/-! ## Moving a block set (R238) -/

/-- A block set copied to new places with its marks; each granule written counts a generation (R238, R266). -/
def State.moveBlock (s : State) (b : BlockSet) (places : List Nat) : State :=
  (b.places.zip places).foldl (fun u p =>
    let marks := (chunksOf p.1 Config.subBytes).map u.markAt
    let u1 := (((u.copy p.1 p.2 Config.subBytes).bumpGen p.2).dramUse 3 false p.1 Config.subBytes).dramUse 3 true p.2 Config.subBytes
    ((chunksOf p.2 Config.subBytes).zip marks).foldl (fun v c => v.setMark c.1 c.2) u1) s

def State.setBlock (s : State) (b : BlockSet) (f : BlockSet → BlockSet) : State :=
  s.updSrv fun v => { v with blocks := updFirst v.blocks (fun x => x.model == b.model && x.sub == b.sub) f }

/-- A block set copied to the overflow area, its pool frame freed. -/
def State.demoteBlock (s : State) (b : BlockSet) (places : List Nat) : State :=
  let s1 := s.moveBlock b places
  let s2 := (s1.setBlock b fun x => { x with demoting := false, inPool := false, places := places }).freeSubs b.places
  let s3 := (s2.updTiers fun t => { t with overflow := t.overflow ++ places }).count .kvDemote
  s3.updTenant b.tenant fun t => { t with demoted := t.demoted + 1 }

/-- The block sets of a frame demoted at once. -/
def State.vacate (s : State) (f : Nat) : State :=
  (s.blocksIn f).foldl (fun u b => match u.freeOverflow b.places.length with
    | some l => u.demoteBlock b l
    | none => u) s

/-- A frame for a request that does not wait (R242): a free one, else the oldest candidate's, its block sets demoted there and then. -/
def State.takeAtOnce (s : State) (wish : Nat → Bool) : Option Nat × State :=
  match s.freeFrameFor wish with
  | some f => (some f, s)
  | none => match s.oldest (s.tiers.frames.filter fun f => s.candidate false f && s.aboveFloor f && wish f.frame) with
    | none => (none, s)
    | some f =>
      let s1 := (s.evictFrame f).vacate f.frame
      if s1.tiers.frames.any (·.frame == f.frame) then (none, s1) else (some f.frame, s1)

/-! ## Block sets (R180, R184, R441) -/

/-- Sub-frames of one block set: S of Table 7.2, for the model's attention plan. -/
def AttnPlan.subs (p : AttnPlan) : Nat :=
  let pages := p.layers * p.groups
  if p.kvfmt = 6 then cdiv pages 2 else cdiv pages 3

/-- The attention plan of a model's attention chains (R185: they agree in what the arena depends on). -/
def Model.plan (m : Model) : Option AttnPlan := m.image.attn.find? (·.attn)

/-- The lowest sub-frame index, above the zero block set and a multiple of S, that names no block set of the model
(DESIGN CHOICE, log 21). -/
def State.newSub (s : State) (m : BitVec 32) (S : Nat) : Nat :=
  let used := (s.srv.blocks.filter (·.model == m)).map (·.sub)
  S * ((firstNat (fun k => !used.contains (S * k)) 1 (used.length + 1)).getD 1)

/-- Free sub-frame places of the tenant's and model's KV frames, in rising address order. -/
def State.freePlaces (s : State) (t m : BitVec 32) : List Nat :=
  s.tiers.frames.flatMap fun f =>
    if f.cls == .kv && f.tenant == t && f.model == m then
      ((List.range 32).filter fun k => !f.subs.contains k).map fun k => frameAddr f.frame + k * Config.subBytes
    else []

/-- Sub-frame places marked in use in their frames. -/
def State.usePlaces (s : State) (l : List Nat) : State :=
  let more (f : PoolFrame) : PoolFrame :=
    if f.cls == .kv then
      let here := l.filter (inRange (frameAddr f.frame) Config.frameBytes)
      { f with subs := f.subs ++ here.map fun a => (a - frameAddr f.frame) / Config.subBytes }
    else f
  s.updTiers fun t => { t with frames := t.frames.map more }

/-- n sub-frames in the pool for a tenant and model, new KV frames taken as needed; none where the request waits. -/
def State.takeSubs (s : State) (t m : BitVec 32) (n : Nat) (freeOnly : Bool) : Nat → Option (List Nat) × State
  | 0 => (none, s)
  | fuel + 1 =>
    let have_ := s.freePlaces t m
    if n ≤ have_.length then
      let l := have_.take n
      (some l, s.usePlaces l)
    else
      match (if freeOnly then (match s.freeFrame with
          | some f => (Took.got f, s)
          | none => (Took.none, s)) else s.takeFrame false s.waitingLifts) with
      | (.none, s1) | (.coming, s1) => (none, s1)
      | (.got f, s1) => State.takeSubs (s1.addFrame { frame := f, cls := .kv, tenant := t, model := m }) t m n freeOnly fuel

/-- KV frames that a failed request took and did not use are given back. -/
def State.trimKv (s : State) : State :=
  s.updTiers fun t => { t with frames := t.frames.filter fun f => f.cls != .kv || !f.subs.isEmpty }

/-- Zero-filled memory at a list of sub-frames: bytes and marks cleared, generations raised (R184, R256, R266). -/
def State.zeroSubs (s : State) (l : List Nat) : State :=
  l.foldl (fun u a =>
    let u1 := (u.clear a Config.subBytes).bumpGen a
    { u1 with marks := u1.marks.filter (fun p => !inRange (a / 64) (Config.subBytes / 64) p.1) }) s

/-- What allocating one block set answers (R184, R244). -/
inductive Alloc where
  | got (sub : Nat)
  /-- It would pass the tenant's ceiling. -/
  | ceiling
  /-- No frame can be taken now. -/
  | full
  deriving DecidableEq, Repr

/-- A new block set for a tenant and model, zero-filled (R184). -/
def State.allocBlock (s : State) (mo : Model) (tenant : BitVec 32) : Alloc × State :=
  match mo.plan with
  | none => (.ceiling, s)
  | some p =>
    let S := p.subs
    let useAfter := s.pinnedOf tenant + s.weightOf tenant + cdiv (s.kvHbm tenant + S) 32
    if s.ceilingOf tenant < useAfter then (.ceiling, s)
    else
      match s.takeSubs tenant mo.id S false (S / 32 + 2) with
      | (none, s1) => (.full, s1.trimKv)
      | (some l, s1) =>
        let sub := s1.newSub mo.id S
        let b : BlockSet := { model := mo.id, sub := sub, tenant := tenant, subs := S, places := l, stamp := s1.now }
        (.got sub, (s1.zeroSubs l).updSrv fun v => { v with blocks := v.blocks ++ [b] })

/-! ## Block tables (R182) -/

/-- The virtual address of a sequence's block table. -/
def AttnPlan.tableVa (p : AttnPlan) (h : Nat) : Nat := p.seqAreaVa + h * (p.maxSeq / 16)

/-- The physical address of a model-virtual address in its pinned ranges. -/
def Model.pinAt (m : Model) (va : Nat) : Option Nat :=
  (m.pins.find? fun r => inRange r.va r.bytes va).map fun r => r.pa + (va - r.va)

/-- A number written at a pinned model-virtual address by the control processor. -/
def State.putPinned (s : State) (m : Model) (va n v : Nat) : State :=
  match m.pinAt va with
  | some pa => s.putWord pa n v
  | none => s

/-- A sequence's block table written out: the first sub-frame of every block set, then zeros (R182). -/
def State.writeTable (s : State) (m : Model) (q : Seq) : State :=
  match m.plan with
  | none => s
  | some p =>
    (List.range (p.maxSeq / 64)).foldl (fun u b => u.putPinned m (p.tableVa q.handle + 4 * b) 4 (q.table.getD b 0)) s

end Sys2Proof.Machine
end

