-- ==== Sys2Proof/Machine/Work.lean ====
section
/-!
DEFINITION. Items, long operations, sequences and models as the control processor ends them: final records, CANCEL,
eviction, draining and DETACH (R169, R209, R377, R380-R386).
-/

namespace Sys2Proof.Machine

/-! ## Items -/

/-- The result fields of an item's final record (Table 14.9). -/
def itemResult (committed nodes stepSeq variant : Nat) : Nat :=
  res [(192, committed % 2 ^ 32), (224, nodes % 128), (232, stepSeq % 2 ^ 32), (264, variant % 2 ^ 16)]

/-- Every item of a chain that has no final record: those of a step whose records have left have one. -/
def Chain.items (c : Chain) : List Item :=
  ((c.gate.map (·.items)).getD []) ++ c.closed.flatMap (·.items) ++ (((c.run.filter (·.phase != .recording)).map (·.items)).getD [])

def State.openItems (s : State) : List Item := s.srv.chains.flatMap (·.items)

/-- An item fails before it runs (R388): its final record carries the reason and the sequence's n. -/
def State.failItem (s : State) (m : BitVec 32) (i : Item) (st : Status) (stepSeq variant : Nat) : State :=
  let n := match i.seq with
    | some h => ((s.seqOf m h).map (·.n)).getD 0
    | none => 0
  s.final i.ref st 0 0 (itemResult n 0 stepSeq variant)

/-- An item leaves an open gate (R169): its rows leave the count, and an empty gate stops its timer. -/
def Gate.without (g : Gate) (r : RecRef) : Option Gate :=
  let l := g.items.filter fun i => i.ref != r
  let rows := l.foldl (fun n i => n + i.t + i.nodes) 0
  if l.isEmpty then none else some { g with items := l, rows := rows }

def Item.fails (i : Item) : Bool := i.cancelled || i.reason.isSome

/-- Speculative results of a chain that carry none of some tags are discarded (R175). -/
def State.keepShadow (s : State) (m : BitVec 32) (c : Fin 16) (tags : List Nat) : State :=
  s.updModel m fun x => { x with shadow := x.shadow.filter fun h => h.chain != c || tags.contains h.tag }

/-- Does a tag's item still stand: neither failed nor cancelled (R174). -/
def Run.itemStands (r : Run) (tag : Nat) : Bool :=
  (((r.tasks.find? fun x => x.rc.spec && x.rc.tag == tag).bind (·.rc.item)).bind (r.items[·]?)).any fun i => !i.fails

/-- Tags to commit whose item has failed or been cancelled since the phase began are discarded (R169, R174, R175). -/
def State.trimCommit (s : State) (m : BitVec 32) (c : Fin 16) : State :=
  match (s.chain m c).bind (·.run) with
  | none => s
  | some r => match r.phase with
    | .committing tags =>
      let keep := tags.filter r.itemStands
      if keep = tags then s
      else (s.keepShadow m c keep).updRun m c fun x =>
        { x with phase := .committing keep, discarded := x.discarded + (tags.length - keep.length) }
    | .running | .recording => s

/-- CANCEL of one item of a chain (R169, R386): out of an open gate at once, else at the step's end. -/
def State.cancelItem (s : State) (m : BitVec 32) (c : Fin 16) (r : RecRef) : State :=
  match s.chain m c with
  | none => s
  | some ch =>
    match (ch.gate.bind fun g => g.items.find? (·.ref == r)) with
    | some i =>
      let s1 := s.updChain m c fun x => { x with gate := x.gate.bind fun g => g.without r }
      s1.failItem m i .cancelled 0 0xFFFF
    | none =>
      let mark (l : List Item) : List Item := updWhere l (·.ref == r) fun i => { i with cancelled := true }
      (s.updChain m c fun x => { x with
        closed := x.closed.map fun k => { k with items := mark k.items }
        run := x.run.map fun k => { k with items := mark k.items } }).trimCommit m c

/-- The items without a final record that satisfy a test, with their chains. -/
def State.itemsWhere (s : State) (p : Chain → Item → Bool) : List (BitVec 32 × Fin 16 × RecRef) :=
  s.srv.chains.flatMap fun c => (c.items.filter (p c)).map fun i => (c.model, c.chain, i.ref)

def State.cancelWhere (s : State) (p : Chain → Item → Bool) : State :=
  (s.itemsWhere p).foldl (fun u x => u.cancelItem x.1 x.2.1 x.2.2) s

/-- Every item without a final record fails now with a reason; gates, closed steps and running steps are gone. -/
def State.failAll (s : State) (st : Status) : State :=
  let s1 := s.srv.chains.foldl (fun u c => c.items.foldl (fun v i => v.failItem c.model i st c.seq 0xFFFF) u) s
  s1.updSrv fun v => { v with chains := v.chains.map fun c => { c with gate := none, closed := [], run := none } }

/-! ## Sequences (R182, R209) -/

/-- Does an item without a final record name a sequence. -/
def State.seqNamed (s : State) (m : BitVec 32) (h : Nat) : Bool :=
  s.srv.chains.any fun c => c.model == m && c.items.any fun i => i.seq == some h

/-- Does an export of a sequence run (R209, R212). -/
def State.exporting (s : State) (m : BitVec 32) (h : Nat) : Bool :=
  s.srv.transfers.any fun t => t.isExport && t.model == m && t.seq == h

/-- References of a sequence on directory entries are released (R209). -/
def State.unshare (s : State) (ids : List Nat) : State :=
  s.updSrv fun v => { v with dir := v.dir.map fun d => { d with refs := d.refs - (ids.filter (· == d.id)).length } }

/-- A sequence is gone: its references are released and its private block sets freed. -/
def State.dropSeq (s : State) (q : Seq) : State :=
  let s1 := (s.updSrv fun v => { v with seqs := v.seqs.filter fun x => !(x.model == q.model && x.handle == q.handle) }).unshare q.shared
  q.table.foldl (fun u sub =>
    if sub == 0 || u.srv.dir.any (fun d => d.model == q.model && d.sub == sub) then u else u.freeBlock q.model sub) s1

/-- SEQ_CLOSE takes effect once the sequence's running steps and exports have ended (R209, R212);
an item that waits in a gate or a closed step counts as its step does (log 23). -/
def State.closeSeq (s : State) (m : BitVec 32) (h : Nat) : State :=
  match s.seqOf m h with
  | none => s
  | some q =>
    if s.seqNamed m h || s.exporting m h then s.updSeq m h fun x => { x with closing := true }
    else s.dropSeq q

/-- Sequences that were closed meanwhile are dropped when nothing holds them any more. -/
def State.reapSeqs (s : State) : State :=
  (s.srv.seqs.filter fun q => q.closing && !s.seqNamed q.model q.handle && !s.exporting q.model q.handle).foldl
    (fun u q => u.dropSeq q) s

/-! ## Models (R21, R135, R209, R233, R397) -/

/-- Resident slots of a model become EMPTY on every Squall (R135). -/
def State.unpinSlots (s : State) (m : BitVec 32) : State :=
  { s with squalls := s.squalls.map fun q => { q with tags := q.tags.filter fun t => t.2.pin != some m } }

/-- A model is unloaded: bindings and groups, pinned, WEIGHT and KV frames, lifts and prefetches, sequences and
directory entries, demands, resident slots (R21, R135, R209, R233, R397); the last one makes SERVING READY (R380). -/
def State.evictModel (s : State) (m : BitVec 32) : State :=
  let s' := match s.model m with
    | some x => s.switchCopies x
    | none => s
  let s0 := (s.srv.seqs.filter (·.model == m)).foldl (fun u q => u.dropSeq q) s'
  let s1 := (s0.unpinSlots m).updTiers fun t => { t with
    frames := t.frames.filter fun f => f.model != m
    overflow := t.overflow.filter fun a => !(s0.srv.blocks.any fun b => b.model == m && b.places.contains a)
    weights := t.weights.filter fun w => w.fid.model != m || w.st == .poisoned
    lifts := t.lifts.filter fun l => l.fid.model != m || l.transit.isSome
    waits := t.waits.filter fun w => w.fid.model != m }
  let s2 := s1.updSrv fun v => { v with
    models := v.models.filter fun x => x.id != m
    chains := v.chains.filter fun c => c.model != m
    dir := v.dir.filter fun d => d.model != m
    blocks := v.blocks.filter fun b => b.model != m
    groups := v.groups.filter fun g => g.model != some m }
  let s3 := ({ s2 with squalls := s2.squalls.map fun q => { q with tlb := q.tlb.filter fun t => t.1 != m } } : State).updPwr fun p =>
    { p with demands := p.demands.filter fun d => d.model != m }
  if s3.srv.models.isEmpty then
    match s3.eci.devState with
    | .serving => s3.setDev .ready
    | .draining | .suspended => if s3.eci.stateBefore = .serving then s3.updEci fun e => { e with stateBefore := .ready } else s3
    | _ => s3
  else s3

/-! ## Units in service (R417) -/

def State.squallIn (s : State) (q : Fin 64) : Bool := (s.sq q).inService
def State.coreIn (s : State) (c : Fin 64) : Bool := (s.core c).inService
/-- Every failed unit has returned to service. -/
def State.allUnitsIn (s : State) : Bool := (List.finRange 64).all fun i => s.squallIn i && s.coreIn i

/-! ## Draining (R380) -/

/-- DRAINING ends when running steps have ended and, for SUSPEND, every long operation is suspended. -/
def State.tryDrain (s : State) : State :=
  if s.eci.devState ≠ .draining ∨ s.running ≠ [] then s
  else match s.eci.drainWhy with
    | some (.suspend, r) =>
      if s.eci.ops.all fun o => o.st == .suspended then
        ((s.setDev .suspended).updEci fun e => { e with drainWhy := none }).finish r .done 0 0 0
      else s
    | some (.fwCommit, r) =>
      (((s.failAll .cancelled).setDev .updating).updEci fun e => { e with drainWhy := none }).finish r .done 0 0 0
    | none => s

/-! ## DETACH (R377) -/

def State.sessionIdle (s : State) (id : BitVec 16) : Bool :=
  !(s.openItems.any fun i => i.ref.session == id) && !(s.eci.ops.any fun o => o.ref.session == id)
    && !(s.eci.posts.any fun p => (s.pair p.q).session == some id)

/-- Region handles that are released: a later region under the same handle is given the pattern table anew (R195). -/
def State.unpattern (s : State) (hs : List Nat) : State :=
  s.updSrv fun v => { v with models := v.models.map fun m => { m with patterned := m.patterned.filter fun h => !hs.contains h } }

/-- Orders 3 to 6 of R377. -/
def State.dropSession (s : State) (id : BitVec 16) : State :=
  match s.session id with
  | none => s
  | some x =>
    let s0 := s.unpattern ((s.eci.regions.filter (·.session == id)).map (·.handle.toNat))
    let s1 := (s0.srv.seqs.filter (·.session == id)).foldl (fun u q => u.closeSeq q.model q.handle) s0
    let s2 := s1.updEci fun e => { e with
      regions := e.regions.filter fun r => r.session != id
      sessions := e.sessions.filter fun y => y.id != id
      pairs := e.pairs.map fun p => if p.session == some id then { p with session := none, shadow := false, stopped := false, shadowUnread := 0 } else p }
    let s3 := if s2.eci.sessions.any (·.tenant == x.tenant) then s2
      else (s2.srv.models.filter (·.tenant == x.tenant)).foldl (fun u m => u.evictModel m.id) s2
    if s3.eci.sessions.isEmpty then
      ((s3.updEci fun e => { e with pod := none, moduleIndex := 0 }).updSrv fun v => { v with
        groups := v.groups.filter fun g => g.model.isSome }).updDnb fun x => { x with routes := [], switching := [], ports := x.ports.map fun p => { p with heldDown := false } }
    else s3

/-- DETACHes whose session's work is final and recorded end now. -/
def State.tryDetach (s : State) : State :=
  match s.eci.detaching.find? (fun d => s.sessionIdle d.2) with
  | none => s
  | some d =>
    let s1 := s.updEci fun e => { e with detaching := dropFirst e.detaching (· == d) }
    (s1.finish d.1 .done 0 0 0).dropSession d.2

/-- What may follow once some work has become final. -/
def State.settle (s : State) : State := s.reapSeqs.tryDrain.tryDetach

/-! ## Long operations (R381, R382) -/

/-- A KVX control message to a peer: its first unit holds the transfer tag and a word, the rest its arguments (the
layout of KVX data is DESIGN CHOICE, log 22). -/
def kvxMsg (self dst : BitVec 8) (tag : BitVec 32) (word : Nat) (args : List Nat) : Msg :=
  { opc := 0x09, dst := dst, src := self, vc := 3, hops := 0, tag := 0, marks := 0, addr := 0, aux := 0,
    data := leBytes tag.toNat 4 ++ leBytes word 4 ++ leBytes 0 8 ++ (args.flatMap fun a => leBytes a 8)
      ++ List.replicate (16 * (args.length % 2) / 2) 0 }

/-- The destination of an import gives up what it reserved (R215): a new sequence is closed, an existing one keeps its
n and the block sets below it. -/
def State.dropImport (s : State) (t : Transfer) : State :=
  match s.seqOf t.model t.seq with
  | none => s
  | some q =>
    if t.newSeq then s.dropSeq q
    else
      let keep := cdiv q.n 64
      let s1 := (q.table.drop keep).foldl (fun u sub => if sub == 0 then u else u.freeBlock t.model sub) s
      let s2 := s1.updSeq t.model t.seq fun x => { x with table := x.table.take keep, importing := false }
      match s2.model t.model, s2.seqOf t.model t.seq with
      | some m, some x => s2.writeTable m x
      | _, _ => s2

/-- What an operation leaves when it ends without completing (Table 14.15, R215, R262, R422). -/
def State.abortOp (s : State) (o : LongOp) : State :=
  match o.kind with
  | .modelLoad | .scrub => s
  | .modelInstall => s.updTiers fun t => { t with writing := t.writing.filter fun w => w.1 != o.handle }
  | .kvExport | .kvImport =>
    match s.srv.transfers.find? (·.op == o.handle) with
    | none => s
    | some t =>
      let s1 := s.updSrv fun v => { v with transfers := v.transfers.filter fun x => x.op != o.handle }
      if t.isExport then s1 else s1.dropImport t
  | .fwStage =>
    s.updBoot fun b => { b with staged := none, slots := upd b.slots (1 - b.active) fun _ => {} }

/-- An operation ends (R367, R382): its final record, then a pending SUSPEND with ALREADY_FINAL, then each CANCEL: DONE
where the operation ended CANCELLED, else ALREADY_FINAL. -/
def State.endOp (s : State) (o : LongOp) (st : Status) (detail result : Nat) : State :=
  let s1 := s.updEci fun e => { e with ops := e.ops.filter fun x => x.handle != o.handle }
  let s2 := s1.final o.ref st detail o.handle result
  let s3 := o.suspenders.foldl (fun u r => u.finish r .alreadyFinal 0 0 0) s2
  let s4 := o.cancellers.foldl (fun u r => u.finish r (if st = .cancelled then .done else .alreadyFinal) 0 0 0) s3
  s4.settle

/-- An operation ends FAILED, its effects undone; the peer of a key-value transfer is told (R215). -/
def State.failOp (s : State) (o : LongOp) (st : Status) (detail result : Nat) : State :=
  let told := match s.srv.transfers.find? (·.op == o.handle) with
    | some t => if t.quiet ∨ (routePort (s.route t.peer)).isNone then s else s.sendNow (kvxMsg s.eci.moduleIndex t.peer t.tag 3 [st.code])
    | none => s
  ((told.endStream o.handle 2).abortOp o).endOp o st detail result

/-- The exporter of an import learns that it is suspended or goes on (R215). -/
def State.tellHeld (s : State) (o : LongOp) (on : Bool) : State :=
  match s.srv.transfers.find? (fun t => t.op == o.handle && !t.isExport) with
  | some t => s.sendNow (kvxMsg s.eci.moduleIndex t.peer t.tag 6 [if on then 1 else 0])
  | none => s

/-- A long operation begins (R381): the limit, the handle and the accepted record; then its own state. -/
def State.startOp (s : State) (c : Cmd) (k : LongKind) (model : BitVec 32) (total : Nat) (f : Nat → State → State) : State :=
  if 16 ≤ s.eci.ops.length then s.refuse c .longOpLimit 0
  else
    let h := s.eci.nextHandle
    let o : LongOp := { handle := h, kind := k, ref := c.ref, tenant := c.tenant, model := model, entry := c.e, total := total }
    let s1 := (s.popEntry c.src).updEci fun e => { e with ops := e.ops ++ [o], nextHandle := e.nextHandle + 1 }
    let s2 := (s1.record c.ref true .done 0 h 0).nextBad c.src
    f h s2

/-- Every long operation ends with a reason. -/
def State.failOps (s : State) (st : Status) : State := s.eci.ops.foldl (fun u o => u.failOp o st 0 0) s

/-- Items and long operations of a session are cancelled as CANCEL does (R377). -/
def State.cancelSession (s : State) (id : BitVec 16) : State :=
  let s1 := s.cancelWhere fun _ i => i.ref.session == id
  (s1.eci.ops.filter (·.ref.session == id)).foldl (fun u o =>
    if o.st = .suspended then u.failOp o .cancelled 0 0 else u.updOp o.handle fun x => { x with st := .ending }) s1

end Sys2Proof.Machine
end

