-- ==== Sys2Proof/Machine/Share.lean ====
section
/-!
DEFINITION. How the power cap is shared: demands, needs, shares and bubble fractions (R391, R393, R395, R397 to R399, R402).
-/

namespace Sys2Proof.Machine

/-- The rational value of a binary32 number; a NaN or an infinity counts nothing. -/
def ratOf (x : W32) : Rat :=
  match valOf x with
  | .fin neg m e => ((if neg then -(m : Int) else m) * (pow2 e : Int) : Int) / ((pow2 (-e) : Nat) : Rat)
  | _ => 0

/-- The demand D of a model, Front and phase: the mean of its samples, 307.5 W before any (R397). -/
def State.demand (s : State) (m : BitVec 32) (f : Fin 8) (p : Fin 4) : Rat :=
  match s.pwr.demands.find? (fun d => d.model == m && d.front == f && d.phase == p) with
  | some d => if d.samples.isEmpty then 615 / 2 else d.samples.foldl (· + ·) 0 / (d.samples.length : Rat)
  | none => 615 / 2

/-- A sample enters a demand: the last 1,000 are kept (R397). -/
def State.addSample (s : State) (m : BitVec 32) (f : Fin 8) (p : Fin 4) (x : Rat) : State :=
  let key (d : Demand) : Bool := d.model == m && d.front == f && d.phase == p
  s.updPwr fun w =>
    if w.demands.any key then { w with demands := updFirst w.demands key fun d => { d with samples := (x :: d.samples).take 1000 } }
    else { w with demands := w.demands ++ [{ model := m, front := f, phase := p, samples := [x] }] }

/-- A weight of the energy profile that applies on a Front: that of the variant that ran there last, else of the built-in one (R391). -/
def FrontPwr.weight (w : FrontPwr) (p : Fin 4) (k : Nat) : W32 :=
  if w.profile = [] then Config.builtinWeight p.val k else w.profile.getD (16 * p.val + k) 0

/-- Phases of the tasks running on a Front, with their models. -/
def State.phasesOn (s : State) (f : Fin 8) : List (BitVec 32 × Fin 4) :=
  (List.finRange 8).flatMap fun k => ((s.sq (squallOf f k)).tasks.map fun t => (t.model, t.rc.phase))

def ratMax (l : List Rat) : Rat := l.foldl (fun a b => if a < b then b else a) 0

/-- Static watts of a Front in Calm: activity 15 for the phase of its last task, by its correction factor (R397). -/
def State.staticWatts (s : State) (f : Fin 8) : Rat :=
  let w := s.front f
  ratOf (w.weight w.phaseNow 15) / 1000 * pick w.factor w.phaseNow

/-- A Front's need (R397, R402): nothing in Lull, its static estimate in Calm, otherwise the demand of its phases. A Front
that is awake with no running task counts as in Calm. -/
def State.need (s : State) (f : Fin 8) : Rat :=
  match (s.front f).sleep with
  | .lull _ => 0
  | .calm _ => s.staticWatts f
  | _ =>
    match (s.front f).override with
    | some (_, x) => x
    | none =>
      match s.phasesOn f with
      | [] => s.staticWatts f
      | l => ratMax (l.map fun p => s.demand p.1 f p.2)

def FrontSleep.isLull : FrontSleep → Bool
  | .lull _ => true
  | _ => false

/-- The power budget: 0.925 x cap less the excess under correction (R398), and 92 A at 38 V while the input is low (R429). -/
def State.budget (s : State) : Rat :=
  let cap : Rat := if s.pwr.inputLow then min (s.pwr.cap : Rat) (92 * 38) else s.pwr.cap
  925 / 1000 * cap - s.pwr.excess

/-- Shares of the Fronts, the CPU and the IO group (R398, R399), each by its thermal factor (R403). -/
def State.shares (s : State) : Vector Rat 8 × Rat × Rat :=
  let t (i : Fin 10) : Rat := ((pick s.pwr.thermal i).val : Rat) / 20
  let tf (f : Fin 8) : Rat := t ⟨f.val, by omega⟩
  let b := s.budget
  if s.pwr.mode = 1 then
    (Vector.ofFn fun f => b * 9 / 100 * tf f, b / 10 * t 8, b * 18 / 100 * t 9)
  else
    let lull (f : Fin 8) : Bool := (s.front f).sleep.isLull
    let floor0 (f : Fin 8) : Rat := if lull f then 0 else 40
    let sumF := (List.finRange 8).foldl (fun n f => n + floor0 f) 0 + 160
    let left0 := b - sumF
    let k : Rat := if left0 < 0 then b / sumF else 1
    let left1 : Rat := if left0 < 0 then 0 else left0
    let needCpu : Rat := 11 / 10 * s.pwr.cpuEst
    let needIo : Rat := 11 / 10 * s.pwr.ioEst
    let extraIo := max 0 (min needIo 390 - 120)
    let giveIo := min extraIo left1
    let left2 := left1 - giveIo
    let extraCpu := max 0 (min needCpu 250 - 40)
    let giveCpu := min extraCpu left2
    let left3 := left2 - giveCpu
    let x (f : Fin 8) : Rat := max 0 (s.need f - floor0 f)
    let sumX := (List.finRange 8).foldl (fun n f => n + x f) 0
    let awake : Nat := ((List.finRange 8).filter fun f => !lull f).length
    let front (f : Fin 8) : Rat :=
      if sumX ≤ left3 then k * floor0 f + x f + (if lull f then 0 else (left3 - sumX) / (awake : Rat))
      else k * floor0 f + (if sumX = 0 then 0 else left3 * x f / sumX)
    (Vector.ofFn fun f => front f * tf f, (k * 40 + giveCpu) * t 8, (k * 120 + giveIo) * t 9)

/-- A fraction rounded up to a multiple of 1/64 and held between 0 and 60/64 (R393). -/
def toSlots (x : Rat) : Fin 61 :=
  let n := max 0 (min 60 (x * 64).ceil)
  ⟨n.toNat % 61, by omega⟩

/-- The bubble fraction from the fraction in force, the share, the estimate and the ME power without bubbles (R393). -/
def newBubble (b : Fin 61) (share est a : Rat) : Fin 61 :=
  if 0 < a then toSlots ((b.val : Rat) / 64 + (est - share) / a) else 0

/-- ME power a Front would draw without bubbles. -/
def FrontPwr.mePower (w : FrontPwr) : Rat := w.meEstimate / (1 - (w.bubble.val : Rat) / 64)

/-- Every share set. -/
def State.setShares (s : State) : State :=
  let sh := s.shares
  s.updPwr fun p => { p with
    fronts := p.fronts.mapIdx fun i w => { w with share := sh.1.toList.getD i 0 }, cpuShare := sh.2.1, ioShare := sh.2.2 }

/-- What Isobar does when a variant is selected (R402): the need of the step's Fronts for the next two periods is the demand
of their wave-0 phases; shares and bubble fractions follow from it. The estimate it uses is D x (1 - b), the inverse of
the sample's definition (DESIGN CHOICE, log 27). -/
def State.presetFronts (s : State) (m : BitVec 32) (l : List (Fin 8 × Fin 4)) : State :=
  if s.pwr.mode = 1 then s
  else
    let fronts := (l.map (·.1)).eraseDups
    let s1 := fronts.foldl (fun u f =>
      u.updFront f fun w => { w with
        override := some (2, ratMax ((l.filter (·.1 == f)).map fun p => s.demand m f p.2)) }) s
    let s2 := s1.setShares
    fronts.foldl (fun u f => u.updFront f fun w =>
      let d := (w.override.map (·.2)).getD 0
      { w with bubble := newBubble w.bubble w.share (d * (1 - (w.bubble.val : Rat) / 64)) w.mePower }) s2

end Sys2Proof.Machine
end

