-- ==== Sys2Proof/Machine/Stalls.lean ====
section
/-!
DEFINITION. Weight frames as Updraft finds them, their sources, and the stalls of steps that wait for them (R246, R247, R252, R253).
-/

namespace Sys2Proof.Machine

/-! ## Frames, sources and lifts -/

def State.wframe (s : State) (fid : FrameId) : Option WFrame := s.tiers.weights.find? (·.fid == fid)
def State.liftOf (s : State) (fid : FrameId) : Option Lift := s.tiers.lifts.find? fun l => l.fid == fid && l.transit.isNone
def State.updLift (s : State) (fid : FrameId) (f : Lift → Lift) : State :=
  s.updTiers fun t => { t with lifts := updFirst t.lifts (fun l => l.fid == fid && l.transit.isNone) f }
def State.updWframe (s : State) (fid : FrameId) (f : WFrame → WFrame) : State :=
  s.updTiers fun t => { t with weights := updFirst t.weights (·.fid == fid) f }

/-- The sources of a frame's object, in preference order (Table 14.6). -/
def State.sourcesOf (s : State) (fid : FrameId) : List Nat :=
  (((s.model fid.model).bind fun m => m.manifest.objects[fid.obj]?).map (·.sources)).getD []

/-- Where an installed copy of a frame lies in flash. -/
def State.flashPlace (s : State) (fid : FrameId) : Option Nat :=
  (s.tiers.installed.find? fun i => i.model == fid.model && i.obj == fid.obj && decide (fid.f < i.frames)).map fun i => i.place + fid.f

/-- Is a source usable (R247): an installed local copy that is not marked unreadable, or a peer with a path. -/
def State.usable (s : State) (fid : FrameId) (src : Nat) : Bool :=
  if src = 0xFE then (s.flashPlace fid).isSome && !s.tiers.unreadable.contains fid
  else src != 0xFF && s.peerUp (BitVec.ofNat 8 src) && src != s.eci.moduleIndex.toNat

/-- The first usable source from index k on. -/
def State.sourceFrom (s : State) (fid : FrameId) (k : Nat) : Option Nat :=
  (((s.sourcesOf fid).zipIdx.drop k).find? fun p => s.usable fid p.1).map (·.2)

def Lift.srcOf (l : Lift) (sources : List Nat) : Nat := sources.getD l.source 0xFF

/-! ## Stalls (R252, R253) -/

/-- A count that began at t0 goes on from t0 plus a time it did not count. -/
def Squall.shiftWatch (x : Squall) (p : Nat × Nat → Bool) (since now : Nat) : Squall :=
  { x with watch := x.watch.map fun w => if p w.1 then (w.1, w.2 + (now - max since w.2)) else w }

def Squall.task (x : Squall) (key : Nat) : Option SqTask := x.tasks.find? (·.key == key)

/-- The task of a waiting reader's channel. -/
def State.readerTask (s : State) (r : Reader) : Option SqTask :=
  ((pick (s.sq r.sq).chans r.ch).run).bind fun p => (s.sq r.sq).task p.task

/-- Why a read waits, by the place of its counter in the step record (Table 9.5). -/
def State.causeOf (s : State) (w : WaitRead) : Nat :=
  match s.liftOf w.fid with
  | none => 0
  | some l =>
    let src := l.srcOf (s.sourcesOf w.fid)
    if l.frame.isNone then 2
    else if src = 0xFE then 0
    else
      let queued (m : Msg) : Bool := m.opc == 0x06 && m.dst == BitVec.ofNat 8 src
      let held := match routePort (s.route (BitVec.ofNat 8 src)) with
        | some p => !(s.port p).sendQ.isEmpty
        | none => true
      if s.dnb.outbox.any queued || held then 3 else 1

/-- Does a registered read still wait: its frame is on its way, and its wait has not ended otherwise. -/
def State.waitOpen (s : State) (w : WaitRead) : Bool := !w.late && !w.bad && (s.wframe w.fid).any (·.st == .lifting)

/-- Reads of a step that wait on a frame. -/
def State.waitsOf (s : State) (m : BitVec 32) (c : Fin 16) : List WaitRead :=
  s.tiers.waits.filter fun w => s.waitOpen w && (s.readerTask w.who).any fun t => t.model == m && t.chain == c

/-- The stall interval of a running step up to now is counted, its watchdogs do not count it, and the next interval takes the cause
of the read that has waited longest (R109, R253). -/
def State.stallStep (s : State) (m : BitVec 32) (c : Fin 16) (r : Run) : State :=
  let next := (minBy (fun w : WaitRead => w.since) (s.waitsOf m c)).map fun w => (s.causeOf w, s.now)
  let s1 := match r.stallSince with
    | none => s
    | some (_, t) =>
      let shift (i : Nat) (x : Squall) : Squall := if r.tasks.any (fun k => k.sq.val == i) then x.shiftWatch (fun _ => true) t s.now else x
      { s with squalls := s.squalls.mapIdx shift }
  s1.updRun m c fun x => { x with
    stallSince := next
    stalls := match x.stallSince with
      | some (k, t) => if h : k < 4 then upd x.stalls ⟨k, h⟩ fun n => min 0xFFFFFFFF (n + (s.now - t)) else x.stalls
      | none => x.stalls }

def State.settleStalls (s : State) : State := s.running.foldl (fun u x => u.stallStep x.1.model x.1.chain x.2) s

/-- Channels of some Squalls that abandon their work wait for no frame any more; the stall time up to now is counted (R253, R254). -/
def State.dropWaits (s : State) (p : Fin 64 → Bool) : State :=
  if s.tiers.waits.any fun w => p w.who.sq then
    (s.updTiers fun t => { t with waits := t.waits.filter fun w => !p w.who.sq }).settleStalls
  else s

end Sys2Proof.Machine
end

