-- ==== Sys2Proof/Machine/Attempt.lean ====
section
/-!
DEFINITION. An attempt of a step: the Squalls and Fronts it runs on, the reset of tags at its start, the release of its
waves, the end of its tasks, and what a parity detection or a failing unit does to it (R108, R110, R118, R131, R133,
R401, R417).
-/

namespace Sys2Proof.Machine

/-! ## Where a variant runs (R149, R150) -/

def Model.members (m : Model) (lunit : Nat) : List Nat := ((m.bindings.find? (·.lunit == lunit)).map (·.members)).getD []

/-- The active members of a list's logical unit, with their member indices. -/
def Model.activeSqs (m : Model) (v : Variant) (lunit : Nat) : List (Nat × Fin 64) :=
  let act := ((v.split lunit).map (·.active)).getD 1
  (((m.members lunit).take act).zipIdx).map fun p => (p.2, ⟨p.1 % 64, by omega⟩)

/-- A list of a variant as one member of its logical unit runs it. -/
structure RunList where
  d : ListDir
  list : Nat
  member : Nat
  sq : Fin 64
  deriving DecidableEq, Repr

/-- Every list of a variant with the Squalls that run it. -/
def Model.runLists (m : Model) (v : Variant) : List RunList :=
  v.lists.zipIdx.flatMap fun p => (m.activeSqs v p.1.lunit).map fun a => { d := p.1, list := p.2, member := a.1, sq := a.2 }

/-- The Fronts that run a variant. -/
def Model.runFronts (m : Model) (v : Variant) : List (Fin 8) := ((m.runLists v).map fun x => frontOf x.sq).eraseDups

/-- The Fronts whose chip memory a variant names through chip views (R441). -/
def Model.viewFronts (m : Model) (v : Variant) : List (Fin 8) :=
  (v.splits.filter fun p => p.kind == 3).flatMap fun p => (m.members p.lunit).map fun f => ⟨f % 8, by omega⟩

/-- The Fronts of a running step: those of its tasks. -/
def Run.fronts (r : Run) : List (Fin 8) := (r.tasks.map fun t => frontOf t.sq).eraseDups

/-- The running step that a Front serves. -/
def State.runOn (s : State) (f : Fin 8) : Option (Chain × Run) :=
  s.running.find? fun x => x.2.phase == .running && x.2.fronts.contains f

/-! ## Tags at the start of a step (R108, R118) -/

/-- Resident chip memory: ranges of every loaded model's resident chip areas on the Fronts its units are bound to. -/
def State.residentChip (s : State) : List (Nat × Nat) :=
  s.srv.models.flatMap fun m => (m.image.resident.filter (·.chipMem)).flatMap fun r =>
    (m.members r.lunit).map fun u => (chipBase + u * chipBytes + r.offset, r.bytes)

/-- Is an address of T0 on a set of Fronts, resident contents left out; `far` lists Fronts whose chip memory alone counts. -/
def State.stepMemory (s : State) (fs far : List (Fin 8)) (chip : List (Nat × Nat)) (a : Nat) : Bool :=
  if inRange coreMemBase (64 * coreMemStride) a then
    let q : Fin 64 := ⟨(a - coreMemBase) / coreMemStride % 64, by omega⟩
    let slot := (a - coreMemBase) % coreMemStride / 4096
    fs.contains (frontOf q) && !((assoc (s.sq q).tags slot).any fun t => t.st == .resident)
  else if inRange engineBase (256 * engineStride) a then
    fs.contains (frontOf ⟨(a - engineBase) / engineStride / 4 % 64, by omega⟩)
  else if isChip a then
    (fs ++ far).contains ⟨(a - chipBase) / chipBytes % 8, by omega⟩ && !(chip.any fun r => inRange r.1 r.2 a)
  else false

/-- An engine with no work: its counters and its place in the pattern of entry slots stay. -/
def Engine.idle (e : Engine) : Engine :=
  { slotCount := e.slotCount, passRepeat := e.passRepeat, runaheadClipped := e.runaheadClipped, taskNs := e.taskNs, stepNs := e.stepNs }

/-- The tag of an operand buffer slot, slots numbered in the order of Table 2.1: those of a staging half, the activation slots, the
accumulator slots of two rows each (R33, R104). -/
def Engine.opTag (e : Engine) (k : Nat) : TagSt := (assoc e.opTags k).getD .empty
def Engine.setOp (e : Engine) (t : TagSt) (l : List Nat) : Engine :=
  { e with opTags := l.foldl (fun a k => if t = .empty then assocDel a k else assocSet a k t) e.opTags }
def halfSlots (h : Fin 2) (n : Nat) : List Nat := (List.range (cdiv n 1024)).map (64 * h.val + ·)
def actSlots (l : List Nat) : List Nat := l.map (128 + ·)
def accSlot (row : Nat) : Nat := 384 + row / 2

/-- Slots of accumulator rows that no pass of the engine uses any more are EMPTY. -/
def Engine.sweepAcc (e : Engine) : Engine :=
  let rows := (e.passes.filter fun p => p.rc.op != .ewise).foldl (fun n p => max n p.rc.rows) 0
  e.setOp .empty ((List.range 128).filterMap fun k => if rows ≤ 2 * k then some (384 + k) else none)

/-- An engine's passes of a task leave its list, with the tiles staged for them, the rows it held and the repeats and the hold they
stood in; the bank that the newest of them used is remembered (R46, R439). -/
def Engine.dropTask (e : Engine) (key : Nat) : Engine :=
  let mine (n : Nat) : Bool := e.passes.any fun p => p.seq == n && p.task == key
  let gone := (e.passes.filter (·.task == key)).flatMap (fun p => p.slots ++ p.ewSlots) ++ (e.held.filter (·.task == key)).flatMap (·.slots)
  let halves := (List.finRange 2).filter fun h => (pick e.halves h).full.isSome && mine (pick e.halves h).owner
  let e1 := (e.setOp .empty (actSlots gone)).setOp .empty (halves.flatMap fun h => halfSlots h 0x10000)
  Engine.sweepAcc { e1 with
    halves := e.halves.map fun h => if h.full.isSome && mine h.owner then {} else h
    passes := e.passes.filter fun p => p.task != key
    held := e.held.filter fun h => h.task != key
    repeats := e.repeats.filter fun r => !mine r.1
    hold := e.hold.filter fun h => !mine h.1
    lastBank := e.passes.foldl (fun b p => if p.task = key then (match p.tile with
      | .loaded k => some k
      | .none | .staged _ => b) else b) e.lastBank }

/-- A Squall that abandons its work: tags that are not RESIDENT become EMPTY, streams start anew. -/
def Squall.idle (q : Squall) : Squall :=
  { q with tags := q.tags.filter (fun t => t.2.st == .resident), lists := [], tasks := [], current := none, open_ := [], holds := [], vq := [], chans := Vector.replicate 8 {}, fences := [], engines := q.engines.map Engine.idle, streams := [], watch := [], vmarks := [] }

/-- Fronts as at the start of a step: work abandoned, tags reset, contents undefined, marks of T0 cleared; of the Fronts that the step
only reaches through chip views, those that run no step have their chip memory undefined (R108, R118). -/
def State.resetFronts (s : State) (fs far : List (Fin 8)) : State :=
  let chip := s.residentChip
  let s0 := s.dropWaits fun q => fs.contains (frontOf q)
  let s1 := s0.undefine (s.stepMemory fs (far.filter fun f => (s.runOn f).isNone) chip)
  { s1 with squalls := s1.squalls.mapIdx fun i q => if fs.any (fun f => f.val == i / 8) then q.idle else q }

/-! ## Starting an attempt -/

/-- DISCARD of every speculative result of a chain's step (R175). -/
def State.discardShadow (s : State) (m : BitVec 32) (c : Fin 16) : State :=
  s.updModel m fun x => { x with shadow := x.shadow.filter fun h => h.chain != c }

/-- The tasks of a list run by one member. -/
def RunList.tasks (x : RunList) : List RunTask :=
  x.d.recs.zipIdx.filterMap fun r => r.1.task?.map fun t => { sq := x.sq, rc := t, lunit := x.d.lunit, member := x.member, list := x.list, pos := r.2 }

/-- A list handed to a Squall's schedule engine, whose cache fetches the first 8 KiB of it (R119, R120). -/
def State.giveList (s : State) (q : Fin 64) (l : ListCtx) : State :=
  (s.schedRead q l.at_ (min 8192 (64 * l.recs.length))).updSq q fun x => { x with lists := x.lists ++ [l] }

/-- One wave released on a Front: its lists enter the schedule engines' Squalls (R119, R401). -/
def State.releaseWave (s : State) (m : Model) (c : Fin 16) (v : Variant) (f : Fin 8) (w : Fin 8) : State :=
  let here := (m.runLists v).filter fun x => x.d.wave == w && frontOf x.sq == f && (s.sq x.sq).inService
  let s1 := here.foldl (fun u x => u.giveList x.sq
    { model := m.id, chain := c, lunit := x.d.lunit, member := x.member, wave := w, recs := x.d.recs, at_ := m.imageAt + x.d.at_, list := x.list }) s
  s1.updRun m.id c fun r => { r with waves := upd r.waves f fun b => b ||| (1 <<< w.val) }

/-- A number of 4-byte zero words at a pinned address. -/
def State.zeroPinned (s : State) (m : Model) (va words : Nat) : State :=
  (List.range words).foldl (fun u k => u.putPinned m (va + 4 * k) 4 0) s

/-- An attempt starts on its Fronts: status block zeroed (R222), speculative results gone, tags reset, tasks not yet final
but those of Squalls out of service, wave 0 released. -/
def State.startAttempt (s : State) (m : Model) (c : Fin 16) (vi : Nat) : State :=
  let v := m.image.variants.getD vi {}
  let fs := m.runFronts v
  let e := m.image.expert
  let s1 := (s.discardShadow m.id c).resetFronts fs (m.viewFronts v)
  let s2 := if e.moeLayers = 0 then s1 else s1.zeroPinned m (e.statusVa + c.val * 4096) e.moeLayers
  let offline (t : RunTask) : RunTask := if (s.sq t.sq).inService then t else { t with status := some .unitOffline, tEnd := s.now }
  let tasks := ((m.runLists v).flatMap RunList.tasks).map offline
  let s3 := s2.updRun m.id c fun r => { r with variant := vi, tasks := tasks, past := r.past ++ r.tasks.filter (·.status.isSome), waves := Vector.replicate 8 0, tWave := s.now, phase := .running }
  fs.foldl (fun u f => u.releaseWave m c v f 0) s3

/-- WAVE_RELEASE: wave w on a Front 2w us after wave 0, waves in order (R401). -/
def execWaveRelease (front : Fin 8) (model : BitVec 32) (chain : Fin 16) (wave : Fin 8) (s : State) : Res :=
  .next (match s.model model, (s.chain model chain).bind (·.run) with
    | some m, some r =>
      let mask := (pick r.waves front).toNat
      if r.phase != .running || r.ended.isSome || bitAt mask wave.val || mask % 2 ^ wave.val != 2 ^ wave.val - 1
          || wave.val == 0 || decide (s.now < r.tWave + us (2 * wave.val)) || !r.fronts.contains front then s.notDue
      else s.ok.releaseWave m chain (m.image.variants.getD r.variant {}) front wave
    | _, _ => s.notDue)

/-! ## Final status and elapsed time (R16, R18 to R20, R178) -/

/-- Parts of one task: the tasks of a step that the same record of the same list opens (R20). -/
def Run.parts (r : Run) (t : RunTask) : List RunTask := r.tasks.filter fun x => x.list == t.list && x.pos == t.pos

/-- From the start of the first of some parts to the end of the last; none while one of them is not final (R18, R19). -/
def partsTime (l : List RunTask) : Option Nat :=
  if l.all (·.status.isSome) then
    (minBy id (l.filterMap (·.tStart))).map fun t0 => l.foldl (fun n x => max n x.tEnd) 0 - t0
  else none

/-- TASK_NS of the group that a logical unit of a model is bound to. -/
def State.addGroupTime (s : State) (m : BitVec 32) (lunit n : Nat) : State :=
  match ((s.model m).bind fun x => x.bindings.find? (·.lunit == lunit)).bind (·.group) with
  | none => s
  | some k => s.updSrv fun v => { v with groups := updWhere v.groups (·.index == k) fun g => { g with taskNs := g.taskNs + n } }

def State.addFrontTime (s : State) (f : Fin 8) (n : Nat) : State := s.updFront f fun w => { w with taskNs := w.taskNs + n }

/-- The spans of a task on the engines of its Squall: one whose passes have not all retired ends now (R18). -/
def State.spansNow (s : State) (t : SqTask) (q : Fin 64) : List (Nat × Nat × Nat) :=
  t.spans.map fun p => if (s.eng q ⟨p.1 % 4, by omega⟩).passes.any (fun y => y.task == t.key && !y.retired) then (p.1, p.2.1, s.now) else p

/-- The task in flight that a task of a step is. -/
def State.inFlight (s : State) (m : BitVec 32) (c : Fin 16) (t : RunTask) : Option SqTask :=
  (s.sq t.sq).tasks.find? fun y => y.model == m && y.chain == c && y.list == t.list && y.pos == t.pos && y.member == t.member

/-- A task of a step reaches final status on its Squall: its spans enter the counters of the Squall and its engines, and those of its
Front, of the module and of the group that it was submitted to when its last part there is final (R16, R18, R19). -/
def State.finalTask (s : State) (m : BitVec 32) (c : Fin 16) (t : RunTask) (st : Status) : State :=
  match (s.chain m c).bind (·.run) with
  | none => s
  | some r =>
    let spans := ((s.inFlight m c t).map fun y => s.spansNow y t.sq).getD []
    let r1 := { r with tasks := updFirst r.tasks (· == t) fun x => { x with status := some st, tEnd := s.now, spans := spans } }
    let parts := r1.parts t
    let s1 := (s.updRun m c fun _ => r1).updSq t.sq fun x => { x with taskNs := x.taskNs + (t.tStart.map (s.now - ·)).getD 0 }
    let s2 := spans.foldl (fun u p => u.updEng t.sq ⟨p.1 % 4, by omega⟩ fun e => { e with taskNs := e.taskNs + (p.2.2 - p.2.1) }) s1
    let s3 := match partsTime (parts.filter fun x => frontOf x.sq == frontOf t.sq) with
      | some n => s2.addFrontTime (frontOf t.sq) n
      | none => s2
    match partsTime parts with
    | some n => (s3.add .taskNs n).addGroupTime m t.lunit n
    | none => s3

/-- Tasks of a chain's step that satisfy a test and are not final fail now. -/
def State.failTasks (s : State) (c : Chain) (p : RunTask → Bool) (st : Status) : State :=
  match c.run with
  | none => s
  | some r => (r.tasks.filter fun t => t.status.isNone && p t).foldl (fun u t => u.finalTask c.model c.chain t st) s

/-! ## Ending tasks and steps early -/

/-- A step ends for every item, with one reason (R110, R133). -/
def Run.endAll (r : Run) (st : Status) : Run :=
  { r with ended := some st, items := r.items.map fun i => if i.reason.isSome then i else { i with reason := some st } }

/-- A running step ended on every Front that runs it: tasks and items fail, speculation is discarded, tags are reset. -/
def State.endStep (s : State) (m : BitVec 32) (c : Fin 16) (st : Status) : State :=
  match s.chain m c with
  | none => s
  | some k => match k.run with
    | none => s
    | some r => ((((s.failTasks k (fun _ => true) st).updRun m c fun x => x.endAll st).discardShadow m c)).resetFronts r.fronts []

/-- The tasks of a Squall that are not final fail; the Squall has nothing left to do (R23, R417). -/
def State.failTasksOn (s : State) (q : Fin 64) (st : Status) : State :=
  (s.srv.chains.foldl (fun u c => u.failTasks c (fun t => t.sq == q) st) (s.dropWaits (· == q))).updSq q Squall.idle

/-- A Squall or a core leaves service (R417): its tasks fail with UNIT_OFFLINE, the event is raised, READY and SERVING become
DEGRADED (R380). -/
def State.failUnit (s : State) (u : FailedUnit) (cause : Nat) : State :=
  let s1 := match u with
    | .squall q => ((s.failTasksOn q .unitOffline).updSq q fun x => { x with inService := false }).event 3 0x0301 (s.squallId q) 0 cause
    | .core c => (s.updCore c fun x => { x with inService := false, offload := [] }).event 3 0x0301 (s.coreId c) 0 cause
  match s1.eci.devState with
  | .ready | .serving => (s1.updEci fun e => { e with stateBefore := e.devState }).setDev .degraded
  | _ => s1

/-! ## Parity (R129 to R134) -/

/-- The HBM copy of the 4 KiB that hold an address of resident core memory of a Squall. -/
def State.coreCopy (s : State) (q : Fin 64) (off : Nat) : Option Nat :=
  (assoc (s.sq q).tags (off / 4096)).bind fun t => (t.pin.bind s.model).bind fun m =>
    (m.image.resident.find? fun r => !r.chipMem && (m.members r.lunit).contains q.val && inRange r.offset r.bytes off).bind
      fun r => m.pinAt (r.src + (off / 4096 * 4096 - r.offset))

/-- The HBM copy of the 4 KiB that hold a resident chip memory address. -/
def State.chipCopy (s : State) (a : Nat) : Option Nat :=
  s.srv.models.findSome? fun m => (m.image.resident.filter (·.chipMem)).findSome? fun r =>
    (m.members r.lunit).findSome? fun u =>
      let lo := chipBase + u * chipBytes + r.offset
      if inRange lo r.bytes a then m.pinAt (r.src + ((a - lo) / 4096 * 4096)) else none

/-- The enclosing 4 KiB of a resident word reloaded from its HBM copy. -/
def State.reload (s : State) (a : Nat) : State :=
  let src := if isChip a then s.chipCopy a
    else if inRange coreMemBase (64 * coreMemStride) a then
      s.coreCopy ⟨(a - coreMemBase) / coreMemStride % 64, by omega⟩ ((a - coreMemBase) % coreMemStride)
    else none
  match src with
  | some pa => (s.copy pa (a / 4096 * 4096) 4096).markRange (a / 4096 * 4096) 4096 .none
  | none => s

/-- A parity detection attributed to a Squall by a read at an address (R129). -/
def State.parityCount (s : State) (q : Fin 64) : State := s.updSq q fun x => { x with parityDetect := x.parityDetect + 1 }

/-- A word that fails its parity, where it has an address, reloaded with its 4 KiB if it is resident. -/
def State.reloadWord (s : State) (w : BadWord) : State :=
  match w with
  | .mem pa => s.reload pa.toNat
  | .vreg | .cache _ | .dram _ _ => s

def State.reloadBad (s : State) (bad : Option BadWord) : State :=
  match bad with
  | some w => s.reloadWord w
  | none => s

/-- A detection by a read that belongs to the step a Squall runs (R131, R133). -/
def State.parityInStep (s : State) (q : Fin 64) (w : BadWord) : State :=
  let s1 := s.parityCount q
  match s1.runOn (frontOf q) with
  | none => s1.reloadWord w
  | some (c, r) =>
    match s1.model c.model with
    | none => s1
    | some m =>
      if 3 ≤ r.attempts then
        ((s1.endStep c.model c.chain .scratchParity).reloadWord w).failUnit (.squall q) 0
      else
        let s2 := s1.updRun c.model c.chain fun x => { x with attempts := x.attempts + 1, reruns := x.reruns + 1 }
        ((s2.count .stepRerun).startAttempt m c.chain r.variant).reloadWord w

/-- A detection in a line of the schedule engine's cache: the line is invalidated and fetched again, and no rerun follows (R130). -/
def State.parityLine (s : State) (q : Fin 64) (line : Nat) : State :=
  if ((s.sq q).cache.find line).isNone then s
  else ((s.parityCount q).updSq q fun x => { x with cache := x.cache.drop (· == line) }).schedFetch q line

/-- Has a command been performed: it occurred and did not wait. -/
def Answer.performed : Answer → Bool
  | .notDue | .waits => false
  | .none | .done | .data _ _ | .unsupportedRequest | .configRetry | .accessFault _ _ | .mailbox _ _ | .spdm _ _ | .completion _
  | .acknowledged _ | .nacked => true

/-- A command that a Squall performs, reading words protected by parity (R129): one of a cache line is fetched again before it goes on;
one of another memory fails when the command would be performed, and the command does none of its work. A line of DRAM that the command
reads is corrected, or poisoned and reported, before the command goes on with what it then holds (R283, R285). -/
def State.parity (s : State) (q : Fin 64) (bad : Option BadWord) (go : State → State) : State :=
  match bad with
  | none => go s
  | some (.cache line) => go (s.parityLine q line.toNat)
  | some (.dram pa found) => if s.readsOf pa.toNat < (go s).readsOf pa.toNat then go (s.dramCheck pa.toNat found) else go s
  | some w => if (go s).out.performed then s.ok.parityInStep q w else go s

/-- The core memory address of an offset of a Squall, and the operand window of an engine (Table 1.6). -/
def coreAddr (q : Fin 64) (off : Nat) : Nat := coreMemBase + q.val * coreMemStride + off
def opAddr (q : Fin 64) (e : Fin 4) : Nat := engineBase + engineNo q e * engineStride

end Sys2Proof.Machine
end

