-- ==== Sys2Proof/Machine/Cache.lean ====
section
/-!
DEFINITION. A core's inclusive pair of data caches, write-backs, and the store buffer (R294, R296, R298, R301, R310).
-/

namespace Sys2Proof.Machine

/-! ## A core's data caches -/

/-- The line as the core sees it: L1 holds the newer copy (R294). -/
def CoreSt.line (x : CoreSt) (line : Nat) : Option CLine := (x.l1d.find line).or (x.l2.find line)

def CoreSt.dropLine (x : CoreSt) (line : Nat) : CoreSt :=
  { x with
    l1d := x.l1d.drop (· == line), l2 := x.l2.drop (· == line), l1i := x.l1i.drop (· == line)
    reserved := if x.reserved = some line then none else x.reserved }

/-- A line written back to where it belongs: DRAM in class 3 (R277, R302), or host memory (Table 11.3). -/
def State.writeBack (s : State) (l : CLine) : State :=
  let m : Mark := if l.poison then .unreadable else .none
  if isHost (64 * l.line) then s.hostWrite (64 * l.line) l.data m none 0
  else (s.store (64 * l.line) l.data m).dramUse 3 true (64 * l.line) 64

/-- Room made in a core's L2 for a line: the victim leaves L1 first, and goes back to memory when dirty (R294). -/
def State.evictL2 (s : State) (c : Fin 64) (line : Nat) : State :=
  match (s.core c).l2.victim l2Geometry line with
  | none => s
  | some v =>
    let old := (s.core c).line v.line
    let s1 := s.updCore c fun x => x.dropLine v.line
    match old with
    | some l => if l.st == Mesi.m then s1.writeBack l else s1
    | none => s1

/-- A line of L2 copied into L1; the line that it replaces there goes back to L2 when dirty. -/
def CoreSt.fillL1 (x : CoreSt) (l : CLine) : CoreSt :=
  let x1 := match x.l1d.victim l1dGeometry l.line with
    | none => x
    | some v =>
      let l2 := if v.st == Mesi.m then x.l2.change v.line fun _ => v else x.l2
      { x with l1d := x.l1d.drop (· == v.line), l2 := l2 }
  { x1 with l1d := x1.l1d.place l1dGeometry l }

/-- A line granted to a core, in L2 and L1. -/
def State.fillCore (s : State) (c : Fin 64) (l : CLine) : State :=
  let s0 := s.updCore c fun x => x.dropLine l.line
  let s1 := s0.evictL2 c l.line
  s1.updCore c fun x => CoreSt.fillL1 { x with l2 := x.l2.place l2Geometry l } l

/-- A hit: the line stands in L1 afterwards, most recently used. -/
def CoreSt.hit (x : CoreSt) (line : Nat) : CoreSt :=
  let x1 := { x with l2 := x.l2.touch l2Geometry line }
  match x1.l1d.find line, x1.l2.find line with
  | some _, _ => { x1 with l1d := x1.l1d.touch l1dGeometry line }
  | none, some l => x1.fillL1 l
  | none, none => x1

/-- A line's state or contents changed in both caches. -/
def CoreSt.changeLine (x : CoreSt) (line : Nat) (f : CLine → CLine) : CoreSt :=
  match x.line line with
  | none => x
  | some l => { x with l1d := x.l1d.change line fun _ => f l, l2 := x.l2.change line fun _ => f l }

/-- Bytes written into a list at an offset. -/
def patch (l : List Byte) (off : Nat) (d : List Byte) : List Byte := l.take off ++ d ++ l.drop (off + d.length)

/-- Does a core own a line. -/
def CoreSt.owns (x : CoreSt) (line : Nat) : Bool := (x.line line).any fun l => l.st == .m || l.st == .e

/-! ## The store buffer (R296, R310) -/

/-- Where a store of a core goes. -/
def cacheableAddr (pa : Nat) : Bool := isDram pa || isHost pa

/-- A host line read into a core's caches without coherence (Table 11.3); waits while the link is down. -/
def State.fillHost (s : State) (c : Fin 64) (line : Nat) : State :=
  s.fillCore c { line := line, st := .e, data := s.bytes (64 * line) 64, poison := s.markOf (64 * line) 64 != .none }

/-- The oldest store of a buffer performed, if it can be: into a line that the core owns, or at its non-cacheable target. -/
def State.drainOne (s : State) (c : Fin 64) (peer : State → BufStore → State) : Option State :=
  match (s.core c).sb with
  | [] => none
  | b :: rest =>
    let line := b.pa / 64
    let s1 := s.updCore c fun x => { x with sb := rest }
    if b.cacheable then
      let s2 := if isHost b.pa && ((s1.core c).line line).isNone && s1.linkUp then s1.fillHost c line else s1
      if (s2.core c).owns line then
        some (s2.updCore c fun x => ((x.hit line).changeLine line fun l => { l with st := .m, data := patch l.data (b.pa % 64) b.data }))
      else none
    else if isPeer b.pa then some (peer s1 b)
    else if isHost b.pa then some (s1.hostWrite b.pa b.data .none none 0)
    else some ((s1.store b.pa b.data .none).dramUse 3 true b.pa b.data.length)

/-- Stores drained in order until one must wait for ownership; the youngest non-cacheable one stays where `keep` asks for it, so
that it can merge. -/
def State.drainStores (s : State) (c : Fin 64) (peer : State → BufStore → State) (keep : Bool) : Nat → State
  | 0 => s
  | n + 1 =>
    if keep && (s.core c).sb.length == 1 && ((s.core c).sb.all fun b => !b.cacheable) then s
    else match s.drainOne c peer with
      | some s1 => State.drainStores s1 c peer keep n
      | none => s

/-- A store put in a buffer; a non-cacheable one merges with the youngest into one access of up to 64 bytes (R296). -/
def mergeStore (l : List BufStore) (b : BufStore) : List BufStore :=
  match l.getLast? with
  | none => l ++ [b]
  | some y =>
    let lo := min y.pa b.pa
    let hi := max (y.pa + y.data.length) (b.pa + b.data.length)
    if !y.cacheable && !b.cacheable && y.pa / 64 = b.pa / 64 && b.pa ≤ y.pa + y.data.length && y.pa ≤ b.pa + b.data.length then
      let whole := patch (patch (List.replicate (hi - lo) 0) (y.pa - lo) y.data) (b.pa - lo) b.data
      l.dropLast ++ [{ pa := lo, data := whole, cacheable := false }]
    else l ++ [b]

/-- Bytes of a range as the core sees its own stores over them: forwarded from the buffer, youngest last (section 11.7). -/
def forward (sb : List BufStore) (pa : Nat) (base : List Byte) : List Byte :=
  sb.foldl (fun acc b =>
    acc.zipIdx.map fun p =>
      if inRange b.pa b.data.length (pa + p.2) then b.data.getD (pa + p.2 - b.pa) p.1 else p.1) base

end Sys2Proof.Machine
end

