-- ==== Sys2Proof/Machine/Session.lean ====
section
/-!
DEFINITION. Sessions, roles, policies, regions, sequences, and SUSPEND, RESUME and CANCEL (sections 13.2, 14.4 to 14.6).
-/

namespace Sys2Proof.Machine

/-! ## The pod description (Table 14.12, R349, R351) -/

/-- A byte of a raw description. -/
def rawByte (raw : List Byte) (i : Nat) : Nat := (raw.getD i 0).toNat
def rawWord (raw : List Byte) (i n : Nat) : Nat := leNat ((raw.drop i).take n)
def rawZero (raw : List Byte) (i n : Nat) : Bool := ((raw.drop i).take n).all (· == 0)

/-- A port code of a route: DL0 to DL3, SELF or NONE. -/
def routeCode (c : Nat) : Bool := decide (c < 4) || c == 8 || c == 15

/-- A pod description whose fields are legal. -/
def podOf (raw : List Byte) : Option Pod :=
  let route (d : Nat) : Nat × Nat := (bitsAt (rawByte raw (8 + 2 * d)) 0 4, bitsAt (rawByte raw (8 + 2 * d)) 4 4)
  let routes := (List.range 256).map route
  let windows := (List.range 4).map fun w => (rawWord raw (800 + 16 * w) 6, rawWord raw (808 + 16 * w) 4)
  let ok := rawWord raw 0 4 == 0x44504F44 && decide (rawByte raw 4 ≤ 253) && rawByte raw 5 == 0
    && decide (1 ≤ rawWord raw 6 2) && decide (rawWord raw 6 2 ≤ 254)
    && routes.all (fun r => routeCode r.1 && routeCode r.2)
    && (List.range 256).all (fun d => rawByte raw (9 + 2 * d) == 0)
    && rawZero raw 540 4 && rawZero raw 864 3232
    && windows.all (fun w => w.2 == 0 || decide (w.1 + w.2 * Config.frameBytes ≤ hbmBase))
  if ok && !Config.podRoutesBad raw then
    some { self := rawByte raw 4, count := rawWord raw 6 2, routes := routes,
           neighbours := (List.range 4).map fun p => rawByte raw (520 + p),
           targets := (List.range 16).map fun i => rawByte raw (524 + i),
           groups := (List.range 8).map fun g => rawWord raw (544 + 32 * g) 32,
           windows := windows.filter fun w => w.2 != 0, raw := raw }
  else none

/-- A port that goes DOWN: its replay buffer, what it had to send and the streams it carried are gone (R345). -/
def DnbPort.goDown (p : DnbPort) (now : Nat) : DnbPort :=
  { p with state := .down, width := 0, tState := now, leftUp := none, replay := [], sendQ := [], streams := [], txTags := [], replays := [], nakOwed := false }

/-- A route that crosses a port now DOWN: its destination waits for its alternate, or has none and is unreachable (R350). -/
def State.switchRoute (s : State) (p : Fin 4) (d : Nat) : State :=
  let r := ((s.eci.pod.map (·.routes)).getD []).getD d (15, 15)
  let alt := if r.1 = p.val ∧ r.2 ≠ p.val ∧ r.2 < 4 then r.2 else 15
  if alt = 15 then s.updDnb fun x => { x with routes := assocSet x.routes d 15, switching := x.switching.filter (· != d) }
  else s.updDnb fun x => { x with switching := x.switching ++ [d] }

/-- A port enters DOWN (R345, R350, R359). -/
def State.portGone (s : State) (p : Fin 4) : State :=
  let s1 := (s.count (portCtr .dnbDown0 .dnbDown1 .dnbDown2 .dnbDown3 p)).updPort p fun x => x.goDown s.now
  ((s.dnb.routes.filter fun x => x.2 == p.val).map (·.1)).foldl (fun u d => u.switchRoute p d) s1

/-- A port whose neighbour is not the one the description names is held DOWN, with an event (R349). -/
def State.checkNeighbour (s : State) (p : Fin 4) : State :=
  match s.eci.pod with
  | none => s
  | some d =>
    let want := d.neighbours.getD p.val 0xFF
    let seen := (s.port p).neighbour
    if want ≠ 0xFF ∧ seen ≠ 0xFF ∧ seen.toNat ≠ want ∧ !(s.port p).heldDown then
      let s0 := if (s.port p).state = .down then s else s.portGone p
      let s1 := s0.updPort p fun x => { x with heldDown := true }
      s1.event 0 0x0006 s.moduleId 0 (argBits [(0, p.val + 1), (8, seen.toNat)])
    else s

/-- A pod description comes into force: index, routes, windows, groups of modules, neighbours (R32, R349, R351, R21). -/
def State.enterPod (s : State) (d : Pod) : State :=
  let s1 := s.updEci fun e => { e with pod := some d, moduleIndex := BitVec.ofNat 8 d.self }
  let s2 := s1.updDnb fun x => { x with routes := (List.range 256).map fun i => (i, (d.routes.getD i (15, 15)).1), switching := [] }
  let members (m : Nat) : List (BitVec 32) := ((List.range 256).filter (bitAt m)).map fun i => pathId i 0xF 0xF 0xF
  let s3 := (d.groups.filter (· != 0)).foldl (fun u m => u.updSrv fun v => { v with
    groups := v.groups ++ [{ index := v.nextGroup, kind := 4, members := members m }], nextGroup := v.nextGroup + 1 }) s2
  (List.finRange 4).foldl (fun u p => u.checkNeighbour p) s3

/-! ## ATTACH, DETACH, REATTACH (R374, R376, R377, R342) -/

/-- The lowest session number that is free (DESIGN CHOICE, log 6). -/
def State.newSession (s : State) : BitVec 16 :=
  BitVec.ofNat 16 ((firstNat (fun n => !s.eci.sessions.any (·.id == BitVec.ofNat 16 n)) 1 65534).getD 1)

/-- A token from the root of trust, never 0 (R374, R426). -/
def State.newToken (s : State) : W64 := let w := s.drawn 1; if w = 0 then 1 else w

/-- Pairs bound to a session, one bit each. -/
def State.boundMask (s : State) (id : BitVec 16) : Nat :=
  (List.finRange 64).foldl (fun m q => if (s.pair q).session = some id then m + 2 ^ q.val else m) 0

def State.bindPairs (s : State) (id : BitVec 16) (p : Fin 64 → Bool) : State :=
  (List.finRange 64).foldl (fun u q => if p q then u.updPair q fun x => { x with session := some id } else u) s

/-- A read of host memory needs the link (R333, R339): a command that must read there waits for it. -/
def State.readable (s : State) (pa : Nat) : Bool := !isHost pa || s.linkUp

/-- A description that differs from the one in force, or that cannot come into force (R349, R374). -/
def State.podRefused (s : State) (raw : List Byte) : Bool :=
  match s.eci.pod with
  | some d => d.raw != raw
  | none => (podOf raw).isNone

def attachFields : List FieldSpec :=
  [(64, 32, anyVal), (96, 64, anyVal), (160, 16, fun v => v == 0 || inVals 10 60000 v),
   (176, 3, fun v => v ≤ 3 || v == 7), (192, 48, anyVal)]

def attachBody (c : Cmd) (s : State) : State :=
  match c.src with
  | .pair q =>
    let role := c.f 176 3
    let podPa := c.f 192 48
    let raw := s.bytes podPa 4096
    if (s.pair q).session.isSome then s.refuse c .stateConflict 0
    else if podPa ≠ 0 ∧ !s.readable podPa then s.waits
    else if role ≠ 7 ∧ (s.eci.sessions ≠ [] ∨ s.srv.models ≠ []) ∧ s.eci.role.map Role.code ≠ some role then
      s.refuse c .stateConflict 0
    else if podPa ≠ 0 ∧ (s.podRefused raw) then s.refuse c .podInvalid 0
    else
      let id := s.newSession
      let tok := s.newToken
      let tenant := BitVec.ofNat 32 (c.f 64 32)
      let held := match s.eci.journal with
        | some j => (j.items.filter fun i => j.sessions.any fun x => x.id == i.session && x.tenant == tenant).length
        | none => 0
      let path := ((s.pair q).onPkg).getD false
      let s1 := s.draw.updEci fun e => { e with
        sessions := e.sessions ++ [{ id := id, tenant := tenant, token := tok, onPkg := path, pairs := [], beatMs := c.f 160 16, lastBeat := s.now }]
        role := if role = 7 then e.role else Role.ofCode role }
      let s2 := s1.bindPairs id fun k => k == q || (bitAt (c.f 96 64) k.val && (s.pair k).active && (s.pair k).session.isNone)
      let s3 := if podPa ≠ 0 ∧ s.eci.pod.isNone then
          match podOf raw with
          | some d => s2.enterPod d
          | none => s2
        else s2
      s3.done { c with session := id, tenant := tenant } id.toNat
        (res [(192, tok.toNat), (256, s3.eci.moduleIndex.toNat), (264, held)])
  | _ => s.refuse c .notOnPort 0

def execAttach (src : Src) (s : State) : Res := .next (s.command 0x01 src (fun _ => attachFields) attachBody)

def detachBody (c : Cmd) (s : State) : State :=
  let w := BitVec.ofNat 16 (c.f 64 16)
  let id := if w = 0xFFFF then c.session else w
  if (s.session id).isNone then s.refuse c .noSession 0
  else if id ≠ c.session ∧ !c.op then s.refuse c .notPermitted 0
  else
    let s1 := (s.begin c).updEci fun e => { e with detaching := e.detaching ++ [(c.ref, id)] }
    (s1.cancelSession id).tryDetach

def execDetach (src : Src) (s : State) : Res := .next (s.command 0x02 src (fun _ => [(64, 16, anyVal)]) detachBody)

/-- BAD_TOKEN refusals: 8 within 60 s lock REATTACH for 60 s (R342, R376). -/
def State.badToken (s : State) : State :=
  let l := (s.eci.badTokens.filter fun t => decide (s.now < t + ms 60000)) ++ [s.now]
  s.updEci fun e =>
    if 8 ≤ l.length then { e with badTokens := [], reattachLockUntil := some (s.now + ms 60000) }
    else { e with badTokens := l }

/-- The unread shadow records of a pair, oldest first, with PHASE 1 (R376). -/
def State.shadowRecords (s : State) (q : Fin 64) : List Entry :=
  let p := s.pair q
  let n := entriesOf p.cqLog2
  (List.range p.shadowUnread).map fun i =>
    let k := (p.cqTail.toNat + n - p.shadowUnread + i) % n
    let e : Entry := BitVec.ofNat 1024 (s.word (shadowBase q + 128 * k) 128)
    e ||| (1 <<< 22)

/-- One pair's completion queue moves from the shadow queue to the address written to ECI_CQ_BASE (R376). -/
def State.moveQueue (s : State) (q : Fin 64) : State :=
  let p := s.pair q
  if !p.shadow || !queueOk p.cqBase p.cqLog2 then s
  else
    let l := s.shadowRecords q
    let s1 := s.putBytes p.cqBase.toNat (l.flatMap fun e => leBytes e.toNat 128)
    s1.updPair q fun x => { x with
      shadow := false, cqTail := BitVec.ofNat 12 l.length, cqHead := 0, phase := true, unread := l.length, shadowUnread := 0 }

def reattachBody (c : Cmd) (s : State) : State :=
  match c.src with
  | .pair q =>
    let id := BitVec.ofNat 16 (c.f 64 16)
    match s.session id with
    | none => s.refuse c .noSession 0
    | some x =>
      let own := (s.pair q).session = some id
      if s.eci.reattachLockUntil.any (fun t => decide (s.now < t)) then s.refuse c .reattachLocked 0
      else if (s.pair q).session.isSome ∧ !own then s.refuse c .stateConflict 0
      else if !x.lost ∧ !own then s.refuse c .noSession 0
      else if c.f 128 64 ≠ x.token.toNat then s.badToken.refuse c .badToken 0
      else
        -- each of its pairs fetches again from entry 0; the submitting pair goes on where it is
        let s1 := if x.lost then
            let restart := s.updEci fun e => { e with
              pairs := e.pairs.mapIdx fun i p => if p.session == some id && i != q.val then { p with stopped := false, sqHead := 0, sqTail := 0 } else p }
            ((restart.updPair q fun p => { p with session := some id, stopped := false }).updSession id fun y => { y with
              lost := false, lastBeat := s.now, onPkg := ((s.pair q).onPkg).getD y.onPkg })
          else s.updSession id fun y => { y with lastBeat := s.now }
        let s2 := (List.finRange 64).foldl (fun u k =>
          if bitAt (c.f 192 64) k.val ∧ (u.pair k).session = some id then u.moveQueue k else u) s1
        let items := (s2.session id).map (·.journal) |>.getD []
        let s3 := (s2.updSession id fun y => { y with journal := [] }).updEci fun e => { e with
          journal := e.journal.map fun j => { j with items := j.items.filter (fun i => i.session != id) } }
        let c' := { c with session := id, tenant := x.tenant }
        if items = [] then s3.done c' id.toNat (res [(192, s3.boundMask id)])
        else
          let d : Deliver := { ref := c'.ref, q := q, items := items, handle := id.toNat, pairs := s3.boundMask id }
          let s4 := (s3.begin c').updEci fun e => { e with delivering := e.delivering ++ [d] }
          s4.deliver d (items.length + 1)
  | _ => s.refuse c .notOnPort 0

def execReattach (src : Src) (s : State) : Res :=
  .next (s.command 0x03 src (fun _ => [(64, 16, anyVal), (128, 64, anyVal), (192, 64, anyVal)]) reattachBody)

/-- The 60 s lock runs out (R376). -/
def execReattachLockEnd (s : State) : Res :=
  .next (match s.eci.reattachLockUntil with
    | some t => if t ≤ s.now then (s.ok).updEci fun e => { e with reattachLockUntil := none } else s.notDue
    | none => s.notDue)

/-! ## ROLE_SET, POLICY_SET, POWER_CAP_SET -/

def roleSetBody (c : Cmd) (s : State) : State :=
  if s.eci.ops ≠ [] then s.refuse c .stateConflict 0
  else (s.updEci fun e => { e with role := Role.ofCode (c.f 64 3) }).done c 0 0

/-- ROLE_SET (R30, R378). -/
def execRoleSet (src : Src) (s : State) : Res := .next (s.command 0x18 src (fun _ => [(64, 3, inVals 0 3)]) roleSetBody)

/-- The keys of Table 14.8; `key` none for an unknown key. -/
inductive PolicyKey where
  | debugAccess | mixedPrefill | cacheAwake | tenantFloor | tenantCeiling | weightCeiling | updraftAhead | weightLate
  | hbmRekey | modelKey
  deriving DecidableEq, Repr

def policyKey : Nat → Option PolicyKey
  | 0x0001 => some .debugAccess | 0x0002 => some .mixedPrefill | 0x0003 => some .cacheAwake
  | 0x0010 => some .tenantFloor | 0x0011 => some .tenantCeiling | 0x0012 => some .weightCeiling
  | 0x0013 => some .updraftAhead | 0x0014 => some .weightLate | 0x0020 => some .hbmRekey | 0x0030 => some .modelKey
  | _ => none

/-- Keys that only an operator may set. -/
def PolicyKey.op : PolicyKey → Bool
  | .weightCeiling | .updraftAhead | .weightLate => false
  | _ => true

/-- Keys whose TARGET is 0. -/
def PolicyKey.noTarget : PolicyKey → Bool
  | .debugAccess | .mixedPrefill | .cacheAwake | .hbmRekey => true
  | _ => false

/-- The floors of all tenants once one is set (R242). -/
def State.floorSum (s : State) (t : BitVec 32) (v : Nat) : Nat :=
  ((s.eci.tenants.filter (·.id != t)).foldl (fun n x => n + x.floor) 0) + v

/-- Is a VALUE in the key's range (Table 14.8, R242, R371). -/
def State.policyOk (s : State) (k : PolicyKey) (target : BitVec 32) (v : Nat) : Bool :=
  match k with
  | .debugAccess | .hbmRekey => decide (v ≤ 1)
  | .mixedPrefill => decide (1 ≤ v) && decide (v ≤ 254)
  | .cacheAwake => decide (v ≤ 255)
  | .tenantFloor => decide (s.floorSum target v ≤ s.tiers.poolSize) && decide (v ≤ s.ceilingOf target)
  | .tenantCeiling => decide (v ≤ s.tiers.poolSize) && decide ((s.tenant target).floor ≤ v)
  | .weightCeiling => decide (v ≤ s.tiers.poolSize)
  | .updraftAhead => decide (v ≤ 64)
  | .weightLate => decide (10 ≤ v) && decide (v ≤ 4000)
  | .modelKey => v == 0

/-- The previous VALUE and the new state (R371). -/
def State.policySet (s : State) (k : PolicyKey) (t : BitVec 32) (v : Nat) (data : List Byte) : Nat × State :=
  let m := s.model t
  match k with
  | .debugAccess => (if s.eci.debugOn then 1 else 0,
      s.updEci fun e => { e with debugOn := v == 1, debugEver := e.debugEver || v == 1 })
  | .mixedPrefill => (s.eci.mixedPrefill.toNat, s.updEci fun e => { e with mixedPrefill := BitVec.ofNat 8 v })
  | .cacheAwake => (s.eci.cacheAwake.toNat, s.updEci fun e => { e with cacheAwake := BitVec.ofNat 8 v })
  | .tenantFloor => ((s.tenant t).floor, s.updTenant t fun x => { x with floor := v })
  | .tenantCeiling => (s.ceilingOf t, s.updTenant t fun x => { x with ceiling := some v })
  | .weightCeiling => ((m.bind (·.weightCeiling)).getD s.tiers.poolSize, s.updModel t fun x => { x with weightCeiling := some v })
  | .updraftAhead => ((m.map (·.ahead)).getD 8, s.updModel t fun x => { x with ahead := v })
  | .weightLate => ((m.map (·.lateMs)).getD 2000, s.updModel t fun x => { x with lateMs := v })
  | .hbmRekey => (if s.eci.rekeyWanted then 1 else 0, s.updEci fun e => { e with rekeyWanted := v == 1 })
  | .modelKey => (0, s.updTenant t fun x => { x with modelKey := some data })

def policyFields (c : Cmd) : List FieldSpec :=
  let k := policyKey (c.f 64 16)
  [(64, 16, fun v => (policyKey v).isSome),
   (96, 32, fun v => v == 0 || !(k.any fun x => x.noTarget)), (128, 64, anyVal), (192, 256, anyVal)]

def policyBody (c : Cmd) (s : State) : State :=
  match policyKey (c.f 64 16) with
  | none => s.refuse c .invalidField 8
  | some k =>
    let t := BitVec.ofNat 32 (c.f 96 32)
    let v := c.f 128 64
    if k.op && !c.op then s.refuse c .notPermitted 0
    else if !k.op && !((s.model t).any fun m => c.all || m.tenant == c.tenant) then s.refuse c .notFound 0
    else if !s.policyOk k t v then s.refuse c .invalidField 16
    else
      let r := s.policySet k t v (leBytes (c.f 192 256) 32)
      r.2.done c 0 (res [(192, r.1)])

def execPolicySet (src : Src) (s : State) : Res := .next (s.command 0x19 src policyFields policyBody)

/-- POWER_CAP_SET (R389): the cap waits for the next period boundary; the record reports the cap in force. -/
def capBody (c : Cmd) (s : State) : State :=
  let w := c.f 64 12
  if w < 800 ∨ 3600 < w then s.refuse c .capRange 0
  else (s.updPwr fun p => { p with capWanted := some w }).done c 0 (res [(192, s.pwr.cap)])

def execPowerCapSet (src : Src) (s : State) : Res := .next (s.command 0x1A src (fun _ => [(64, 12, anyVal)]) capBody)

/-! ## Regions (R334, R337) -/

/-- Does a page range touch another one. -/
def overlaps (a n b k : Nat) : Bool := decide (a < b + k) && decide (b < a + n)

/-- Is a device page of a region admissible: LPDDR5X outside the ECI queue and shadow areas, or a KV frame charged to the
tenant (R334). -/
def State.regionPage (s : State) (tenant : BitVec 32) (pa : Nat) : Bool :=
  if isLpd pa then decide (pa < 0xFFF8000000)
  else if isHbm pa then
    s.tiers.frames.any fun f => f.frame == (pa - hbmBase) / Config.frameBytes && f.cls == .kv && f.tenant == tenant
  else false

/-- Is a region's range admissible (R334). -/
def State.regionOk (s : State) (tenant : BitVec 32) (base pages : Nat) : Bool :=
  let n := pages * 4096
  let clear := !(s.eci.regions.any fun r => overlaps base n r.base (r.pages * 4096))
  if isHost base then decide (base + n ≤ hostEnd) && clear
  else if base + n ≤ 0xFFF8000000 then clear
  else decide (base + n ≤ dramEnd) && clear && (List.range pages).all fun i => s.regionPage tenant (base + 4096 * i)

def regionFields : List FieldSpec :=
  [(64, 48, fun v => v % 4096 == 0), (128, 32, fun v => decide (1 ≤ v)), (160, 6, anyVal), (192, 128, anyVal), (320, 256, anyVal)]

def regionBody (c : Cmd) (s : State) : State :=
  let base := c.f 64 48
  let pages := c.f 128 32
  let fl := c.f 160 6
  if !s.regionOk c.tenant base pages then s.refuse c .regionInvalid 0
  else
    match firstNat (fun h => !s.eci.regions.any (·.handle == BitVec.ofNat 16 h)) 1 65535 with
    | none => s.refuse c .regionInvalid 0
    | some h =>
      let ids := ((List.range 8).map fun i => BitVec.ofNat 16 (c.f (192 + 16 * i) 16)).filter (· != 0)
      let r : Region := { handle := BitVec.ofNat 16 h, base := base, pages := pages, host := bitAt fl 0, adapter := bitAt fl 1, peer := bitAt fl 2,
                          write := bitAt fl 3, snoop := bitAt fl 4, gen := bitAt fl 5, requesters := ids,
                          modules := (List.range 256).filter (bitAt (c.f 320 256)), session := c.session }
      (s.updEci fun e => { e with regions := e.regions ++ [r] }).done c h 0

def execRegionRegister (src : Src) (s : State) : Res := .next (s.command 0x20 src (fun _ => regionFields) regionBody)

/-- A region as a command sees it: its session's tenant must be the command's (R369). -/
def State.regionFor (s : State) (c : Cmd) (h : Nat) : Option Region :=
  s.eci.regions.find? fun r => r.handle == BitVec.ofNat 16 h && (c.all || ((s.session r.session).any fun x => x.tenant == c.tenant))

def regionReleaseBody (c : Cmd) (s : State) : State :=
  let h := c.f 64 16
  match s.regionFor c h with
  | none => s.refuse c .notFound 0
  | some r =>
    if s.openItems.any fun i => i.handles.contains h then s.refuse c .regionBusy 0
    else ((s.updEci fun e => { e with regions := e.regions.filter fun x => x.handle != r.handle }).unpattern [h]).done c 0 0

def execRegionRelease (src : Src) (s : State) : Res :=
  .next (s.command 0x21 src (fun _ => [(64, 16, anyVal)]) regionReleaseBody)

/-! ## Sequences (R182, R206-R210) -/

/-- A model as a command sees it (R369). -/
def State.modelFor (s : State) (c : Cmd) (id : BitVec 32) : Option Model :=
  (s.model id).bind fun m => if c.all || m.tenant == c.tenant then some m else none

/-! ### SipHash-2-4, a published algorithm the spec names (R206; PRESUMED, log 13) -/

def rotl64 (x : W64) (n : Nat) : W64 := (x <<< n) ||| (x >>> (64 - n))

def sipRound (v : W64 × W64 × W64 × W64) : W64 × W64 × W64 × W64 :=
  let v0 := v.1 + v.2.1
  let v1 := rotl64 v.2.1 13 ^^^ v0
  let v0 := rotl64 v0 32
  let v2 := v.2.2.1 + v.2.2.2
  let v3 := rotl64 v.2.2.2 16 ^^^ v2
  let v0 := v0 + v3
  let v3 := rotl64 v3 21 ^^^ v0
  let v2 := v2 + v1
  let v1 := rotl64 v1 17 ^^^ v2
  let v2 := rotl64 v2 32
  (v0, v1, v2, v3)

def sipWord (v : W64 × W64 × W64 × W64) (m : W64) : W64 × W64 × W64 × W64 :=
  let a := (v.1, v.2.1, v.2.2.1, v.2.2.2 ^^^ m)
  let b := sipRound (sipRound a)
  (b.1 ^^^ m, b.2.1, b.2.2.1, b.2.2.2)

/-- The words of a message: whole 8-byte words, then the last bytes with the length in the top byte. -/
def sipWords (total : Nat) : Nat → List Byte → List W64
  | 0, _ => []
  | n + 1, l =>
    if l.length < 8 then [BitVec.ofNat 64 (leNat l + (total % 256) <<< 56)]
    else BitVec.ofNat 64 (leNat (l.take 8)) :: sipWords total n (l.drop 8)

def sipHash (key msg : List Byte) : W64 :=
  let k0 : W64 := BitVec.ofNat 64 (leNat (key.take 8))
  let k1 : W64 := BitVec.ofNat 64 (leNat ((key.drop 8).take 8))
  let v := (k0 ^^^ 0x736f6d6570736575, k1 ^^^ 0x646f72616e646f6d, k0 ^^^ 0x6c7967656e657261, k1 ^^^ 0x7465646279746573)
  let v := (sipWords msg.length (msg.length / 8 + 1) msg).foldl sipWord v
  let v := sipRound (sipRound (sipRound (sipRound (v.1, v.2.1, v.2.2.1 ^^^ 0xFF, v.2.2.2))))
  v.1 ^^^ v.2.1 ^^^ v.2.2.1 ^^^ v.2.2.2

/-- h_root and h_b of R206. -/
def State.rootHash (s : State) (m : Model) (tenant : BitVec 32) : W64 :=
  let p := m.plan.getD {}
  sipHash s.srv.dirKey (leBytes m.id.toNat 4 ++ leBytes tenant.toNat 4 ++ leBytes p.kvfmt 4 ++ leBytes (p.layers * 65536 + p.groups) 4)
def State.blockHash (s : State) (parent : W64) (ids : List (BitVec 32)) : W64 :=
  sipHash s.srv.dirKey (leBytes parent.toNat 8 ++ ids.flatMap fun x => leBytes x.toNat 4)

/-- n unsigned 32-bit identifiers in memory. -/
def State.tokens (s : State) (pa n : Nat) : List (BitVec 32) :=
  (List.range n).map fun i => BitVec.ofNat 32 (s.word (pa + 4 * i) 4)

/-- The walk of R207: from a parent and its hash, through blocks of 64 identifiers, to the first miss. -/
def State.dirWalk (s : State) (m tenant : BitVec 32) : Option Nat → W64 → List (List (BitVec 32)) → List DirEntry
  | _, _, [] => []
  | parent, h, ids :: rest =>
    let hb := s.blockHash h ids
    match s.srv.dir.find? (fun d => d.model == m && d.tenant == tenant && d.hash == hb && d.parent == parent && d.tokens == ids) with
    | none => []
    | some d => d :: State.dirWalk s m tenant (some d.id) hb rest

/-- Identifiers cut into blocks of 64, n of them. -/
def cutBlocks : Nat → List (BitVec 32) → List (List (BitVec 32))
  | 0, _ => []
  | n + 1, l => l.take 64 :: cutBlocks n (l.drop 64)

/-- References on directory entries taken, their stamps renewed (R209). -/
def State.shareEntries (s : State) (ids : List Nat) : State :=
  s.updSrv fun v => { v with dir := updWhere v.dir (fun d => ids.contains d.id) fun d => { d with refs := d.refs + 1, stamp := s.now } }

/-- A new sequence with a handle that is free, the lowest (R182; log 6). -/
def State.newHandle (s : State) (m : Model) : Option Nat :=
  m.plan.bind fun p => firstNat (fun h => (s.seqOf m.id h).isNone) 0 p.seqs

def seqOpenBody (c : Cmd) (s : State) : State :=
  let pa := c.f 96 64
  let p := c.f 160 32
  if s.eci.role = some .cache then s.refuse c .stateConflict 0
  else match s.modelFor c (BitVec.ofNat 32 (c.f 64 32)) with
    | none => s.refuse c .notFound 0
    | some m =>
      if !s.readable pa || s.srv.chains.any (fun k => k.model == m.id && !k.inserting.isEmpty) then s.waits
      else match s.newHandle m with
        | none => s.refuse c .stateConflict 0
        | some h =>
          let k := (p - 1) / 64
          let hits := s.dirWalk m.id c.tenant none (s.rootHash m c.tenant) (cutBlocks k (s.tokens pa (64 * k)))
          let q : Seq := { model := m.id, handle := h, tenant := c.tenant, session := c.session, n := 64 * hits.length,
                           table := hits.map (·.sub), shared := hits.map (·.id) }
          let s1 := (s.shareEntries (hits.map (·.id))).updSrv fun v => { v with seqs := v.seqs ++ [q] }
          (s1.writeTable m q).done c h (res [(192, q.n), (224, hits.length)])

def execSeqOpen (src : Src) (s : State) : Res :=
  .next (s.command 0x28 src (fun _ => [(64, 32, anyVal), (96, 64, anyVal), (160, 32, anyVal)]) seqOpenBody)

/-- A sequence as a command sees it: of its tenant, and not closed already (R369). -/
def State.seqFor (s : State) (c : Cmd) (m : BitVec 32) (h : Nat) : Option Seq :=
  (s.seqOf m h).bind fun q => if (c.all || q.tenant == c.tenant) && !q.closing then some q else none

def seqCloseBody (c : Cmd) (s : State) : State :=
  let m := BitVec.ofNat 32 (c.f 64 32)
  let h := c.f 96 16
  match s.modelFor c m with
  | none => s.refuse c .notFound 0
  | some _ =>
    match s.seqFor c m h with
    | none => s.refuse c .notFound 0
    | some _ => (s.closeSeq m h).done c 0 0

def execSeqClose (src : Src) (s : State) : Res :=
  .next (s.command 0x29 src (fun _ => [(64, 32, anyVal), (96, 16, anyVal)]) seqCloseBody)

/-! ## SUSPEND, RESUME, CANCEL (R380, R382, R386, Table 14.10) -/

/-- TARGET admits KIND and identity for a command. -/
def targetField (kinds : Nat → Bool) : FieldSpec :=
  (64, 64, fun v => kinds (v >>> 62) && (match v >>> 62 with
    | 0 => decide (v % 2 ^ 62 < 2 ^ 32)
    | 1 => decide (v % 2 ^ 62 < 2 ^ 22)
    | 2 => bitsAt v 4 12 == 0 && bitsAt v 48 14 == 0
    | _ => v % 2 ^ 62 == 0))

/-- An operation as a command sees it: none unknown, or the operation if it is in flight, or that it is final. -/
inductive OpSeen where
  | unknown | final | live (o : LongOp)

def State.opFor (s : State) (c : Cmd) (h : Nat) : OpSeen :=
  match s.op h with
  | some o => if c.all || o.tenant == c.tenant then .live o else .unknown
  | none => if 0 < h ∧ h < s.eci.nextHandle then .final else .unknown

def suspendBody (c : Cmd) (s : State) : State :=
  let t := c.f 64 64
  if t >>> 62 = 3 then
    if !c.op then s.refuse c .notPermitted 0
    else match s.eci.devState with
      | .ready | .serving | .degraded =>
        let s1 := (s.begin c).updEci fun e => { e with
          devState := .draining, stateBefore := e.devState, drainWhy := some (.suspend, c.ref)
          ops := updWhere e.ops (·.st == .running) fun o => { o with st := .suspending, byModule := true } }
        s1.tryDrain
      | .suspended => s.done c 0 0
      | _ => s.refuse c .stateConflict 0
  else match s.opFor c (t % 2 ^ 32) with
    | .unknown => s.refuse c .notFound 0
    | .final => s.endCmd c .alreadyFinal 0 0 0
    | .live o =>
      match o.st with
      | .suspended => s.done c 0 0
      | .running => (s.begin c).updOp o.handle fun x => { x with st := .suspending, suspenders := x.suspenders ++ [c.ref] }
      | .suspending | .ending => (s.begin c).updOp o.handle fun x => { x with suspenders := x.suspenders ++ [c.ref] }

def execSuspend (src : Src) (s : State) : Res :=
  .next (s.command 0x38 src (fun _ => [targetField fun k => k == 0 || k == 3]) suspendBody)

/-- The state a RESUME of the module returns to (R380). -/
def State.resumeState (s : State) : DevState :=
  if !s.allUnitsIn then .degraded
  else match s.eci.stateBefore with
    | .degraded => if s.srv.models.isEmpty then .ready else .serving
    | d => d

def resumeBody (c : Cmd) (s : State) : State :=
  let t := c.f 64 64
  if t >>> 62 = 3 then
    if !c.op then s.refuse c .notPermitted 0
    else match s.eci.devState with
      | .suspended =>
        let s1 := (s.setDev s.resumeState).updEci fun e => { e with
          ops := updWhere e.ops (fun o => o.byModule && o.st == .suspended) fun o => { o with st := .running, byModule := false } }
        ((s.eci.ops.filter fun o => o.byModule && o.st == .suspended).foldl (fun u o => u.tellHeld o false) s1).done c 0 0
      | .ready | .serving | .degraded => s.done c 0 0
      | _ => s.refuse c .stateConflict 0
  else match s.opFor c (t % 2 ^ 32) with
    | .unknown => s.refuse c .notFound 0
    | .final => s.endCmd c .alreadyFinal 0 0 0
    | .live o =>
      match o.st with
      | .suspended => ((s.updOp o.handle fun x => { x with st := .running, byModule := false }).tellHeld o false).done c 0 0
      | _ => s.done c 0 0

def execResume (src : Src) (s : State) : Res :=
  .next (s.command 0x39 src (fun _ => [targetField fun k => k == 0 || k == 3]) resumeBody)

def cancelBody (c : Cmd) (s : State) : State :=
  let t := c.f 64 64
  match t >>> 62 with
  | 0 =>
    match s.opFor c (t % 2 ^ 32) with
    | .unknown => s.refuse c .notFound 0
    | .final => s.endCmd c .alreadyFinal 0 0 0
    | .live o =>
      if o.st = .suspended then
        (s.begin c).updOp o.handle (fun x => { x with cancellers := x.cancellers ++ [c.ref] }) |> fun u =>
          match u.op o.handle with
          | some x => u.failOp x .cancelled 0 0
          | none => u
      else (s.begin c).updOp o.handle fun x => { x with st := .ending, cancellers := x.cancellers ++ [c.ref] }
  | 1 =>
    let src := Src.pair ⟨bitsAt t 16 6, by simp only [bitsAt]; omega⟩
    let hit (i : Item) : Bool := i.ref.src == src && i.ref.cid == BitVec.ofNat 16 (bitsAt t 0 16) && (c.all || i.tenant == c.tenant)
    if s.openItems.any hit then ((s.cancelWhere fun _ i => hit i).done c 0 0).settle
    else s.endCmd c .alreadyFinal 0 0 0
  | _ =>
    let m := BitVec.ofNat 32 (bitsAt t 16 32)
    let k : Fin 16 := ⟨bitsAt t 0 4, by simp only [bitsAt]; omega⟩
    match s.modelFor c m with
    | none => s.refuse c .notFound 0
    | some _ =>
      ((s.cancelWhere fun ch i => ch.model == m && ch.chain == k && (c.all || i.ref.session == c.session)).done c 0 0).settle

def execCancel (src : Src) (s : State) : Res :=
  .next (s.command 0x3A src (fun _ => [targetField fun k => k != 3]) cancelBody)

end Sys2Proof.Machine
end

