-- ==== Sys2Proof/Machine/Query.lean ====
section
/-!
DEFINITION. QUERY, COUNTERS_READ and LOG_READ: what the module tells of itself (R14 to R19, R358, R370, R387, R411, R418).
-/

namespace Sys2Proof.Machine

/-! ## The output (R370) -/

/-- A list of bytes of a fixed length. -/
def padTo (n : Nat) (l : List Byte) : List Byte := (l ++ List.replicate (n - l.length) 0).take n

/-- A record of n bytes given by its fields at their bit positions. -/
def packed (n : Nat) (l : List (Nat × Nat)) : List Byte := leBytes (argBits l) n

/-- Operand fields of the three commands; DEST_PA is 0 on the urgent and management paths, and otherwise names DRAM, chip
memory or host memory. -/
def outputFields (sel : Nat) (c : Cmd) : List FieldSpec :=
  [(64, sel, anyVal), (96, 32, anyVal), (128, 64, fun v => match c.src with
    | .pair _ => v == 0 || isDram v || isChip v || isHost v
    | _ => v == 0), (192, 32, anyVal), (224, 32, anyVal)]

/-- Bytes that LEN and OFFSET take out of an output of n bytes. -/
def Cmd.written (c : Cmd) (n : Nat) : Nat := if c.f 128 64 = 0 then 0 else min (c.f 192 32) (n - c.f 224 32)

/-- The output written to its destination. -/
def State.writeOut (s : State) (c : Cmd) (out : List Byte) : State :=
  let data := (out.drop (c.f 224 32)).take (c.written out.length)
  if data = [] then s
  else if isHost (c.f 128 64) then s.hostWrite (c.f 128 64) data .none none c.session
  else s.store (c.f 128 64) data .none

/-- The result fields: total length, bytes written, the first 96 bytes from OFFSET. -/
def outResult (c : Cmd) (out : List Byte) : Nat :=
  res [(192, out.length % 2 ^ 32), (224, c.written out.length), (256, leNat ((out.drop (c.f 224 32)).take 96))]

def State.output (s : State) (c : Cmd) (out : List Byte) : State := (s.writeOut c out).done c 0 (outResult c out)

/-! ## Unit descriptors (Table 1.3) -/

/-- A unit of the module as an identifier names it (Table 1.4). -/
inductive UnitRef where
  | engine (q : Fin 64) (e : Fin 4)
  | squall (q : Fin 64)
  | front (f : Fin 8)
  | module
  | core (c : Fin 64)
  | group (g : Group)
  deriving DecidableEq, Repr

def State.units (s : State) : List (BitVec 32 × UnitRef) :=
  (s.moduleId, .module) :: (List.finRange 8).map (fun f => (s.frontId f, UnitRef.front f))
    ++ (List.finRange 64).map (fun q => (s.squallId q, UnitRef.squall q))
    ++ (List.finRange 64).flatMap (fun q => (List.finRange 4).map fun e => (s.engineId q e, UnitRef.engine q e))
    ++ (List.finRange 64).map (fun c => (s.coreId c, UnitRef.core c))
    ++ s.srv.groups.map (fun g => (BitVec.ofNat 32 (2 <<< 30 + g.index), UnitRef.group g))

/-- The unit an identifier names: only identifiers that QUERY reports (R22). -/
def State.unitRef (s : State) (id : BitVec 32) : Option UnitRef := (s.units.find? fun u => u.1 == id).map (·.2)

def UnitRef.kind : UnitRef → Nat
  | .engine _ _ => 1 | .squall _ => 2 | .front _ => 3 | .module => 4 | .core _ => 5 | .group _ => 0x80

/-- The region of LPDDR5X that ATTACH assigns to a core as its window; none before (R24, R240; DESIGN CHOICE, log 90: the last 4 GiB, in
core order). -/
def State.coreWindow (s : State) (c : Fin 64) : Nat × Nat :=
  if s.eci.sessions.isEmpty then (0, 0) else (coreWindows + c.val * 0x4000000, 0x4000000)

/-- The memory window of a unit (Table 1.6); that of a group is its members' windows one behind the other, groups among them (R19). -/
def State.window (s : State) : Nat → UnitRef → Nat × Nat
  | _, .engine q e => (engineBase + engineNo q e * engineStride, engineStride)
  | _, .squall q => (coreMemBase + q.val * coreMemStride, coreMemStride)
  | _, .front f => (chipBase + f.val * chipBytes, chipBytes)
  | _, .module => (0, 2 ^ 47)
  | _, .core c => s.coreWindow c
  | 0, .group _ => (0, 0)
  | depth + 1, .group g =>
    let ws := g.members.map fun m => State.window s depth ((s.unitRef m).getD .module)
    ((ws.headD (0, 0)).1, ws.foldl (fun n x => n + x.2) 0)

/-- Capabilities (Table 1.5; DEDUCED, log 30). -/
def capsOfKind (k : Nat) : Nat :=
  if k = 1 then 0x01 else if k = 5 then 0x10 else 0x1F

def UnitRef.children : UnitRef → Nat
  | .squall _ => 4 | .front _ => 8 | .module => 8 | .engine _ _ | .core _ => 0 | .group g => g.members.length

/-! ## Counter blocks (R18, R64, R137, R268, R312, R359, R409) -/

/-- The name of a counter of the module's block. -/
def Ctr.name : Ctr → String
  | .stepNs => "STEP_NS" | .taskNs => "TASK_NS" | .stepRerun => "STEP_RERUN" | .routeReplay => "ROUTE_REPLAY"
  | .runaheadClipped => "RUNAHEAD_CLIPPED" | .predFrames => "PRED_FRAMES" | .predUsed => "PRED_USED"
  | .predTimely => "PRED_TIMELY" | .updDemand => "UPD_DEMAND" | .updAheadFrames => "UPD_AHEAD_FRAMES"
  | .updAheadUsed => "UPD_AHEAD_USED" | .updAheadTimely => "UPD_AHEAD_TIMELY" | .kvpSlots => "KVP_SLOTS"
  | .kvpUsed => "KVP_USED" | .kvpTimely => "KVP_TIMELY" | .prefetchStale => "PREFETCH_STALE"
  | .poolEvict => "POOL_EVICT" | .kvDemote => "KV_DEMOTE" | .kvPromote => "KV_PROMOTE" | .flashRetry => "FLASH_RETRY"
  | .peerRecovered => "PEER_RECOVERED" | .framesPoisoned => "FRAMES_POISONED" | .drizzleReloc => "DRIZZLE_RELOC"
  | .drizzleScanned => "DRIZZLE_SCANNED" | .dramCorrected => "DRAM_CORRECTED" | .dramUncorrected => "DRAM_UNCORRECTED"
  | .dramScrubbed => "DRAM_SCRUBBED" | .hbmRekey => "HBM_REKEY" | .resetStoreDiscard => "RESET_STORE_DISCARD"
  | .cxlRetrain => "CXL_RETRAIN" | .hostLoss => "HOST_LOSS" | .inDropHost => "IN_DROP_HOST"
  | .inDropAdapter => "IN_DROP_ADAPTER" | .inDropPeer => "IN_DROP_PEER" | .inDenyRead => "IN_DENY_READ"
  | .dnbFecCorr0 => "DNB_FEC_CORR0" | .dnbFecCorr1 => "DNB_FEC_CORR1" | .dnbFecCorr2 => "DNB_FEC_CORR2"
  | .dnbFecCorr3 => "DNB_FEC_CORR3" | .dnbReplay0 => "DNB_REPLAY0" | .dnbReplay1 => "DNB_REPLAY1"
  | .dnbReplay2 => "DNB_REPLAY2" | .dnbReplay3 => "DNB_REPLAY3" | .dnbRetrain0 => "DNB_RETRAIN0"
  | .dnbRetrain1 => "DNB_RETRAIN1" | .dnbRetrain2 => "DNB_RETRAIN2" | .dnbRetrain3 => "DNB_RETRAIN3"
  | .dnbDown0 => "DNB_DOWN0" | .dnbDown1 => "DNB_DOWN1" | .dnbDown2 => "DNB_DOWN2" | .dnbDown3 => "DNB_DOWN3"
  | .dnbUnroutable => "DNB_UNROUTABLE" | .peerTimeout => "PEER_TIMEOUT" | .inputEnergyMj => "INPUT_ENERGY_MJ"
  | .capChange => "CAP_CHANGE" | .capExceed => "CAP_EXCEED" | .droopBurst => "DROOP_BURST"
  | .thermThrottle => "THERM_THROTTLE" | .moduleLullMs => "MODULE_LULL_MS" | .frostMs => "FROST_MS" | .wake => "WAKE"
  | .eventLost => "EVENT_LOST"

/-- The module's counters in the order of their entries (log 30). -/
def moduleCtrs : List Ctr :=
  [.stepNs, .taskNs, .stepRerun, .routeReplay, .runaheadClipped, .predFrames, .predUsed, .predTimely,
   .updDemand, .updAheadFrames, .updAheadUsed, .updAheadTimely, .kvpSlots, .kvpUsed, .kvpTimely, .prefetchStale] ++
  [.poolEvict, .kvDemote, .kvPromote, .flashRetry, .peerRecovered, .framesPoisoned, .drizzleReloc, .drizzleScanned,
   .dramCorrected, .dramUncorrected, .dramScrubbed, .hbmRekey, .resetStoreDiscard] ++
  [.cxlRetrain, .hostLoss, .inDropHost, .inDropAdapter, .inDropPeer, .inDenyRead,
   .dnbFecCorr0, .dnbFecCorr1, .dnbFecCorr2, .dnbFecCorr3, .dnbReplay0, .dnbReplay1, .dnbReplay2, .dnbReplay3] ++
  [.dnbRetrain0, .dnbRetrain1, .dnbRetrain2, .dnbRetrain3, .dnbDown0, .dnbDown1, .dnbDown2, .dnbDown3,
   .dnbUnroutable, .peerTimeout] ++
  [.inputEnergyMj, .capChange, .capExceed, .droopBurst, .thermThrottle, .moduleLullMs, .frostMs, .wake, .eventLost]

/-- The counters of a unit's block with their values. -/
def State.counters (s : State) : UnitRef → List (String × Nat)
  | .engine q e =>
    let x := s.eng q e
    [("STEP_NS", x.stepNs), ("TASK_NS", x.taskNs), ("PASS_REPEAT", x.passRepeat), ("RUNAHEAD_CLIPPED", x.runaheadClipped)]
  | .squall q =>
    let x := s.sq q
    [("STEP_NS", x.stepNs), ("TASK_NS", x.taskNs), ("TAG_STALL", x.tagStall), ("PARITY_DETECT", x.parityDetect),
     ("RUNAHEAD_CLIPPED", x.runaheadClipped), ("RESIDENT_WRITE_DROP", x.residentWriteDrop)]
  | .front f =>
    let x := s.front f
    [("STEP_NS", x.stepNs), ("TASK_NS", x.taskNs), ("FRONT_ENERGY_MJ", x.energyMj), ("BUBBLE_SLOTS", x.bubbleSlots / 2 ^ 20),
     ("CALM_MS", x.calmMs), ("LULL_MS", x.lullMs)]
  | .module => moduleCtrs.map fun k => (k.name, s.ctr k)
  | .core c =>
    let x := s.core c
    [("STEP_NS", x.stepNs), ("TASK_NS", x.taskNs), ("NACK_RETRY", x.nackRetry), ("ESCALATED", x.escalated),
     ("DEV_TIMEOUT", x.devTimeout), ("DEV_STORE_DISCARD", x.devStoreDiscard)]
  | .group g => [("STEP_NS", g.stepNs), ("TASK_NS", g.taskNs)]

/-- An entry of a counter block: the name in 24 bytes of ASCII, then the value. -/
def counterEntry (x : String × Nat) : List Byte :=
  padTo 24 (x.1.toList.map fun ch => BitVec.ofNat 8 ch.toNat) ++ leBytes x.2 8

/-- The descriptor of a unit. -/
def State.descriptor (s : State) (id : BitVec 32) (u : UnitRef) : List Byte :=
  let kindOf (m : BitVec 32) : Nat := ((s.unitRef m).map UnitRef.kind).getD 4
  let w := s.window (s.srv.groups.length + 1) u
  let memberKind := match u with
    | .group g => ((g.members.head?.map kindOf).getD 0)
    | _ => 0
  let caps := match u with
    | .group g => g.members.foldl (fun n m => n ||| capsOfKind (kindOf m)) 0
    | _ => capsOfKind u.kind
  let depth := if u.kind = 1 then 8 else Config.queueDepth u.kind % 2 ^ 16
  packed 64 [(0, 1), (8, u.kind), (16, memberKind), (32, id.toNat), (64, u.children), (80, depth), (128, w.1), (192, w.2),
    (256, caps), (288, 32 * (s.counters u).length)]

/-! ## Ports (R358) -/

def LinkState.code : LinkState → Nat
  | .down => 0 | .training => 1 | .up => 2 | .degraded => 3 | .pcieOnly => 4

/-- The six port status entries; the management port is up whenever die K runs, and has one lane. -/
def State.portEntries (s : State) : List Byte :=
  let c := s.cxl
  packed 16 [(0, 0), (4, c.state.code), (8, c.width % 32), (13, if c.speed = 64 then 2 else if c.speed = 32 then 1 else 0),
      (16, 0xFF), (32, c.retrains % 2 ^ 32), (64, c.tState)]
    ++ (List.finRange 4).flatMap (fun p =>
      let x := s.port p
      packed 16 [(0, p.val + 1), (4, x.state.code), (8, x.width % 32), (13, 2), (16, x.neighbour.toNat),
        (32, x.retrains % 2 ^ 32), (64, x.tState)])
    ++ packed 16 [(0, 5), (4, 2), (8, 1), (16, 0xFF)]

/-! ## Bindings, families, operations, sessions -/

/-- The identifier of what a logical unit is bound to. -/
def State.boundId (s : State) (b : Binding) : BitVec 32 :=
  match b.group with
  | some g => BitVec.ofNat 32 (2 <<< 30 + g)
  | none =>
    let u := b.members.headD 0
    if b.kind = 2 then s.squallId ⟨u % 64, by omega⟩ else if b.kind = 3 then s.frontId ⟨u % 8, by omega⟩ else s.moduleId

def State.bindings (s : State) (m : Model) : List Byte :=
  m.bindings.flatMap fun b => packed 8 [(0, b.lunit), (32, (s.boundId b).toNat)]

def dimWord (d : Dim) : Nat :=
  argBits [(0, d.buckets), (8, match d.source with
    | .gate => 0
    | .prior => 1
    | .submit => 2), (10, d.kind), (16, d.quantum)]

/-- A family record again in the layout of Table 6.5. -/
def familyRecord (i : Nat) (f : Family) : List Byte :=
  packed 64 ([(0, i), (16, f.dims.length), (20, if f.decode then 1 else 0), (32, f.chains), (48, f.firstVariant),
    (64, f.variantCount), (96, f.fillRows), (107, f.maxRows)] ++ f.dims.zipIdx.map fun d => (128 + 32 * d.2, dimWord d.1))

def OpState.code : OpState → Nat
  | .running => 0 | .suspending => 1 | .suspended => 2 | .ending => 3

def opRecord (o : LongOp) : List Byte :=
  packed 16 [(0, opcOf o.entry), (8, o.st.code), (64, o.passed % 2 ^ 32), (96, o.total % 2 ^ 32)]

def State.sessionRecord (s : State) (x : Session) : List Byte :=
  packed 16 [(0, x.id.toNat), (16, if x.onPkg then 1 else 0), (17, if x.lost then 1 else 0), (32, x.tenant.toNat),
    (64, s.boundMask x.id)]

/-! ## QUERY -/

/-- The output of a subject, or the refusal. -/
def State.subject (s : State) (c : Cmd) : Except (Status × Nat) (List Byte) :=
  let arg := c.f 96 32
  let missing : Except (Status × Nat) (List Byte) := .error (.notFound, 0)
  match c.f 64 8 with
  | 0 => match s.unitRef (BitVec.ofNat 32 arg) with
    | some u => .ok (s.descriptor (BitVec.ofNat 32 arg) u)
    | none => missing
  | 1 => .ok s.portEntries
  | 2 => match s.modelFor c (BitVec.ofNat 32 arg) with
    | some m => .ok (s.bindings m)
    | none => missing
  | 3 => match s.modelFor c (BitVec.ofNat 32 arg) with
    | some m => .ok (m.image.families.zipIdx.flatMap fun f => familyRecord f.2 f.1)
    | none => missing
  | 4 => match s.op arg with
    | some o => if c.all || o.tenant == c.tenant then .ok (opRecord o) else missing
    | none => missing
  | 5 => match s.session (BitVec.ofNat 16 arg) with
    | some x => if arg < 2 ^ 16 ∧ (c.op ∨ x.tenant = c.tenant) then .ok (s.sessionRecord x) else .error (.noSession, 0)
    | none => .error (.noSession, 0)
  | _ => .error (.invalidField, 8)

/-- A destination in host memory needs the link (R339). -/
def State.outReady (s : State) (c : Cmd) : Bool := s.readable (c.f 128 64)

def queryBody (c : Cmd) (s : State) : State :=
  if !s.outReady c then s.waits
  else match s.subject c with
  | .error (st, d) => s.refuse c st d
  | .ok out => s.output c out

/-- QUERY (R14, R358, R370). -/
def execQuery (src : Src) (s : State) : Res := .next (s.command 0x40 src (outputFields 8) queryBody)

/-! ## COUNTERS_READ -/

def CloseWhy.code : CloseWhy → Nat
  | .fill => 0 | .gust => 1 | .flush => 2 | .bind => 3

def stepRecord (r : StepRec) : List Byte :=
  let st (i : Fin 4) : Nat := (pick r.stalls i) % 2 ^ 32
  packed 64 [(0, r.seq % 2 ^ 32), (32, r.chain.val), (36, r.why.code), (40, r.variant % 2 ^ 16), (56, min r.reruns 255),
    (64, r.tOpen), (128, r.tClose), (192, r.tDispatch), (256, r.tEnd), (320, st 0), (352, st 1), (384, st 2), (416, st 3),
    (448, r.committed % 2 ^ 14), (462, r.discarded % 2 ^ 14), (476, r.items % 2 ^ 16)]

def State.tenantRecord (s : State) (t : BitVec 32) : List Byte :=
  packed 64 [(0, t.toNat), (32, (s.tenant t).floor), (64, s.ceilingOf t), (96, s.pinnedOf t), (128, s.weightOf t),
    (160, s.kvHbm t), (192, s.kvLow t), (224, (s.tenant t).evicted % 2 ^ 32), (256, (s.tenant t).demoted % 2 ^ 32)]

/-- A row of a corrected-row table in 16 bytes (the layout is not stated; log 30). -/
def rowRecord (r : RowCount) : List Byte := packed 16 [(0, r.row), (32, min r.count 65535), (64, r.last)]

def State.selection (s : State) (c : Cmd) : Except (Status × Nat) (List Byte) :=
  let arg := c.f 96 32
  let missing : Except (Status × Nat) (List Byte) := .error (.notFound, 0)
  match c.f 64 8 with
  | 0 => match s.unitRef (BitVec.ofNat 32 arg) with
    | some u => .ok ((s.counters u).flatMap counterEntry)
    | none => missing
  | 1 => match s.modelFor c (BitVec.ofNat 32 arg) with
    | some m =>
      let ch : Fin 16 := ⟨c.f 72 4 % 16, by omega⟩
      .ok ((((s.chain m.id ch).map (·.records)).getD []).flatMap stepRecord)
    | none => missing
  | 2 => if c.op || BitVec.ofNat 32 arg == c.tenant then .ok (s.tenantRecord (BitVec.ofNat 32 arg)) else missing
  | 3 => if h : arg < 9 then .ok ((pick s.dram.rows ⟨arg, h⟩).flatMap rowRecord) else missing
  | _ => .error (.invalidField, 8)

def countersBody (c : Cmd) (s : State) : State :=
  if !s.outReady c then s.waits
  else match s.selection c with
    | .error (st, d) => s.refuse c st d
    | .ok out => s.output c out

/-- COUNTERS_READ (R18, R137, R177, R242, R283, R370). -/
def execCountersRead (src : Src) (s : State) : Res :=
  .next (s.command 0x41 src (fun c => (64, 8, anyVal) :: (72, 4, anyVal) :: (outputFields 8 c).drop 1) countersBody)

/-! ## LOG_READ -/

/-- An event record in 64 bytes (Table 16.2), READ as given. -/
def eventRecord (read : Bool) (e : Event) : List Byte :=
  packed 64 [(0, e.seq), (32, e.cls.val), (35, if read then 1 else 0), (40, e.code.toNat), (64, e.time % 2 ^ 64),
    (128, e.unit.toNat), (160, e.session.toNat), (192, e.args.toNat)]

/-- Unread records, oldest first. -/
def State.unread (s : State) : List Event := s.logs.events.filter fun e => !e.read

/-- Is record k returned: all its bytes lie among those written to DEST_PA, or among the 96 of the result (log 34). -/
def Cmd.returns (c : Cmd) (n k : Nat) : Bool :=
  let off := c.f 224 32
  decide (off ≤ 64 * k) && (decide (64 * k + 64 ≤ off + c.written n) || decide (64 * k + 64 ≤ off + 96))

/-- The records a LOG_READ returns are marked read. -/
def State.markReturned (s : State) (c : Cmd) : State :=
  let l := s.unread
  let back := (l.zipIdx.filter fun x => c.returns (64 * l.length) x.2).map (·.1)
  s.updLogs fun x => { x with events := x.events.map fun e => if back.contains e then { e with read := true } else e }

/-- The journal in the layout of Table 14.16, to a session of a tenant or whole; TOKEN reads zero. -/
def journalBytes (j : Journal) (who : Option (BitVec 32)) : List Byte :=
  let mine (x : Session) : Bool := who.all fun t => x.tenant == t
  let ss := j.sessions.filter mine
  let ids := ss.map (·.id)
  let is := j.items.filter fun i => who.isNone || ids.contains i.session
  let pairs (x : Session) : Nat := x.pairs.foldl (fun n q => n + 2 ^ q.val) 0
  packed 64 [(0, 0x4C4E524A), (32, 1), (40, j.cause), (48, ss.length), (64, is.length), (128, j.tLoss), (192, j.boots)]
    ++ ss.flatMap (fun x => packed 32 [(0, x.id.toNat), (16, if x.onPkg then 1 else 0), (32, x.tenant.toNat), (128, pairs x)])
    ++ is.flatMap fun i => packed 16 [(0, i.session.toNat), (16, i.sqid.toNat), (32, i.cid.toNat), (64, i.model.toNat)]

/-! ### The lifetime record (Table 16.6) -/

/-- A count of w bytes, saturating. -/
def satBytes (w n : Nat) : List Byte := leBytes (min n (2 ^ (8 * w) - 1)) w

/-- n counts of a section, each divided by a unit, in w bytes. -/
def State.lifeCounts (s : State) (sec first n unit w : Nat) : List Byte :=
  (List.range n).flatMap fun i => satBytes w (s.lifeCount sec (first + i) / unit)

/-- Milliseconds of an hour. -/
def hourMs : Nat := 3600000

/-- Blocks in the i-th 100-cycle bin of section 0x0B; a block of the flash that has no entry has no cycle behind it. -/
def State.wearBin (s : State) (i : Nat) : Nat :=
  let listed := (s.tiers.blocks.filter fun b => min 30 (b.erases / 100) == i).length
  if i = 0 then 58720256 - s.tiers.blocks.length + listed else listed

/-- The in-memory record, its sections in order (places inside sections 0x00 and 0x0D: log 30). -/
def State.lifetimeBytes (s : State) : List Byte :=
  let l := s.logs.life
  let retired (m : Nat) : List Byte :=
    padTo (65536 * 8) (((l.retirements.filter (·.1 == m)).take 65536).flatMap fun r => leBytes r.2 8)
  let month := Config.month s.now
  padTo 64 (leBytes 0x4546494C 4 ++ leBytes 1 4 ++ padTo 16 Config.partSerial ++ leBytes l.writes 8 ++ leBytes l.lastWrite 8
      ++ satBytes 8 (s.lifeCount 0 0 / hourMs))
    ++ s.lifeCounts 1 0 (48 * 23) 600000 4
    ++ (List.range (16 * 27)).flatMap (fun i => satBytes 4 (Config.railMinutes i s.now))
    ++ (List.range 32).flatMap (fun d => (List.range 240).flatMap fun k =>
        satBytes 4 (if month + k < 239 then 0 else s.lifeCount 3 (d * 2 ^ 32 + (month + k - 239))))
    ++ s.lifeCounts 4 0 (32 * 3) hourMs 4
    ++ retired 0 ++ retired 1 ++ satBytes 8 (s.ctr .dramUncorrected)
    ++ s.lifeCounts 6 0 12 1 8
    ++ s.lifeCounts 7 0 256 1 8
    ++ s.lifeCounts 8 0 16 (2 ^ 20) 8 ++ s.lifeCounts 8 16 5 1 8
    ++ s.lifeCounts 9 0 6 hourMs 8
    ++ s.lifeCounts 0xA 0 5 1 8
    ++ (List.range 31).flatMap (fun i => satBytes 4 (s.wearBin i)) ++ s.lifeCounts 0xB 31 3 1 8
    ++ s.lifeCounts 0xC 0 2 1 8 ++ padTo (256 * 64) (l.faults.flatMap fun e => eventRecord e.read e)
    ++ padTo 32 (leBytes s.boot.fuses.val 4 ++ leBytes (pick s.boot.slots 0).svn 4 ++ leBytes (pick s.boot.slots 1).svn 4
      ++ leBytes 0 4 ++ satBytes 8 (s.lifeCount 0xD 0) ++ satBytes 8 s.boot.bootCount)

def State.logSelection (s : State) (c : Cmd) : Except (Status × Nat) (List Byte) :=
  match c.f 64 8 with
  | 0 => .ok (s.unread.flatMap (eventRecord false))
  | 1 => .ok (match s.eci.journal with
    | some j => journalBytes j (match c.src with
      | .mgmt => none
      | _ => some c.tenant)
    | none => [])
  | 2 => .ok s.lifetimeBytes
  | _ => .error (.invalidField, 8)

def logBody (c : Cmd) (s : State) : State :=
  if !s.outReady c then s.waits
  else match s.logSelection c with
    | .error (st, d) => s.refuse c st d
    | .ok out =>
      let s1 := if c.f 64 8 = 0 then s.markReturned c else s
      s1.output c out

/-- LOG_READ (R370, R387, R411, R412, R418). -/
def execLogRead (src : Src) (s : State) : Res := .next (s.command 0x42 src (outputFields 8) logBody)

end Sys2Proof.Machine
end

