-- ==== Sys2Proof/Machine/HostLoss.lean ====
section
/-!
DEFINITION. Failing a task in flight, and host loss: what becomes of a lost session's requests and queues (R341, R342, R375).
-/

namespace Sys2Proof.Machine

/-! ## Tasks in flight (R23, R119) -/

/-- A task in flight on a Squall meets its first failure: its records go on, and its final status is FAILED. -/
def State.failTask (s : State) (q : Fin 64) (key : Nat) (st : Status) : State :=
  s.updSq q fun x => { x with tasks := updWhere x.tasks (·.key == key) fun t => { t with reason := t.reason.or (some st) } }

/-- The record after the END of the open task: where a list goes on when its open task is dropped. -/
def ListCtx.pastEnd (l : ListCtx) : Nat → ListCtx
  | 0 => l
  | n + 1 =>
    match l.head with
    | none => l
    | some .endTask => l.advance
    | some _ => ListCtx.pastEnd l.advance n

/-- A task taken off a Squall with all its records, issued or not. -/
def Squall.dropTask (x : Squall) (key : Nat) : Squall :=
  let mine := x.current == some key
  { x with
    tasks := x.tasks.filter fun t => t.key != key
    current := if mine then none else x.current
    lists := match x.lists with
      | l :: ls => (if mine then l.pastEnd (issueBound l.recs) else l) :: ls
      | [] => []
    open_ := x.open_.filter fun r => r.2 != key
    holds := x.holds.filter fun h => !(x.open_.any fun r => r.1 == h.1 && r.2 == key)
    watch := []
    vq := x.vq.filter fun v => v.task != key
    fences := x.fences.filter fun f => f.task != key
    chans := x.chans.map fun c => { queue := c.queue.filter fun p => p.task != key, run := c.run.filter fun p => p.task != key }
    engines := x.engines.map fun e => e.dropTask key }

/-- A task in flight ends now, FAILED (R23). -/
def State.endTaskNow (s : State) (q : Fin 64) (t : SqTask) (st : Status) : State :=
  let s1 := match s.chain t.model t.chain with
    | none => s
    | some c => s.failTasks c (fun y => y.sq == q && y.list == t.list && y.pos == t.pos && y.member == t.member) st
  s1.updSq q fun x => x.dropTask t.key

/-! ## Host loss (R340 to R342) -/

/-- A completion queue in host memory is replaced by its shadow queue, a submission queue there stops (R341, 3 and 4). -/
def Pair.lose (p : Pair) : Pair :=
  { p with shadow := p.shadow || isHost p.cqBase.toNat, stopped := p.stopped || isHost p.sqBase.toNat }

/-- A completion record that waited for its queue is written; of a step's records the time of the last counts (R177). -/
def State.putPost (s : State) (p : Post) : State :=
  let s1 := s.cqPut p.q p.body
  match p.step with
  | some (m, c) => s1.updRun m c fun r => { r with tRecord := s.now }
  | none => s1

/-- Pushes that have not completed go to the shadow queues, oldest first. -/
def State.postsToShadow (s : State) (p : Fin 64 → Bool) : State :=
  let l := s.eci.posts.filter fun x => p x.q
  let s1 := s.updEci fun e => { e with posts := e.posts.filter fun x => !p x.q }
  l.foldl (fun u x => u.putPost x) s1

/-- Host loss for the sessions and egress requests that satisfy a test: requests fail, queues move, the event is logged. -/
def State.loseHost (s : State) (who : Session → Bool) (gone : Egress → Bool) (cause session : Nat) : State :=
  let ids := (s.eci.sessions.filter who).map (·.id)
  let bound (p : Pair) : Bool := p.session.any ids.contains
  let dead := s.cxl.egress.filter gone
  let s1 := s.updCxl fun c => { c with egress := c.egress.filter fun e => !gone e }
  let s2 := dead.foldl (fun u e => match e.task with
    | some t => u.failTask t.1 t.2 .hostLinkLost
    | none => u) s1
  let s3 := s2.updEci fun e => { e with
    pairs := e.pairs.map fun p => if bound p then p.lose else p
    sessions := updWhere e.sessions who fun x => { x with lost := true } }
  let s4 := s3.postsToShadow fun q => bound (s3.pair q)
  ((s4.count .hostLoss).event 0 0x0005 s4.moduleId (BitVec.ofNat 16 session) cause).tryDetach

/-- Host loss of the CXL port (R340): every session attached over it. -/
def State.portLoss (s : State) (cause : Nat) : State := s.loseHost (fun x => !x.onPkg && !x.lost) (fun _ => true) cause 0

/-- A session's heartbeat lapses (R375). -/
def execSessionBeatLapse (session : BitVec 16) (s : State) : Res :=
  .next (match s.session session with
    | some x =>
      if x.beatMs = 0 ∨ x.lost ∨ s.now ≤ x.lastBeat + ms x.beatMs ∨ s.eci.devState = .uninit then s.notDue
      else s.ok.loseHost (fun y => y.id == session) (fun e => e.session == session) 4 session.toNat
    | none => s.notDue)

/-! ## Host access of a step's work (R326, R338, R342) -/

/-- May a step's work for a session still reach the host: the session is not lost. -/
def State.hostOpen (s : State) (id : BitVec 16) : Bool := !((s.session id).any (·.lost))

/-- The push of pair q's oldest record completes: everything issued before it has left, the record is
written, and the MSI-X message follows (R326, R338). A DETACH that waited for it may end (R377). -/
def execHostPushComplete (q : Fin 64) (s : State) : Res :=
  .next (match s.eci.posts.find? (·.q == q) with
    | none => s.notDue
    | some p =>
      if !s.linkUp then s.waits
      else (((s.ok.drainEgress).updEci fun e => { e with posts := dropFirst e.posts (·.q == q) }).putPost p).tryDetach)

end Sys2Proof.Machine
end

