-- ==== Sys2Proof/Machine/Data.lean ====
section
/-!
DEFINITION. Data with marks: every byte with the mark of its chunk, through loads, conversions and stores (R255, R256).
-/

namespace Sys2Proof.Machine

/-- A byte with the mark of the chunk it was read from. -/
abbrev MByte := Byte × Mark

def joinMarks (l : List Mark) : Mark := l.foldl joinMark .none

/-- n bytes as a reader meets them: a marked chunk reads as zeros (R256). -/
def State.load (s : State) (pa : Nat) : Nat → List MByte
  | 0 => []
  | n + 1 =>
    let m := s.markAt pa
    ((if m = .none then s.byteAt pa else 0), m) :: State.load s (pa + 1) n

/-- Bytes that carry one mark. -/
def withMark (m : Mark) (l : List Byte) : List MByte := l.map fun b => (b, m)

/-- Bytes and their marks stored: a chunk covered whole takes the higher of its bytes' marks, a chunk covered in part joins its
old one; the generations of T1 granules rise (R256, R266). -/
def State.storeM (s : State) (pa : Nat) (l : List MByte) : State :=
  let n := l.length
  let s1 := s.putBytes pa (l.map (·.1))
  let s2 := (chunksOf pa n).foldl (fun u a =>
    let here := ((l.drop (a - pa)).take (min (a + 64) (pa + n) - max a pa)).map (·.2)
    u.setMark a (if pa ≤ a ∧ a + 64 ≤ pa + n then joinMarks here else joinMark (joinMarks here) (u.markAt a))) s1
  if isDram pa then (granulesOf pa n).foldl (fun u a => u.bumpGen a) s2 else s2

/-- The mark of each element of a row: of the bytes that hold its code and its block's exponent. -/
def elemMarks (f : Fmt) (b : Bool) (n c : Nat) (l : List MByte) : List Mark :=
  let k := chunkLen f n c
  (List.range n).map fun i =>
    let base := if k = 0 then 0 else i / k * chunkBytes f b k
    let j := if k = 0 then 0 else i % k
    let lo := base + f.width * j / 8
    let hi := base + (f.width * (j + 1) - 1) / 8
    let codes := joinMarks (((l.drop lo).take (hi - lo + 1)).map (·.2))
    let here := min k (n - i / (max k 1) * k)
    let ex := if f.isNb then ((l[base + cdiv (here * f.width) 8 + j / blkOf b]?).map (·.2)).getD .none else .none
    joinMark codes ex

/-- The mark of each byte of an encoded row, from the marks of its elements. -/
def byteMarks (f : Fmt) (b : Bool) (c : Nat) (ms : List Mark) : List Mark :=
  (pieces (chunkLen f ms.length c) (ms.length + 1) ms).flatMap fun l =>
    let codes := (List.range (cdiv (l.length * f.width) 8)).map fun j =>
      let lo := 8 * j / f.width
      let hi := (8 * j + 7) / f.width
      joinMarks ((l.drop lo).take (hi - lo + 1))
    let exs := if f.isNb then (pieces (blkOf b) (l.length + 1) l).map joinMarks else []
    codes ++ exs

/-- A row encoded, each byte with its mark. -/
def encodeMarked (f : Fmt) (b sat : Bool) (c : Nat) (vs : List (Val × Mark)) (rnds : List Rounding) : List MByte :=
  (encodeRow f b sat c (vs.map (·.1)) rnds).zip (byteMarks f b c (vs.map (·.2)))

/-- The values of a row with their marks. -/
def valsMarked (f : Fmt) (b : Bool) (n c : Nat) (l : List MByte) : List (Val × Mark) :=
  (rowVals f b n c (l.map (·.1))).zip (elemMarks f b n c l)

end Sys2Proof.Machine
end

