-- ==== Sys2Proof/Machine/Order.lean ====
section
/-!
DEFINITION. Visibility (R313 to R321): a write of a Squall's DMA to chip memory or T1 may be seen by another observer before a
FENCE.CHIP or its task's end, and need not be (log 97).
-/

namespace Sys2Proof.Machine

/-- Is the task that wrote still under way (R318). -/
def State.freshOpen (s : State) (f : Fresh) : Bool := (s.sq f.sq).tasks.any (·.key == f.key)

/-- A Squall's DMA is about to write a range: each aligned 64-byte chunk of it keeps what it held before (R314). -/
def State.freshWrite (s : State) (q : Fin 64) (key pa n : Nat) : State :=
  let l := (chunksOf pa n).map fun a => ({ chunk := a, sq := q, key := key, old := s.load a 64, seen := [] } : Fresh)
  s.updCoh fun x => { x with fresh := x.fresh ++ l }

/-- Writes that have reached the visibility point of every observer in the module, and with them the writes that the same chunk took
before them (R313, R314). -/
def settled (p : Fresh → Bool) : List Fresh → List Fresh
  | [] => []
  | f :: l => if p f || l.any (fun g => p g && g.chunk == f.chunk) then settled p l else f :: settled p l

def State.settleWrites (s : State) (p : Fresh → Bool) : State := s.updCoh fun x => { x with fresh := settled p x.fresh }

/-- The writes of a chunk that an observer may see or not, oldest first. -/
def State.freshOf (s : State) (a : Nat) : List Fresh :=
  ((s.coh.fresh.filter (·.chunk == a)).reverse.takeWhile s.freshOpen).reverse

/-- How many of the first writes of a list an observer has seen, each or one ordered after it. -/
def seenBy (o : Agent) : List Fresh → Nat
  | [] => 0
  | f :: l =>
    let n := seenBy o l
    if n = 0 ∧ !f.seen.contains o then 0 else n + 1

/-- One chunk as an observer reads it: with some of the writes that are not settled, freely which, never fewer than it has seen
(R313). -/
def State.chunkAs (s : State) (o : Agent) (a : Nat) : List MByte × State :=
  let l := s.freshOf a
  if l.isEmpty then (s.load a 64, s)
  else
    let lo := seenBy o l
    let k := lo + (s.drawn a).toNat % (l.length + 1 - lo)
    let got := match l[k]? with
      | some f => f.old
      | none => s.load a 64
    (got, s.draw.updCoh fun x => { x with fresh := x.fresh.map fun f => if (l.take k).contains f then { f with seen := o :: f.seen } else f })

/-- A range as an observer reads it. -/
def State.readAs (s : State) (o : Agent) (pa n : Nat) : List MByte × State :=
  if !s.coh.fresh.any (fun f => decide (f.chunk < pa + n) && decide (pa < f.chunk + 64)) then (s.load pa n, s)
  else
    let r := (chunksOf pa n).foldl (fun (u : List MByte × State) a => let c := u.2.chunkAs o a; (u.1 ++ c.1, c.2)) ([], s)
    ((r.1.drop (pa % 64)).take n, r.2)

/-- FENCE.CORE of a task has retired: its Squall sees the task's writes (Table 12.2). -/
def State.coreScope (s : State) (q : Fin 64) (key : Nat) : State :=
  s.updCoh fun x => { x with fresh := x.fresh.map fun f => if f.sq = q ∧ f.key = key then { f with seen := .dma q :: f.seen } else f }

end Sys2Proof.Machine
end

