-- ==== Sys2Proof/Machine/Models.lean ====
section
/-!
DEFINITION. MODEL_LOAD, MODEL_INSTALL and MODEL_EVICT: the checks, the binding of logical units, pinning, residency, and
what an install does to flash (R29, R135, R140, R145, R149, R171, R242, R262, R263, R292, R372, R441).
-/

namespace Sys2Proof.Machine

/-! ## Long operations that complete -/

/-- An operation of a kind that may end now: safe points that nothing waits at are passed in silence (R382; log 25). -/
def State.endable (s : State) (h : Nat) (k : LongKind) : Option LongOp :=
  match s.op h with
  | none => none
  | some o =>
    if o.kind != k then none
    else if o.st = .running ∨ ((o.st = .ending ∨ o.st = .suspending) ∧ o.total ≤ o.passed) then some o else none

/-- A long operation completes by body, which needs the source it still reads. -/
def State.complete (s : State) (h : Nat) (k : LongKind) (src : List Nat) (body : LongOp → State → State) : State :=
  match s.endable h k with
  | none => s.notDue
  | some o => if src.all s.readable then body o s.ok else s.waits

/-! ## The manifest (R372) -/

/-- The manifest at an address. -/
def State.manifestAt (s : State) (pa : Nat) : ManifestRaw := manifestOf (s.bytes pa (manifestBytes (s.word (pa + 12) 4)))

/-- Does a tenant's key sign a manifest. -/
def State.signed (s : State) (tenant : BitVec 32) (m : ManifestRaw) : Bool :=
  match (s.tenant tenant).modelKey with
  | none => false
  | some k => Config.ed25519Ok k (Config.sha512 m.signed) m.sig

/-- Objects of a manifest overlap nowhere. -/
def objectsApart (m : Manifest) : Bool :=
  pairwiseB (fun a b => decide (a.frame + a.frames ≤ b.frame) || decide (b.frame + b.frames ≤ a.frame)) m.objects

/-- The checks of R372 that need no image. -/
def State.manifestOk (s : State) (tenant : BitVec 32) (m : ManifestRaw) : Bool :=
  m.ok && s.signed tenant m && objectsApart m.m && m.m.arenaVa != 0

/-- The checks of R372 against the expert plan. -/
def manifestFits (m : Manifest) (e : ExpertPlan) : Bool :=
  e.moeLayers == 0 || (m.arenaVa == e.weightVa &&
    m.objects.all fun o =>
      let top := e.moeLayers * (e.experts + 1) * e.objFrames
      decide (top ≤ o.frame) || (o.frame % e.objFrames == 0 && o.frames == e.objFrames
        && decide (o.frame / e.objFrames % (e.experts + 1) < e.experts)))

/-- Bytes of the weight arena: up to the last object and the whole of the routed layers' part. -/
def arenaBytes (m : Manifest) (e : ExpertPlan) : Nat :=
  (m.objects.foldl (fun n o => max n (o.frame + o.frames)) (e.moeLayers * (e.experts + 1) * e.objFrames)) * Config.frameBytes

/-! ## MODEL_LOAD (R140) -/

/-- A new HBM key at the first MODEL_LOAD that finds no model and no open sequence (R292): firmware frames and the frames
of registered regions keep their contents, the others hold nothing. -/
def State.rekey (s : State) : State :=
  if !s.eci.rekeyWanted || !s.srv.models.isEmpty || !s.srv.seqs.isEmpty then s
  else
    let lost (a : Nat) : Bool :=
      isHbm a && decide (Config.fwFrames ≤ (a - hbmBase) / Config.frameBytes) &&
        !(s.eci.regions.any fun r =>
          overlaps (frameAddr ((a - hbmBase) / Config.frameBytes)) Config.frameBytes r.base (r.pages * 4096))
    let s1 := { s with
      mem := s.mem.drop fun a => match s.home a with
        | some h => lost h
        | none => false
      marks := s.marks.filter fun p => !lost (p.1 * 64) }
    let s2 := (s1.giveBack.draw.updDram fun d => { d with hbmKey := (s1.drawn 2).toNat + 2 ^ 64 * (s1.drawn 3).toNat }).updEci fun e => { e with rekeyWanted := false }
    (s2.reapply 0).count .hbmRekey

def modelLoadFields : List FieldSpec := [(64, 48, anyVal), (128, 48, anyVal), (192, 32, anyVal)]

/-- Is a model identifier in use: loaded, or being loaded (Table 14.11). -/
def State.modelUsed (s : State) (id : BitVec 32) : Bool :=
  (s.model id).isSome || s.eci.ops.any fun o => o.kind == .modelLoad && o.model == id

def modelLoadBody (c : Cmd) (s : State) : State :=
  let mpa := c.f 64 48
  let ipa := c.f 128 48
  if !s.readable mpa || !s.readable ipa then s.waits
  else
    let id := BitVec.ofNat 32 (s.word (mpa + 8) 4)
    if s.modelUsed id then s.refuse c .modelBusy 0
    else
      let resident := (findSection (sectionsOf (s.bytes ipa (256 + 320))) 9).entries
      s.startOp c .modelLoad id (max 1 resident) fun _ t => t.rekey

def execModelLoad (src : Src) (s : State) : Res := .next (s.command 0x10 src (fun _ => modelLoadFields) modelLoadBody)

/-! ### Binding (R22, R29, R149) -/

/-- The Fronts a logical unit may be bound on. -/
def frontsFor (img : Image) (mixed : Bool) (prefill : BitVec 8) (sp : Split) : Nat :=
  let own := if sp.fronts = 0 then 0xFF else sp.fronts.toNat
  if !mixed then own
  else
    let k := img.stepKinds sp.lunit
    if k.1 then own &&& prefill.toNat else own &&& (0xFF - prefill.toNat)

/-- The split entries of an image, one per logical unit, in ascending order. -/
def Image.units (img : Image) : List Split := (List.range img.lunits).filterMap img.splitOf

/-- Resident areas that the units of a kind hold: the unit and the area. -/
abbrev Held := List (Nat × Nat × Resident)

/-- May a unit hold further resident areas: none meets one that it holds, and together they keep the limit of a Squall's core memory or
of a base die's chip memory (R135). -/
def roomFor (held : Held) (kind : Nat) (areas : List Resident) (u : Nat) : Bool :=
  let own := (held.filter fun h => h.1 == kind && h.2.1 == u).map (·.2.2)
  areas.all (fun r => own.all fun h => !touches h.offset h.bytes (r.offset, r.bytes))
    && decide ((own ++ areas).foldl (fun n r => n + r.bytes) 0 ≤ if kind = 2 then 8 * 2 ^ 20 else 192 * 2 ^ 20)

/-- The resident areas of a logical unit (Table 6.14). -/
def Image.areasOf (img : Image) (lunit : Nat) : List Resident := img.resident.filter (·.lunit == lunit)

/-- The units a logical unit is bound to: the lowest in service on the Fronts it may lie on, with room for its resident areas, those
that no logical unit before it took ahead of the others; none where there are too few. Logical units may share a unit (DESIGN CHOICE,
log 26). -/
def bindUnit (inService : Nat → Bool) (room : Nat → Bool) (kind members fronts : Nat) (used : List (Nat × Nat)) : Option (List Nat) :=
  let n := if kind = 2 then 64 else 8
  let front (u : Nat) : Nat := if kind = 2 then u / 8 else u
  let usable := (List.range n).filter fun u => bitAt fronts (front u) && (kind != 2 || inService u) && room u
  let picked := (usable.filter (fun u => !used.contains (kind, u)) ++ usable.filter fun u => used.contains (kind, u)).take members
  if picked.length < members then none
  else some ((List.range n).filter fun u => picked.contains u)

/-- Binds a list of split entries in order, each with the Fronts it may lie on; `held` says what resident areas the units hold. -/
def bindUnits (inService : Nat → Bool) (areas : Nat → List Resident) :
    List (Split × Nat) → List (Nat × Nat) → Held → Option (List (Nat × List Nat))
  | [], _, _ => some []
  | (sp, fronts) :: l, used, held => do
    let own := areas sp.lunit
    let us ← bindUnit inService (roomFor held sp.kind own) sp.kind sp.members fronts used
    let rest ← bindUnits inService areas l (us.map (fun u => (sp.kind, u)) ++ used)
      (us.flatMap (fun u => own.map fun r => (sp.kind, u, r)) ++ held)
    pure ((sp.lunit, us) :: rest)

/-- The resident areas of the loaded models, unit by unit. -/
def State.heldAreas (s : State) : Held :=
  s.srv.models.flatMap fun m => m.bindings.flatMap fun b => b.members.flatMap fun u =>
    (m.image.areasOf b.lunit).map fun r => (b.kind, u, r)

/-- The bindings of an image's logical units beside the resident areas that the units hold; none where they cannot all be bound. -/
def State.bindImage (s : State) (img : Image) (inService : Nat → Bool) (held : Held) : Option (List Binding) :=
  let mixed := s.eci.role == some .mixed
  let wanted := (img.units.filter (·.kind != 4)).map fun sp => (sp, frontsFor img mixed s.eci.mixedPrefill sp)
  match bindUnits inService img.areasOf wanted [] held with
  | none => none
  | some bound =>
    let mods := s.srv.groups.filter fun g => g.model.isNone && g.kind == 4
    img.units.mapM fun sp =>
      if sp.kind = 4 then
        if sp.members = 1 then some { lunit := sp.lunit, kind := 4, members := [s.eci.moduleIndex.toNat] }
        else (mods.find? fun g => g.members.length == sp.members && g.members.contains s.moduleId).map fun g =>
          { lunit := sp.lunit, kind := 4, members := g.members.map fun i => bitsAt i.toNat 16 8, group := some g.index }
      else some { lunit := sp.lunit, kind := sp.kind,
                  members := ((bound.find? (·.1 == sp.lunit)).map (·.2)).getD [] }

/-- Whether Squall u is in service. -/
def State.unitIn (s : State) (u : Nat) : Bool := if h : u < 64 then (s.sq ⟨u, h⟩).inService else false

/-- Groups for the logical units with several members (R21), numbered from nextGroup. -/
def State.formGroups (s : State) (m : BitVec 32) (bs : List Binding) : List Binding × State :=
  bs.foldl (fun acc b =>
    if b.kind = 4 ∨ b.members.length ≤ 1 then (acc.1 ++ [b], acc.2)
    else
      let idx := acc.2.srv.nextGroup
      let ids := b.members.map fun u => if b.kind = 2 then pathId s.eci.moduleIndex.toNat (u / 8) (u % 8) 0xF
        else pathId s.eci.moduleIndex.toNat u 0xF 0xF
      let g : Group := { index := idx, kind := b.kind, members := ids, model := some m }
      (acc.1 ++ [{ b with group := some idx }],
        acc.2.updSrv fun v => { v with groups := v.groups ++ [g], nextGroup := idx + 1 })) ([], s)

/-! ### Pinned areas (R135, R145, R171, R185, R222, R225, R232, R441) -/

/-- Size of the attention input area (R186). -/
def AttnPlan.selb (p : AttnPlan) : Nat := cdiv (32 * (p.maxSeq / 128 + 1)) 4096 * 4096
def AttnPlan.areaBytes (p : AttnPlan) : Nat := 0x4500000 + 1024 * p.selb

/-- Bytes the key-value arena spans: the zero block set and one block set per block of every handle (log 21). -/
def AttnPlan.arenaBytes (p : AttnPlan) : Nat := p.subs * Config.subBytes * (1 + p.seqs * (p.maxSeq / 64))

/-- Ranges of virtual addresses cut to whole pages. -/
def pageRange (va n : Nat) : Nat × Nat := (va / 4096, if n = 0 then va / 4096 else (va + n - 1) / 4096 + 1)

/-- The areas that an image places in pinned frames, as page ranges. -/
def Image.areas (img : Image) : List (Nat × Nat) :=
  let e := img.expert
  [pageRange img.selVa (img.chains * 4096)]
    ++ (img.attn.filter (·.attn)).flatMap (fun p =>
      [pageRange p.areaVa p.areaBytes, pageRange p.seqAreaVa (p.seqs * (p.maxSeq / 16)), pageRange p.ropeVa (p.ropeRows * 512)])
    ++ (if e.moeLayers = 0 then [] else [pageRange e.statusVa (img.chains * 4096),
        pageRange e.histVa (img.chains * e.moeLayers * 64 * cdiv e.localCount 512)])
    ++ img.resident.map fun r => pageRange r.src r.bytes

/-- Page ranges of the model's address space that are mapped otherwise or to nothing: weight and key-value arenas, chip views, peer
windows, and the addresses of core memory, operand buffer and register windows (R161, R441; log 54). -/
def Image.otherwise (img : Image) (m : Manifest) : List (Nat × Nat) :=
  [pageRange m.arenaVa (arenaBytes m img.expert), pageRange coreMemBase (64 * coreMemStride), pageRange engineBase (256 * engineStride),
   (registerBase / 4096, peerEnd / 4096)]
    ++ (img.views.map fun l => pageRange (viewBase l) chipBytes)
    ++ ((img.attn.filter (·.attn)).map fun p => pageRange p.arenaVa p.arenaBytes)

/-- Working memory: pages of access map entries that lie nowhere else (R441). -/
def Image.working (img : Image) (m : Manifest) : List (Nat × Nat) :=
  (img.variants.flatMap (·.map)).flatMap fun e =>
    if e.region != 0 || e.host || e.peer then [] else rangeSub e.vpn (e.vpn + e.pages) (img.otherwise m)

/-- A range added to disjoint ranges in rising order. -/
def addRange (lo hi : Nat) : List (Nat × Nat) → List (Nat × Nat)
  | [] => if lo < hi then [(lo, hi)] else []
  | (a, b) :: l =>
    if hi < a then (if lo < hi then (lo, hi) :: (a, b) :: l else (a, b) :: l)
    else if b < lo then (a, b) :: addRange lo hi l
    else addRange (min lo a) (max hi b) l

def mergeRanges (l : List (Nat × Nat)) : List (Nat × Nat) := l.foldl (fun acc r => addRange r.1 r.2 acc) []

/-- Page ranges to pin, and the 2 MiB virtual ranges they lie in, one pool frame each (DESIGN CHOICE, log 21). -/
def Image.pinPages (img : Image) (m : Manifest) : List (Nat × Nat) := mergeRanges (img.areas ++ img.working m)
def Image.pinChunks (img : Image) (m : Manifest) : List (Nat × Nat) :=
  mergeRanges ((img.pinPages m).map fun r => (r.1 / 512, (r.2 + 511) / 512))

def rangeTotal (l : List (Nat × Nat)) : Nat := l.foldl (fun n r => n + (r.2 - r.1)) 0

/-- Frames of the shadow area, and the zero frame of a model with routed layers. -/
def Image.extraFrames (img : Image) : Nat :=
  cdiv (img.shadowSlots * 1024) Config.frameBytes + if img.expert.moeLayers = 0 then 0 else 1

def Image.pinNeed (img : Image) (m : Manifest) : Nat := rangeTotal (img.pinChunks m) + img.extraFrames

/-- The Front that alone reads a 2 MiB range of the model's pinned addresses: all of it is HBM copies of resident areas of that Front
(R275). -/
def Image.ownerOf (img : Image) (m : Manifest) (bs : List Binding) (chunk : Nat) : Option Nat :=
  let rs := img.resident.filter fun r => decide (r.src < (chunk + 1) * Config.frameBytes) && decide (chunk * Config.frameBytes < r.src + r.bytes)
  let own (page : Nat) : Bool := rs.any fun r => decide (r.src ≤ page * Config.pageBytes) && decide (page * Config.pageBytes < r.src + r.bytes)
  let pages := (List.range 512).map (512 * chunk + ·)
  let fronts := (rs.flatMap fun r =>
    (((bs.find? (·.lunit == r.lunit)).map (·.members)).getD []).map fun u => if r.chipMem then u else u / 8).eraseDups
  match fronts with
  | [f] => if pages.all fun p => own p || !(img.pinPages m).any fun r => decide (r.1 ≤ p) && decide (p < r.2) then some f else none
  | _ => none

/-- The stack pair wished for each PINNED frame of a model, in the order of its 2 MiB ranges (R275). -/
def Image.pinWishes (img : Image) (m : Manifest) (bs : List Binding) : List (Option Nat) :=
  ((img.pinChunks m).flatMap fun r => (List.range (r.2 - r.1)).map fun k => img.ownerOf m bs (r.1 + k)) ++ List.replicate img.extraFrames none

/-- A frame on a wished pair; where none is to be had there, one of any pair (log 96). -/
def State.takeWished (s : State) (w : Option Nat) : Option Nat × State :=
  match w.map fun p => s.takeAtOnce fun f => s.framePair f == p with
  | some (some f, t) => (some f, t)
  | _ => s.takeAtOnce fun _ => true

/-- PINNED frames for a model, one per wish, zero-filled; none where no candidate remains (R242, R275). -/
def State.takePinned (s : State) (tenant model : BitVec 32) : List (Option Nat) → Option (List Nat) × State
  | [] => (some [], s)
  | w :: n =>
    match s.takeWished w with
    | (none, _) => (none, s)
    | (some f, s1) =>
      let s2 := (s1.addFrame { frame := f, cls := .pinned, tenant := tenant, model := model }).clear (frameAddr f) Config.frameBytes
      let s3 := { s2 with marks := s2.marks.filter fun p => !inRange (frameAddr f / 64) (Config.frameBytes / 64) p.1 }
      match State.takePinned s3 tenant model n with
      | (none, t) => (none, t)
      | (some l, t) => (some (f :: l), t)

/-- The pinned ranges of a model, given the frames of its 2 MiB virtual ranges in rising order. -/
def pinRanges (pages chunks : List (Nat × Nat)) (frames : List Nat) : List PinRange :=
  let cs := chunks.flatMap fun r => (List.range (r.2 - r.1)).map (r.1 + ·)
  (cs.zip frames).flatMap fun cf =>
    pages.flatMap fun p =>
      let lo := max p.1 (cf.1 * 512)
      let hi := min p.2 (cf.1 * 512 + 512)
      if lo < hi then [{ va := lo * 4096, bytes := (hi - lo) * 4096, pa := frameAddr cf.2 + (lo - cf.1 * 512) * 4096 }] else []

/-! ### Residency (R135) -/

/-- The bytes an installed weight object supplies for a range of the weight arena, from flash; zeros elsewhere (log 26). -/
def State.arenaByte (s : State) (m : Manifest) (va : Nat) : Byte :=
  if va < m.arenaVa then 0
  else
    let f := (va - m.arenaVa) / Config.frameBytes
    match m.objects.zipIdx.find? (fun p => decide (p.1.frame ≤ f) && decide (f < p.1.frame + p.1.frames)) with
    | none => 0
    | some p =>
      match s.tiers.installed.find? (fun i => i.model == m.modelId && i.obj == p.2) with
      | none => 0
      | some i => (s.tiers.flash.lookup ((i.place + (f - p.1.frame)) * Config.frameBytes + (va - m.arenaVa) % Config.frameBytes)).getD 0

/-- The window address of a resident area in unit u. -/
def Resident.at_ (r : Resident) (u : Nat) : Nat :=
  if r.chipMem then chipBase + u * chipBytes + r.offset else coreMemBase + u * coreMemStride + r.offset

/-- Slots of a Squall pinned RESIDENT for a model. -/
def State.pinSlots (s : State) (q : Fin 64) (m : BitVec 32) (offset bytes : Nat) : State :=
  s.updSq q fun x => { x with
    tags := (List.range (bytes / 4096)).foldl (fun t k => assocSet t (offset / 4096 + k) { st := .resident, pin := some m }) x.tags }

/-- One resident entry of a model placed in every member of its logical unit, from its HBM copy. -/
def State.placeResident (s : State) (m : Model) (r : Resident) : State :=
  let copy (t : State) (dst : Nat) : State :=
    (List.range (r.bytes / 4096)).foldl (fun u k =>
      match m.pinAt (r.src + k * 4096) with
      | some pa => (u.copy pa (dst + k * 4096) 4096).markRange (dst + k * 4096) 4096 .none
      | none => u) t
  (((m.bindings.find? (·.lunit == r.lunit)).map (·.members)).getD []).foldl (fun t u =>
    let t1 := copy t (r.at_ u)
    if r.chipMem then t1 else if h : u < 64 then t1.pinSlots ⟨u, h⟩ m.id r.offset r.bytes else t1) s

/-- The HBM copies of a model's resident areas filled from what its weight objects hold there. -/
def State.fillCopies (s : State) (m : Model) : State :=
  m.image.resident.foldl (fun t r =>
    (List.range r.bytes).foldl (fun u k => match m.pinAt (r.src + k) with
      | some pa => u.putByte pa (s.arenaByte m.manifest (r.src + k))
      | none => u) t) s

/-! ### The end of a MODEL_LOAD -/

/-- The model in force once its units are bound and its pinned frames taken: groups formed, HBM copies filled, resident
areas placed; the operation ends DONE. -/
def State.placeModel (t : State) (o : LongOp) (mf : Manifest) (img : Image) (bs : List Binding) (frames : List Nat) : State :=
  let g := t.formGroups mf.modelId bs
  let m : Model := { id := mf.modelId, tenant := o.tenant, manifest := mf, image := img, bindings := g.1, imageAt := fld o.entry 128 48,
                     prefillSet := t.eci.mixedPrefill, pins := pinRanges (img.pinPages mf) (img.pinChunks mf) frames }
  let t1 := (g.2.updSrv fun v => { v with models := v.models ++ [m] }).fillCopies m
  let t2 := img.resident.foldl (fun u r => u.placeResident m r) t1
  let t3 := if t2.eci.devState = .ready then t2.setDev .serving else t2
  t3.endOp o .done 0 (res [(192, mf.modelId.toNat), (224, img.pinNeed mf)])

/-- Binds, pins and reserves for an image that passed every check, and ends the operation DONE. -/
def State.loadModel (s : State) (o : LongOp) (mf : Manifest) (img : Image) : State :=
  match s.bindImage img s.unitIn s.heldAreas with
  | none =>
    if (s.bindImage img s.unitIn []).isSome then s.failOp o .imageInvalid 0x08 0
    else if (s.bindImage img (fun _ => true) []).isSome then s.failOp o .unitOffline 0 0
    else s.failOp o .imageInvalid 0x02 0
  | some bs =>
    if s.ceilingOf o.tenant < s.poolUse o.tenant + img.pinNeed mf ∨ s.tiers.poolSize < img.pinNeed mf then s.failOp o .poolCeiling 0 0
    else
      match s.takePinned o.tenant mf.modelId (img.pinWishes mf bs) with
      | (none, t) =>
        (t.updTiers fun x => { x with frames := x.frames.filter fun f => !(f.cls == .pinned && f.model == mf.modelId) }).failOp o .poolCeiling 1 0
      | (some frames, t) => t.placeModel o mf img bs frames

/-- Does every narrow tile header that is known before binding hold no reserved value (R74; log 89). -/
def State.headersOk (s : State) (m : Manifest) (img : Image) : Bool :=
  img.headers.all fun va => narrowHeaderOk (leNat ((List.range 64).map fun k => s.arenaByte m (va + k)))

/-- The lowest detail code that applies to an image (R140), the tile headers that its weights hold among the checks. -/
def State.loadDetail (s : State) (env : CheckEnv) (m : Manifest) (raw : List Byte) (bytes : Nat) : Option Nat :=
  let own := imageDetail env raw bytes
  if own.any (fun d => decide (d ≤ 4)) then own
  else if s.headersOk m (imageOf raw) then own else some 0x04

/-- The checks in order: the manifest on its own, the image, the manifest against the image's plan (log 25). -/
def State.finishLoad (s : State) (o : LongOp) : State :=
  let mr := s.manifestAt (fld o.entry 64 48)
  let bytes := fld o.entry 192 32
  let raw := s.bytes (fld o.entry 128 48) bytes
  if !s.manifestOk o.tenant mr || mr.imageDigest != Config.sha512 raw then s.failOp o .manifestInvalid 0 0
  else
    let img := imageOf raw
    let env : CheckEnv := { mixed := s.eci.role == some .mixed, arenaVa := mr.m.arenaVa, arenaBytes := arenaBytes mr.m img.expert }
    match s.loadDetail env mr.m raw bytes with
    | some d => s.failOp o .imageInvalid d 0
    | none => if !manifestFits mr.m img.expert then s.failOp o .manifestInvalid 0 0 else s.loadModel o mr.m img

def execModelLoadComplete (op : Nat) (s : State) : Res :=
  .next (
    let e := ((s.op op).map (·.entry)).getD 0
    s.complete op .modelLoad [fld e 64 48, fld e 128 48] fun o t => t.finishLoad o)

/-! ## MODEL_INSTALL (R262, R263) -/

def modelInstallFields : List FieldSpec := [(64, 48, anyVal), (128, 48, anyVal), (192, 32, anyVal), (224, 32, anyVal)]

/-- The objects an install names, with their indices. -/
def installed (m : Manifest) (first count : Nat) : List (WObject × Nat) := ((m.objects.zipIdx).drop first).take count

def modelInstallBody (c : Cmd) (s : State) : State :=
  let mpa := c.f 64 48
  if !s.readable mpa then s.waits
  else
    let mr := s.manifestAt mpa
    let frames := (installed mr.m (c.f 192 32) (c.f 224 32)).foldl (fun n o => n + o.1.frames) 0
    s.startOp c .modelInstall mr.m.modelId frames fun h t =>
      t.updTiers fun x => { x with writing := x.writing ++ [(h, 0)] }

def execModelInstall (src : Src) (s : State) : Res :=
  .next (s.command 0x11 src (fun _ => modelInstallFields) modelInstallBody)

/-- Frames of flash in use: installed copies and copies that wait for a switch. -/
def State.flashFrames (s : State) : Nat :=
  s.tiers.installed.foldl (fun n i => n + i.frames) 0
    + s.srv.models.foldl (fun n m => n + m.switching.foldl (fun k x => k + ((m.manifest.objects[x.1]?).map (·.frames)).getD 0) 0) 0

/-- Writes the objects of an install one behind the other; their places. -/
def State.installObjects (s : State) (src place : Nat) : List (WObject × Nat) → State × List (Nat × Nat)
  | [] => (s, [])
  | (o, i) :: l =>
    let r := State.installObjects (s.writeFlash src place o.frames) (src + o.frames * Config.frameBytes) (place + o.frames) l
    (r.1, (i, place) :: r.2)

/-- Does every object's data match its digest. -/
def State.dataOk (s : State) (src : Nat) : List (WObject × Nat) → Bool
  | [] => true
  | (o, _) :: l =>
    (Config.sha512 (s.bytes src (o.frames * Config.frameBytes)) == o.digest)
      && State.dataOk s (src + o.frames * Config.frameBytes) l

def State.finishInstall (s : State) (o : LongOp) : State :=
  let mr := s.manifestAt (fld o.entry 64 48)
  let src := fld o.entry 128 48
  let first := fld o.entry 192 32
  let count := fld o.entry 224 32
  let l := installed mr.m first count
  let frames := l.foldl (fun n x => n + x.1.frames) 0
  if !s.manifestOk o.tenant mr then s.failOp o .manifestInvalid 0 0
  else if count = 0 ∨ mr.m.objects.length < first + count then s.failOp o .manifestInvalid 3 0
  else if (s.model mr.m.modelId).any (fun m => !(l.all fun x => (m.manifest.objects[x.2]?).map (·.digest) == some x.1.digest)) then
    s.failOp o .manifestInvalid 2 0
  else if !s.dataOk src l then s.failOp o .manifestInvalid 1 0
  else if flashCapacity < s.flashFrames + frames then s.failOp o .installSpace 0 0
  else
    let r := s.installObjects src s.tiers.flashUsed l
    let s1 := r.1.updTiers fun t => { t with flashUsed := t.flashUsed + frames, writing := t.writing.filter fun w => w.1 != o.handle }
    let s2 := match s.model mr.m.modelId with
      | some _ => s1.updModel mr.m.modelId fun m => { m with switching := m.switching ++ r.2 }
      | none => (l.zip r.2).foldl (fun (u : State) (x : (WObject × Nat) × (Nat × Nat)) =>
          (u.nowInstalled mr.m.modelId x.1.2 x.1.1 x.2.2).renewObject mr.m.modelId x.1.2 false) s1
    s2.endOp o .done 0 (res [(192, frames)])

def execModelInstallComplete (op : Nat) (s : State) : Res :=
  .next (
    let e := ((s.op op).map (·.entry)).getD 0
    s.complete op .modelInstall [fld e 64 48, fld e 128 48] fun o t => t.finishInstall o)

/-- Does a step of a model run. -/
def State.modelRuns (s : State) (m : BitVec 32) : Bool := s.srv.chains.any fun c => c.model == m && c.run.isSome

/-- The first step boundary after an install of a loaded model's objects (R263). -/
def execInstallSwitch (model : BitVec 32) (s : State) : Res :=
  .next (match s.model model with
    | none => s.notDue
    | some m =>
      if m.switching.isEmpty || s.modelRuns model then s.notDue
      else
        s.ok.switchCopies m)

/-! ## MODEL_EVICT (R21, R135) -/

/-- Does an item or a long operation of a model have no final record (Table 14.11). -/
def State.modelBusy (s : State) (m : BitVec 32) : Bool :=
  s.srv.chains.any (fun c => c.model == m && !c.items.isEmpty) || s.eci.ops.any fun o => o.model == m

def modelEvictBody (c : Cmd) (s : State) : State :=
  let id := BitVec.ofNat 32 (c.f 64 32)
  match s.modelFor c id with
  | none => s.refuse c .notFound 0
  | some _ => if s.modelBusy id then s.refuse c .modelBusy 0 else ((s.evictModel id).done c 0 0).settle

def execModelEvict (src : Src) (s : State) : Res :=
  .next (s.command 0x12 src (fun _ => [(64, 32, anyVal)]) modelEvictBody)

end Sys2Proof.Machine
end

