-- ==== Sys2Proof/Machine/Submit.lean ====
section
/-!
DEFINITION. STEP_SUBMIT: the checks at acceptance, mask objects and select tables, and the gates (R164 to R168, R184,
R193 to R197, R373).
-/

namespace Sys2Proof.Machine

/-! ## Regions bound to slots (R164) -/

def State.regionOf (s : State) (h : Nat) : Option Region := s.eci.regions.find? (·.handle == BitVec.ofNat 16 h)

/-- The handle of region slot k of an item. -/
def Item.handle (i : Item) (k : Nat) : Nat := i.handles.getD (k - 1) 0

/-- The region bound to slot k for an item. -/
def State.itemRegion (s : State) (i : Item) (k : Nat) : Option Region := if k = 0 then none else s.regionOf (i.handle k)

/-- Do the handles of an item meet the image's region slots. -/
def State.regionsFit (s : State) (img : Image) (i : Item) : Bool :=
  img.regionSlots.all fun rs => match s.itemRegion i rs.slot with
    | none => false
    | some r => decide (rs.minBytes ≤ r.pages * 4096) && rs.host == isHost r.base && (r.write || !rs.write)
        && ((s.session r.session).any fun x => x.tenant == i.tenant)

/-! ## Masks (R193 to R197) -/

/-- A mask as the control processor sees it: `base` is the object's address, none for an item without one; `off` its
offset in the mask arena. -/
structure MaskView where
  tr : Nat
  tc : Nat
  qpos0 : Int
  rowpos : Bool
  tree : Bool
  explicit : Bool
  base : Option Nat := none
  off : Nat := 0
  mapoff : Nat := 0
  bitoff : Nat := 0
  seloff : Nat := 0

/-- Context tiles of a sequence at n with T rows. -/
def ctiles (n t : Nat) : Nat := cdiv (n + t) 128

/-- The implied mask (R196). -/
def impliedMask (n t nodes : Nat) : MaskView :=
  { tr := cdiv (t + nodes) 128, tc := ctiles n t, qpos0 := if nodes = 0 then n else (n : Int) - 1, rowpos := nodes != 0, tree := false, explicit := false }

/-- The mask object at an address (Table 7.7); with EXPLICIT = 0 the implied rule governs its context tiles. -/
def State.maskObject (s : State) (pa off n t nodes : Nat) : MaskView :=
  let h := s.word pa 64
  let i := impliedMask n t nodes
  let ex := bitAt h 66
  { tr := bitsAt h 0 16, tc := bitsAt h 16 16, qpos0 := if ex then signedAt h 32 32 else i.qpos0, rowpos := if ex then bitAt h 64 else i.rowpos,
    tree := bitAt h 65, explicit := ex, base := some pa, off := off, mapoff := bitsAt h 128 32, bitoff := bitsAt h 160 32, seloff := bitsAt h 192 32 }

/-- The code of tile t; every context tile of an implied mask has code 11 and its tree tile is a bitmap. -/
def State.tileCode (s : State) (v : MaskView) (t : Nat) : Nat :=
  match v.base, v.explicit with
  | some pa, true => bitsAt (s.byteAt (pa + v.mapoff + t / 4)).toNat (2 * (t % 4)) 2
  | _, _ => if v.tree && t % v.tc == v.tc - 1 then 2 else 3

/-- Where the bitmap of tile t lies in the object: bitmaps follow one another in ascending t. -/
def State.bitmapAt (s : State) (v : MaskView) (t : Nat) : Nat :=
  let before := ((List.range t).filter fun k => s.tileCode v k == 2).length
  v.bitoff + 2048 * (if v.explicit then before else 0)

/-- The select entry of tile (r, c) (Table 7.8). -/
def State.selectEntry (s : State) (v : MaskView) (r c : Nat) : Nat :=
  let t := r * v.tc + c
  let code := if v.tree && c + 1 == v.tc then 2 else s.tileCode v t
  match code with
  | 0 => 0
  | 1 => 1
  | 2 => (v.off + s.bitmapAt v t) / 2048
  | _ =>
    if v.rowpos then
      let w := v.qpos0 - 128 * c
      if 127 ≤ w then 1 else if w < 0 then 0 else (256 + w).toNat
    else
      let d := v.qpos0 + 128 * r - 128 * c
      if 127 ≤ d then 1 else if d ≤ -128 then 0 else (d + 129).toNat

/-- Row i of the tree tile, its first k columns, as a number. -/
def State.treeRow (s : State) (v : MaskView) (k i : Nat) : Nat :=
  match v.base with
  | some pa => if v.tree then bitsAt (s.word (pa + s.bitmapAt v (v.tc - 1) + 16 * i) 16) 0 k else 0
  | none => 0

/-- R197: a node is its own ancestor, parents come first, and the others form the row of the largest. -/
def State.treeOk (s : State) (v : MaskView) (nodes : Nat) : Bool :=
  (List.range nodes).all fun i =>
    let row := s.treeRow v nodes i
    let others := row - 2 ^ i
    bitAt row i && decide (row < 2 ^ (i + 1)) && (others == 0 || s.treeRow v nodes others.log2 == others)

/-- Is an item's mask object good (R196). -/
def State.maskOk (s : State) (p : AttnPlan) (v : MaskView) (i : Item) (n size : Nat) : Bool :=
  let h := match v.base with
    | some pa => s.word pa 64
    | none => 0
  let inside (o k : Nat) : Bool := decide (v.off + o + k ≤ size)
  let tiles := v.tr * v.tc
  let codes := if v.explicit then ((List.range tiles).filter fun t => s.tileCode v t == 2).length else if v.tree then 1 else 0
  let extra := if v.tree then 1 else 0
  v.off % 2048 == 0 && decide (0xC0000 ≤ v.off) && inside 0 64
    && bitsAt h 67 61 == 0 && bitsAt h 224 288 == 0
    && v.mapoff % 64 == 0 && v.bitoff % 2048 == 0 && v.seloff % 64 == 0
    && v.tr == cdiv (i.t + i.nodes) 128 && decide (1 ≤ v.tr) && decide (v.tr ≤ 8) && v.tc == ctiles n i.t + extra
    && (!v.explicit || inside v.mapoff (cdiv tiles 4)) && inside v.bitoff (2048 * codes) && inside v.seloff (4 * tiles)
    && !(v.tree && v.explicit && s.tileCode v (v.tc - 1) == 3) && !(p.sparse && decide (1 < v.tr))
    && (!v.tree || s.treeOk v i.nodes)

/-- A select table written at an address in plain memory. -/
def State.writeSelect (s : State) (v : MaskView) (pa : Nat) : State :=
  (List.range (v.tr * v.tc)).foldl (fun u t => u.putWord (pa + 4 * t) 4 (s.selectEntry v (t / v.tc) (t % v.tc))) s

/-- The mask of an item at n: its object, or the implied one. -/
def State.itemMask (s : State) (p : AttnPlan) (i : Item) (n : Nat) : MaskView :=
  match s.itemRegion i p.maskSlot with
  | some r => if i.maskOff = 0 then impliedMask n i.t i.nodes else s.maskObject (r.base + i.maskOff) i.maskOff n i.t i.nodes
  | none => impliedMask n i.t i.nodes

/-! ## Gates (R165 to R168) -/

def Image.familyOf (img : Image) (c : Fin 16) : Option Family := img.families.find? fun f => bitAt f.chains c.val

/-- A gate closed into a step. -/
def Chain.close (c : Chain) (why : CloseWhy) (now : Nat) : Chain :=
  match c.gate with
  | none => c
  | some g => { c with gate := none, closed := c.closed ++ [{ items := g.items, tOpen := g.tOpen, tClose := now, why := why }] }

/-- A gate's timer has expired (R166). -/
def Gate.expired (g : Gate) (now : Nat) : Bool := decide (g.tOpen + us g.limitUs ≤ now)

/-- The microsecond in which a gate's timer expires has been reached: items enter the next gate (R168). -/
def Gate.expiring (g : Gate) (now : Nat) : Bool := decide ((g.tOpen + us g.limitUs) / 1000 ≤ now / 1000)

/-- An item enters its chain's gate (R165, R168): the gate may close before it and after it. -/
def Chain.enter (c : Chain) (f : Family) (limit now : Nat) (i : Item) (flush : Bool) : Chain :=
  let r := i.t + i.nodes
  let before : Option CloseWhy := match c.gate with
    | none => none
    | some g =>
      if f.maxRows < g.rows + r then some .fill
      else if g.expiring now then some .gust
      else if g.items.any (fun x => x.handles != i.handles) then some .bind
      else none
  let c1 := match before with
    | some w => c.close w now
    | none => c
  let g := c1.gate.getD { tOpen := now, limitUs := limit }
  let g1 : Gate := { g with items := g.items ++ [i], rows := g.rows + r }
  let c2 := { c1 with gate := some g1 }
  if flush && before == some .fill then c2.close .flush now
  else if f.fillRows ≤ g1.rows then c2.close .fill now
  else if flush then c2.close .flush now
  else c2

/-! ## STEP_SUBMIT (R373) -/

def submitFields : List FieldSpec :=
  [(64, 32, anyVal), (96, 4, anyVal), (100, 1, anyVal), (101, 1, anyVal), (104, 7, inVals 0 64), (112, 11, inVals 0 1024),
   (128, 16, anyVal), (160, 64, anyVal), (224, 64, anyVal), (288, 48, anyVal), (336, 8, anyVal), (344, 40, anyVal), (384, 32, anyVal),
   (416, 48, anyVal), (480, 256, anyVal), (736, 48, anyVal)]

/-- The region handles of an entry: in the entry, or at BIND_PA for images with more than 16 slots. -/
def State.entryHandles (s : State) (c : Cmd) (slots : Nat) : List Nat :=
  if slots ≤ 16 then (List.range slots).map fun k => c.f (480 + 16 * k) 16
  else (List.range slots).map fun k => s.word (c.f 736 48 + 2 * k) 2

def State.entryItem (s : State) (c : Cmd) (img : Image) : Item :=
  let q := c.f 128 16
  { ref := c.ref, tenant := c.tenant, t := c.f 112 11, nodes := c.f 104 7, seq := if q = 0xFFFF then none else some q,
    seed := BitVec.ofNat 64 (c.f 160 64), submit := BitVec.ofNat 64 (c.f 224 64), maskOff := c.f 288 48, outSlot := c.f 336 8,
    outOff := c.f 344 40, outLen := c.f 384 32, tokensPa := c.f 416 48, share := c.f 101 1 == 1, flush := c.f 100 1 == 1,
    handles := s.entryHandles c img.regionSlots.length }

/-- What an item fails with at acceptance, in the order of R373. -/
def State.acceptFails (s : State) (m : Model) (ch : Fin 16) (f : Family) (i : Item) : Option Status :=
  let p := m.image.attn.getD ch.val {}
  let q := i.seq.bind (s.seqOf m.id)
  let n := (q.map (·.n)).getD 0
  let size := ((s.itemRegion i p.maskSlot).map (·.pages * 4096)).getD 0
  let v := s.itemMask p i n
  let elsewhere (c : Chain) : Bool := c.model == m.id && (if c.chain == ch then (c.gate.map (·.items)).getD [] else c.items).any fun x => x.seq == i.seq
  if !s.regionsFit m.image i then some .regionMismatch
  else if f.maxRows < i.t + i.nodes then some .rowsExceed
  else if i.seq.isSome && p.attn && decide (p.maxSeq < n + i.t + i.nodes) then some .kvSpace
  else if p.attn && ((decide (0 < i.nodes) && decide (0 < i.t)) || (p.sparse && decide (1 < cdiv (i.t + i.nodes) 128))
      || (i.maskOff != 0 && !s.maskOk p v i n size)) then some .maskInvalid
  else if q.any (·.importing) || (i.seq.isSome && s.srv.chains.any elsewhere) then some .seqBusy
  else none

/-- The Gust limit that a gate opening now takes (R166). -/
def State.gustLimit (s : State) (img : Image) : Nat := if img.gustUs = 0 then s.eci.gustDefault.toNat else img.gustUs

/-- May the role run steps of a family (R28, R378). -/
def State.roleRuns (s : State) (f : Family) : Bool :=
  match s.eci.role with
  | some .prefill => !f.decode
  | some .decode => f.decode
  | some .cache => false
  | _ => true

/-- The item of an entry goes where R373 sends it: its gate, or its final record at once. -/
def State.acceptItem (s : State) (c : Cmd) (m : Model) (ch : Fin 16) (f : Family) (i : Item) : State :=
  let s1 := s.popEntry c.src
  match s.acceptFails m ch f i with
  | some st => (s1.failItem m.id i st 0 0xFFFF).nextBad c.src
  | none =>
    let p := m.image.attn.getD ch.val {}
    let n := ((i.seq.bind (s.seqOf m.id)).map (·.n)).getD 0
    let v := s.itemMask p i n
    let s2 := match p.attn, v.base with
      | true, some pa => s1.writeSelect v (pa + v.seloff)
      | _, _ => s1
    (s2.updChain m.id ch fun x => x.enter f (s.gustLimit m.image) s.now i i.flush).nextBad c.src

def stepSubmitBody (c : Cmd) (s : State) : State :=
  let ch : Fin 16 := ⟨c.f 96 4 % 16, by omega⟩
  if s.eci.role = some .cache then s.refuse c .stateConflict 0
  else match s.modelFor c (BitVec.ofNat 32 (c.f 64 32)) with
    | none => s.refuse c .notFound 0
    | some m =>
      match m.image.familyOf ch with
      | none => s.refuse c .invalidField 12
      | some f =>
        let p := m.image.attn.getD ch.val {}
        let sq := c.f 128 16
        if m.image.chains ≤ ch.val then s.refuse c .invalidField 12
        else if c.f 112 11 + c.f 104 7 = 0 then s.refuse c .invalidField 13
        else if sq = 0xFFFF ∧ p.attn then s.refuse c .invalidField 16
        else if sq ≠ 0xFFFF ∧ (s.seqFor c m.id sq).isNone then s.refuse c .notFound 0
        else if m.image.regionSlots.length ≤ 16 ∧ c.f 736 48 ≠ 0 then s.refuse c .invalidField 92
        else if !s.roleRuns f then s.refuse c .stateConflict 0
        else if 16 < m.image.regionSlots.length ∧ !s.readable (c.f 736 48) then s.waits
        else
          let i := s.entryItem c m.image
          if i.maskOff ≠ 0 ∧ ((s.itemRegion i p.maskSlot).any fun r => !s.readable r.base) then s.waits
          else s.acceptItem c m ch f i

/-- STEP_SUBMIT (R373). -/
def execStepSubmit (src : Src) (s : State) : Res := .next (s.command 0x2A src (fun _ => submitFields) stepSubmitBody)

/-- GUST_EXPIRE: the timer of an open gate has run out (R166). -/
def execGustExpire (model : BitVec 32) (chain : Fin 16) (s : State) : Res :=
  .next (match (s.chain model chain).bind (·.gate) with
    | some g => if g.expired s.now then s.ok.updChain model chain fun c => c.close .gust s.now else s.notDue
    | none => s.notDue)

end Sys2Proof.Machine
end

