-- ==== Sys2Proof/Machine/Tags.lean ====
section
/-!
DEFINITION. Slot tags and their watchdogs (R103 to R109), reads in progress (R52, R106), and the activities that the power
controller counts (R391).
-/

namespace Sys2Proof.Machine

/-! ## Tags -/

/-- The slots that n bytes from a core memory offset touch, from the first up (R103). -/
def slotsOf (off n : Nat) : List Nat :=
  let o := off % 2 ^ 24
  if n = 0 then [] else (List.range ((o + n - 1) / 4096 - o / 4096 + 1)).map fun i => (o / 4096 + i) % 4096

def Squall.tag (x : Squall) (k : Nat) : Tag := (assoc x.tags k).getD {}

/-- A tag set; an EMPTY one is not listed. -/
def Squall.setTag (x : Squall) (k : Nat) (t : Tag) : Squall :=
  { x with tags := if t.st = .empty then assocDel x.tags k else assocSet x.tags k t }

/-- A tagged reader reads FULL and RESIDENT slots (Table 5.3). -/
def TagSt.readable : TagSt → Bool
  | .full | .resident => true
  | .empty | .filling => false

/-- The first slot of a list that a reader waits for (R106). -/
def Squall.firstUnready (x : Squall) (l : List Nat) : Option Nat := l.find? fun k => !(x.tag k).st.readable

def inSlot (q : Fin 64) (k a : Nat) : Bool := inRange (coreAddr q (4096 * k)) 4096 a

/-- A tagged writer's first write to an EMPTY slot (R105). -/
def State.acquire (s : State) (q : Fin 64) (k : Nat) : State :=
  s.updSq q fun x => x.setTag k { st := .filling, since := s.now }

/-! ## Watchdogs (R109) -/

/-- The name under which a Squall's watchdogs keep a slot: its own by number, another Squall's by Squall and number. -/
def watchKey (own q : Fin 64) (k : Nat) : Nat := if own = q then k else k + 4096 * (1 + q.val)

/-- A request that waits to write is numbered 64 above the same unit's request that waits to read. -/
def reqWrite (req : Nat) : Nat := req + 64
def isWriter (w : (Nat × Nat) × Nat) : Bool := decide (64 ≤ w.1.1)

/-- The watchdogs that a slot's change of state ends, those of its readers or those of its writers: their requests wait on it no
more (R107, R109). -/
def State.letIn (s : State) (q : Fin 64) (k : Nat) (writers : Bool) : State :=
  { s with squalls := s.squalls.mapIdx fun i x =>
      { x with watch := x.watch.filter fun w => !(w.1.2 == watchKey ⟨i % 64, by omega⟩ q k && isWriter w == writers) } }

/-- A slot becomes EMPTY: its contents are undefined (Table 5.3), and whoever waits to write it is admitted (R107). -/
def State.emptySlot (s : State) (q : Fin 64) (k : Nat) : State :=
  ((s.updSq q fun x => x.setTag k {}).undefine (inSlot q k)).letIn q k true

/-- One reader's release of a slot it has read with consuming reads (R106); a RESIDENT slot keeps its state. -/
def State.consume (s : State) (q : Fin 64) (k : Nat) : State :=
  let t := (s.sq q).tag k
  match t.st with
  | .full => if t.readers ≤ 1 then s.emptySlot q k else s.updSq q fun x => x.setTag k { t with readers := t.readers - 1 }
  | .empty | .filling | .resident => s

/-- The writer of a FILLING slot releases it with its consumer count (R105), and every waiting reader is admitted (R107); the time it
was FILLING counts in no watchdog. `info` says what run-ahead recorded. -/
def State.release (s : State) (q : Fin 64) (k count : Nat) (info : Tag) : State :=
  let t := (s.sq q).tag k
  let late := (s.sq q).watch.any fun w => w.1.2 == k && !isWriter w
  let s1 := s.updSq q fun x => { x.setTag k { info with st := .full, readers := count, order := x.fills, late := late } with fills := x.fills + 1 }
  let shift (i : Nat) (x : Squall) : Squall := x.shiftWatch (fun w => w.2 == watchKey ⟨i % 64, by omega⟩ q k) t.since s.now
  ({ s1 with squalls := s1.squalls.mapIdx shift } : State).letIn q k false

/-- A request waits for a slot: its watchdog runs from the time it began to wait there. -/
def State.waitSlot (s : State) (own : Fin 64) (req : Nat) (key : Nat) : State :=
  (s.updSq own fun x =>
    if x.watch.any (fun w => w.1 == (req, key)) then x
    else { x with watch := x.watch.filter (fun w => w.1.1 != req) ++ [((req, key), s.now)] }).waits

/-- A request waits no more. -/
def State.unwatch (s : State) (own : Fin 64) (req : Nat) : State :=
  s.updSq own fun x => { x with watch := x.watch.filter fun w => w.1.1 != req }

/-- Requests with watchdogs: stationary and activation feeder and epilogue of an engine, the vector unit, a channel. -/
def reqStage (e : Fin 4) : Nat := e.val
def reqFetch (e : Fin 4) : Nat := 4 + e.val
def reqEpilogue (e : Fin 4) : Nat := 8 + e.val
def reqVector : Nat := 12
def reqChannel (ch : Fin 8) : Nat := 16 + ch.val
/-- A write of a channel whose descriptor has been followed by the next. -/
def reqLate (ch : Fin 8) : Nat := 88 + ch.val

/-- The name under which a watchdog keeps an operand buffer slot of an engine. -/
def opKey (e : Fin 4) (k : Nat) : Nat := 2 ^ 20 + 512 * e.val + k

/-- The first of a list of slots that a writer waits for: not EMPTY, and not FILLING by the writer itself (R105). -/
def Squall.firstTaken (x : Squall) (mine : List Nat) (l : List Nat) : Option Nat :=
  l.find? fun k => (x.tag k).st != .empty && !((x.tag k).st == .filling && mine.contains k)

/-! ## Reads in progress (R52, R106) -/

/-- Consuming reads of an issue begin: part 0 its tile, 1 its rows, 2 its epilogue's second tensor, 3 an EWISE pass's second
stream. -/
def Squall.hold (x : Squall) (seq part : Nat) (slots : List Nat) : Squall :=
  { x with holds := x.holds ++ (slots.eraseDups.map fun k => (seq, part, k)) }

/-- A part of an issue's reads is done with a set of slots: each slot that no other part of the issue still reads is released
once (R106). -/
def State.doneReading (s : State) (q : Fin 64) (seq part : Nat) (p : Nat → Bool) : State :=
  let mine := ((s.sq q).holds.filter fun h => h.1 == seq && h.2.1 == part && p h.2.2).map (·.2.2)
  let s1 := s.updSq q fun x => { x with holds := x.holds.filter fun h => !(h.1 == seq && h.2.1 == part && p h.2.2) }
  (mine.filter fun k => !((s1.sq q).holds.any fun h => h.1 == seq && h.2.2 == k)).foldl (fun u k => u.consume q k) s1

/-- A task has ended: rows that it still holds are released, and its passes leave their lists (R439). -/
def State.endReads (s : State) (q : Fin 64) (key : Nat) : State :=
  let x := s.sq q
  let mine := x.engines.toList.flatMap fun e => (e.held.filter (·.task == key)).map (·.reader) ++ (e.passes.filter (·.task == key)).map (·.seq)
  let s1 := mine.foldl (fun u n => [0, 1, 2, 3].foldl (fun v part => v.doneReading q n part fun _ => true) u) s
  s1.updSq q fun y => { y with engines := y.engines.map fun e => e.dropTask key }

/-! ## Tasks and activities -/

/-- The phase that a task's activities count for; without a task, that of the last task started on the Front (R391). -/
def State.phaseOf (s : State) (q : Fin 64) (key : Nat) : Fin 4 :=
  (((s.sq q).task key).map (·.rc.phase)).getD (s.front (frontOf q)).phaseNow

/-- n activities of kind k for a phase of a Front (Table 15.2). -/
def State.activity (s : State) (f : Fin 8) (p : Fin 4) (k n : Nat) : State :=
  if n = 0 then s
  else s.updFront f fun w => { w with counts := assocSet w.counts (16 * p.val + k) ((assoc w.counts (16 * p.val + k)).getD 0 + n) }

/-- 64-byte accesses that n bytes from an offset take. -/
def chunkCount (off n : Nat) : Nat := (chunksOf off n).length

/-- Core memory accesses of a task (activity 10). -/
def State.coreAccess (s : State) (q : Fin 64) (key n : Nat) : State := s.activity (frontOf q) (s.phaseOf q key) 10 n

/-! ## SLOT_RELEASE and TAG_STALL's condition -/

/-- Is a slot still being written by a channel, the vector unit or an epilogue that will release it itself. -/
def State.writing (s : State) (q : Fin 64) (k : Nat) : Bool :=
  ((s.sq q).engines.toList.any fun e => e.passes.any fun p => p.acq.contains k)
    || ((s.sq q).vq.any fun v => v.mine.contains k)
    || (List.finRange 64).any fun o => (s.sq o).chans.toList.any fun c => c.run.any fun p => (p.filling ++ p.late.flatMap (·.mine)).contains (watchKey o q k)

/-- SLOT_RELEASE: a tagged writer whose last byte of a FILLING slot is written releases it; the slot is FULL with the declared
count, and every waiting reader is admitted (R105, R107). -/
def execSlotRelease (sq : Fin 64) (slot : Fin 4096) (count : Fin 16) (s : State) : Res :=
  .next (if ((s.sq sq).tag slot.val).st != .filling || count.val == 0 || s.writing sq slot.val then s.notDue
    else s.ok.release sq slot.val count.val {})

end Sys2Proof.Machine
end

