-- ==== Sys2Proof/Machine/Xlate.lean ====
section
/-!
DEFINITION. Model virtual addresses: where a page of a model's space lies, and whether an access lies within the step's access map
(R121, R160 to R164, R172, R225, R441).
-/

namespace Sys2Proof.Machine

/-- Where a virtual address leads. -/
inductive Spot where
  /-- DRAM or chip memory. -/
  | mem (pa : Nat)
  /-- A frame of the weight arena, and the offset in it. -/
  | weight (fid : FrameId) (off : Nat)
  /-- The null expert's frame or the zero block set: reads as zeros, never written. -/
  | zero
  | host (pa : Nat) (session : BitVec 16)
  | peer (pa : Nat)
  /-- The reservation of a stream export at its destination (R213). -/
  | dest (m : BitVec 8) (pa : Nat)
  deriving DecidableEq, Repr

/-- What a page answers to an access. -/
inductive PageFor where
  | spot (x : Spot)
  /-- Outside the map (R161). -/
  | denied
  /-- Within the map, but its translation faults (R162). -/
  | absent
  /-- A host region of a lost session (R341, R342). -/
  | lost
  deriving DecidableEq, Repr

/-- What a unit's accesses run under: model, step, variant, member of its logical unit, and the task's kind. -/
structure AccessEnv where
  m : Model
  run : Run
  v : Variant
  chain : Option (Fin 16) := none
  member : Nat := 0
  spec : Bool := false
  /-- The Squall and task that an access belongs to. -/
  task : Option (Fin 64 × Nat) := none

/-! ## Places in the key-value arena (R180) -/

def State.block (s : State) (m : BitVec 32) (sub : Nat) : Option BlockSet := s.srv.blocks.find? fun b => b.model == m && b.sub == sub

/-- Byte offsets and lengths of position t of every page of a block set (Table 7.1, Table 7.2). -/
def AttnPlan.posRanges (p : AttnPlan) (t : Nat) : List (Nat × Nat) :=
  (List.range (p.layers * p.groups)).flatMap fun i =>
    if p.kvfmt = 6 then [(32768 * i + 256 * t, 256), (32768 * i + 16384 + 256 * t, 256)]
    else
      let o := 65536 * (i / 3) + 20480 * (i % 3)
      [(o + 256 * t, 256), (o + 16384 + 8 * t, 8)]

/-- The physical address of a byte of a block set. -/
def BlockSet.at_ (b : BlockSet) (o : Nat) : Nat := b.places.getD (o / Config.subBytes) 0 + o % Config.subBytes

/-- A write to an address of the model's space that touches the first position of a block set is remembered: it makes the sequence's next
block set due (R184). -/
def State.noteKv (s : State) (m : Model) (region va n : Nat) : State :=
  match m.plan.filter fun p => region == 0 && inRange p.arenaVa p.arenaBytes va with
  | none => s
  | some p =>
    let o := va - p.arenaVa
    let hit (b : BlockSet) : Bool :=
      b.model == m.id && !b.begun && decide (b.sub ≤ o / Config.subBytes) && decide (o / Config.subBytes < b.sub + b.subs)
        && (p.posRanges 0).any fun r => decide (o < b.sub * Config.subBytes + r.1 + r.2) && decide (b.sub * Config.subBytes + r.1 < o + n)
    if s.srv.blocks.any hit then s.updSrv fun v => { v with blocks := updWhere v.blocks hit fun b => { b with begun := true } } else s

/-- Does an address lie in the model's key-value arena. -/
def Model.inArena (m : Model) (va : Nat) : Bool := m.plan.any fun p => inRange p.arenaVa p.arenaBytes va

/-! ## Translation (R441) -/

/-- LOCAL_BASE of this module (Table 8.2). -/
def State.localBase (s : State) (m : Model) : Nat :=
  let e := m.image.expert
  if e.modLunit = 0xFFFF then 0 else (((m.members e.modLunit).findIdx? (· == s.eci.moduleIndex.toNat)).getD 0) * e.localCount

/-- A weight object and the frame of it at a frame of the arena. -/
def Manifest.objectAt (m : Manifest) (f : Nat) : Option (Nat × Nat) :=
  (m.objects.zipIdx.find? fun p => decide (p.1.frame ≤ f) && decide (f < p.1.frame + p.1.frames)).map fun p => (p.2, f - p.1.frame)

/-- The weight arena (R225): objects of local experts and objects behind the routed layers are mapped, the null object of a layer
reads as zeros. -/
def State.weightSpot (s : State) (m : Model) (va : Nat) : Option Spot :=
  let e := m.image.expert
  let o := va - m.manifest.arenaVa
  let f := o / Config.frameBytes
  let k := f / e.objFrames
  let expert := k % (e.experts + 1)
  let routed := e.moeLayers ≠ 0 && decide (k < e.moeLayers * (e.experts + 1))
  let base := s.localBase m
  if routed && expert == e.experts then some .zero
  else if routed && !(decide (base ≤ expert) && decide (expert < base + e.localCount)) then none
  else (m.manifest.objectAt f).map fun p => .weight { model := m.id, obj := p.1, f := p.2 } (o % Config.frameBytes)

/-- The key-value arena (R180, R182): block sets where they lie, the zero block set below the first. -/
def State.arenaSpot (s : State) (m : Model) (p : AttnPlan) (va : Nat) : Option Spot :=
  let o := va - p.arenaVa
  let sub := o / Config.subBytes
  if sub < p.subs then some .zero
  else
    (s.srv.blocks.find? fun b => b.model == m.id && decide (b.sub ≤ sub) && decide (sub < b.sub + b.places.length)).map fun b =>
      .mem (b.places.getD (sub - b.sub) 0 + o % Config.subBytes)

/-- The Front whose chip view an address lies in (R441). -/
def Model.viewFront (m : Model) (va : Nat) : Option Nat :=
  if va < chipBase then none
  else
    (m.bindings.find? fun b => b.lunit == (va - chipBase) / chipBytes && b.kind == 3 && b.group.isNone).bind fun b => b.members.head?

/-- Where an address of no arena leads: the near chip memory of the Front that a chip view stands for, a peer window, a pinned page. -/
def State.plainSpot (s : State) (m : Model) (va : Nat) : Option Spot :=
  match m.viewFront va with
  | some f => some (.mem (chipBase + f * chipBytes + (va - chipBase) % chipBytes))
  | none => if isPeer va then (if (s.peerTarget va).isSome then some (.peer va) else none) else (m.pinAt va).map .mem

/-- An address of a model's space; none where its translation faults. -/
def State.xlate (s : State) (m : Model) (va : Nat) : Option Spot :=
  match m.plan.filter fun p => inRange p.arenaVa p.arenaBytes va with
  | some p => s.arenaSpot m p va
  | none =>
    if inRange m.manifest.arenaVa (arenaBytes m.manifest m.image.expert) va then s.weightSpot m va else s.plainSpot m va

/-- Does a stream export name an item (R213). -/
def State.exportsItem (s : State) (t : Transfer) (i : Item) : Bool :=
  t.isExport && t.stream && i.seq == some t.seq && (s.op t.op).any fun o =>
    i.ref.src == .pair ⟨fld o.entry 224 6 % 64, by omega⟩ && i.ref.cid == BitVec.ofNat 16 (fld o.entry 240 16)

/-- The stream export whose destination is bound to a region slot of the step: a slot with PEER = 1, once the destination stands ready
(R213). -/
def State.slotExport (s : State) (m : Model) (r : Run) (slot : Nat) : Option Transfer :=
  if (m.image.variants.getD r.variant {}).map.any fun e => e.region == slot && e.peer then
    s.srv.transfers.find? fun t => t.model == m.id && t.peerReady && r.items.any (s.exportsItem t)
  else none

/-- An offset in the region bound to a slot of the step (R164): its pages in order; in a stream export's slot the sub-frames of the
destination's reservation in order (R213; log 91). -/
def State.regionSpot (s : State) (m : Model) (r : Run) (slot off : Nat) : Option Spot :=
  match s.slotExport m r slot, r.items.head?.bind fun i => s.itemRegion i slot with
  | some t, _ => t.places[off / Config.subBytes]?.map fun a => .dest t.peer (a + off % Config.subBytes)
  | none, none => none
  | none, some g =>
    if g.pages * Config.pageBytes ≤ off then none
    else if isHost g.base then some (.host (g.base + off) g.session)
    else some (.mem (g.base + off))

/-! ## The access map (R160, R161, R172) -/

def MapEntry.covers (e : MapEntry) (region page : Nat) : Bool :=
  e.region == region && decide (e.vpn ≤ page) && decide (page < e.vpn + e.pages)

/-- Does the map of a variant allow an access: reads, writes, or speculative writes; a speculative task touches no host and no peer
page. -/
def Variant.allows (v : Variant) (region page : Nat) (write spec : Bool) : Bool :=
  v.map.any fun e => e.covers region page && (if write then (if spec then e.sw else e.wr) else e.rd)
    && !(spec && (e.host || e.peer))

/-- May an access reach a page by the access map. A chip view is T0: a task of the Front's own Squalls needs no entry for it (R160), any
other task needs one (R17, R441), and a speculative task writes it as any other task does (R170; log 54). The addresses of the register
region lie outside every map (R161). -/
def AccessEnv.mapped (x : AccessEnv) (region va : Nat) (write : Bool) : Bool :=
  match if region = 0 then x.m.viewFront va else none with
  | some f => x.task.any (fun t => (frontOf t.1).val == f) || x.v.allows 0 (va / Config.pageBytes) write false
  | none => !(region == 0 && decide (registerBase ≤ va) && decide (va < peerBase)) && x.v.allows region (va / Config.pageBytes) write x.spec

/-- What the page of an address answers. Nothing is written through the zero frames or into the weight arena (R237). -/
def State.page (s : State) (x : AccessEnv) (region va : Nat) (write : Bool) : PageFor :=
  if !x.mapped region va write then .denied
  else
    match (if region = 0 then s.xlate x.m va else s.regionSpot x.m x.run region va) with
    | none => .absent
    | some (.host pa id) => if x.spec then .denied else if s.hostOpen id && s.linkAlive then .spot (.host pa id) else .lost
    | some (.peer pa) => if x.spec then .denied else .spot (.peer pa)
    | some (.dest d pa) => if x.spec then .denied else if write then .spot (.dest d pa) else .absent
    | some (.mem pa) => if registerBase ≤ pa ∧ pa < peerBase then .denied else .spot (.mem pa)
    | some (.weight fid o) => if write then .absent else .spot (.weight fid o)
    | some .zero => if write then .absent else .spot .zero

/-- The reason that a task fails with at a page (R162, R341). -/
def PageFor.reason : PageFor → Status
  | .spot _ => .done
  | .denied => .accessDenied
  | .absent => .xlateFault
  | .lost => .hostLinkLost

/-- A range cut at page boundaries: address and bytes of each piece. -/
def pagePieces (va : Nat) : Nat → Nat → List (Nat × Nat)
  | 0, _ => []
  | fuel + 1, n =>
    if n = 0 then []
    else
      let k := min n (Config.pageBytes - va % Config.pageBytes)
      (va, k) :: pagePieces (va + k) fuel (n - k)

def piecesOf (va n : Nat) : List (Nat × Nat) := pagePieces va (n / Config.pageBytes + 2) n

/-- The running step and its model for a chain. -/
def State.accessEnv (s : State) (model : BitVec 32) (chain : Fin 16) : Option AccessEnv :=
  match s.model model, (s.chain model chain).bind (·.run) with
  | some m, some r => some { m := m, run := r, v := m.image.variants.getD r.variant {}, chain := some chain }
  | _, _ => none

/-- The access environment of a task in flight. -/
def State.taskEnv (s : State) (q : Fin 64) (key member : Nat) : Option AccessEnv :=
  match (s.sq q).task key with
  | none => none
  | some t => (s.accessEnv t.model t.chain).map fun x => { x with member := member, spec := t.rc.spec, task := some (q, key) }

end Sys2Proof.Machine
end

