-- ==== Sys2Proof/Machine/Steps.lean ====
section
/-!
DEFINITION. Steps: selection, dispatch with its inputs, the end of tasks and of the step, commit, replay, and the prefix
directory's insertions (R146 to R148, R169, R173 to R177, R183 to R186, R200, R202, R208, R228, R229, R257, R415).
-/

namespace Sys2Proof.Machine

/-! ## Key-value places (R180, R441) -/

/-- The physical ranges of one position of a sequence. -/
def State.posAt (s : State) (p : AttnPlan) (q : Seq) (pos : Nat) : List (Nat × Nat) :=
  match q.table[pos / 64]?.bind (s.block q.model) with
  | none => []
  | some b => (p.posRanges (pos % 64)).map fun r => (b.at_ r.1, r.2)

/-- Positions of a sequence zero-filled (R183): bytes, marks and generations. -/
def State.zeroPositions (s : State) (p : AttnPlan) (q : Seq) (lo hi : Nat) : State :=
  (List.range (hi - lo)).foldl (fun u k => (s.posAt p q (lo + k)).foldl (fun t r => ((t.clear r.1 r.2).markRange r.1 r.2 .none).bumpGen r.1) u) s

/-! ## Selection (R142, R143, R146) -/

/-- A word of a chain's selection block; one that a failed task wrote holds what its stores performed (R146; log 100). -/
def State.selWord (s : State) (m : Model) (c : Fin 16) (d : Nat) : Nat :=
  match m.pinAt (m.image.selVa + c.val * 4096 + 2 * d) with
  | some pa => s.word pa 2
  | none => 0

/-- Bit t of the chain's commit vector. -/
def State.commitBit (s : State) (m : Model) (c : Fin 16) (t : Nat) : Bool :=
  match m.pinAt (m.image.selVa + c.val * 4096 + 32 + t / 8) with
  | some pa => bitAt (s.byteAt pa).toNat (t % 8)
  | none => false

def itemRows (l : List Item) : Nat := l.foldl (fun n i => n + i.t + i.nodes) 0

/-- The index vector of a closed step. -/
def State.indices (s : State) (m : Model) (c : Fin 16) (f : Family) (items : List Item) : List Nat :=
  f.dims.zipIdx.map fun x => match x.1.source with
    | .gate => (itemRows items - 1) / x.1.quantum
    | .prior => s.selWord m c x.2
    | .submit => items.foldl (fun n i => max n (bitsAt i.submit.toNat (8 * x.2) 8)) 0

/-- The variant of an index vector: dimension 0 varies fastest. -/
def Family.variantAt (f : Family) (idx : List Nat) : Nat :=
  f.firstVariant + ((f.dims.zip idx).foldr (fun x acc => x.2 + x.1.buckets * acc) 0)

def Family.idxOk (f : Family) (idx : List Nat) : Bool := (f.dims.zip idx).all fun x => decide (x.2 < x.1.buckets)

/-! ## Records of a step (R177, R385, Table 16.3) -/

/-- Codes that log STEP_ITEMS_FAILED. -/
def Status.stepEvent : Status → Bool
  | .tagStall | .selectRange | .routeOverflow | .commitFailed | .weightLate | .weightUnreadable => true
  | _ => false

/-- The event of a step whose items failed with a listed code: the first such code and the count of items with it. -/
def State.stepEvent (s : State) (m : BitVec 32) (c : Fin 16) (seq : Nat) (l : List Status) : State :=
  match l.find? (·.stepEvent) with
  | none => s
  | some st =>
    let n := (l.filter (· == st)).length
    s.event 2 0x0201 s.moduleId 0 (argBits [(0, m.toNat), (32, c.val), (64, seq % 2 ^ 32), (96, st.code), (112, n)])

def Chain.addRecord (c : Chain) (r : StepRec) : Chain :=
  { c with records := (c.records ++ [r]).drop (c.records.length + 1 - 1024) }

/-- STEP_NS of every unit that ran a task of the step: from T_DISPATCH to the final status of the unit's last task, of the module to T_END
(R18, R178). -/
def State.addStepTime (s : State) (m : BitVec 32) (r : Run) : State :=
  let ran := (r.past ++ r.tasks).filter (·.tStart.isSome)
  let last (l : List RunTask) : Nat := l.foldl (fun n t => max n t.tEnd) 0 - r.tDispatch
  let engine (q : Fin 64) (e : Nat) : Nat :=
    ((ran.filter (·.sq == q)).flatMap fun t => (t.spans.filter (·.1 == e)).map (·.2.2)).foldl max r.tDispatch - r.tDispatch
  let s1 := ((ran.map (·.sq)).eraseDups).foldl (fun u q =>
    let n := last (ran.filter (·.sq == q))
    u.updSq q fun x => { x with stepNs := x.stepNs + n, engines := x.engines.mapIdx fun k e => { e with stepNs := e.stepNs + engine q k } }) s
  let s2 := ((ran.map fun t => frontOf t.sq).eraseDups).foldl (fun u f =>
    u.updFront f fun w => { w with stepNs := w.stepNs + last (ran.filter fun t => frontOf t.sq == f) }) s1
  let mine (g : Group) (t : RunTask) : Bool := (s.model m).any fun x => x.bindings.any fun b => b.lunit == t.lunit && b.group == some g.index
  let s3 := s2.updSrv fun v => { v with groups := v.groups.map fun g => { g with stepNs := g.stepNs + last (ran.filter (mine g)) } }
  if r.dispatched then s3.add .stepNs (r.tRecord - r.tDispatch) else s3

/-- The completion records posted since an earlier state belong to a chain's step. -/
def State.markPosts (s earlier : State) (m : BitVec 32) (c : Fin 16) : State :=
  let n := earlier.eci.posts.length
  s.updEci fun e => { e with posts := e.posts.take n ++ (e.posts.drop n).map fun p => { p with step := some (m, c) } }

/-- Does a completion record of a chain's step still wait for its queue. -/
def State.unrecorded (s : State) (m : BitVec 32) (c : Fin 16) : Bool := s.eci.posts.any fun p => p.step == some (m, c)

/-- A step whose completion records have left ends once every one is written (R27, R173 order 7, R177): the step record is written and
selection for the chain's next step may begin. -/
def State.recorded (s : State) (m : BitVec 32) (c : Fin 16) : State :=
  match s.chain m c with
  | none => s
  | some k => match k.run with
    | none => s
    | some r =>
      if r.phase ≠ .recording ∨ s.unrecorded m c then s
      else
        let x : StepRec := {
          seq := k.seq, chain := c, why := r.why, variant := r.variant, reruns := r.reruns, tOpen := r.tOpen, tClose := r.tClose
          tDispatch := r.tDispatch, tEnd := r.tRecord, stalls := r.stalls, committed := r.committed.length, discarded := r.discarded
          items := r.items.length }
        ((s.addStepTime m r).updChain m c fun y => { (y.addRecord x) with run := none }).settle

/-- A closed step that does not run: every item fails (R147, R417). -/
def State.endUndispatched (s : State) (m : BitVec 32) (ch : Fin 16) (k : Closed) (st : Status) (variant : Nat) : State :=
  let seq := ((s.chain m ch).map (·.seq)).getD 0 + 1
  let why (i : Item) : Status := if i.cancelled then .cancelled else st
  let items := k.items.map fun i => { i with reason := some (why i) }
  let r : Run := { items := items, tOpen := k.tOpen, tClose := k.tClose, why := k.why, tDispatch := 0, variant := variant, phase := .recording,
                   dispatched := false, tRecord := s.now }
  let s1 := s.updChain m ch fun c => { c with closed := c.closed.drop 1, seq := seq, run := some r }
  let s2 := (items.foldl (fun u i => u.failItem m i (why i) seq variant) s1).markPosts s1 m ch
  (s2.stepEvent m ch seq (items.map why)).recorded m ch

/-! ## Allocation at dispatch (R184, R254) -/

/-- One item's block table made to cover its positions: none while the pool has no frame. -/
def State.coverSeq (s : State) (m : Model) (h need : Nat) : Nat → Option Bool × State
  | 0 => (some false, s)
  | fuel + 1 =>
    match s.seqOf m.id h with
    | none => (some true, s)
    | some q =>
      if need ≤ 64 * q.table.length then (some true, s)
      else match s.allocBlock m q.tenant with
        | (.got sub, t) => State.coverSeq (t.updSeq m.id h fun x => { x with table := x.table ++ [sub] }) m h need fuel
        | (.ceiling, t) => (some false, t)
        | (.full, t) => (none, t)

/-- Every item of a step covered: items that cannot be fail with KV_SPACE; none while some must wait, unless the wait has
lasted WEIGHT_LATE_MS. -/
def State.coverItems (s : State) (m : Model) (expired : Bool) : List Item → Option (List Item) × State
  | [] => (some [], s)
  | i :: l =>
    let n := ((i.seq.bind (s.seqOf m.id)).map (·.n)).getD 0
    let r := match i.seq, m.plan with
      | some h, some p => s.coverSeq m h (n + i.t + i.nodes) (p.maxSeq / 64 + 1)
      | _, _ => (some true, s)
    let rest (u : State) (j : Item) : Option (List Item) × State :=
      let x := State.coverItems u m expired l
      (x.1.map (j :: ·), x.2)
    match r with
    | (some true, u) => rest u { i with nAt := n }
    | (some false, u) => rest u { i with nAt := n, reason := some .kvSpace }
    | (none, u) => if expired then rest u { i with nAt := n, reason := some .kvSpace } else (none, u)

/-! ## The attention input area (R186, R195, R196, R200, R202) -/

/-- Words written from a pinned address up. -/
def State.pinWords (s : State) (m : Model) (va : Nat) : List Nat → State
  | [] => s
  | w :: l => State.pinWords (s.putPinned m va 4 w) m (va + 4) l

/-- The rows of a pattern table tile (Table 7.9). -/
def patternBit (idx r c : Nat) : Bool :=
  if idx = 0 ∨ idx = 383 then false
  else if idx = 1 then true
  else if idx < 256 then decide ((c : Int) - r ≤ (idx : Int) - 129)
  else decide ((c : Int) ≤ (idx : Int) - 256)

def patternByte (k : Nat) : Byte :=
  let idx := k / 2048
  let r := k % 2048 / 16
  BitVec.ofNat 8 ((List.range 8).foldl (fun n b => if patternBit idx r (k % 16 * 8 + b) then n + 2 ^ b else n) 0)

/-- The pattern table written when a handle is first bound to MASK_SLOT. -/
def State.writePattern (s : State) (m : Model) (p : AttnPlan) (items : List Item) : State :=
  match items.head? with
  | none => s
  | some i =>
    let h := i.handle p.maskSlot
    match s.itemRegion i p.maskSlot with
    | none => s
    | some r =>
      if ((s.model m.id).map (·.patterned)).any (·.contains h) then s
      else
        let s1 := (s.putBytes r.base ((List.range (384 * 2048)).map patternByte)).markRange r.base (384 * 2048) .none
        s1.updModel m.id fun x => { x with patterned := x.patterned ++ [h] }

/-- Depth of candidate node j of item k: the bits set in its row of the tree tile; without a tree tile the spec gives none, and the
depth is a free value (log 28). -/
def State.depth (s : State) (v : MaskView) (nodes k j : Nat) : Nat :=
  if v.tree then ((List.range nodes).filter (bitAt (s.treeRow v nodes j))).length else (s.drawn (4096 * (k + 1) + j)).toNat % 2 ^ 32

/-- One item's part of the input area. -/
def State.writeItem (s : State) (m : Model) (p : AttnPlan) (i : Item) (k : Nat) : State :=
  let n := i.nAt
  let v := s.itemMask p i n
  let h := i.seq.getD 0xFFFF
  let ct := ctiles n i.t
  let hb := n / 128
  let sel := if v.base.isSome then (v.base.getD 0) + v.seloff else p.areaVa + 0x4500000 + p.selb * k
  let tail (x : Nat) : Nat := if x < ct then s.selectEntry v 0 x else 0
  let rec_ := argBits [(0, n), (32, i.t), (43, i.nodes), (64, p.tableVa h), (128, v.base.getD 0), (192, ct), (208, hb), (224, i.t + i.nodes),
    (256, tail hb), (288, tail (hb + 1)), (320, h), (352, sel)]
  let words (x cnt : Nat) : List Nat := (List.range cnt).map fun w => bitsAt x (32 * w) 32
  let pos := (List.range i.t).map (n + ·) ++ (List.range i.nodes).map fun j => n + i.t + s.depth v i.nodes k j - 1
  let s1 := (s.pinWords m (p.areaVa + 64 * k) (words rec_ 16)).pinWords m (p.areaVa + 0x10000 + 4096 * k) pos
  let blocks := List.range (p.maxSeq / 128)
  let bias (x : Nat) : Nat :=
    if hb ≤ x then 0xFF800000 else if x < p.sink ∨ hb ≤ x + p.local_ then 0x7F800000 else 0
  let s2 := if p.sparse then
      (s1.pinWords m (p.areaVa + 0x500000 + 65536 * k) (blocks.map bias)).pinWords m (p.areaVa + 0x508000 + 65536 * k)
        (blocks.map fun x => if x < hb then s.selectEntry v 0 x else 0)
    else s1
  if v.base.isSome then s2
  else s2.pinWords m sel ((List.range (v.tr * v.tc)).map fun t => s.selectEntry v (t / v.tc) (t % v.tc))

/-- The chain's input area, block tables and pattern table written before the first wave. -/
def State.writeInputs (s : State) (m : Model) (p : AttnPlan) (items : List Item) : State :=
  if !p.attn then s
  else
    let s1 := items.foldl (fun u i => match i.seq.bind (u.seqOf m.id) with
      | none => u
      | some q =>
        let u1 := match q.zeroFrom with
          | some z => (u.zeroPositions p q z (64 * q.table.length)).updSeq m.id q.handle fun x => { x with zeroFrom := none }
          | none => u
        u1.writeTable m q) s
    let s2 := s1.writePattern m p items
    items.zipIdx.foldl (fun u x => u.writeItem m p x.1 x.2) s2.draw

/-- Block sets of the step's sequences: their stamps are renewed, and no demotion of them goes on (R238, R243). -/
def State.useBlocks (s : State) (m : BitVec 32) (items : List Item) : State :=
  let qs := s.srv.seqs.filter fun q => q.model == m && items.any fun i => i.seq == some q.handle
  s.updSrv fun v => { v with blocks := updWhere v.blocks (fun b => qs.any (·.holds b)) fun b => { b with stamp := s.now, demoting := false } }

/-! ## STEP_DISPATCH -/

def FrontSleep.isAwake : FrontSleep → Bool
  | .awake => true
  | _ => false

/-- Are Fronts awake and free of an earlier step (R27, R408). -/
def State.frontsFree (s : State) (fs : List (Fin 8)) : Bool :=
  fs.all fun f => (s.front f).sleep.isAwake && (s.runOn f).isNone

/-- Does a variant bind a logical unit to a Squall that is out of service, or to a group with one (R417). -/
def State.variantOffline (s : State) (m : Model) (v : Variant) : Bool :=
  v.splits.any fun sp => sp.kind == 2 && (m.members sp.lunit).any fun u => !(s.unitIn u)

/-- A closed step whose variant is known runs: its items are covered and the first attempt starts. -/
def State.dispatch (s : State) (m : Model) (ch : Fin 16) (k : Closed) (idx : List Nat) (vi : Nat) : State :=
  let v := m.image.variants.getD vi {}
  let p := m.image.attn.getD ch.val {}
  let expired := k.poolSince.any fun t => decide (t + ms k.poolLimit ≤ s.now)
  match s.coverItems m expired k.items with
  | (none, u) =>
    (u.updChain m.id ch fun c => { c with closed := updFirst c.closed (fun _ => true) fun x => { x with poolSince := some (x.poolSince.getD s.now), poolLimit := if x.poolSince.isSome then x.poolLimit else m.lateMs } }).waits
  | (some items, u) =>
    let wait := match k.poolSince with
      | some t => s.now - t
      | none => 0
    let u1 := (u.useBlocks m.id items).writeInputs m p items
    let run : Run := { items := items, tOpen := k.tOpen, tClose := k.tClose, why := k.why, tDispatch := s.now, idx := idx, variant := vi, stalls := (Vector.replicate 4 0).set 2 (min wait 0xFFFFFFFF) }
    let u2 := u1.updChain m.id ch fun c => { c with closed := c.closed.drop 1, seq := c.seq + 1, run := some run }
    let wave0 := (m.runLists v).filter fun x => x.d.wave == 0
    let phases := wave0.flatMap fun x => x.tasks.map fun t => (frontOf t.sq, t.rc.phase)
    ((u2.presetFronts m.id phases).startAttempt m ch vi).ok

/-- Does a stream export that names one of a step's items wait for its destination: no data moves before (R211, R213; log 91). -/
def State.exportAhead (s : State) (m : Model) (items : List Item) : Bool :=
  s.srv.transfers.any fun t => t.model == m.id && !t.peerReady && items.any (s.exportsItem t)

def execStepDispatch (model : BitVec 32) (chain : Fin 16) (s : State) : Res :=
  .next (match s.model model, s.chain model chain with
    | some m, some c =>
      match c.closed, m.image.familyOf chain with
      | k :: _, some f =>
        if c.run.isSome then s.notDue
        else if s.eci.devState ≠ .serving ∧ s.eci.devState ≠ .degraded then s.waits
        else if s.pwr.sleep ≠ .awake ∨ !m.switching.isEmpty ∨ s.exportAhead m k.items then s.waits
        else
          let idx := s.indices m chain f k.items
          if !f.idxOk idx then s.ok.endUndispatched model chain k .selectRange 0xFFFF
          else
            let vi := f.variantAt idx
            let v := m.image.variants.getD vi {}
            if s.variantOffline m v then s.ok.endUndispatched model chain k .unitOffline vi
            else if !s.frontsFree (m.runFronts v) then s.waits
            else s.dispatch m chain k idx vi
      | _, _ => s.notDue
    | _, _ => s.notDue)

/-! ## KV_ALLOCATE (R184) -/

/-- Has a step written the first position of a sequence's current last block set. -/
def State.lastBegun (s : State) (q : Seq) : Bool := (q.table.getLast?.bind (s.block q.model)).any (·.begun)

def execKvAllocate (model : BitVec 32) (seq : Nat) (s : State) : Res :=
  .next (match s.model model, s.seqOf model seq with
    | some m, some q =>
      let cap := ((m.plan.map (·.maxSeq)).getD 0) / 64
      if q.importing || q.closing || decide (cap ≤ q.table.length) || !s.lastBegun q then s.notDue
      else match s.allocBlock m q.tenant with
        | (.got sub, t) =>
          let t1 := t.updSeq model seq fun x => { x with table := x.table ++ [sub] }
          let t2 := if s.seqRunning model seq then t1 else match t1.seqOf model seq with
            | some q1 => t1.writeTable m q1
            | none => t1
          t2.ok
        | (.full, t) => t.waits
        | (.ceiling, _) => s.waits
    | _, _ => s.notDue)

/-! ## TASK_FINAL (R16, R18, R119) -/

/-- TASK_FINAL: outputs of a task that failed keep what its records had written (R20; log 100). -/
def execTaskFinal (sq : Fin 64) (s : State) : Res :=
  .next (match (s.sq sq).tasks.find? (fun t => t.ended && !(s.sq sq).open_.any (·.2 == t.key)) with
    | none => s.notDue
    | some t =>
      let hit (r : RunTask) : Bool := r.sq == sq && r.status.isNone && r.list == t.list && r.pos == t.pos && r.member == t.member
      let s1 := match (s.chain t.model t.chain).bind (·.run) with
        | none => s.ok
        | some r => match r.tasks.find? hit with
          | none => s.ok
          | some x => s.ok.finalTask t.model t.chain x (t.reason.getD .done)
      ((s1.updSq sq fun x => { x with tasks := x.tasks.filter fun y => y.key != t.key }).settleWrites fun f => f.sq == sq && f.key == t.key).endReads sq t.key)

/-! ## TAG_STALL (R109, R110) -/

def execTagStall (sq : Fin 64) (s : State) : Res :=
  .next (match s.runOn (frontOf sq) with
    | none => s.notDue
    | some (c, r) =>
      let slot (k : Nat) : TagSt := if k < 4096 then ((s.sq sq).tag k).st
        else if k < 2 ^ 20 then ((s.sq ⟨(k / 4096 - 1) % 64, by omega⟩).tag (k % 4096)).st else .full
      let due (w : (Nat × Nat) × Nat) : Bool := decide (w.2 + ms 50 < s.now) && slot w.1.2 != .filling
      if r.stallSince.isSome || r.ended.isSome || !(s.sq sq).watch.any due then s.notDue
      else ((s.ok).updSq sq fun x => { x with tagStall := x.tagStall + 1 }).endStep c.model c.chain .tagStall)

/-! ## The end of a step (R173 to R177) -/

/-- A task's end and its reason, over its members (R20). -/
def Run.failure (r : Run) (t : RunTask) : Option (Nat × Status) :=
  let l := r.parts t
  let bad := l.filter fun x => x.status.any (· != .done)
  match minBy (·.member) bad with
  | none => none
  | some x => some (l.foldl (fun n y => max n y.tEnd) 0, x.status.getD .done)

/-- The reason of item k's first task to fail (R152, R415). -/
def Run.itemFailure (r : Run) (k : Nat) : Option Status :=
  let mine := r.tasks.filter fun t => t.rc.item.all (· == k)
  (minBy (·.1) (mine.filterMap r.failure)).map (·.2)

/-- Items with the reasons their tasks give. -/
def Run.judge (r : Run) : List Item :=
  r.items.zipIdx.map fun x => if x.1.reason.isSome then x.1 else { x.1 with reason := r.itemFailure x.2 }

/-- Tags of the speculative tasks to commit, in ascending order (R174). -/
def State.commitTags (s : State) (m : Model) (c : Fin 16) (r : Run) (items : List Item) : List Nat :=
  let good (t : RunTask) : Bool := t.rc.spec && (r.parts t).all (fun x => x.status == some .done)
    && s.commitBit m c t.rc.tag && (t.rc.item.bind (items[·]?)).any fun i => !i.fails
  ((r.tasks.filter good).map (·.rc.tag)).eraseDups.mergeSort

/-- Distinct speculative tasks of a run. -/
def Run.specTags (r : Run) : List Nat := ((r.tasks.filter (·.rc.spec)).map (·.rc.tag)).eraseDups

/-- Does the route status block of a chain show an overflow (R228). -/
def State.routeOverflow (s : State) (m : Model) (c : Fin 16) : Bool :=
  let e := m.image.expert
  (List.range e.moeLayers).any fun l => match m.pinAt (e.statusVa + c.val * 4096 + 4 * l) with
    | some pa => s.word pa 1 % 4 != 0
    | none => false

/-- The fan-out bucket count of a model. -/
def ExpertPlan.buckets (e : ExpertPlan) : Nat := e.geom.length

/-- The replay with the safe bucket (R228). -/
def State.replay (s : State) (m : Model) (c : Fin 16) (f : Family) (r : Run) : State :=
  let e := m.image.expert
  let idx := r.idx.set e.fandim (e.buckets - 1)
  let s1 := s.updRun m.id c fun x => { x with replay := true, idx := idx, tasks := [] }
  ((s1.count .routeReplay).startAttempt m c (f.variantAt idx))

/-- Committed speculative tasks of an item. -/
def Run.nodesCommitted (r : Run) (k : Nat) : Nat :=
  (r.committed.filter fun t => r.tasks.any fun x => x.rc.spec && x.rc.tag == t && x.rc.item == some k).length

/-- The highest mark in the places R257 names. -/
def State.itemMark (s : State) (m : Model) (p : AttnPlan) (i : Item) : Mark :=
  let kv := match i.seq.bind (s.seqOf m.id) with
    | some q => (List.range (i.t + i.nodes)).flatMap fun k => s.posAt p q (i.nAt + k)
    | none => []
  let out := match s.itemRegion i i.outSlot with
    | some r => if i.outLen = 0 then [] else [(r.base + i.outOff, i.outLen)]
    | none => []
  (kv ++ out).foldl (fun a r => joinMark a (s.markOf r.1 r.2)) .none

/-- An item's final status (R257, R415). -/
def State.itemStatus (s : State) (m : Model) (p : AttnPlan) (i : Item) : Status :=
  if i.cancelled then .cancelled
  else match i.reason with
    | some st => st
    | none => match s.itemMark m p i with
      | .unreadable => .weightUnreadable
      | .late => .weightLate
      | .none => .done

/-- Order 5 for one item: the sequence's count advances, or the positions written are to be zero-filled (R183). -/
def State.advance (s : State) (m : BitVec 32) (i : Item) (st : Status) (nodes : Nat) : State :=
  match i.seq with
  | none => s
  | some h => s.updSeq m h fun q =>
      if st = .done then { q with n := i.nAt + i.t + nodes }
      else { q with zeroFrom := some (min (q.zeroFrom.getD q.n) q.n) }

/-- The samples of the step's phases enter Isobar's demands (R397). -/
def State.learn (s : State) (m : BitVec 32) (fs : List (Fin 8)) : State :=
  fs.foldl (fun u f =>
    let u1 := (List.finRange 4).foldl (fun v p => match pick (s.front f).peaks p with
      | some x => if s.pwr.mode = 0 then v.addSample m f p x else v
      | none => v) u
    u1.updFront f fun w => { w with peaks := Vector.replicate 4 none }) s

/-- Host-bound and peer writes of the step's Squalls that are not acknowledged yet hold FENCE.SYS (order 4, R315). -/
def State.fenceSysOpen (s : State) (r : Run) : Bool :=
  let mine (t : Option (Fin 64 × Nat)) : Bool := t.any fun x => r.tasks.any fun y => y.sq == x.1
  s.cxl.egress.any (fun e => mine e.task) || s.dnb.reqs.any fun q => match q.what with
    | .write t => mine t
    | _ => false

/-- Orders 5 and 6: counts advance and the completion records leave; the step ends when all are written. -/
def State.closeStep (s : State) (m : Model) (c : Fin 16) (f : Family) (r : Run) : State :=
  let p := m.image.attn.getD c.val {}
  let seq := ((s.chain m.id c).map (·.seq)).getD 0
  let judged := r.items.zipIdx.map fun x => (x.1, x.2, s.itemStatus m p x.1)
  let s1 := judged.foldl (fun u x => u.advance m.id x.1 x.2.2 (r.nodesCommitted x.2.1)) s
  let s2 := (judged.foldl (fun u x =>
    let nodes := r.nodesCommitted x.2.1
    let n := ((x.1.seq.bind (u.seqOf m.id)).map (·.n)).getD 0
    u.final x.1.ref x.2.2 0 0 (itemResult n (if x.2.2 = .done then nodes else 0) seq r.variant)) s1).markPosts s1 m.id c
  let share := if f.decode then [] else (judged.filter fun x => x.2.2 == .done && x.1.share && x.1.tokensPa != 0).map (·.1)
  let s3 := ((s2.learn m.id r.fronts).updChain m.id c fun x => { x with inserting := x.inserting ++ share }).updRun m.id c fun x =>
    { x with phase := .recording, tRecord := s.now }
  let s4 := s3.updTiers fun t => { t with frames := if s3.running.all (·.2.phase == .recording) then t.frames.map fun x => { x with stepRead := false } else t.frames }
  let s5 := (s4.settleWrites fun f => !s4.freshOpen f).updSrv fun v => { v with
    transfers := updWhere v.transfers (fun x => x.model == m.id && r.items.any (s4.exportsItem x)) fun x => { x with nx := (s4.seqOf x.model x.seq).map (·.n) } }
  (s5.stepEvent m.id c seq (judged.map (·.2.2))).recorded m.id c

/-- Orders 2 and 3: the commit vector is read, what is not committed is discarded. -/
def State.beginCommit (s : State) (m : Model) (c : Fin 16) (r : Run) (items : List Item) : State :=
  let tags := if r.ended.isSome then [] else s.commitTags m c r items
  (s.keepShadow m.id c tags).updRun m.id c fun x =>
    { x with phase := .committing tags, items := items, discarded := r.specTags.length - tags.length, tCopy := s.now }

/-- The variant of a replay, and whether its Fronts are awake and serve no other chain's step (R27, R228). -/
def State.replayFree (s : State) (m : Model) (c : Fin 16) (f : Family) (r : Run) : Bool :=
  let v := m.image.variants.getD (f.variantAt (r.idx.set m.image.expert.fandim (m.image.expert.buckets - 1))) {}
  (m.runFronts v).all fun k => (s.front k).sleep.isAwake && (s.runOn k).all fun x => x.1.model == m.id && x.1.chain == c

/-- What STEP_END does to a step in each phase. -/
def State.endPhase (s : State) (m : Model) (c : Fin 16) (f : Family) (r : Run) : State :=
  let finish (u : State) : State := match (u.chain m.id c).bind (·.run) with
    | some x => if x.phase != .committing [] then u.ok else if u.drainEgress.fenceSysOpen x then u.waits else u.drainEgress.ok.closeStep m c f x
    | none => u
  match r.phase with
  | .committing [] => finish s
  | .committing _ => s.notDue
  | .recording => if s.unrecorded m.id c then s.waits else s.ok.recorded m.id c
  | .running =>
    if r.tasks.any fun t => t.status.isNone then s.notDue
    else
      let spilt := r.ended.isNone && m.image.expert.moeLayers != 0 && s.routeOverflow m c
      let safe := decide (m.image.expert.buckets ≤ r.idx.getD m.image.expert.fandim 0 + 1)
      if spilt && !r.replay && !safe then (if s.replayFree m c f r then s.ok.replay m c f r else s.waits)
      else
        let items := if spilt then r.items.map fun i => if i.reason.isSome then i else { i with reason := some .routeOverflow } else r.judge
        finish (s.beginCommit m c r items)

/-- STEP_END: every task is final (order 1). A first attempt that overflowed its bucket is replayed; otherwise the commit
phase begins, once its copies are done the completion records leave, and once they are written the step ends. -/
def execStepEnd (model : BitVec 32) (chain : Fin 16) (s : State) : Res :=
  .next (match s.model model, (s.chain model chain).bind (·.run) with
    | some m, some r =>
      match m.image.familyOf chain with
      | none => s.notDue
      | some f => s.endPhase m chain f r
    | _, _ => s.notDue)

/-! ## COMMIT_COPY_COMPLETE (R174, R176) -/

/-- One shadow run copied to its target with the marks its slot kept; a chunk covered in part joins marks (R256); the
target's generation rises once. -/
def State.commitRun (s : State) (m : Model) (r : Run) (h : ShadowRun) : State :=
  match if h.region = 0 then s.xlate m h.target else s.regionSpot m r h.region h.target with
  | some (.mem pa) =>
    let n := h.data.length
    let s1 := (((s.putBytes pa h.data).bumpGen pa).noteKv m h.region h.target n).dramUse 3 true pa n
    (chunksOf pa n).foldl (fun u a =>
      let k := (assoc h.marks ((a - pa / 64 * 64) / 64)).getD .none
      u.setMark a (if pa ≤ a ∧ a + 64 ≤ pa + n then k else joinMark k (u.markAt a))) s1
  | some (.weight _ _) | some .zero | some (.host _ _) | some (.peer _) | some (.dest _ _) | none => s

/-- The copies of a committed task count in its elapsed time: on the Squalls and Fronts that ran it, the module and its group (R178). -/
def State.addCopyTime (s : State) (m : BitVec 32) (r : Run) (tag n : Nat) : State :=
  let l := r.tasks.filter fun t => t.rc.spec && t.rc.tag == tag
  let s1 := l.foldl (fun u t => u.updSq t.sq fun x => { x with taskNs := x.taskNs + n }) s
  let s2 := ((l.map fun t => frontOf t.sq).eraseDups).foldl (fun u f => u.addFrontTime f n) s1
  match l with
  | [] => s2
  | t :: _ => (s2.add .taskNs n).addGroupTime m t.lunit n

/-- The copy engine ends the copies of the next task to commit; a copy that cannot complete fails the item, and the bytes of
that task's runs are undefined: free values, one draw. -/
def State.commitNext (s : State) (m : Model) (c : Fin 16) (ok : Bool) : State :=
  match (s.chain m.id c).bind (·.run) with
  | none => s.notDue
  | some r => match r.phase with
    | .committing (t :: rest) =>
      let runs := m.shadow.filter fun h => h.chain == c && h.tag == t
      let scramble (h : ShadowRun) : ShadowRun :=
        { h with data := (List.range h.data.length).map fun i => Config.freeByte s.free (h.target + i) }
      let s1 := (runs.map (if ok then id else scramble)).foldl (fun u h => u.commitRun m r h) (if ok then s.ok else s.ok.draw)
      let s2 := (s1.keepShadow m.id c rest).addCopyTime m.id r t (s.now - r.tCopy)
      let item := ((r.tasks.find? fun x => x.rc.spec && x.rc.tag == t).bind (·.rc.item)).getD 0
      let s3 := s2.updRun m.id c fun x =>
        let fail (i : Item) : Item := if i.reason.isSome then i else { i with reason := some .commitFailed }
        { x with
          phase := .committing rest
          tCopy := s.now
          committed := if ok then x.committed ++ [t] else x.committed
          discarded := if ok then x.discarded else x.discarded + 1
          items := if ok then x.items else x.items.mapIdx fun k i => if k = item then fail i else i }
      s3.trimCommit m.id c
    | .committing [] | .running | .recording => s.notDue

def execCommitCopyComplete (model : BitVec 32) (chain : Fin 16) (ok : Bool) (s : State) : Res :=
  .next (match s.model model with
    | some m => s.commitNext m chain ok
    | none => s.notDue)

/-! ## PREFIX_INSERT (R208) -/

/-- The most entries of the prefix directory. -/
def dirCapacity : Nat := 1048576

/-- Room for one more entry: some if there is, an evictable entry dropped with its block set if needed. -/
def State.dirRoom (s : State) : Option State :=
  if s.srv.dir.length < dirCapacity then some s
  else match minBy (·.stamp) (s.srv.dir.filter fun d => d.refs == 0 && d.children == 0) with
    | none => none
    | some d => some ((s.dropEntry d).freeBlock d.model d.sub)

/-- Blocks b.. of an item inserted in ascending order, until one may not be. The parent of a block is the entry of the
block before it with its identifiers. -/
def State.insertBlocks (s : State) (m : Model) (q : Seq) (ids : List (BitVec 32)) (base : Nat) :
    Option Nat → W64 → Nat → Nat → State
  | _, _, _, 0 => s
  | parent, h, b, n + 1 =>
    let l := (ids.drop (64 * b - base)).take 64
    let hb := s.blockHash h l
    let old := s.srv.dir.find? fun d => d.model == m.id && d.tenant == q.tenant && d.hash == hb && d.parent == parent && d.tokens == l
    match old, s.dirRoom with
    | some _, _ => s
    | none, none => s
    | none, some u =>
      let d : DirEntry := { id := u.srv.nextDir, model := m.id, tenant := q.tenant, hash := hb, parent := parent, tokens := l, sub := q.table.getD b 0, stamp := s.now }
      let u1 := u.updSrv fun v => { v with dir := updWhere v.dir (fun x => some x.id == parent) (fun x => { x with children := x.children + 1 }) ++ [d], nextDir := v.nextDir + 1 }
      let u2 := u1.updSeq m.id q.handle fun x => { x with shared := x.shared ++ [d.id] }
      State.insertBlocks u2 m q ids base (some d.id) hb (b + 1) n

/-- The entry chain that ends with a block set's entry: its hash and identifier, for block b - 1 of a sequence. -/
def State.parentOf (s : State) (m : Model) (q : Seq) (b : Nat) : Option (Option Nat × W64) :=
  if b = 0 then some (none, s.rootHash m q.tenant)
  else (s.srv.dir.find? fun d => d.model == m.id && d.sub == q.table.getD (b - 1) 0).map fun d => (some d.id, d.hash)

/-- The completed blocks of one sharing item: those whose 64 identifiers the item supplied whole (log 29). -/
def State.insertItem (s : State) (m : Model) (i : Item) : State :=
  match i.seq.bind (s.seqOf m.id) with
  | none => s
  | some q =>
    let b0 := cdiv i.nAt 64
    let b1 := (i.nAt + i.t) / 64
    match s.parentOf m q b0 with
    | none => s
    | some (par, h) => s.insertBlocks m q (s.tokens i.tokensPa i.t) i.nAt par h b0 (b1 - b0)

/-- PREFIX_INSERT: after the completion records of a prefill step. -/
def execPrefixInsert (model : BitVec 32) (chain : Fin 16) (s : State) : Res :=
  .next (match s.model model, s.chain model chain with
    | some m, some c =>
      if c.inserting.isEmpty then s.notDue
      else if c.inserting.any fun i => !s.readable i.tokensPa then s.waits
      else (c.inserting.foldl (fun u i => u.insertItem m i) s.ok).updChain model chain fun x => { x with inserting := [] }
    | _, _ => s.notDue)

end Sys2Proof.Machine
end

