-- ==== Sys2Proof/Machine/Kv.lean ====
section
/-!
DEFINITION. Key-value transfers between modules: KV_EXPORT, KV_IMPORT, their messages, their data and their end (R211 to R215).
-/

namespace Sys2Proof.Machine

def State.transfer (s : State) (op : Nat) : Option Transfer := s.srv.transfers.find? (·.op == op)
def State.updTransfer (s : State) (op : Nat) (f : Transfer → Transfer) : State :=
  s.updSrv fun v => { v with transfers := updWhere v.transfers (·.op == op) f }

/-! ## Words of the KVX messages (their layout is DESIGN CHOICE, log 22) -/

def kvxReady (s : State) (t : Transfer) (p : AttnPlan) (isExport : Bool) : Msg :=
  let layout := [p.kvfmt, p.layers, p.groups]
  kvxMsg s.eci.moduleIndex t.peer t.tag (if isExport then 1 else 2) (if isExport then layout ++ [t.b0, t.b1, if t.stream then 1 else 0] else layout)

/-- The places of a reservation, told to a stream export 28 to a message (R213; log 91). -/
def State.sendPlaces (s : State) (t : Transfer) (q : Seq) : State :=
  let l := (q.table.drop t.b0).flatMap fun sub => ((s.block q.model sub).map (·.places)).getD []
  ((pieces 28 (l.length + 1) l).zipIdx).foldl (fun u x => u.sendNow (kvxMsg u.eci.moduleIndex t.peer t.tag 5 (28 * x.2 :: x.1))) s

def kvxFinished (s : State) (t : Transfer) (sent nx : Nat) : Msg := kvxMsg s.eci.moduleIndex t.peer t.tag 4 [sent, nx]

/-! ## KV_EXPORT (R211 to R213) -/

def kvExportFields : List FieldSpec :=
  [(64, 32, anyVal), (96, 16, anyVal), (112, 8, anyVal), (120, 1, anyVal), (128, 32, anyVal), (160, 32, anyVal), (192, 32, anyVal),
   (224, 6, anyVal), (240, 16, anyVal)]

/-- The prefill item a stream export names. -/
def State.streamItem (s : State) (c : Cmd) (m : BitVec 32) (sq : Nat) : Bool :=
  s.srv.chains.any fun ch => ch.model == m && ch.items.any fun i =>
    i.ref.src == .pair ⟨c.f 224 6 % 64, by omega⟩ && i.ref.cid == BitVec.ofNat 16 (c.f 240 16) && i.seq == some sq

def kvExportBody (c : Cmd) (s : State) : State :=
  let m := BitVec.ofNat 32 (c.f 64 32)
  let h := c.f 96 16
  let b0 := c.f 128 32
  let b1 := c.f 160 32
  let stream := c.f 120 1 == 1
  if s.eci.role = some .cache then s.refuse c .stateConflict 0
  else match s.modelFor c m with
    | none => s.refuse c .notFound 0
    | some mo =>
      match s.seqFor c m h, mo.plan with
      | some _, some p =>
        if b1 < b0 then s.refuse c .invalidField 20
        else if stream && !s.streamItem c m h then s.refuse c .notFound 0
        else s.startOp c .kvExport m (b1 + 1 - b0) fun op u =>
          let t : Transfer := { op := op, isExport := true, tag := BitVec.ofNat 32 (c.f 192 32), peer := BitVec.ofNat 8 (c.f 112 8), model := m, seq := h, stream := stream, b0 := b0, b1 := b1, known := true }
          let u1 := u.updSrv fun v => { v with transfers := v.transfers ++ [t] }
          if (routePort (u.route t.peer)).isNone then
            match u1.op op with
            | some o => u1.failOp o .peerLinkLost 0 0
            | none => u1
          else u1.sendNow (kvxReady u1 t p true)
      | _, _ => s.refuse c .notFound 0

def execKvExport (src : Src) (s : State) : Res := .next (s.command 0x30 src (fun _ => kvExportFields) kvExportBody)

/-! ## KV_IMPORT (R211, R214) -/

/-- Ends an operation by its handle. -/
def State.failByHandle (s : State) (op : Nat) (st : Status) : State :=
  match s.op op with
  | some o => s.failOp o st 0 0
  | none => s

/-- One block set after another reserved and zero-filled: some true when all are, some false past a ceiling or past MAXSEQ,
none while the pool has no frame. -/
def State.reserveBlocks (s : State) (m : Model) (tenant : BitVec 32) (h : Nat) : Nat → Option Bool × State
  | 0 => (some true, s)
  | n + 1 =>
    match s.allocBlock m tenant with
    | (.got sub, t) => State.reserveBlocks (t.updSeq m.id h fun x => { x with table := x.table ++ [sub] }) m tenant h n
    | (.ceiling, t) => (some false, t)
    | (.full, t) => (none, t)

/-- The reservation of an import whose range is known; once it stands, the exporter is told (R211). -/
def State.tryReserve (s : State) (op : Nat) : State :=
  match s.transfer op with
  | none => s
  | some t =>
    match s.model t.model, s.seqOf t.model t.seq with
    | some m, some q =>
      if t.isExport || !t.known || t.reserved then s
      else
        let p := m.plan.getD {}
        let pad := q.table ++ List.replicate (t.b0 - q.table.length) 0
        let s1 := s.updSeq t.model t.seq fun x => { x with table := pad }
        let want := t.b1 + 1 - pad.length
        if p.maxSeq / 64 < t.b1 + 1 then s.failByHandle op .kvSpace
        else match s1.reserveBlocks m q.tenant t.seq want with
          | (some true, u) =>
            let u1 := match u.seqOf t.model t.seq with
              | some q1 => let v := u.writeTable m q1; if t.stream then v.sendPlaces t q1 else v
              | none => u
            (u1.updTransfer op fun x => { x with reserved := true }).sendNow (kvxReady u1 t p false)
          | (some false, u) => u.failByHandle op .kvSpace
          | (none, u) => u
    | _, _ => s

/-- An import learns the export's layout and range: a mismatch ends both with KV_LAYOUT (R211). -/
def State.learnExport (s : State) (op : Nat) (h : Heard) : State :=
  match s.transfer op with
  | none => s
  | some t =>
    match (s.model t.model).bind (·.plan), s.seqOf t.model t.seq with
    | some p, some q =>
      if t.known then s
      else if p.kvfmt ≠ h.kvfmt ∨ p.layers ≠ h.layers ∨ p.groups ≠ h.groups ∨ (!t.newSeq ∧ q.n ≠ 64 * h.b0) then
        s.failByHandle op .kvLayout
      else (s.updTransfer op fun x => { x with known := true, b0 := h.b0, b1 := h.b1, stream := h.stream }).tryReserve op
    | _, _ => s

def kvImportBody (c : Cmd) (s : State) : State :=
  let m := BitVec.ofNat 32 (c.f 64 32)
  let h := c.f 96 16
  let tag := BitVec.ofNat 32 (c.f 128 32)
  let peer := BitVec.ofNat 8 (c.f 112 8)
  if s.eci.role = some .cache then s.refuse c .stateConflict 0
  else match s.modelFor c m with
    | none => s.refuse c .notFound 0
    | some mo =>
      let fresh := h == 0xFFFF
      match mo.plan, (if fresh then s.newHandle mo else (s.seqFor c m h).map (·.handle)) with
      | some _, some k =>
        if (s.seqOf m k).any (·.importing) then s.refuse c .stateConflict 0
        else s.startOp c .kvImport m 0 fun op u =>
          let u1 := if fresh then u.updSrv fun v => { v with seqs := v.seqs ++ [{ model := m, handle := k, tenant := c.tenant, session := c.session, importing := true }] }
            else u.updSeq m k fun x => { x with importing := true }
          let t : Transfer := { op := op, isExport := false, tag := tag, peer := peer, model := m, seq := k, newSeq := fresh }
          let u2 := u1.updSrv fun v => { v with transfers := v.transfers ++ [t] }
          if (routePort (u.route peer)).isNone then u2.failByHandle op .peerLinkLost
          else match u2.srv.heard.find? (fun x => x.tag == tag && x.peer == peer) with
            | some x => (u2.updSrv fun v => { v with heard := dropFirst v.heard (· == x) }).learnExport op x
            | none => u2
      | some _, none => if fresh then s.refuse c .stateConflict 0 else s.refuse c .notFound 0
      | none, _ => s.refuse c .notFound 0

def execKvImport (src : Src) (s : State) : Res :=
  .next (s.command 0x31 src
    (fun _ => [(64, 32, anyVal), (96, 16, anyVal), (112, 8, anyVal), (128, 32, anyVal)]) kvImportBody)

/-! ## Data of an export (R212, R346) -/

/-- Bytes of one block set of a plan. -/
def AttnPlan.setBytes (p : AttnPlan) : Nat := p.subs * Config.subBytes

/-- Block sets that hold positions below n_x. -/
def Transfer.count (t : Transfer) (nx : Nat) : Nat := min (t.b1 + 1) (cdiv nx 64) - t.b0

/-- A 64-byte chunk as it is sent: zeros where it carries a mark (R346). -/
def State.chunkOut (s : State) (pa : Nat) : List Byte := if s.markAt pa = .none then s.bytes pa 64 else List.replicate 64 0

/-- The bytes of block set b of a sequence, as sent, and whether a chunk carries a mark. -/
def State.setOut (s : State) (p : AttnPlan) (q : Seq) (b : Nat) : List Byte × Bool :=
  match q.table[b]?.bind (s.block q.model) with
  | none => (List.replicate p.setBytes 0, false)
  | some bs => (bs.places.flatMap fun a => (List.range 1024).flatMap fun k => s.chunkOut (a + 64 * k),
      bs.places.any fun a => s.markOf a Config.subBytes != .none)

/-- Data starts to move: n_x is taken and a stream opened (R212, R346, R352). -/
def State.startData (s : State) (t : Transfer) (p : AttnPlan) (q : Seq) : State :=
  let nx := q.n
  let s1 := s.updTransfer t.op fun x => { x with nx := some nx }
  let taken := s1.takeTag t.peer s.eci.moduleIndex s1.dnb.nextTag
  taken.2.peerRequest t.peer (.stream t.op) fun tag =>
    streamOpenMsg s.eci.moduleIndex t.peer tag (t.count nx * p.setBytes) purposeKv t.tag.toNat taken.1

/-- The message tag of an operation's stream. -/
def State.streamTag (s : State) (op : Nat) : BitVec 16 := ((s.dnb.reqs.find? fun r => r.what == .stream op).map (·.tag)).getD 0

/-- The next unsent block set of a bulk export goes out: the stream flits that its bytes fill, the last one padded. -/
def State.sendSet (s : State) (t : Transfer) (p : AttnPlan) (q : Seq) (nx : Nat) : State :=
  let k := t.moved
  let lo := k * p.setBytes / 640 * 640
  let skip := lo - (k - 1) * p.setBytes
  let prev := if k = 0 then [] else (s.setOut p q (t.b0 + k - 1)).1.drop skip
  let cur := s.setOut p q (t.b0 + k)
  let all := prev ++ cur.1
  let last := k + 1 == t.count nx
  let n := if last then cdiv all.length 640 else all.length / 640
  let flits := (List.range n).map fun i => (all.drop (640 * i)).take 640
  (s.updTransfer t.op fun x => { x with moved := k + 1, unreadable := x.unreadable || cur.2 }).sendStream t.peer s.eci.moduleIndex (s.streamTag t.op) flits

/-- One block set of a bulk export, where one is left and the destination stands ready (R211, R215). -/
def State.exportOne (s : State) (op : Nat) : State :=
  match s.transfer op with
  | none => s
  | some t0 =>
    match (s.model t0.model).bind (·.plan), s.seqOf t0.model t0.seq with
    | some p, some q =>
      if !t0.isExport || t0.stream || !t0.peerReady || t0.peerHeld then s
      else
        let s1 := if t0.nx.isNone then s.startData t0 p q else s
        match s1.transfer op with
        | none => s1
        | some t => let nx := t.nx.getD 0; if t.moved < t.count nx then s1.sendSet t p q nx else s1
    | _, _ => s

def State.exportAll (s : State) (op : Nat) : Nat → State
  | 0 => s
  | n + 1 => State.exportAll (s.exportOne op) op n

/-- A stream delivers key-value bytes from an offset on into the reserved block sets (R212, R266). -/
def State.importBytes (s : State) (t : Transfer) (p : AttnPlan) (off : Nat) (data : List Byte) : State :=
  match s.seqOf t.model t.seq with
  | none => s
  | some q =>
    (List.range (cdiv data.length 64)).foldl (fun u k =>
      let o := off + 64 * k
      match q.table[t.b0 + o / p.setBytes]?.bind (u.block t.model) with
      | none => u
      | some b =>
        let a := b.at_ (o % p.setBytes)
        let part := (data.drop (64 * k)).take 64
        (((u.putBytes a part).markRange a part.length .none).bumpGen a).dramUse 3 true a part.length) s

/-! ## KV_TRANSFER_COMPLETE (R212, R213) -/

/-- The transfer's record leaves with its end. -/
def State.dropTransfer (s : State) (op : Nat) : State :=
  (s.updSrv fun v => { v with transfers := v.transfers.filter fun x => x.op != op }).updDnb fun d => { d with
    reqs := d.reqs.filter fun r => r.what != .stream op }

/-- The export ends: what is left goes out, the stream ends, and the peer learns n_x. -/
def State.finishExport (s : State) (o : LongOp) (t0 : Transfer) : State :=
  let s1 := if t0.stream then s else s.exportAll o.handle (t0.b1 + 2 - t0.b0)
  match s1.transfer o.handle with
  | none => s1
  | some t =>
    let nx := t.nx.getD 0
    let sent := t.count nx
    let s2 := s1.endStream o.handle (if t.unreadable then 1 else 0)
    if t.unreadable then (s2.updTransfer o.handle fun x => { x with quiet := true }).failOp o .dataUnreadable 0 0
    else ((s2.sendNow (kvxFinished s2 t sent nx)).dropTransfer o.handle).endOp o .done 0 (res [(192, sent), (224, nx)])

/-- The import ends: what lies at or above n_x is zero-filled, and the sequence takes n_x. -/
def State.finishImport (s : State) (o : LongOp) (t : Transfer) (nx : Nat) : State :=
  match (s.model t.model).bind (·.plan), s.seqOf t.model t.seq with
  | some p, some q =>
    let got := t.count nx
    let s1 := s.zeroPositions p q nx (64 * (t.b0 + got))
    let s2 := s1.updSeq t.model t.seq fun x => { x with n := nx, importing := false }
    (s2.dropTransfer o.handle).endOp o .done 0 (res [(192, t.seq), (224, nx), (256, got)])
  | _, _ => s.failOp o .peerLinkLost 0 0

/-- An export ends once the destination stands ready (a stream export once its item has ended); an import once the
exporter has finished and, for a bulk transfer, its stream has arrived whole. -/
def execKvTransferComplete (op : Nat) (s : State) : Res :=
  .next (match s.transfer op with
    | none => s.notDue
    | some t =>
      match s.endable op (if t.isExport then .kvExport else .kvImport) with
      | none => s.notDue
      | some o =>
        if t.isExport then
          if !t.peerReady || t.peerHeld || (t.nx.isNone && s.srv.chains.any fun c => c.items.any (s.exportsItem t)) then s.notDue
          else if t.stream && t.nx.isNone then
            (s.ok.updTransfer op fun x => { x with nx := (s.seqOf t.model t.seq).map (·.n) }).finishExport o t
          else s.ok.finishExport o t
        else match t.nx with
          | none => s.notDue
          | some nx => if t.reserved && (t.streamEnd == some 0 || t.stream) then s.ok.finishImport o t nx else s.notDue)

/-! ## KVX messages (R211, R215) -/

/-- A transfer of this module by tag and peer. -/
def State.transferWith (s : State) (tag : BitVec 32) (peer : BitVec 8) (isExport : Bool) : Option Transfer :=
  s.srv.transfers.find? fun t => t.tag == tag && t.peer == peer && t.isExport == isExport

/-- The transfer tag in a KVX message's first unit. -/
def kvxTag (m : Msg) : BitVec 32 := BitVec.ofNat 32 (leNat (m.data.take 4))

/-- The peer has ended the pair: this side ends with the same effect. -/
def State.endTogether (s : State) (tag : BitVec 32) (peer : BitVec 8) (st : Status) : State :=
  let l := s.srv.transfers.filter fun t => t.tag == tag && t.peer == peer
  l.foldl (fun u t => (u.updTransfer t.op fun x => { x with quiet := true }).failByHandle t.op st) s

def State.kvx (s : State) (m : Msg) (w : KvxWord) : State :=
  let tag := kvxTag m
  match w with
  | .exportReady kvfmt layers groups b0 b1 stream =>
    let h : Heard := { tag := tag, peer := m.src, kvfmt := kvfmt, layers := layers, groups := groups, b0 := b0, b1 := b1, stream := stream }
    match s.transferWith tag m.src false with
    | some t => s.learnExport t.op h
    | none => s.updSrv fun v => { v with heard := v.heard ++ [h] }
  | .importReady kvfmt layers groups =>
    match s.transferWith tag m.src true with
    | none => s
    | some t =>
      match (s.model t.model).bind (·.plan) with
      | none => s
      | some p =>
        if p.kvfmt ≠ kvfmt ∨ p.layers ≠ layers ∨ p.groups ≠ groups then s.failByHandle t.op .kvLayout
        else s.updTransfer t.op fun x => { x with peerReady := true }
  | .cancelled => (s.updSrv fun v => { v with heard := v.heard.filter fun h => !(h.tag == tag && h.peer == m.src) }).endTogether tag m.src .cancelled
  | .layoutMismatch => (s.updSrv fun v => { v with heard := v.heard.filter fun h => !(h.tag == tag && h.peer == m.src) }).endTogether tag m.src .kvLayout
  | .linkLost => (s.updSrv fun v => { v with heard := v.heard.filter fun h => !(h.tag == tag && h.peer == m.src) }).endTogether tag m.src .peerLinkLost
  | .held on =>
    match s.transferWith tag m.src true with
    | none => s
    | some t => s.updTransfer t.op fun x => { x with peerHeld := on }
  | .places first addrs =>
    match s.transferWith tag m.src true with
    | none => s
    | some t => s.updTransfer t.op fun x => { x with places := x.places.take first ++ addrs }
  | .finished _ nx =>
    match s.transferWith tag m.src false with
    | none => s
    | some t => s.updTransfer t.op fun x => { x with nx := some nx }

end Sys2Proof.Machine
end

