-- ==== Sys2Proof/Machine/LongOps.lean ====
section
/-!
DEFINITION. Safe points of long operations, SCRUB, and firmware staging and commit (R265, R370, R381, R382, R419 to R423).
-/

namespace Sys2Proof.Machine

/-! ## LONG_OP_SAFE_POINT (R381, R382, Table 14.15) -/

/-- Lines of one patrol pass in units of 2^20: the HBM in force and LPDDR5X (R272, R284). -/
def State.patrolUnits (s : State) : Nat := s.dramTop / 2 ^ 26

/-- Part k of a SCRUB: of a flash scrub a block read, of a patrol pass 2^20 lines read in class 3 (R265, R277, R284). -/
def State.scrubPart (s : State) (what k : Nat) : State :=
  if what = 0 then (match s.flashBlocks[k]? with
    | some b => s.scanBlock b false
    | none => s)
  else (s.dramUse 3 false (k * 2 ^ 26) (2 ^ 26)).count .dramScrubbed

/-- What an operation does on its way to its next safe point. -/
def State.opWork (s : State) (o : LongOp) : State :=
  match o.kind with
  | .kvExport => s.exportOne o.handle
  | .kvImport => s.tryReserve o.handle
  | .modelInstall => s.updTiers fun t => { t with writing := updWhere t.writing (·.1 == o.handle) fun w => (w.1, w.2 + 1) }
  | .scrub => s.scrubPart (fld o.entry 64 2) o.passed
  | .modelLoad | .fwStage => s

/-- A suspended operation: each pending SUSPEND gets its record (R382). -/
def State.suspendOp (s : State) (o : LongOp) : State :=
  let s1 := (s.updOp o.handle fun x => { x with st := .suspended, suspenders := [] }).tellHeld o true
  (o.suspenders.foldl (fun u r => u.finish r .done 0 0 0) s1).tryDrain

/-- Has an operation a safe point ahead: key-value transfers stand at one while they wait. -/
def LongOp.safeAhead (o : LongOp) : Bool :=
  decide (o.passed < o.total) || o.kind == .kvExport || o.kind == .kvImport

def execLongOpSafePoint (op : Nat) (s : State) : Res :=
  .next (match s.op op with
    | none => s.notDue
    | some o =>
      if o.st = .suspended ∨ !o.safeAhead then s.notDue
      else
        let s1 := (s.ok.opWork o).updOp op fun x => { x with passed := min x.total (x.passed + 1) }
        match s1.op op with
        | none => s1
        | some x =>
          match x.st with
          | .ending => s1.failOp x .cancelled 0 0
          | .suspending => s1.suspendOp x
          | _ => s1)

/-! ## SCRUB (R265) -/

def scrubBody (c : Cmd) (s : State) : State :=
  s.startOp c .scrub 0 (if c.f 64 2 = 0 then s.flashBlocks.length else s.patrolUnits) fun _ t => t

def execScrub (src : Src) (s : State) : Res :=
  .next (s.command 0x4C src (fun _ => [(64, 2, inVals 0 1)]) scrubBody)

/-- A full flash scrub has read every block, a patrol pass every line: what no safe point stood behind is read now. -/
def execScrubComplete (op : Nat) (s : State) : Res :=
  .next (s.complete op .scrub [] fun o t =>
    let what := fld o.entry 64 2
    let n := if what = 0 then t.flashBlocks.length else t.patrolUnits
    let t1 := (List.range (n - o.passed)).foldl (fun u k => u.scrubPart what (o.passed + k)) t
    t1.endOp o .done 0 (res [(192, n)]))

/-! ## Firmware images (R419, R422) -/

/-- A slot holds 256 MiB (R420). -/
def slotBytes : Nat := 0x10000000

/-- The fields of a firmware manifest (Table 16.7) in an image. -/
structure FwManifest where
  ok : Bool
  svn : Nat
  advance : Bool
  release : Nat
  signed : List Byte
  sig : List Byte
  /-- Component, offset, length and digest of each entry. -/
  comps : List (Nat × Nat × Nat × List Byte)

def fwManifest (img : List Byte) : FwManifest :=
  let w (i n : Nat) : Nat := leNat ((img.drop i).take n)
  let n := w 5 1
  let ent (k : Nat) : Nat × Nat × Nat × List Byte :=
    let o := 128 + 128 * k
    (w o 1, w (o + 8) 4, w (o + 12) 4, (img.drop (o + 16)).take 64)
  let entOk (k : Nat) : Bool := w (128 + 128 * k + 1) 7 == 0 && w (128 + 128 * k + 80) 48 == 0
  { ok := w 0 4 == 0x57464D4E && w 4 1 == 1 && decide (1 ≤ n) && decide (n ≤ 16) && decide (w 6 2 ≤ 1) && decide (w 8 4 ≤ 128)
      && w 16 112 == 0 && (List.range n).all entOk && decide (128 + 128 * n + 64 ≤ img.length)
    svn := w 8 4, advance := w 6 2 == 1, release := w 12 4, signed := img.take (128 + 128 * n)
    sig := (img.drop (128 + 128 * n)).take 64, comps := (List.range n).map ent }

/-- Does an image verify: its signature under the Walcel root key and every component's digest (R419). -/
def fwVerifies (img : List Byte) : Bool :=
  let m := fwManifest img
  m.ok && Config.ed25519Ok Config.walcelRoot (Config.sha512 m.signed) m.sig &&
    m.comps.all fun c => Config.sha512 ((img.drop c.2.1).take c.2.2.1) == c.2.2.2

/-- A slot holding a verified image. -/
def fwSlot (img : List Byte) : FwSlot :=
  let m := fwManifest img
  { valid := true, svn := m.svn, advance := m.advance, release := BitVec.ofNat 16 m.release, digest := Config.sha512 m.signed, image := img }

/-- The slot that is not ACTIVE. -/
def Boot.other (b : Boot) : Fin 2 := 1 - b.active

/-! ## FW_STAGE (R422) -/

def fwStageFields (c : Cmd) : List FieldSpec :=
  [(64, 48, fun v => match c.src with
    | .mgmt => v == 0
    | _ => true), (128, 32, inVals 1 slotBytes)]

def fwStageBody (c : Cmd) (s : State) : State :=
  let img := match c.src with
    | .mgmt => s.mgmtImage
    | _ => []
  let n := c.f 128 32
  s.startOp c .fwStage 0 (cdiv n 0x10000) fun _ t =>
    t.updBoot fun b => { b with staged := none, slots := upd b.slots b.other fun _ => { image := img.take n } }

def execFwStage (src : Src) (s : State) : Res := .next (s.command 0x49 src fwStageFields fwStageBody)

/-- Staging ends: the image written is verified, and a failed one leaves the slot invalid. -/
def State.finishStage (s : State) (o : LongOp) : State :=
  let n := fld o.entry 128 32
  let img := match o.ref.src with
    | .mgmt => (pick s.boot.slots s.boot.other).image
    | _ => s.bytes (fld o.entry 64 48) n
  let bad := s.updBoot fun b => { b with staged := none, slots := upd b.slots b.other fun _ => {} }
  if img.length ≠ n ∨ !fwVerifies img then bad.failOp o .fwInvalid 0 0
  else if (fwManifest img).svn < s.boot.fuses.val then bad.failOp o .fwRollback 0 0
  else (s.updBoot fun b => { b with staged := some b.other, slots := upd b.slots b.other fun _ => fwSlot img }).endOp o .done 0 0

def execFwStageComplete (op : Nat) (s : State) : Res :=
  .next (
    let o := s.op op
    let pa := match o.map (·.ref.src) with
      | some .mgmt => []
      | _ => [fld ((o.map (·.entry)).getD 0) 64 48]
    s.complete op .fwStage pa fun o t => t.finishStage o)

/-! ## The lifetime record (R418) -/

/-- The record written to the older of its two flash copies. -/
def State.writeLifetime (s : State) : State :=
  s.updLogs fun l => { l with life := { l.life with
    copies := upd l.life.copies l.life.older fun _ => l.life.counts, older := 1 - l.life.older, writes := l.life.writes + 1, lastWrite := s.now } }

/-! ## FW_COMMIT (R423) -/

def fwCommitBody (c : Cmd) (s : State) : State :=
  if s.eci.ops ≠ [] then s.refuse c .stateConflict 0
  else match s.boot.staged with
    | none => s.endCmd c .notFound 0 0 0
    | some f =>
      let s1 := (s.updBoot fun b => { b with active := f, trial := true, staged := none }).writeLifetime
      match s1.eci.devState with
      | .ready | .serving | .degraded =>
        ((s1.begin c).updEci fun e => { e with devState := .draining, stateBefore := e.devState, drainWhy := some (.fwCommit, c.ref) }).tryDrain
      | _ => ((s1.failAll .cancelled).setDev .updating).done c 0 0

/-- FW_COMMIT (R380, R423). -/
def execFwCommit (src : Src) (s : State) : Res := .next (s.command 0x4A src (fun _ => []) fwCommitBody)

end Sys2Proof.Machine
end

