-- ==== Sys2Proof/Machine/Reset.lean ====
section
/-!
DEFINITION. Page retirement; what a reset keeps; RESET_SCOPE and its self-test; units and modules that fail
(R23, R176, R286, R287, R299, R310, R311, R404, R410, R416 to R418).
-/

namespace Sys2Proof.Machine

/-! ## Page retirement (R286, R287) -/

/-- The line of a page that an uncorrectable error was reported at, or its first line (R287). -/
def State.badLine (s : State) (page : Nat) : Nat :=
  match s.logs.events.find? (fun e => e.code == 0x0101 && bitsAt e.args.toNat 0 64 == page * Config.pageBytes) with
  | some e => page * Config.pageBytes + 64 * bitsAt e.args.toNat 64 6
  | none => page * Config.pageBytes

def pageRetireBody (c : Cmd) (s : State) : State :=
  let page := c.f 64 48 / Config.pageBytes
  if !s.populated (c.f 64 48) then s.refuse c .invalidField 8
  else if (assoc s.dram.retired page).isSome then s.done c 0 0
  else match s.retirePage page with
    | none => s.endCmd c .retireFull 0 0 0
    | some s1 =>
      let mem := if isHbm (c.f 64 48) then 0 else 1
      (s1.updLogs fun l => { l with life := { l.life with retirements := l.life.retirements ++ [(mem, s.dramLoc (s.badLine page))] } }).done c 0 0

/-- PAGE_RETIRE (R286). -/
def execPageRetire (src : Src) (s : State) : Res := .next (s.command 0x48 src (fun _ => [(64, 48, anyVal)]) pageRetireBody)

/-! ## What a reset keeps (R274, R389, R416, R423, R434) -/

/-- The journal of a loss: sessions with their tokens, items without a final record (R387, R390); items journalled before and
not delivered stay. -/
def State.makeJournal (s : State) (cause : Nat) : Journal :=
  let item (m : BitVec 32) (i : Item) : Option JournalItem :=
    match i.ref.src with
    | .pair q => some { session := i.ref.session, sqid := BitVec.ofNat 6 q.val, cid := i.ref.cid, model := m }
    | _ => none
  let old := s.eci.sessions.flatMap (·.journal)
  let new := s.srv.chains.flatMap fun c => c.items.filterMap (item c.model)
  let all := old ++ new
  let sess (x : Session) : Session :=
    { x with
      lost := true
      pairs := (List.finRange 64).filter fun q => (s.pair q).session == some x.id
      journal := all.filter (·.session == x.id) }
  { cause := cause, tLoss := s.now, boots := s.boot.bootCount, sessions := s.eci.sessions.map sess, items := all }

/-- Memory that a reset leaves: host memory, and after a warm reset LPDDR5X, as the addresses read now (retired pages of HBM
are given back). -/
def State.keptMem (s : State) (cold : Bool) : Memory :=
  s.mem.filter fun c => isHost c.1 || (!cold && isLpd c.1)

/-- The state as a reset of every die but die K leaves it (R416, R423): what lies on die K, in flash and, when warm, in LPDDR5X
is kept; sessions are lost. -/
def State.warmReset (s : State) : State :=
  let z := State.reset
  let pairOf (p : Pair) : Pair := if p.session.isSome then { p.lose with stopped := true } else p
  let s := (s.updEci fun e => { e with pairs := e.pairs.map pairOf }).postsToShadow fun _ => true
  let eci : Eci := { z.eci with
    devState := s.eci.devState, fwRelease := s.eci.fwRelease, pairs := s.eci.pairs, rrNext := s.eci.rrNext
    urgEntry := s.eci.urgEntry, urgCpl := s.eci.urgCpl, urgBusy := s.eci.urgBusy, urgDone := s.eci.urgDone
    mgmtInbox := s.eci.mgmtInbox, arrivals := s.eci.arrivals, msix := s.eci.msix, waiting := s.eci.waiting
    lastVector64 := s.eci.lastVector64, vector64Owed := s.eci.vector64Owed
    badTokens := s.eci.badTokens, reattachLockUntil := s.eci.reattachLockUntil
    sessions := s.eci.sessions.map fun x => { x with lost := true }
    journal := s.eci.journal, nextHandle := s.eci.nextHandle, detaching := s.eci.detaching, delivering := s.eci.delivering }
  { z with
    now := s.now, free := s.free + 1, out := s.out, pending := s.pending
    mem := s.keptMem false, marks := s.marks.filter fun m => isLpd (64 * m.1)
    eci := eci
    tiers := { z.tiers with
      weights := s.tiers.weights.filter (·.st == .poisoned), unreadable := s.tiers.unreadable, installed := s.tiers.installed
      flash := s.tiers.flash, flashUsed := s.tiers.flashUsed, pieces := s.tiers.pieces, blocks := s.tiers.blocks, eraseAverage := s.tiers.eraseAverage }
    dram := { z.dram with
      lpdKey := s.dram.lpdKey, retired := s.dram.retired.filter fun r => isLpd (r.1 * Config.pageBytes)
      spares := #v[0, pick s.dram.spares 1] }
    pwr := { z.pwr with
      cap := s.pwr.cap, capWanted := s.pwr.capWanted, fronts := z.pwr.fronts.mapIdx fun i w => { w with factor := (s.pwr.fronts.toList.getD i {}).factor }
      temps := s.pwr.temps, thermal := s.pwr.thermal, throttled := s.pwr.throttled, tripped := s.pwr.tripped, tripReset := s.pwr.tripReset
      inputLow := s.pwr.inputLow }
    cxl := { z.cxl with retrains := s.cxl.retrains, tState := s.now }
    dnb := { z.dnb with ports := z.dnb.ports.mapIdx fun i p => { p with retrains := (s.dnb.ports.toList.getD i {}).retrains, tState := s.now } }
    mgmt := { s.mgmt with spdmMctp := {}, spdmDoe := {} }
    boot := s.boot
    logs := s.logs }

/-- The state as a loss of input, RESET_N or a watchdog recovery leaves it: nothing but flash, the boot record, the lifetime
record, the unread events from class 1 up and what the journal holds (R390, R412, R414, R434). -/
def State.coldReset (s : State) : State :=
  let w := s.warmReset
  let z := State.reset
  let logs : Logs := { s.logs with
    events := s.logs.events.filter fun e => !e.read && decide (1 ≤ e.cls.val), nextSeq := 0, resets := [] }
  { w with
    mem := s.keptMem true, marks := []
    eci := { z.eci with devState := .uninit, journal := s.eci.journal }
    dram := z.dram
    pwr := { z.pwr with temps := s.pwr.temps, tripped := s.pwr.tripped, inputLow := s.pwr.inputLow }
    cxl := z.cxl, dnb := z.dnb
    mgmt := { z.mgmt with responses := s.mgmt.responses, ibi := s.mgmt.ibi }
    boot := { s.boot with stage := 0, stopped := false, holdover := false, romFaulted := false, cold := true, bootFailures := [], offSince := some s.now }
    logs := logs }

/-- Stores in the buffers of the cores, lost at a cold reset (R310). -/
def State.countLostStores (s : State) : State :=
  s.lifeAdd 0x0C 0 (s.cores.toList.foldl (fun n c => n + c.sb.length) 0)

/-- Input loss as R390, R414 and R434 lay it down, with its journal cause. A boot has no item to journal. -/
def State.powerLoss (s : State) (cause : Nat) : State :=
  let s1 := s.countLostStores.writeLifetime
  let s2 := if s.eci.devState = .uninit ∨ s.eci.devState = .booting then s1
    else s1.updEci fun e => { e with journal := some (s.makeJournal cause) }
  s2.coldReset

/-! ## Booting (R420, R436) -/

/-- A boot begins: the state that a reset leaves, BOOTING, stage 1, the 10 s watchdog (R420). -/
def State.startBoot (s : State) (cold : Bool) : State :=
  let off := match s.boot.offSince with
    | some t => (s.lifeAdd 9 5 ((s.now - t) / ms 1)).updBoot fun b => { b with offSince := none }
    | none => s
  (off.setDev .booting).updBoot fun b => { b with stage := 1, stopped := false, cold := cold, startedAt := s.now, bootCount := b.bootCount + 1, romFaulted := false, bootFailures := [] }

/-- A warm boot from what runs now (R274). -/
def State.warmBoot (s : State) : State := s.warmReset.startBoot false

/-! ## Failing everything (R404, R410, R416) -/

/-- Every item and long operation not final fails; commands that waited on what now ends get their records (R413). -/
def State.failEverything (s : State) (st : Status) : State :=
  let s1 := match s.eci.drainWhy with
    | some (_, r) => (s.updEci fun e => { e with drainWhy := none }).finish r st 0 0 0
    | none => s
  ((s1.failAll st).failOps st).tryDetach

/-! ## RESET_SCOPE (R23, R416) -/

/-- Does a unit lie within another (or is it the same). -/
def UnitRef.within : UnitRef → UnitRef → Bool
  | _, .module => true
  | .engine q e, .engine p f => q == p && e == f
  | .engine q _, .squall p => q == p
  | .engine q _, .front f => frontOf q == f
  | .squall q, .squall p => q == p
  | .squall q, .front f => frontOf q == f
  | .front f, .front g => f == g
  | .core c, .core d => c == d
  | _, _ => false

/-- Is an address in the operand buffers of an engine. -/
def inEngine (q : Fin 64) (e : Fin 4) (a : Nat) : Bool := inRange (opAddr q e) engineStride a

/-- An engine is reset: the tasks with passes on it fail, its buffers are undefined, its counters start anew (R62). -/
def State.resetEngine (s : State) (q : Fin 64) (e : Fin 4) : State :=
  let keys := ((s.eng q e).passes.map (·.task)).eraseDups
  let s1 := (((s.sq q).tasks).filter fun t => keys.contains t.key).foldl (fun u t => u.endTaskNow q t .scopeReset) s
  (s1.updEng q e fun _ => {}).undefine (inEngine q e)

/-- Resident slots of a Squall filled again from their HBM copies (R135). -/
def State.reloadSquall (s : State) (q : Fin 64) : State :=
  ((s.sq q).tags.filter fun t => t.2.st == .resident).foldl (fun u t => u.reload (coreAddr q (t.1 * 4096))) s

/-- The memories of a Squall that a reset leaves undefined: all but its resident slots. -/
def State.squallMemory (s : State) (q : Fin 64) (a : Nat) : Bool :=
  (inRange (coreAddr q 0) coreMemStride a && !((assoc (s.sq q).tags ((a - coreAddr q 0) / 4096)).any fun t => t.st == .resident))
    || inRange (engineBase + 4 * q.val * engineStride) (4 * engineStride) a

/-- A Squall is reset (Table 16.5). -/
def State.resetSquall (s : State) (q : Fin 64) : State :=
  let s1 := s.failTasksOn q .scopeReset
  let s2 := s1.undefine (s1.squallMemory q)
  let fresh (x : Squall) : Squall := { tags := x.tags, inService := x.inService, nextKey := x.nextKey, nextSeq := x.nextSeq }
  (s2.updSq q fresh).reloadSquall q

/-- Uncommitted speculative tasks of a Front in the commit phase fail and are discarded (R176). -/
def State.dropCommits (s : State) (f : Fin 8) (c : Chain) : State :=
  match c.run with
  | none => s
  | some r =>
    match r.phase with
    | .running | .recording => s
    | .committing tags =>
      let hit := (r.tasks.filter fun t => t.rc.spec && tags.contains t.rc.tag && frontOf t.sq == f)
      let gone := (hit.map (·.rc.tag)).eraseDups
      let named := hit.filterMap (·.rc.item)
      let s1 := s.updModel c.model fun m => { m with shadow := m.shadow.filter fun h => h.chain != c.chain || !gone.contains h.tag }
      State.trimCommit (m := c.model) (c := c.chain) <| s1.updRun c.model c.chain fun x => { x with
        phase := .committing (tags.filter fun t => !gone.contains t), discarded := x.discarded + gone.length
        tasks := x.tasks.map fun t => if hit.contains t then { t with status := some .scopeReset } else t
        items := x.items.mapIdx fun k i => if named.contains k && i.reason.isNone then { i with reason := some .scopeReset } else i }

/-- Channels of the stack pair of a Front: 32 pseudo-channels a stack (R270). -/
def frontChannel (f : Fin 8) (ch : Nat) : Bool := decide (64 * f.val ≤ ch) && decide (ch < 64 * f.val + 64)

/-- Writes that wait in a channel's queue reach the DRAM; reads that wait there are dropped. -/
def State.dropQueue (s : State) (p : Nat → Bool) : State :=
  s.updDram fun d => { d with channels := d.channels.mapIdx fun i c => if p i then { c with queue := [] } else c }

/-- A Front is reset (Table 16.5): its eight Squalls, non-resident chip memory, home agent queues. -/
def State.resetFront (s : State) (f : Fin 8) : State :=
  let s1 := s.srv.chains.foldl (fun u c => u.dropCommits f c) s
  let s2 := (List.finRange 8).foldl (fun u k => u.resetSquall (squallOf f k)) s1
  let chip := s2.residentChip
  let lost (a : Nat) : Bool := inRange (chipBase + f.val * chipBytes) chipBytes a && !(chip.any fun r => inRange r.1 r.2 a)
  let fresh (w : FrontPwr) : FrontPwr := { w with energyMj := 0, bubbleSlots := 0, calmMs := 0, lullMs := 0, stepNs := 0, taskNs := 0 }
  ((s2.undefine lost).updFront f fresh).dropQueue (frontChannel f)

/-- Dirty lines of a core's caches written back, then both caches invalidated (R310, R299). -/
def State.writeBackCore (s : State) (c : Fin 64) : State :=
  let dirty := (s.core c).l2.lines.filterMap fun l => ((s.core c).line l.line).filter (·.st == .m)
  let s1 := dirty.foldl (fun u l => u.writeBack l) s
  s1.updCore c fun x => { x with l1i := {}, l1d := {}, l2 := {}, reserved := none }

/-- Warm reset of a core (R310): the store buffer drains, for up to 10 us; once empty, dirty lines go back and the caches
are invalidated. -/
def State.afterDrain (s : State) (c : Fin 64) : State :=
  match (s.core c).rst with
  | .draining _ => if (s.core c).sb = [] then (s.writeBackCore c).updCore c fun x => { x with rst := .invalidating } else s
  | _ => s

/-- Offload-queue tasks of a core fail with its reset (R23, R311). -/
def State.failOffload (s : State) (c : Fin 64) (st : Status) : State :=
  let l := (s.core c).offload
  (l.foldl (fun u r => u.final r st 0 0 0) s).updCore c fun x => { x with offload := [] }

def State.resetCore (s : State) (c : Fin 64) (cold : Bool) : State :=
  let s1 := s.failOffload c .scopeReset
  let zero (x : CoreSt) : CoreSt :=
    { x with nackRetry := 0, escalated := 0, devTimeout := 0, devStoreDiscard := 0, taskNs := 0, stepNs := 0, dev := [], pending := none, irq := false, reserved := none, wfi := true }
  let s2 := s1.updCore c zero
  if cold then
    (s2.lifeAdd 0x0C 0 (s2.core c).sb.length).updCore c fun x => { x with sb := [], l1i := {}, l1d := {}, l2 := {}, rst := .invalidating }
  else (s2.updCore c fun x => { x with rst := .draining s.now }).afterDrain c

/-- The module is reset: every item and long operation fails with its record, the lifetime record is written, and a warm boot
follows, at once or, after a thermal trip, once the sensors allow it (R404). -/
def State.resetModule (s : State) : State :=
  let s1 := (s.failEverything .scopeReset).writeLifetime
  if s1.pwr.tripped then s1.updPwr fun p => { p with tripReset := true } else s1.warmBoot

def State.resetUnit (s : State) (u : UnitRef) (cold : Bool) : State :=
  match u with
  | .engine q e => s.resetEngine q e
  | .squall q => s.resetSquall q
  | .front f => s.resetFront f
  | .core c => s.resetCore c cold
  | .module => s.resetModule
  | .group _ => s

def resetScopeBody (c : Cmd) (s : State) : State :=
  let id := BitVec.ofNat 32 (c.f 64 32)
  match s.unitRef id with
  | none => s.refuse c .notFound 0
  | some u =>
    let cold := c.f 96 1 == 1
    if u.kind = 0x80 then s.refuse c .invalidField 8
    else if cold ∧ u.kind ≠ 5 then s.refuse c .invalidField 12
    else if s.logs.resets.any fun r => (s.unitRef r.unit).any fun v => u.within v then
      (s.begin c).updLogs fun l => { l with
        resets := updFirst l.resets (fun r => (s.unitRef r.unit).any fun v => u.within v) fun r => { r with waiting := r.waiting ++ [c.ref] } }
    else
      let s1 := (s.begin c).updLogs fun l => { l with resets := l.resets ++ [{ unit := id, cold := cold, waiting := [c.ref], since := s.now }] }
      (s1.resetUnit u cold).settle

/-- RESET_SCOPE (R23, R416). -/
def execResetScope (src : Src) (s : State) : Res :=
  .next (s.command 0x4B src (fun _ => [(64, 32, anyVal), (96, 1, anyVal)]) resetScopeBody)

/-! ## SELF_TEST_COMPLETE (R416, R380) -/

/-- Every record of a reset written, with its DETAIL for the first command and 0 for those that came later. -/
def State.endReset (s : State) (r : UnitReset) (detail : Nat) : State :=
  let s1 := s.updLogs fun l => { l with resets := dropFirst l.resets (· == r) }
  (r.waiting.zipIdx).foldl (fun u x => u.finish x.1 .done (if x.2 = 0 then detail else 0) 0 0) s1

/-- Squalls and cores that a unit's self-test returns to service, or keeps out. -/
def UnitRef.tested : UnitRef → List FailedUnit
  | .engine q _ => [.squall q]
  | .squall q => [.squall q]
  | .front f => (List.finRange 8).map fun k => .squall (squallOf f k)
  | .core c => [.core c]
  | .module | .group _ => []

def State.unitBack (s : State) (u : FailedUnit) : State :=
  match u with
  | .squall q => s.updSq q fun x => { x with inService := true }
  | .core c => s.updCore c fun x => { x with inService := true }

/-- Is the Front of a Squall one whose stack pair is excluded: its Squalls stay out of service until the next boot (R272). -/
def State.pairGone (s : State) (u : FailedUnit) : Bool :=
  match u with
  | .squall q => s.dram.excluded.getLsbD (frontOf q).val
  | .core _ => false

/-- DEGRADED ends when every failed unit is back in service. -/
def State.tryHeal (s : State) : State :=
  if s.eci.devState = .degraded ∧ s.allUnitsIn then s.setDev (if s.srv.models = [] then .ready else .serving) else s

/-- Is a unit under test ready to be tested: a core has invalidated its caches. -/
def State.testable (s : State) : UnitRef → Bool
  | .core c => (s.core c).rst == .running
  | .module | .group _ => false
  | _ => true

def execSelfTestComplete (passed : Bool) (s : State) : Res :=
  .next (match s.logs.resets.find? (fun r => (s.unitRef r.unit).any s.testable) with
    | none => s.notDue
    | some r =>
      match s.unitRef r.unit with
      | none => s.notDue
      | some u =>
        let back := u.tested.filter fun x => !s.pairGone x
        if passed then ((back.foldl (fun v x => v.unitBack x) s.ok).endReset r 0).tryHeal
        else ((u.tested.foldl (fun v x => v.failUnit x 1) s.ok).endReset r 1).settle)

/-! ## UNIT_FAILED and MODULE_FAILED (R410, R417) -/

def State.inServiceNow (s : State) : FailedUnit → Bool
  | .squall q => s.squallIn q
  | .core c => s.coreIn c

/-- A unit-failing error (R417): a core's offload-queue tasks fail with it. -/
def execUnitFailed (u : FailedUnit) (cause : Fin 4) (s : State) : Res :=
  .next (
    if s.eci.devState = .uninit ∨ s.eci.devState = .booting ∨ !s.inServiceNow u then s.notDue
    else
      let s1 := match u with
        | .core c => s.ok.failOffload c .unitOffline
        | .squall _ => s.ok
      (s1.failUnit u cause.val).settle)

/-- FAULTED on a module-failing error: every item and long operation fails with MODULE_FAULT, and the port is Viral (R329). -/
def State.fault (s : State) : State :=
  ((s.failEverything .moduleFault).setDev .faulted).updCxl fun c => { c with viral := true }

/-- A module-failing error (R410, R413, R415). -/
def execModuleFailed (cause : Fin 3) (s : State) : Res :=
  .next (
    if s.eci.devState = .uninit then s.notDue
    else (s.ok.event 4 0x0402 s.moduleId 0 cause.val).fault)

end Sys2Proof.Machine
end

