-- ==== Sys2Proof/Machine/Boot.lean ====
section
/-!
DEFINITION. Supply, RESET_N, bring-up, the boot watchdog and the heartbeat (R360, R390, R414, R418 to R421, R429 to R436).
-/

namespace Sys2Proof.Machine

/-! ## Supply (R390, R428 to R435) -/

def Supply.on : Supply → Bool
  | .inRange | .low => true
  | .off | .overvoltage | .lost => false

/-- The input leaves its range: PWRGOOD falls, and everything but what flash and hold-up keep is gone. -/
def State.supplyGone (s : State) (left : Supply) : State :=
  (s.powerLoss 0).updBoot fun b => { b with supply := left, lostAt := some s.now, pwrgood := false, offSince := none }

/-- An input loss while RESET_N is asserted, or within 100 us of the assertion that wrote the journal, makes its cause 0
(R434). -/
def State.causeInput (s : State) : State :=
  let near := !s.boot.resetN || s.eci.journal.any fun j => decide (s.now ≤ j.tLoss + us 100)
  if s.eci.devState = .uninit ∧ near then
    s.updEci fun e => { e with journal := e.journal.map fun j => if j.cause = 2 then { j with cause := 0 } else j }
  else s

/-- Input below 38 V for 100 us (R390). -/
def execInputLoss (s : State) : Res :=
  .next (if s.boot.supply.on then (s.ok.causeInput).supplyGone .lost else s.notDue)

/-- Input between 38 and 40 V (R429). -/
def execInputLow (s : State) : Res :=
  .next (if s.boot.supply = .inRange then
      ((s.ok).updBoot fun b => { b with supply := .low }).updPwr fun p => { p with inputLow := true }
    else s.notDue)

/-- Input above 61 V for 10 us: the input switch opens (R429). -/
def execInputOvervoltage (s : State) : Res :=
  .next (if s.boot.supply.on then (s.ok.causeInput).supplyGone .overvoltage else s.notDue)

/-- Power is back: the rails rise, PWRGOOD is high; the boot that follows is cold. -/
def State.supplyBack (s : State) : State :=
  (s.updBoot fun b => { b with supply := .inRange, lostAt := none, pwrgood := true, cold := true, releasedAt := s.now, offSince := some s.now }).updPwr
    fun p => { p with inputLow := false }

/-- The input has stayed within 40 to 59 V for 10 ms after an overvoltage (R429). -/
def execInputRestore (s : State) : Res :=
  .next (if s.boot.supply = .overvoltage then s.ok.supplyBack else s.notDue)

/-- VIN_54 reaches 40 V: at first power-up, or after an input loss (R390, R433). -/
def execPowerUp (s : State) : Res :=
  .next (if s.boot.supply = .off ∨ s.boot.supply = .lost then s.ok.supplyBack else s.notDue)

/-- Input back above 40 V from between 38 and 40 V (R429). -/
def execInputInRange (s : State) : Res :=
  .next (if s.boot.supply = .low then
      ((s.ok).updBoot fun b => { b with supply := .inRange }).updPwr fun p => { p with inputLow := false }
    else s.notDue)

/-! ## RESET_N (R431, R433, R434) -/

/-- RESET_N acts: a journal with cause 2 outside UNINIT and BOOTING, then UNINIT while it is asserted. -/
def State.resetN (s : State) : State :=
  let s1 := if s.eci.devState = .uninit then s else s.powerLoss 2
  s1.updBoot fun b => { b with resetN := false, stage := 0 }

/-- An assertion of RESET_N of a length: below 1 us ignored, from 10 us acted on, between them either (a free value). -/
def execResetNAssert (microseconds : Nat) (s : State) : Res :=
  .next (
    if !s.boot.resetN ∨ microseconds < 1 then s.notDue
    else if 10 ≤ microseconds then s.ok.resetN
    else if (s.drawn 3).getLsbD 0 then s.ok.draw.resetN
    else s.ok.draw)

/-- RESET_N deasserts: the straps are sampled (R431). -/
def execResetNDeassert (addr : BitVec 3) (cohProfile : BitVec 2) (s : State) : Res :=
  .next (if s.boot.resetN then s.notDue
    else (s.ok).updBoot fun b => { b with resetN := true, strapAddr := addr, strapCoh := cohProfile, releasedAt := s.now })

/-! ## BOOT_START (R380, R433) -/

/-- Die K leaves reset 100 us after RESET_N deasserts with power good; UPDATING goes on to a warm boot. After a thermal trip
the boot waits for the sensors (R404). -/
def execBootStart (s : State) : Res :=
  .next (match s.eci.devState with
    | .uninit =>
      if s.boot.supply.on ∧ s.boot.pwrgood ∧ s.boot.resetN ∧ s.boot.releasedAt + us 100 ≤ s.now ∧ !s.pwr.tripped then
        s.ok.startBoot true
      else s.notDue
    | .updating => s.ok.warmBoot
    | _ => s.notDue)

/-! ## Bring-up (Table 17.5) -/

/-- Does a slot pass step 1 of R420; its signature and digests were judged when it was written, and flash keeps them. -/
def State.slotBoots (s : State) (i : Fin 2) : Bool := (pick s.boot.slots i).valid && decide (s.boot.fuses.val ≤ (pick s.boot.slots i).svn)

/-- FW_FALLBACK: the other slot is booted as ACTIVE with TRIAL = 0. -/
def State.fallBack (s : State) : State :=
  let o := s.boot.other
  let s1 := (s.updBoot fun b => { b with active := o, trial := false, fellBack := true, failed := 0 }).lifeAdd 0xD 0 1
  s1.event 0 0x0008 unitNone 0 (argBits [(0, o.val), (32, (pick s.boot.slots o).svn)])

/-- FAULTED under the ROM (R420, step 4); a module RESET_SCOPE that waits ends with DETAIL 1. -/
def State.romFault (s : State) : State :=
  let s1 := (s.setDev .faulted).updBoot fun b => { b with romFaulted := true, stage := 0 }
  (s1.logs.resets.filter fun r => (s1.unitRef r.unit) == some .module).foldl (fun u r => u.endReset r 1) s1

/-- The running image: its release and the alias key of the boot (R424). -/
def State.runImage (s : State) : State :=
  let f := pick s.boot.slots s.boot.active
  (s.updEci fun e => { e with fwRelease := f.release }).updBoot fun b => { b with stage := 3, aliasKey := leNat f.digest }

/-- Stage 2: ACTIVE is verified; on a failure the other slot is booted if it verifies. -/
def State.verifyBoot (s : State) : State :=
  if s.slotBoots s.boot.active then s.runImage
  else if s.slotBoots s.boot.other then s.fallBack.runImage
  else s.romFault

/-- Stage 3: a failed stack excludes its pair and takes its Front's Squalls out of service (R272, R436); a failed LPDDR5X package
stops the boot; the CXL and Denbel ports train. -/
def State.trained (s : State) (badStacks packages : List Nat) : State :=
  if packages ≠ [] then s.updBoot fun b => { b with stopped := true }
  else
    let pairs := ((badStacks.filter (· < 16)).map (· / 2)).eraseDups
    let dead : List FailedUnit := pairs.flatMap fun p => (List.finRange 8).map fun k => .squall (squallOf ⟨p % 8, by omega⟩ k)
    let s1 := s.updDram fun d => { d with excluded := BitVec.ofNat 8 (pairs.foldl (fun n p => n ||| 2 ^ p) 0) }
    let s2 := s1.updTiers fun t => { t with poolSize := Config.hbmFrames - Config.framesPerPair * pairs.length - Config.fwFrames }
    let s3 := s2.updCxl fun c => { c with microcode := true, state := if s.boot.perstN then .training else .down, tState := s.now }
    let s4 := s3.updDnb fun d => { d with ports := d.ports.map fun p => { p with state := .training, tState := s.now } }
    s4.updBoot fun b => { b with stage := 4, bootFailures := dead }

/-- Memory zeroed and its marks gone (stages 4 and 5). -/
def State.zeroWhere (s : State) (p : Nat → Bool) : State :=
  { s with mem := s.mem.drop p, marks := s.marks.filter fun m => !p (64 * m.1) }

/-- COH_ORDER_MODE as the profile strap gives it (Table 17.4). -/
def profileMode : Nat → W64
  | 1 => 0xFFFF
  | 2 => 0xFFFFFFFFFFFFFFFF
  | _ => 0

/-- Stage 7: keys, retirements, COH_ORDER_MODE and its lock (R206, R274, R287, R307). -/
def State.bootKeys (s : State) : State :=
  let s1 := s.draw.updDram fun d => { d with
    hbmKey := (s.drawn 2).toNat + 2 ^ 64 * (s.drawn 3).toNat
    lpdKey := if s.boot.cold then (s.drawn 4).toNat + 2 ^ 64 * (s.drawn 7).toNat else d.lpdKey }
  let s2 := s1.updSrv fun v => { v with dirKey := leBytes (s.drawn 5).toNat 8 ++ leBytes (s.drawn 6).toNat 8, dir := [] }
  let s3 := s2.reapply 0
  let s4 := if s.boot.cold then s3.reapply 1 else s3
  s4.updCoh fun c => { c with orderMode := upd c.orderMode 0 fun _ => profileMode s.boot.strapCoh.toNat, locked := true }

/-- A bring-up stage ends (R436). Stage 5 is skipped by a warm boot. -/
def execBootStageComplete (failedStacks failedPackages : List Nat) (failedUnits : List FailedUnit) (s : State) : Res :=
  .next (
    if s.eci.devState ≠ .booting ∨ s.boot.stopped then s.notDue
    else
      let go (n : Nat) (t : State) : State := t.updBoot fun b => { b with stage := n }
      let t := s.ok
      match s.boot.stage with
      | 1 => go 2 t
      | 2 => t.verifyBoot
      | 3 => t.trained failedStacks failedPackages
      | 4 => go (if s.boot.cold then 5 else 6) (t.zeroWhere isHbm)
      | 5 => go 6 (t.zeroWhere isLpd)
      | 6 => go 7 (t.updBoot fun b => { b with bootFailures := b.bootFailures ++ failedUnits.filter fun u => !b.bootFailures.contains u })
      | 7 => go 8 t.bootKeys
      | 8 => go 9 t
      | _ => s.notDue)

/-! ## BOOT_READY (R380, R417, R420, R421) -/

/-- TRIAL is cleared and the fused counter advances where the slot asks for it. -/
def State.advanceFuses (s : State) : State :=
  let f := pick s.boot.slots s.boot.active
  let n := if s.boot.trial ∧ f.advance ∧ s.boot.fuses.val < f.svn then f.svn else s.boot.fuses.val
  s.updBoot fun b => { b with trial := false, failed := 0, fellBack := false, fuses := ⟨min n 128, by omega⟩ }

/-- Each journalled session is lost and can be reattached (R387). -/
def State.restoreSessions (s : State) : State :=
  let have_ := s.eci.sessions.map (·.id)
  let old := ((s.eci.journal.map (·.sessions)).getD []).filter fun x => !have_.contains x.id
  s.updEci fun e => { e with sessions := e.sessions ++ old }

/-- The boot reaches READY; units that failed in it raise their events and make the module DEGRADED. -/
def execBootReady (s : State) : Res :=
  .next (
    if s.eci.devState ≠ .booting ∨ s.boot.stage ≠ 9 then s.notDue
    else
      let s1 := (s.ok.advanceFuses.restoreSessions.setDev .ready).updEci fun e => { e with
        heartbeat := 0, lastHeartbeat := s.now, bootEndedAt := s.now, stateBefore := .ready }
      let s3 := s.boot.bootFailures.foldl (fun u x => u.failUnit x 1) s1
      ((s3.logs.resets.filter fun r => s3.unitRef r.unit == some .module).foldl (fun u r => u.endReset r 0) s3).settle)

/-! ## BOOT_WATCHDOG (R420) -/

/-- The 10 s watchdog expires: the boot failed. -/
def execBootWatchdog (s : State) : Res :=
  .next (
    if s.eci.devState ≠ .booting ∨ s.now < s.boot.startedAt + ms 10000 then s.notDue
    else
      let n := s.boot.failed + 1
      let s1 := (if s.boot.cold then { s.ok.coldReset with logs := s.logs } else s.ok.warmReset).updBoot fun b => { b with failed := n, offSince := none }
      if n < 2 then s1.startBoot s.boot.cold
      else if s.boot.fellBack then s1.romFault
      else if s1.slotBoots s1.boot.other then s1.fallBack.startBoot s.boot.cold
      else (s1.updBoot fun b => { b with failed := 1 }).startBoot s.boot.cold)

/-! ## The heartbeat (R360, R414, R418) -/

/-- Does the control processor run its firmware. -/
def State.firmwareRuns (s : State) : Bool :=
  match s.eci.devState with
  | .uninit | .booting | .updating => false
  | _ => !s.boot.romFaulted

/-- ECI_HEARTBEAT rises every 1 ms from READY on. -/
def execHeartbeatTick (s : State) : Res :=
  .next (if s.firmwareRuns ∧ s.eci.lastHeartbeat + ms 1 ≤ s.now then
      (s.ok).updEci fun e => { e with heartbeat := e.heartbeat + 1, lastHeartbeat := s.now }
    else s.notDue)

/-- A heartbeat that has stood for 100 ms: the ROM's recovery routine writes the journal with cause 1 and cold-resets. -/
def execHeartbeatWatchdog (s : State) : Res :=
  .next (if s.firmwareRuns ∧ s.eci.lastHeartbeat + ms 100 ≤ s.now then
      (s.ok.powerLoss 1).updBoot fun b => { b with releasedAt := s.now }
    else s.notDue)

/-- The lifetime record is written every 10 minutes of the time base (R418). -/
def execLifetimeRecordWrite (s : State) : Res :=
  .next (if s.eci.devState ≠ .uninit ∧ s.logs.life.lastWrite + ms 600000 ≤ s.now then s.ok.writeLifetime else s.notDue)

end Sys2Proof.Machine
end

