-- ==== Sys2Proof/Machine/Cores.lean ====
section
/-!
DEFINITION. Server cores: loads, stores, cache operations, fences, traps, device accesses and core resets (R293 to R299, R308 to
R311); debug accesses (R111 to R113, R134).
-/

namespace Sys2Proof.Machine

/-! ## The physical map as a core sees it (Table 11.3) -/

inductive MemType where
  | cacheable | nonCacheable | chip | window | device | peer | absent
  deriving DecidableEq, Repr

/-- Core memory windows and operand buffer windows (Table 1.6). -/
def isWindow (a : Nat) : Bool := inRange coreMemBase (64 * coreMemStride) a || inRange engineBase (256 * engineStride) a

/-- The type of an address; every address of an access must have it. -/
def State.memType (s : State) (a : Nat) : MemType :=
  if isDram a then (if s.populated a then .cacheable else .absent)
  else if isChip a then .chip
  else if isWindow a then .window
  else if isRegister a then .device
  else if isPeer a then (if (s.peerTarget a).isSome then .peer else .absent)
  else if isHost a then .cacheable
  else .absent

/-- Access-fault causes: 5 for loads, 7 for stores and AMOs (R309; log 37). -/
def loadCause : CoreForm → Nat
  | .amo => 7
  | .plain | .vector | .lrsc => 5

def State.coreFault (s : State) (cause pa : Nat) : State := s.answer (.accessFault cause pa)

/-- A core that can run an instruction: in service and past its reset. -/
def State.coreRuns (s : State) (c : Fin 64) : Bool :=
  s.boot.stage == 9 && s.coreIn c && (s.core c).rst == .running && s.pwr.sleep == .awake

/-- A core that runs an instruction is out of WFI (log 10). -/
def State.coreWorks (s : State) (c : Fin 64) : State := s.ok.updCore c fun x => { x with wfi := false }

/-- A store to a peer window leaves as a write that waits for its WACK (R351, R352). -/
def peerStore (c : Fin 64) (s : State) (b : BufStore) : State :=
  match s.peerTarget b.pa with
  | none => s
  | some t =>
    (chunksOf t.2 b.data.length).foldl (fun u a =>
      let lo := max a t.2
      let hi := min (a + 64) (t.2 + b.data.length)
      let part := (b.data.drop (lo - t.2)).take (hi - lo)
      u.peerRequest t.1 (.coreStore c b.pa b.data.length) fun tag =>
        wrpMsg u.eci.moduleIndex t.1 tag a 0 ((2 ^ (hi - lo) - 1) * 2 ^ (lo - a)) (List.replicate (lo - a) 0 ++ part ++ List.replicate (a + 64 - hi) 0)) s

/-- The store buffer of a core drains as far as it can. -/
def State.drainAll (s : State) (c : Fin 64) : State := s.drainStores c (peerStore c) false ((s.core c).sb.length)
/-- The same, but the youngest non-cacheable store stays, so that a later one can merge with it. -/
def State.drainSome (s : State) (c : Fin 64) : State := s.drainStores c (peerStore c) true ((s.core c).sb.length)

/-- The lines that an access touches. -/
def linesOf (pa size : Nat) : List Nat := (chunksOf pa size).map (· / 64)

/-! ## Debug accesses (R111 to R113, R129, R134) -/

/-- The Squall whose memory a window address names. -/
def windowSquall (a : Nat) : Fin 64 :=
  if inRange coreMemBase (64 * coreMemStride) a then ⟨(a - coreMemBase) / coreMemStride % 64, by omega⟩
  else ⟨(a - engineBase) / engineStride / 4 % 64, by omega⟩

/-- How a failed access answers on each path (R112). -/
def State.debugRefuse (s : State) (path : Path) (cause pa : Nat) : State :=
  match path with
  | .host => s.answer .unsupportedRequest
  | .core _ => s.coreFault cause pa

/-- Does a word that fails its parity lie in n bytes from an address. -/
def badIn (parity : Option BadWord) (pa n : Nat) : Bool :=
  match parity with
  | some (.mem a) => decide (pa < a.toNat / 8 * 8 + 8) && decide (a.toNat / 8 * 8 < pa + n)
  | some .vreg | some (.cache _) | some (.dram _ _) | none => false

/-- A read through the debug port: marked chunks read as zeros (R256); a parity detection fails the read (R134). -/
def State.debugRead (s : State) (path : Path) (pa size : Nat) (parity : Option BadWord) : State :=
  if !s.eci.debugOn then s.debugRefuse path 5 pa
  else if badIn parity pa size then
    let s1 := (s.parityCount (windowSquall pa)).reloadBad parity
    match path with
    | .host => s1.answer (.data (List.replicate size 0) .unreadable)
    | .core _ => s1.coreFault 5 pa
  else
    let m := s.markOf pa size
    let l := (List.range size).map fun i => if s.markAt (pa + i) = .none then s.byteAt (pa + i) else 0
    s.answer (.data l (match path with
      | .host => m
      | .core _ => .none))

/-- An untagged write, slot by slot: into a RESIDENT slot it is discarded (R111, R113). -/
def State.untaggedWrite (s : State) (pa : Nat) (l : List Byte) : State :=
  (chunksOf pa l.length).foldl (fun u a =>
    let lo := max a pa
    let hi := min (a + 64) (pa + l.length)
    let part := (l.drop (lo - pa)).take (hi - lo)
    let q := windowSquall a
    if inRange coreMemBase (64 * coreMemStride) a &&
        ((assoc (u.sq q).tags ((a - coreMemBase) % coreMemStride / 4096)).any fun t => t.st == .resident) then u
    else (u.putBytes lo part).markRange lo (hi - lo) .none) s

/-- RESIDENT slots that a write touches, one drop counted for each on its Squall (R113). -/
def State.countDrops (s : State) (pa n : Nat) : State :=
  if !inRange coreMemBase (64 * coreMemStride) pa || n = 0 then s
  else
    (List.range ((pa + n - 1) / 4096 - pa / 4096 + 1)).foldl (fun u k =>
      let a := (pa / 4096 + k) * 4096
      let q := windowSquall a
      if (assoc (u.sq q).tags ((a - coreMemBase) % coreMemStride / 4096)).any fun t => t.st == .resident then
        u.updSq q fun x => { x with residentWriteDrop := x.residentWriteDrop + 1 }
      else u) s

def State.debugWrite (s : State) (path : Path) (pa : Nat) (l : List Byte) : State :=
  if !s.eci.debugOn then s.debugRefuse path 7 pa
  else ((s.ok.countDrops pa l.length).untaggedWrite pa l)

def execDebugLoad (path : Path) (pa : BitVec 48) (size : Nat) (parity : Option BadWord) (s : State) : Res :=
  .next (if !isWindow pa.toNat || !isWindow (pa.toNat + size - 1) || size == 0 then s.notDue
    else s.debugRead path pa.toNat size parity)

def execDebugStore (path : Path) (pa : BitVec 48) (data : List Byte) (s : State) : Res :=
  .next (if !isWindow pa.toNat || !isWindow (pa.toNat + data.length - 1) || data.isEmpty then s.notDue
    else s.debugWrite path pa.toNat data)

/-! ## Loads and stores (R295, R296, R298) -/

/-- A load whose lines are all in the core's caches, or none where one must be fetched. -/
def State.cachedLoad (s : State) (c : Fin 64) (pa size : Nat) : Option (List Byte × Bool) :=
  let ls := (linesOf pa size).map fun l => (s.core c).line l
  if ls.any (·.isNone) then none
  else
    let all := ls.flatMap fun l => (l.map (·.data)).getD []
    some ((all.drop (pa % 64)).take size, ls.any fun l => l.any (·.poison))

/-- Host lines that a load misses are read over the link (Table 11.3). -/
def State.fetchHost (s : State) (c : Fin 64) (pa size : Nat) : State :=
  if isHost pa && s.linkUp then
    (linesOf pa size).foldl (fun u l => if ((u.core c).line l).isNone then u.fillHost c l else u) s
  else s

/-- The peer read of a core that has its answer, or that must be asked for (R351). -/
def State.peerLoad (s : State) (c : Fin 64) (pa size : Nat) : State :=
  match s.dnb.reqs.find? (fun r => r.what == .coreLoad c && r.base == pa) with
  | some r =>
    if r.got.length < 64 * (chunksOf pa size).length then s.waits
    else
      let off := pa % 64
      let here := (r.got.drop off).take size
      let s1 := s.updDnb fun d => { d with reqs := d.reqs.filter fun x => x != r }
      if here.any (fun b => b.2 != .none) then s1.coreFault 5 pa else s1.answer (.data (here.map (·.1)) .none)
  | none =>
    match s.peerTarget pa with
    | none => s.coreFault 5 pa
    | some t => (s.peerAsk t.1 (.coreLoad c) pa fun tag => rdMsg s.eci.moduleIndex t.1 tag (t.2 / 64 * 64) (chunksOf pa size).length).waits

/-- A page attribute over the type of the range: NC makes cacheable memory non-cacheable and IO makes any memory device memory; no
attribute makes a range cacheable (R295). -/
def MemType.under (t : MemType) (attr : PageAttr) : MemType :=
  match attr, t with
  | .pma, t => t
  | .nc, .cacheable => .nonCacheable
  | .nc, t => t
  | .io, .absent => .absent
  | .io, _ => .device

/-- An access that wraps no region: its first and last bytes have one type. -/
def State.typeOf (s : State) (pa size : Nat) (attr : PageAttr) : MemType :=
  let t := s.memType pa
  if s.memType (pa + size - 1) = t then t.under attr else .absent

/-- A load at the memory itself, past the caches (R296): a poisoned line faults (R285), host memory needs the link. -/
def State.memoryLoad (s : State) (c : Fin 64) (pa size : Nat) (cause : Nat) (found : Option BadWord) : State :=
  if isHost pa && !s.linkUp then (if s.linkAlive then s.waits else s.coreFault cause pa)
  else
    let s1 := match found with
      | some (.dram p e) => s.dramCheck p.toNat e
      | some (.mem _) | some .vreg | some (.cache _) | none => s
    let s2 := s1.dramRead 1 pa size
    let r := s2.readAs (.core c) pa size
    if r.1.any (fun b => b.2 != .none) then r.2.coreFault cause pa
    else r.2.answer (.data (forward (s2.core c).sb pa (r.1.map (·.1))) .none)

/-- A load of chip memory; a marked chunk reads as zeros (R256). -/
def State.chipLoad (s : State) (c : Fin 64) (pa size : Nat) : State :=
  let r := s.readAs (.core c) pa size
  r.2.answer (.data (forward (s.core c).sb pa (r.1.map fun b => if b.2 = .none then b.1 else 0)) .none)

/-- A line of a core's caches that a load meets uncorrectable is poisoned there (R294). -/
def State.cacheBad (s : State) (c : Fin 64) (pa size : Nat) (found : Option BadWord) : State :=
  match found with
  | some (.cache l) =>
    if (linesOf pa size).contains l.toNat then s.updCore c fun x => x.changeLine l.toNat fun y => { y with poison := true } else s
  | some (.mem _) | some .vreg | some (.dram _ _) | none => s

/-- CORE_LOAD (R294 to R296): caches, then the ring; a poisoned line faults (R285); so does a word of chip memory that fails its parity,
which no Squall's counter counts, since no Squall read it (R129, R134). -/
def execCoreLoad (c : Fin 64) (pa : BitVec 48) (size : Nat) (attr : PageAttr) (form : CoreForm) (parity : Option BadWord) (s : State) : Res :=
  .next (
    let a := pa.toNat
    if !s.coreRuns c || size == 0 || decide (64 < size) then s.notDue
    else
      let exclusive := form == .amo || form == .lrsc
      let s1 := s.coreWorks c
      match s1.typeOf a size attr with
      | .absent => s1.coreFault (loadCause form) a
      | .device => s.notDue
      | .nonCacheable => if exclusive then s1.coreFault (loadCause form) a else s1.memoryLoad c a size (loadCause form) parity
      | .window => if exclusive then s1.coreFault (loadCause form) a else s1.debugRead (.core c) a size parity
      | .peer => if exclusive then s1.coreFault (loadCause form) a else s1.peerLoad c a size
      | .chip =>
        if exclusive then s1.coreFault (loadCause form) a
        else if badIn parity a size then (s1.reloadBad parity).coreFault (loadCause form) a
        else s1.chipLoad c a size
      | .cacheable =>
        let s2 := (s1.fetchHost c a size).cacheBad c a size parity
        match s2.cachedLoad c a size with
        | none => if isHost a && !s2.linkAlive then s2.coreFault (loadCause form) a else s2.waits
        | some (l, bad) =>
          let s3 := s2.updCore c fun x => (linesOf a size).foldl (fun y k => y.hit k) x
          if bad then s3.coreFault (loadCause form) a
          else
            let s4 := if form == .lrsc then s3.updCore c fun x => { x with reserved := some (a / 64) } else s3
            s4.answer (.data (forward (s4.core c).sb a l) .none))

/-- A store put in the buffer, or turned away until there is room. -/
def State.enterStore (s : State) (c : Fin 64) (b : BufStore) : State :=
  let merged := mergeStore (s.core c).sb b
  if merged.length ≤ 56 then (s.updCore c fun x => { x with sb := merged }).drainSome c
  else
    let s1 := s.drainAll c
    if (s1.core c).sb.length < 56 then (s1.updCore c fun x => { x with sb := mergeStore x.sb b }).drainSome c else s1.waits

/-- CORE_STORE (R296, R308): into the store buffer; AMO and SC need the line in the core's own hands. -/
def execCoreStore (c : Fin 64) (pa : BitVec 48) (size : Nat) (v : BitVec 64) (attr : PageAttr) (form : CoreForm) (s : State) : Res :=
  .next (
    let a := pa.toNat
    if !s.coreRuns c || size == 0 || decide (8 < size) then s.notDue
    else
      let s1 := s.coreWorks c
      let data := leBytes v.toNat size
      let exclusive := form == .amo || form == .lrsc
      -- one buffer entry per 64-byte chunk (R311)
      let buffer (cacheable : Bool) : State := (chunksOf a size).foldl (fun u k =>
        let lo := max k a
        let hi := min (k + 64) (a + size)
        u.enterStore c { pa := lo, data := (data.drop (lo - a)).take (hi - lo), cacheable := cacheable }) s1
      match s1.typeOf a size attr with
      | .absent => s1.coreFault 7 a
      | .device => s.notDue
      | .window => if exclusive then s1.coreFault 7 a else s1.debugWrite (.core c) a data
      | .peer | .chip | .nonCacheable => if exclusive then s1.coreFault 7 a else buffer false
      | .cacheable =>
        if !exclusive then buffer true
        else
          let line := a / 64
          let s2 := (s1.fetchHost c a size).drainAll c
          if form == .lrsc && (s2.core c).reserved != some line then
            (s2.updCore c fun x => { x with reserved := none }).answer (.data [1] .none)
          else if (s2.core c).sb ≠ [] ∨ !(s2.core c).owns line then s2.waits
          else
            let old := (((s2.core c).line line).map fun l => (l.data.drop (a % 64)).take size).getD []
            let bad := ((s2.core c).line line).any (·.poison)
            if bad then s2.coreFault 7 a
            else
              let s3 := s2.updCore c fun x =>
                { (x.hit line).changeLine line fun l => { l with st := .m, data := patch l.data (a % 64) data } with reserved := none }
              s3.answer (.data (if form == .amo then old else [0]) .none))

/-! ## Cache operations (R297) -/

/-- What a cache operation on an address comes to: `on` for a cacheable line, `off` for other memory. -/
def State.cbo (s : State) (c : Fin 64) (a : Nat) (attr : PageAttr) (on off : State → State) : State :=
  if !s.coreRuns c then s.notDue
  else
    let s1 := (s.coreWorks c).drainAll c
    match (s1.memType a).under attr with
    | .absent => s1.coreFault 7 a
    | .cacheable => if (s1.core c).sb.any (fun b => b.pa / 64 == a / 64) then s1.waits else on s1
    | .nonCacheable | .chip | .window | .device | .peer => off s1

def State.cleanLine (s : State) (c : Fin 64) (line : Nat) : State :=
  match (s.core c).line line with
  | some l => if l.st == Mesi.m then (s.writeBack l).updCore c fun x => x.changeLine line fun y => { y with st := .e } else s
  | none => s

def State.flushLine (s : State) (c : Fin 64) (line : Nat) : State := (s.cleanLine c line).updCore c fun x => x.dropLine line

def execCboClean (c : Fin 64) (pa : BitVec 48) (attr : PageAttr) (s : State) : Res :=
  .next (s.cbo c pa.toNat attr (fun t => t.cleanLine c (pa.toNat / 64)) id)
def execCboFlush (c : Fin 64) (pa : BitVec 48) (attr : PageAttr) (s : State) : Res :=
  .next (s.cbo c pa.toNat attr (fun t => t.flushLine c (pa.toNat / 64)) id)

/-- cbo.inval: as menvcfg.CBIE says, 11 invalidates, 01 flushes; with the others the operation is not one that the spec
performs, and the profile's illegal-instruction exception, outside this model, follows (log 38). -/
def execCboInval (c : Fin 64) (pa : BitVec 48) (attr : PageAttr) (cbie : BitVec 2) (s : State) : Res :=
  .next (
    let line := pa.toNat / 64
    if cbie = 3 then s.cbo c pa.toNat attr (fun t => t.updCore c fun x => x.dropLine line) id
    else if cbie = 1 then s.cbo c pa.toNat attr (fun t => t.flushLine c line) id
    else s.notDue)

/-- cbo.zero: a line of zeros in M once the core owns it; 64 zero bytes to other memory. -/
def execCboZero (c : Fin 64) (pa : BitVec 48) (attr : PageAttr) (s : State) : Res :=
  .next (
    let line := pa.toNat / 64
    let zeros : List Byte := List.replicate 64 0
    let zeroLine : CLine := { line := line, st := .m, data := zeros }
    s.cbo c pa.toNat attr
      (fun t =>
        if isHost pa.toNat then t.fillCore c zeroLine
        else if (t.core c).owns line then t.updCore c fun x => (x.hit line).changeLine line fun _ => zeroLine
        else t.waits)
      (fun t => match t.memType pa.toNat with
        | .chip => (t.putBytes (64 * line) zeros).markRange (64 * line) 64 .none
        | .window => t.debugWrite (.core c) (64 * line) zeros
        | .peer => peerStore c t { pa := 64 * line, data := zeros, cacheable := false }
        | .device => (List.range 8).foldl (fun u i => u.regWrite (64 * line + 8 * i - registerBase) 8 0 (.core c)) t
        | .cacheable =>
          if isHost pa.toNat then t.hostWrite (64 * line) zeros .none none 0
          else (t.store (64 * line) zeros .none).dramUse 3 true (64 * line) 64
        | .nonCacheable | .absent => t))

/-! ## Fences, traps and device accesses (R308 to R310) -/

/-- A failed device store that waits to be raised is raised here (R309). -/
def State.raisePending (s : State) (c : Fin 64) (va : Nat) : State :=
  (s.updCore c fun x => { x with pending := none }).coreFault 7 va

/-- A core FENCE: waits for the stores before it where its predecessor set holds writes, with the host's completion of flushed lines
(R322), and raises a pending fault. -/
def execCoreFence (c : Fin 64) (predWrites : Bool) (s : State) : Res :=
  .next (
    if !s.coreRuns c then s.notDue
    else
      let s1 := s.coreWorks c
      match (s1.core c).pending with
      | some va => s1.raisePending c va
      | none =>
        if !predWrites then s1
        else
          let s2 := (s1.drainAll c).drainEgress
          let pushed := s2.cxl.egress.any fun e => e.task.isNone && e.session == 0
          let far := s2.dnb.reqs.any fun r => match r.what with
            | .coreStore d _ _ => d == c
            | _ => false
          if (s2.core c).sb ≠ [] ∨ (s2.core c).dev.any (·.isStore) ∨ far ∨ pushed then s2.waits else s2)

/-- Entry to an exception or interrupt handler: older stores drain first (R310). -/
def execTrapEntry (c : Fin 64) (s : State) : Res :=
  .next (
    if !s.coreRuns c then s.notDue
    else
      let s1 := (s.coreWorks c).drainAll c
      if (s1.core c).sb ≠ [] then s1.waits else s1.updCore c fun x => { x with irq := false })

/-- Device accesses that fault (R308). -/
def deviceFaults (a size : Nat) (form : CoreForm) : Bool :=
  form != .plain || decide (8 < size) || size == 0 || a % size != 0

/-- What a device access must meet before it leaves the core: a pending fault, its own form, a drained buffer, the accesses before
it (R308, R309). -/
def State.deviceAccess (s : State) (c : Fin 64) (a size : Nat) (form : CoreForm) (cause : Nat) (go : State → State) : State :=
  if !s.coreRuns c then s.notDue
  else
    let s1 := s.coreWorks c
    match (s1.core c).pending with
    | some va => s1.raisePending c va
    | none =>
      if deviceFaults a size form || s1.memType a == .absent then s1.coreFault cause a
      else
        let s2 := s1.drainAll c
        if (s2.core c).sb ≠ [] ∨ (s2.core c).dev ≠ [] then s2.waits else go s2

/-- DEVICE_LOAD: of a device register, or of memory whose page is mapped IO (R295); pages of a peer or of the host window that are
mapped IO lead to registers that the spec does not give (their values are free, log 39). -/
def execDeviceLoad (c : Fin 64) (pa : BitVec 48) (size : Nat) (form : CoreForm) (answered : Bool) (s : State) : Res :=
  .next (
    let a := pa.toNat
    s.deviceAccess c a size form (loadCause form) fun t =>
      if !answered then
        (t.updCore c fun x => { x with dev := x.dev ++ [{ isStore := false, pa := a, va := a, size := size, since := t.now }] }).waits
      else match t.memType a with
        | .device => t.answer (.data (leBytes ((t.regRead (a - registerBase) size).getD 0) size) .none)
        | .window => t.debugRead (.core c) a size none
        | .chip => t.chipLoad c a size
        | .cacheable | .nonCacheable | .peer | .absent =>
          if isDram a then t.memoryLoad c a size (loadCause form) none else (t.draw).answer (.data (leBytes (t.drawn 39).toNat size) .none))

/-- A device store performed at its target. -/
def State.deviceWrite (s : State) (c : Fin 64) (a size v : Nat) : State :=
  let data := leBytes v size
  match s.memType a with
  | .device => s.regWrite (a - registerBase) size (v % 2 ^ (8 * size)) (.core c)
  | .window => s.debugWrite (.core c) a data
  | .chip => s.store a data .none
  | .cacheable | .nonCacheable | .peer | .absent =>
    if isDram a then (s.store a data .none).dramUse 3 true a size else if isHost a then s.hostWrite a data .none none 0 else s

def execDeviceStore (c : Fin 64) (pa : BitVec 48) (va : BitVec 64) (size : Nat) (v : BitVec 64) (form : CoreForm) (answered : Bool) (s : State) : Res :=
  .next (
    let a := pa.toNat
    s.deviceAccess c a size form 7 fun t =>
      if !answered then
        t.updCore c fun x => { x with dev := x.dev ++ [{ isStore := true, pa := a, va := va.toNat, size := size, since := t.now, val := v.toNat }] }
      else t.deviceWrite c a size v.toNat)

/-- A device store that is given up: performed at its target or not, which is free; what the target answers is dropped (R309). -/
def State.lateStore (s : State) (c : Fin 64) (d : DevAcc) : State :=
  if d.isStore then
    (if (s.drawn 0).getLsbD 0 then (s.draw.deviceWrite c d.pa d.size d.val).answer s.out else s.draw)
  else s

/-- DEV_TIMEOUT of the oldest access of a core without an answer (R309). -/
def execDevTimeout (c : Fin 64) (s : State) : Res :=
  .next (match (s.core c).dev with
    | [] => s.notDue
    | d :: rest =>
      if s.now < d.since + us (bitsAt s.coh.devTimeout.toNat 0 17) then s.notDue
      else
        let s1 := ((s.ok.lateStore c d).updCore c fun x => { x with dev := rest, devTimeout := x.devTimeout + 1 }).event 1 0x0103 (s.coreId c) 0
          (argBits [(64, d.pa), (128, d.size)])
        if d.isStore then
          s1.updCore c fun x => { x with devStoreDiscard := x.devStoreDiscard + 1, pending := x.pending.or (some d.va) }
        else s1.coreFault 5 d.va)

/-! ## Core resets (R299, R310, R311) -/

/-- A store left in a buffer at a warm reset: its chunk ends as it was or fully written, which is free (R311). -/
def State.maybeStored (s : State) (c : Fin 64) (b : BufStore) (k : Nat) : State :=
  if bitAt (s.drawn k).toNat 0 then (if isPeer b.pa then peerStore c s b else s.store b.pa b.data .none) else s

/-- 10 us of draining have passed: what is left is discarded and counted, dirty lines go back, invalidation follows. -/
def execStoreDrainTimeout (c : Fin 64) (s : State) : Res :=
  .next (match (s.core c).rst with
    | .draining t =>
      let s1 := s.ok.drainAll c
      if (s1.core c).sb = [] then s1.afterDrain c
      else if s.now < t + us 10 then s.notDue
      else
        let left := (s1.core c).sb
        let s2 := left.zipIdx.foldl (fun u b => u.maybeStored c b.1 b.2) s1
        (((s2.draw).add .resetStoreDiscard left.length).updCore c fun x => { x with sb := [] }).afterDrain c
    | _ => s.notDue)

/-- Both caches are invalid; the core fetches its first instruction. -/
def execCoreInvalidateDone (c : Fin 64) (s : State) : Res :=
  .next (if (s.core c).rst == .invalidating then s.ok.updCore c fun x => { x with rst := .running, l1i := {}, l1d := {}, l2 := {} }
    else s.notDue)

end Sys2Proof.Machine
end

