-- ==== Sys2Proof/Machine/Coherence.lean ====
section
/-!
DEFINITION. The snoop ring: requests, snoops, answers, write-backs, grants, retries, escalation, and the two ordering modes
(R300 to R307).
-/

namespace Sys2Proof.Machine

/-! ## Agents (R300) -/

/-- The coherent agents: cores, schedule engine caches, the control processor cluster's cache. -/
def coherentAgents : List Agent := (List.finRange 64).map .core ++ (List.finRange 64).map .sched ++ [.cluster]

/-- The line as an agent holds it; none in state I. -/
def State.held (s : State) (a : Agent) (line : Nat) : Option CLine :=
  match a with
  | .core c => (s.core c).line line
  | .sched q => (s.sq q).cache.find line
  | .cluster => s.coh.cluster.find line
  | .dma _ | .ioProxy | .kEngines => none

def State.dropHeld (s : State) (a : Agent) (line : Nat) : State :=
  match a with
  | .core c => s.updCore c fun x => x.dropLine line
  | .sched q => s.updSq q fun x => { x with cache := x.cache.drop (· == line) }
  | .cluster => s.updCoh fun x => { x with cluster := x.cluster.drop (· == line) }
  | .dma _ | .ioProxy | .kEngines => s

/-- A holder keeps the line in S. -/
def State.shareHeld (s : State) (a : Agent) (line : Nat) : State :=
  let share (l : CLine) : CLine := { l with st := .s }
  match a with
  | .core c => s.updCore c fun x => x.changeLine line share
  | .sched _ => s
  | .cluster => s.updCoh fun x => { x with cluster := x.cluster.change line share }
  | .dma _ | .ioProxy | .kEngines => s

/-! ## Requests -/

def State.req (s : State) (id : Nat) : Option CohReq := s.coh.reqs.find? (·.id == id)
def State.updReq (s : State) (id : Nat) (f : CohReq → CohReq) : State :=
  s.updCoh fun x => { x with reqs := updFirst x.reqs (·.id == id) f }

/-- The order mode of a line's region: true is owner-ordered (R306, R307). -/
def State.ownerOrdered (s : State) (line : Nat) : Bool :=
  let pa := 64 * line
  let r := if isHbm pa then 1024 + (pa - hbmBase) / 2 ^ 30 else pa / 2 ^ 30
  bitAt (s.coh.orderMode.toList.getD (r / 64) 0).toNat (r % 64)

/-- Does an agent own a line, in M or E. -/
def State.ownerOf (s : State) (line : Nat) : Option Agent :=
  coherentAgents.find? fun a => (s.held a line).any fun l => l.st == .m || l.st == .e

def CohReq.open_ (r : CohReq) : Bool := r.phase == .snooping || r.phase == .granted
def CohReq.escalates (r : CohReq) : Bool := decide (17 ≤ r.issue)

/-- Must the home agent turn a request away with NACK at once: an escalated request for the line waits; in home-ordered mode, or
for a line without an owner, another request's round is open; in owner-ordered mode the turn is reserved for another
(R304, R306). -/
def State.blocked (s : State) (r : CohReq) : Bool :=
  let others := s.coh.reqs.filter fun x => x.line == r.line && x.id != r.id
  if r.escalates then false
  else if others.any fun x => x.escalates && (x.phase == .escalated || x.open_) then true
  else if s.ownerOrdered r.line && s.coh.reservations.any (fun p => p.line == r.line && p.req != r.id) then true
  else if s.ownerOrdered r.line && (s.ownerOf r.line).isSome then others.any fun x => x.phase == .granted
  else others.any CohReq.open_

/-- A request ordered at its home stop: the memory read starts and the snoop goes to every coherent agent but the requester. -/
def CohReq.start (r : CohReq) : CohReq :=
  { r with phase := .snooping, waiting := coherentAgents.filter (· != r.agent), answers := [], nackSeen := false }

/-- A request arrives at its home agent. -/
def State.arrive (s : State) (r : CohReq) : State :=
  if s.blocked r then s.updReq r.id fun x => { x with phase := .nacked } else s.updReq r.id CohReq.start

/-- Which requests an agent may send (R300, R301). -/
def mayAsk (a : Agent) (k : CohKind) : Bool :=
  match a, k with
  | .sched _, .read => true
  | .sched _, _ => false
  | .core _, _ => true
  | _, .ownNoData => false
  | _, _ => true

/-- Does the agent already have what it asks for. -/
def State.satisfied (s : State) (a : Agent) (line : Nat) (k : CohKind) : Bool :=
  match s.held a line, k with
  | none, _ => false
  | some _, .read => true
  | some l, _ => l.st != .s

/-- COH_REQUEST: at most 32 misses of a core are outstanding (Table 11.1). -/
def execCohRequest (a : Agent) (line : BitVec 42) (kind : CohKind) (s : State) : Res :=
  .next (
    let l := line.toNat
    let mine := s.coh.reqs.filter fun r => r.agent == a
    let many := match a with
      | .core _ => decide (32 ≤ mine.length)
      | _ => false
    if !(isDram (64 * l) && s.populated (64 * l)) || !mayAsk a kind || s.satisfied a l kind || mine.any (fun r => r.line == l) then s.notDue
    else if many then s.waits
    else
      let r : CohReq := { id := s.coh.nextReq, agent := a, line := l, kind := kind }
      (s.ok.updCoh fun x => { x with reqs := x.reqs ++ [r], nextReq := x.nextReq + 1 }).arrive r)

/-- A snoop reaches an agent (R302, R306): a holder in M answers NACK and writes the line back, S for a read and I for an ownership
request; in owner-ordered mode the owner reserves its turn for the first snoop it sees and answers NACK to the others. -/
def execCohSnoop (a : Agent) (req : Nat) (s : State) : Res :=
  .next (match s.req req with
    | none => s.notDue
    | some r =>
      if r.phase != .snooping || !r.waiting.contains a then s.notDue
      else
        let heard (nack : Bool) (u : State) : State :=
          u.updReq req fun x => { x with waiting := x.waiting.filter (· != a), answers := x.answers ++ [(a, nack)] }
        let gave (own : Bool) : Bool := !r.escalates && s.coh.reservations.any fun p => p.line == r.line && p.owner == a && (p.req == req) == own
        match s.held a r.line with
        | none => heard (gave false) s.ok
        | some l =>
          if gave false then heard true s.ok
          else
            let owner := l.st == .m || l.st == .e
            let s1 := if s.ownerOrdered r.line && owner && !r.escalates && !gave true then
                s.ok.updCoh fun x => { x with reservations := x.reservations ++ [{ line := r.line, req := req, owner := a }] }
              else s.ok
            let s2 := if r.kind == .read then s1.shareHeld a r.line else s1.dropHeld a r.line
            if l.st == .m then heard true (s2.updReq req fun x => { x with writeback := some (a, l.data), backPoison := l.poison }) else heard false s2)

/-- Every answer is in, none a NACK that still stands, and no write-back of the line is on its way: the grant is sent. -/
def State.trySend (s : State) (req : Nat) : State :=
  match s.req req with
  | none => s
  | some r =>
    let back := s.coh.reqs.any fun x => x.line == r.line && x.writeback.isSome
    if r.phase == .snooping && r.waiting.isEmpty && r.answers.isEmpty && !r.nackSeen && !back then
      s.updReq req fun x => { x with phase := .granted }
    else s

/-- A snoop answer reaches the home agent: NACK is passed on at once and the memory read dropped; for an escalated request the
agent waits for the write-back instead (R302, R304). -/
def execCohSnoopAnswer (a : Agent) (req : Nat) (s : State) : Res :=
  .next (match s.req req with
    | none => s.notDue
    | some r =>
      match r.answers.find? (·.1 == a) with
      | none => s.notDue
      | some n =>
        let s1 := s.ok.updReq req fun x => { x with answers := dropFirst x.answers (· == n) }
        if r.phase != .snooping then s1
        else if n.2 && !r.escalates then s1.updReq req fun x => { x with phase := .nacked }
        else (s1.updReq req fun x => { x with nackSeen := x.nackSeen || (n.2 && x.writeback.isSome) }).trySend req)

/-- An owner's write-back reaches the home agent in class 1 (R302); a poisoned line stays poisoned (R285). -/
def State.backLands (s : State) (r : CohReq) (data : List Byte) : State :=
  let s1 := ((s.store (64 * r.line) data (if r.backPoison then .unreadable else .none)).dramUse 1 true (64 * r.line) 64).updReq r.id fun x =>
    { x with writeback := none, nackSeen := false }
  ((s1.coh.reqs.filter fun x => x.line == r.line).map (·.id)).foldl (fun u k => u.trySend k) s1

def execCohWriteback (a : Agent) (req : Nat) (s : State) : Res :=
  .next (match s.req req with
    | none => s.notDue
    | some r =>
      match r.writeback with
      | none => s.notDue
      | some w => if w.1 != a then s.notDue else s.ok.backLands r w.2)

/-- The request is over: it leaves its home agent's queue, and its reservation ends (R304, R306). -/
def State.endReq (s : State) (r : CohReq) : State :=
  s.updCoh fun x => { x with
    reqs := x.reqs.filter fun y => y.id != r.id
    queues := x.queues.map fun l => l.filter (· != r.id)
    reservations := x.reservations.filter fun p => p.req != r.id }

/-- Does a grant carry data: not for cbo.zero, and not for an ownership request whose agent holds the line (R301). -/
def State.carriesData (s : State) (r : CohReq) : Bool := r.kind != .ownNoData && !(r.kind == .own && (s.held r.agent r.line).isSome)

/-- The line as granted: E to a read that found no other copy, S to one that found copies, ownership otherwise (R301); cbo.zero's
line is M and holds zeros (R297). -/
def State.grantedLine (s : State) (r : CohReq) : CLine :=
  let others := coherentAgents.any fun a => a != r.agent && (s.held a r.line).isSome
  let poison := s.markOf (64 * r.line) 64 != .none
  match r.kind with
  | .read => { line := r.line, st := if others then .s else .e, data := s.bytes (64 * r.line) 64, poison := poison }
  | .own =>
    match s.held r.agent r.line with
    | some l => { l with st := .e }
    | none => { line := r.line, st := .e, data := s.bytes (64 * r.line) 64, poison := poison }
  | .ownNoData => { line := r.line, st := .m, data := List.replicate 64 0 }

/-- COH_GRANT: the requester receives the grant; data was read from memory, where error correction may have found something
(R283, R285). Stores of a core that waited for the line drain. -/
def execCohGrant (req : Nat) (ecc : Ecc) (s : State) : Res :=
  .next (match s.req req with
    | none => s.notDue
    | some r =>
      if r.phase != .granted then s.notDue
      else
        let s1 := if !s.carriesData r then s.ok else (s.ok.dramCheck (64 * r.line) ecc).dramRead 1 (64 * r.line) 64
        let l := s1.grantedLine r
        let s2 := s1.endReq r
        match r.agent with
        | .core c => ((s2.fillCore c l).drainSome c).afterDrain c
        | .sched q =>
          s2.updSq q fun x => { x with cache := x.cache.fill schedGeometry { l with st := .s } }
        | .cluster => s2.updCoh fun x => { x with cluster := { x.cluster with lines := x.cluster.lines.filter (·.line != r.line) ++ [l] } }
        | .dma _ | .ioProxy | .kEngines => s2.answer (.data l.data (if l.poison then .unreadable else .none)))

/-- COH_NACK: the requester schedules a retry (R303). -/
def execCohNack (req : Nat) (s : State) : Res :=
  .next (match s.req req with
    | none => s.notDue
    | some r => if r.phase != .nacked then s.notDue else s.ok.updReq req fun x => { x with phase := .retrying, answers := [], waiting := [] })

/-- A retry leaves (R303): the seventeenth issue and later ones carry the escalation mark; an agent has one escalated request at a
time; it enters its home agent's queue and ends any reservation on the line (R304). -/
def execNackRetry (req : Nat) (s : State) : Res :=
  .next (match s.req req with
    | none => s.notDue
    | some r =>
      if r.phase != .retrying then s.notDue
      else
        let next := r.issue + 1
        let busy := s.coh.reqs.any fun x => x.agent == r.agent && x.id != req && x.escalates
        if 17 ≤ next ∧ busy then s.waits
        else
          let count (f : CoreSt → CoreSt) (u : State) : State := match r.agent with
            | .core c => u.updCore c f
            | _ => u
          let s1 := count (fun x => { x with nackRetry := x.nackRetry + 1 }) (s.ok.updReq req fun x => { x with issue := next })
          if next < 17 then s1.arrive { r with issue := next }
          else
            let home := s1.homeOf (64 * r.line)
            let s2 := count (fun x => { x with escalated := x.escalated + 1 }) s1
            (s2.updReq req fun x => { x with phase := .escalated }).updCoh fun x => { x with
              queues := upd x.queues home fun l => l ++ [req]
              reservations := x.reservations.filter fun p => p.line != r.line })

/-- The home agent serves the oldest escalated request; a round already open for its line ends first (R304). -/
def execEscalationServe (home : Fin 9) (s : State) : Res :=
  .next (match (pick s.coh.queues home).head?.bind s.req with
    | none => s.notDue
    | some r =>
      if r.phase != .escalated then s.notDue
      else if s.coh.reqs.any fun x => x.line == r.line && x.id != r.id && x.open_ then s.waits
      else s.ok.updReq r.id CohReq.start)

/-- A reservation ends after 512 beats without its request granted (R306). -/
def execReservationExpire (line : BitVec 42) (s : State) : Res :=
  .next (if s.coh.reservations.any (fun p => p.line == line.toNat) then
      s.ok.updCoh fun x => { x with reservations := x.reservations.filter fun p => p.line != line.toNat }
    else s.notDue)

/-! ## Accesses that snoop without a cache (R298, R300) -/

/-- A write-back on its way to a line's home agent reaches it before the answer to a later access that snoops (R302). -/
def State.landBacks (s : State) (line : Nat) : State :=
  (s.coh.reqs.filter fun r => r.line == line).foldl (fun u r =>
    match r.writeback with
    | some w => u.backLands r w.2
    | none => u) s

/-- Copies of the lines of a range that a core or the cluster holds dirty go back to memory, as a snooped read meets them; a snooped
write leaves no copy (SNOOP = 1 descriptors, snooped regions). -/
def State.snoop (s : State) (write : Bool) (pa n : Nat) : State :=
  if !isDram pa then s
  else
    (linesOf pa n).foldl (fun u0 line =>
      let u := u0.landBacks line
      (coherentAgents.filter fun a => (u.held a line).isSome).foldl (fun v a =>
        let v1 := match v.held a line with
          | some l => if l.st == Mesi.m then (v.store (64 * line) l.data (if l.poison then .unreadable else .none)).dramUse 3 true (64 * line) 64 else v
          | none => v
        if write then v1.dropHeld a line else v1.shareHeld a line) u) s

end Sys2Proof.Machine
end

