-- ==== Sys2Proof/Machine/Inbound.lean ====
section
/-!
DEFINITION. Incoming accesses: the checker of registered regions, and what performs or refuses each chunk (R334 to R337).
-/

namespace Sys2Proof.Machine

/-- Who an incoming access comes from. -/
inductive Inlet where
  | host
  | adapter (requester : BitVec 16)
  | peer (module : Nat)
  deriving DecidableEq, Repr

/-- The port an access enters by (Table 13.14). -/
abbrev InPort := Fin 6

/-- A region's flags and lists admit a source (Table 13.4). -/
def Region.admits (r : Region) (inPod : Bool) : Inlet → Bool
  | .host => r.host
  | .adapter q => r.adapter && (r.requesters.isEmpty || r.requesters.contains q)
  | .peer m => r.peer && (if r.modules.isEmpty then inPod else r.modules.contains m)

/-- Device-resident queues of sessions: writable regions that admit HOST (R334). -/
def State.queueAreas (s : State) : List (Nat × Nat) :=
  (List.finRange 64).flatMap fun q =>
    let p := s.pair q
    if p.session.isNone then []
    else
      let own (base n : Nat) : List (Nat × Nat) := if isHost base then [] else [(base, 128 * n)]
      own p.sqBase.toNat (entriesOf p.sqLog2) ++ own p.cqBase.toNat (entriesOf p.cqLog2) ++ [(shadowBase q, 128 * entriesOf p.cqLog2)]

/-- Is a module one of the pod. -/
def State.inPod (s : State) (x : Inlet) : Bool :=
  match x with
  | .peer m => s.eci.pod.isSome && (assoc s.dnb.routes m).any fun r => r != 15
  | .host | .adapter _ => false

/-- Does an address lie in the block sets that an import from a peer has reserved: the reservation is bound to the exporter's region
slot (R213). -/
def State.reservedFor (s : State) (x : Inlet) (a : Nat) : Bool :=
  match x with
  | .peer m => s.srv.transfers.any fun t => !t.isExport && t.reserved && t.peer.toNat == m &&
      (s.seqOf t.model t.seq).any fun q => (q.table.drop t.b0).any fun sub =>
        s.srv.blocks.any fun b => b.model == t.model && b.sub == sub && b.places.any fun p => inRange p Config.subBytes a
  | .host | .adapter _ => false

/-- What admits a source to a chunk: none, or whether its accesses snoop (R334, R335). -/
def State.admitted (s : State) (x : Inlet) (write : Bool) (a : Nat) : Option Bool :=
  let ok (r : Region) : Bool := inRange r.base (4096 * r.pages) a && r.admits (s.inPod x) x && (!write || r.write)
  match s.eci.regions.find? ok with
  | some r => some r.snoop
  | none =>
    if (x = .host ∧ s.queueAreas.any (fun q => inRange q.1 q.2 a)) ∨ (write ∧ s.reservedFor x a) then some false else none

/-- A refused address: an event, at most one per port in 1 ms (R335). -/
def State.denied (s : State) (port : InPort) (a : Nat) : State :=
  if (pick s.cxl.lastDenied port).all fun t => decide (t + ms 1 ≤ s.now) then
    (s.updCxl fun c => { c with lastDenied := upd c.lastDenied port fun _ => some s.now }).event 0 0x0004 unitNone 0
      (argBits [(0, port.val), (64, a)])
  else s

/-- The counter of a refused write chunk (Table 13.5). -/
def Inlet.dropCtr : Inlet → Ctr
  | .host => .inDropHost
  | .adapter _ => .inDropAdapter
  | .peer _ => .inDropPeer

/-- One chunk of an incoming write: performed with its mark, or dropped. -/
def State.inChunk (s : State) (x : Inlet) (port : InPort) (a : Nat) (data : List MByte) : State :=
  match s.admitted x true a with
  | some sn =>
    let s1 := if sn then s.snoop true a data.length else s
    (s1.storeM a data).dramUse 3 true a data.length
  | none => (s.count x.dropCtr).denied port a

/-- An incoming write, checked and performed chunk by chunk (R335). -/
def State.inWrite (s : State) (x : Inlet) (port : InPort) (pa : Nat) (data : List MByte) : State :=
  (chunksOf pa data.length).foldl (fun u c =>
    let lo := max c pa
    u.inChunk x port lo ((data.drop (lo - pa)).take (c + 64 - lo))) s

/-- An incoming read, checked as a whole (R335): its bytes with their marks, or nothing. -/
def State.inRead (s : State) (x : Inlet) (port : InPort) (pa n : Nat) (ecc : Ecc) : Option (List MByte) × State :=
  match (chunksOf pa n).find? fun c => (s.admitted x false (max c pa)).isNone with
  | some c => (none, (s.count .inDenyRead).denied port (max c pa))
  | none =>
    let s1 := (chunksOf pa n).foldl (fun u c => if u.admitted x false (max c pa) = some true then u.snoop false c 64 else u) s
    let s2 := (s1.dramRead 1 pa n).dramCheck pa ecc
    let r := s2.readAs .ioProxy pa n
    (some r.1, r.2)

end Sys2Proof.Machine
end

