-- ==== Sys2Proof/Machine/Cxl.lean ====
section
/-!
DEFINITION. The CXL port: memory requests, BAR4, configuration, the link, host loss, and the device mailbox
(R329 to R340, R411, R436).
-/

namespace Sys2Proof.Machine

/-! ## Memory requests (R332, R333, R335, R336) -/

/-- Does the port decode CXL.mem and BAR4: a link in CXL mode that has not left L0, bring-up past (R330, R339). -/
def State.cxlServes (s : State) : Bool :=
  s.linkUp && s.cxl.state != .pcieOnly && s.boot.stage == 9

/-- A request in Lull or Frost wakes the module and completes after the wake (R333). -/
def State.whenAwake (s : State) (f : State → State) : State :=
  if s.pwr.sleep ≠ .awake then s.requested.waits else f s.requested.ok

/-- What a read found, as the port answers it. -/
def State.answerRead (s : State) (l : List MByte) : State := s.answer (.data (l.map (·.1)) (joinMarks (l.map (·.2))))

/-- CXL_MEM_READ: refused reads return zeros with poison (Table 13.5). -/
def execCxlMemRead (dpa : BitVec 48) (size : Nat) (ecc : Ecc) (s : State) : Res :=
  .next (
    if !s.cxlServes ∨ !s.cxl.hdmCommitted ∨ s.dramTop < dpa.toNat + size ∨ size = 0 then s.notDue
    else s.whenAwake fun t =>
      match t.inRead .host 0 dpa.toNat size ecc with
      | (some l, u) => u.answerRead l
      | (none, u) => u.answer (.data (List.replicate size 0) .unreadable))

/-- CXL_MEM_WRITE: completed normally in either case; poisoned data is stored with the UNREADABLE mark (R336). -/
def execCxlMemWrite (dpa : BitVec 48) (data : List Byte) (poison : Bool) (s : State) : Res :=
  .next (
    if !s.cxlServes ∨ !s.cxl.hdmCommitted ∨ s.dramTop < dpa.toNat + data.length ∨ data = [] then s.notDue
    else s.whenAwake fun t => t.inWrite .host 0 dpa.toNat (withMark (if poison then .unreadable else .none) data))

/-- The source that a requester ID names (Table 13.4). -/
def inletOf (requester : BitVec 16) : Inlet := if requester = Config.hostRequester then .host else .adapter requester

/-- BAR4_READ; in PCIe mode BAR4 is disabled (R330). -/
def execBar4Read (offset : BitVec 42) (size : Nat) (requester : BitVec 16) (ecc : Ecc) (s : State) : Res :=
  .next (
    if !s.linkUp ∨ s.boot.stage ≠ 9 ∨ size = 0 then s.notDue
    else if s.cxl.state = .pcieOnly then s.answer .unsupportedRequest
    else s.whenAwake fun t =>
      match t.inRead (inletOf requester) 0 offset.toNat size ecc with
      | (some l, u) => u.answerRead l
      | (none, u) => u.answer .unsupportedRequest)

def execBar4Write (offset : BitVec 42) (data : List Byte) (requester : BitVec 16) (poison : Bool) (s : State) : Res :=
  .next (
    if !s.linkUp ∨ s.boot.stage ≠ 9 ∨ data = [] then s.notDue
    else if s.cxl.state = .pcieOnly then s.ok
    else s.whenAwake fun t => t.inWrite (inletOf requester) 0 offset.toNat (withMark (if poison then .unreadable else .none) data))

/-! ## Configuration and the link (R330, R339, R340, R436) -/

/-- CXL_CONFIG_REQUEST: Configuration Request Retry Status until training starts. -/
def execCxlConfigRequest (s : State) : Res :=
  .next (if s.cxl.microcode ∧ s.boot.perstN then s.ok else s.answer .configRetry)

/-- The port's state, with the time of its last change (Table 13.14). -/
def State.cxlState (s : State) (x : LinkState) : State :=
  if s.cxl.state = x then s else s.updCxl fun c => { c with state := x, tState := s.now }

/-- The state of a link that is up at a width and a rate. -/
def Cxl.upState (c : Cxl) : LinkState := if c.speed < 32 then .pcieOnly else if c.width < 16 then .degraded else .up

/-- CXL_LINK_UP: x16, or x8 on fewer good lanes; at x4 or narrower the link is held down (Table 13.1). A link that is
down may train again (PRESUMED, log 51). -/
def execCxlLinkUp (lanes gigatransfers : Nat) (s : State) : Res :=
  .next (
    if (s.cxl.state ≠ .training ∧ s.cxl.state ≠ .down) ∨ s.cxl.leftL0.isSome ∨ !s.boot.perstN ∨ !s.cxl.microcode then s.notDue
    else if lanes < 8 then s.ok.cxlState .down
    else
      let s1 := s.ok.updCxl fun c => { c with width := if 16 ≤ lanes then 16 else 8, speed := gigatransfers }
      s1.cxlState s1.cxl.upState)

/-- An exit from L0 is counted (R339). -/
def State.countExit (s : State) : State :=
  ((s.count .cxlRetrain).lifeAdd 0xA 0 1).updCxl fun c => { c with retrains := c.retrains + 1 }

/-- The link leaves L0 for Recovery (R339). -/
def State.leaveL0 (s : State) : State :=
  if !s.linkUp then s else (s.countExit.updCxl fun c => { c with leftL0 := some s.now }).cxlState .training

/-- CXL_LINK_RECOVERY. -/
def execCxlLinkRecovery (s : State) : Res := .next (if s.linkUp then s.ok.leaveL0 else s.notDue)

/-- CXL_LINK_L0: traffic resumes in order. -/
def execCxlLinkL0 (s : State) : Res :=
  .next (match s.cxl.leftL0 with
    | some t =>
      if s.now ≤ t + ms 50 then
        ((s.ok.updCxl fun c => { c with leftL0 := none }).cxlState s.cxl.upState).drainEgress
      else s.notDue
    | none => s.notDue)

/-- The link is lost to the host, for a cause of R341; from L0 this is an exit too. -/
def State.linkLost (s : State) (cause : Nat) (after : LinkState) : State :=
  let t := ((s.portLoss cause).updCxl fun c => { c with leftL0 := none }).cxlState after
  if s.linkUp then t.countExit else t

/-- CXL_LINK_TIMEOUT. -/
def execCxlLinkTimeout (s : State) : Res :=
  .next (match s.cxl.leftL0 with
    | some t => if t + ms 50 ≤ s.now then s.ok.linkLost 0 .down else s.notDue
    | none => s.notDue)

/-- The decoder's setting is that of a port reset (PRESUMED, log 51). -/
def State.decoderReset (s : State) : State := s.updCxl fun c => { c with hdmCommitted := false, hdmError := false, hdmBase := 0, hdmSize := 0 }

/-- CXL_HOT_RESET: the link trains again. -/
def execCxlHotReset (s : State) : Res := .next (if s.linkAlive then (s.ok.linkLost 1 .training).decoderReset else s.notDue)

/-- CXL_LINK_DISABLE: the link is down until it trains again. -/
def execCxlLinkDisable (s : State) : Res := .next (if s.linkAlive then (s.ok.linkLost 1 .down).decoderReset else s.notDue)

/-- CXL_FLR: the function is reset, the link stays up. -/
def execCxlFlr (s : State) : Res := .next (if s.linkUp then s.ok.portLoss 2 else s.notDue)

/-- PERST_N_ASSERT: the fundamental reset of the port only (Table 13.13). -/
def execPerstNAssert (s : State) : Res :=
  .next (
    if !s.boot.perstN then s.notDue
    else
      let s1 := s.ok.updBoot fun b => { b with perstN := false }
      if s.eci.devState = .uninit ∨ s.cxl.state = .down then s1 else (s1.linkLost 3 .down).decoderReset)

/-- PERST_N_DEASSERT: training begins once stage 3 has loaded the microcode. -/
def execPerstNDeassert (s : State) : Res :=
  .next (
    if s.boot.perstN then s.notDue
    else
      let s1 := s.ok.updBoot fun b => { b with perstN := true }
      if s.cxl.microcode then s1.cxlState .training else s1)

/-! ## The device mailbox (R329, R411) -/

/-- Die K serves the mailbox in every state but UNINIT, over a link that carries requests. -/
def State.mailboxed (s : State) (f : State → State) : State :=
  if s.eci.devState = .uninit ∨ !s.linkUp then s.notDue else f s

/-- Bytes of a payload that the spec does not give: free values (log 52). -/
def openBytes (command from_ n : Nat) : List Byte := (List.range n).map fun i => Config.mailboxByte command (from_ + i)

/-- IDENTIFY_MEMORY_DEVICE: 2,560 GiB, all volatile, in units of 256 MiB (R332; the layout is CXL 3.1's, log 52). -/
def execIdentifyMemoryDevice (s : State) : Res :=
  .next (s.mailboxed fun t => t.answer (.mailbox 0
    (openBytes 0x4000 0 16 ++ leBytes (t.dramTop / 2 ^ 28) 8 ++ leBytes (t.dramTop / 2 ^ 28) 8 ++ leBytes 0 8 ++ openBytes 0x4000 40 29)))

/-- The two DSMAS ranges of CDAT: base, size, and the latency at N in nanoseconds (R332, Table 13.3). A host reads them by DOE, for which
the command table has no row. -/
def State.cdat (s : State) : List (Nat × Nat × Nat) := [(0, hbmBase, 340), (hbmBase, s.dramTop - hbmBase, 260)]

/-- The Command Effects Log: one entry of 4 bytes per supported opcode. -/
def effectsLog : List Byte := [0x4000, 0x0400, 0x0401, 0x0100, 0x0101].flatMap fun (o : Nat) => leBytes o 2 ++ openBytes o 0x1000 2

/-- Identifier of the Command Effects Log, as CXL 3.1 gives it. -/
def effectsUuid : List Byte :=
  [0x0d, 0xa9, 0xc0, 0xb5, 0xbf, 0x41, 0x4b, 0x78, 0x8f, 0x79, 0x96, 0xb1, 0x62, 0x3b, 0x3f, 0x17]

/-- GET_SUPPORTED_LOGS: the one log, with its size (log 52). -/
def execGetSupportedLogs (s : State) : Res :=
  .next (s.mailboxed fun t => t.answer (.mailbox 0 (leBytes 1 2 ++ leBytes 0 6 ++ effectsUuid ++ leBytes effectsLog.length 4)))

/-- GET_LOG: a part of that log; a part outside it is Invalid Input (log 52). -/
def execGetLog (offset length : Nat) (s : State) : Res :=
  .next (s.mailboxed fun t =>
    if effectsLog.length < offset + length then t.answer (.mailbox 2 [])
    else t.answer (.mailbox 0 ((effectsLog.drop offset).take length)))

/-- The CXL log that names an event's class (Table 16.1): 1 warning, 2 failure, 3 fatal; corrected events name none. -/
def cxlLog (c : Fin 5) : Option (Fin 4) :=
  match c with
  | 0 => none
  | 1 => some 1
  | 2 => some 1
  | 3 => some 2
  | 4 => some 3

/-- The handle of a record in the CXL logs (log 52). -/
def Event.handle (e : Event) : Nat := e.seq % 65535 + 1

/-- A vendor-specific record of 128 bytes: header, handle, time, and the 64-byte record as its data (log 52). -/
def vendorRecord (e : Event) : List Byte :=
  openBytes 0x0100 0 16 ++ leBytes 0x80 1 ++ leBytes 0 3 ++ leBytes e.handle 2 ++ leBytes 0 2 ++ leBytes e.time 8 ++ leBytes 0 16
    ++ eventRecord e.read e ++ leBytes 0 16

/-- Unread records of a log. -/
def State.inLog (s : State) (log : Fin 4) : List Event := s.unread.filter fun e => cxlLog e.cls == some log

/-- GET_EVENT_RECORDS: the unread records of a log; reading does not mark them (R411). -/
def execGetEventRecords (log : Fin 4) (s : State) : Res :=
  .next (s.mailboxed fun t =>
    let l := t.inLog log
    t.answer (.mailbox 0 (leBytes 0 20 ++ leBytes l.length 2 ++ leBytes 0 10 ++ l.flatMap vendorRecord)))

/-- CLEAR_EVENT_RECORDS marks the named records read (R411). -/
def execClearEventRecords (log : Fin 4) (handles : List Nat) (s : State) : Res :=
  .next (s.mailboxed fun t =>
    let hit (e : Event) : Bool := !e.read && cxlLog e.cls == some log && handles.contains e.handle
    (t.updLogs fun x => { x with events := updWhere x.events hit fun e => { e with read := true } }).answer (.mailbox 0 []))

/-- MAILBOX_UNSUPPORTED: every other opcode. -/
def execMailboxUnsupported (opcode : BitVec 16) (s : State) : Res :=
  .next (s.mailboxed fun t => if [0x4000, 0x0400, 0x0401, 0x0100, 0x0101].contains opcode.toNat then t.notDue else t.answer (.mailbox 0x15 []))

end Sys2Proof.Machine
end

