-- ==== Sys2Proof/Machine/Updraft.lean ====
section
/-!
DEFINITION. Updraft: demand reads of weight frames, lifts, read-ahead, read-retry, peers, poison, and stalls (R233 to R235, R246 to
R254, R258 to R260, R443).
-/

namespace Sys2Proof.Machine

/-! ## Starting lifts -/

/-- The request to a peer for a frame (Table 13.9): one unit with the model and the object, the frame index as the address. -/
def liftMsg (self dst : BitVec 8) (tag : BitVec 16) (fid : FrameId) : Msg :=
  { opc := 0x06, dst := dst, src := self, vc := 0, hops := 0, tag := tag, marks := 0, addr := BitVec.ofNat 48 fid.f, aux := 0,
    data := leBytes fid.model.toNat 4 ++ leBytes fid.obj 4 ++ leBytes 0 8 }

/-- A lift goes to the source it names: a request to a peer leaves once the lift has its pool frame (R347). -/
def State.goLift (s : State) (fid : FrameId) : State :=
  match s.liftOf fid with
  | none => s
  | some l =>
    let src := l.srcOf (s.sourcesOf fid)
    if src = 0xFE ∨ l.frame.isNone ∨ l.started then s
    else
      let dst : BitVec 8 := BitVec.ofNat 8 src
      (s.updLift fid fun x => { x with started := true, delivered := false }).peerRequest dst (.lift fid) fun tag =>
        liftMsg s.eci.moduleIndex dst tag fid

/-- A frame for a lift: the pool frame becomes a WEIGHT frame of the model, and the lift goes on. -/
def State.giveFrame (s : State) (m : Model) (fid : FrameId) (f : Nat) : State :=
  let s1 := s.addFrame { frame := f, cls := .weight, tenant := m.tenant, model := m.id, fid := some fid, stamp := s.now }
  ((s1.updLift fid fun l => { l with frame := some f }).updWframe fid fun w => { w with frame := some f }).goLift fid

/-- One waiting lift asks for a frame, as many as `ahead` lifts being served before it. -/
def State.feedLift (s : State) (l : Lift) (ahead : Nat) : State × Nat :=
  match s.model l.fid.model with
  | none => (s, ahead)
  | some m => match s.takeWeight m (l.cls == 3) ahead with
    | (.got f, v) => (v.giveFrame m l.fid f, ahead)
    | (.coming, v) => (v, ahead + 1)
    | (.none, v) => (v, ahead)

/-- Lifts that wait for a frame take one, oldest first (R244). -/
def State.feedLifts (s : State) : State :=
  (s.tiers.lifts.foldl (fun (u : State × Nat) l => if l.frame.isSome || l.transit.isSome then u else u.1.feedLift l u.2) (s, 0)).1

/-- The pool frame of a lift given back. -/
def State.dropFrame (s : State) (f : Option Nat) : State :=
  match f with
  | none => s
  | some k => (s.updTiers fun t => { t with frames := t.frames.filter fun x => x.frame != k }).feedLifts

/-- A lift queued: the frame is LIFTING from here on (R443). -/
def State.queueLift (s : State) (fid : FrameId) (src cls : Nat) (by_ : LiftBy) : State :=
  s.updTiers fun t => { t with
    lifts := t.lifts ++ [{ fid := fid, cls := cls, since := s.now, source := src }]
    weights := t.weights ++ [{ fid := fid, st := .lifting, by_ := by_ }] }

/-- A prefetch of an absent frame: accepted when it has a source and a pool frame, or a candidate whose demotion frees one (R244). -/
def State.prefetch (s : State) (m : Model) (fid : FrameId) (by_ : LiftBy) : Option State :=
  if (s.wframe fid).isSome then none
  else match s.sourceFrom fid 0 with
    | none => none
    | some k => match s.takeWeight m true s.waitingLifts with
      | (.none, _) => none
      | (.coming, v) => some (v.queueLift fid k 3 by_)
      | (.got f, v) => some ((v.queueLift fid k 3 by_).giveFrame m fid f)

/-- Does the map of the running step allow a read of a frame's pages (R163). -/
def Variant.allowsFrame (v : Variant) (m : Model) (fid : FrameId) : Bool :=
  match m.manifest.objects[fid.obj]? with
  | none => false
  | some o =>
    let page := (m.manifest.arenaVa + (o.frame + fid.f) * Config.frameBytes) / Config.pageBytes
    (List.range 512).all fun k => v.allows 0 (page + k) false false

/-- Read-ahead behind a demand lift (R250): absent frames of the same object, up to the model's limit, stopped at the access map. -/
def State.readAhead (s : State) (x : AccessEnv) (fid : FrameId) : Nat → Nat → State
  | 0, _ => s
  | n + 1, k =>
    let next : FrameId := { fid with f := fid.f + k }
    match x.m.manifest.objects[fid.obj]? with
    | none => s
    | some o =>
      if o.frames ≤ next.f then s
      else if !x.v.allowsFrame x.m next then s.count .runaheadClipped
      else match s.prefetch x.m next .ahead with
        | some u => State.readAhead (u.count .updAheadFrames) x fid n (k + 1)
        | none => State.readAhead s x fid n (k + 1)

/-! ## A demand read of a frame (R246) -/

/-- What a demand read of a frame comes to. -/
inductive FrameRead where
  /-- The frame is PRESENT at this address. -/
  | at_ (pa : Nat)
  /-- The read completes with zeros that carry a mark. -/
  | marked (m : Mark)
  | wait
  deriving DecidableEq, Repr

/-- The read of a channel on a frame waits no more. -/
def State.endWait (s : State) (r : Reader) (fid : FrameId) : State :=
  (s.updTiers fun t => { t with waits := t.waits.filter fun w => !(w.who == r && w.fid == fid) }).settleStalls

/-- A read of a channel has ended: it waits on nothing more. -/
def State.doneWaits (s : State) (r : Reader) : State :=
  if s.tiers.waits.any (·.who == r) then (s.updTiers fun t => { t with waits := t.waits.filter fun w => w.who != r }).settleStalls
  else s

/-- The first demand read of a frame in its stay counts for who queued it (R234, R268). -/
def State.countUse (s : State) (w : WFrame) : State :=
  if w.used then s
  else
    let ready := w.st == .present
    let s1 := s.updWframe w.fid fun x => { x with used := true }
    match w.by_ with
    | .demand => s1
    | .pred => let u := s1.count .predUsed; if ready then u.count .predTimely else u
    | .ahead => let u := s1.count .updAheadUsed; if ready then u.count .updAheadTimely else u

/-- Every read that waits on a frame ends now with its data marked UNREADABLE (R247, R260). -/
def State.badWaits (s : State) (fid : FrameId) : State :=
  (s.updTiers fun t => { t with waits := updWhere t.waits (fun w => w.fid == fid && !w.late) fun w => { w with bad := true } }).settleStalls

/-- FRAME_POISONED (R260): counted, reported, entered in the lifetime record; waiting reads complete marked. -/
def State.poisonFrame (s : State) (fid : FrameId) : State :=
  let s1 := (s.updTiers fun t => { t with
    weights := t.weights.filter (fun w => w.fid != fid) ++ [{ fid := fid, st := .poisoned }]
    lifts := t.lifts.filter fun l => l.fid != fid || l.transit.isSome }).badWaits fid
  ((s1.count .framesPoisoned).lifeAdd 0x0B 33 1).event 1 0x0102 unitNone 0 (argBits [(0, fid.model.toNat), (32, fid.obj), (64, fid.f)])

/-- An ABSENT frame of a loaded model whose local copy is unreadable is POISONED once it has no usable source: no peer is named, or the
path to every one is lost (R260; log 93). -/
def State.poisonIfDue (s : State) (fid : FrameId) : State :=
  if (s.model fid.model).isSome && (s.wframe fid).isNone && (s.sourceFrom fid 0).isNone then s.poisonFrame fid else s

def State.poisonDue (s : State) : State := s.tiers.unreadable.foldl (fun u fid => u.poisonIfDue fid) s

/-- A demand read of a frame that was predicted in the same microsecond: the two are a demand fetch only (R235). -/
def State.sameMicrosecond (s : State) (x : AccessEnv) (w : WFrame) : State :=
  if w.by_ == .pred && s.tiers.predNew.contains w.fid then
    let s1 := s.updTiers fun t => { t with predNew := t.predNew.filter (· != w.fid) }
    let s2 := (s1.updWframe w.fid fun y => { y with by_ := .demand }).updLift w.fid fun l => { l with cls := 1 }
    (s2.count .updDemand).readAhead x w.fid x.m.ahead 1
  else s.countUse w

/-- A demand read of a frame by a channel (R246, R247, R250, R443). -/
def State.demandFrame (s : State) (x : AccessEnv) (r : Reader) (fid : FrameId) : FrameRead × State :=
  if s.tiers.waits.any fun w => w.who == r && w.fid == fid && w.late then (.marked .late, s)
  else if s.tiers.waits.any fun w => w.who == r && w.fid == fid && w.bad then (.marked .unreadable, s)
  else
    let waiting (u : State) : FrameRead × State :=
      if u.tiers.waits.any fun w => w.who == r && w.fid == fid then (.wait, u)
      else (.wait, (u.updTiers fun t => { t with waits := t.waits ++ [{ who := r, fid := fid, since := u.now, limitMs := x.m.lateMs }] }).settleStalls)
    match s.wframe fid with
    | some w =>
      match w.st with
      | .present =>
        let s1 := (s.countUse w).endWait r fid
        let fr := w.frame.getD 0
        (.at_ (frameAddr fr), s1.updTiers fun t => { t with
          frames := updFirst t.frames (·.frame == fr) fun f => { f with stamp := s.now, stepRead := true } })
      | .poisoned => (.marked .unreadable, s.endWait r fid)
      | .lifting =>
        let s1 := (s.sameMicrosecond x w).updLift fid fun l => if l.cls = 3 ∧ !l.started then { l with cls := 1 } else l
        waiting s1
    | none =>
      match s.sourceFrom fid 0 with
      | some k =>
        let s1 := ((s.queueLift fid k 1 .demand).count .updDemand).feedLifts
        waiting (s1.readAhead x fid x.m.ahead 1)
      | none =>
        if s.tiers.unreadable.contains fid then (.marked .unreadable, (s.poisonFrame fid).endWait r fid)
        else (.marked .unreadable, s.endWait r fid)

/-- WEIGHT_FRAME_READ by a channel that runs a program of the frame's model. -/
def execWeightFrameRead (r : Reader) (fid : FrameId) (s : State) : Res :=
  .next (match (s.readerTask r).bind fun t => s.taskEnv r.sq t.key 0 with
    | none => s.notDue
    | some x =>
      if x.m.id != fid.model || !((x.m.manifest.objects[fid.obj]?).any fun o => decide (fid.f < o.frames)) then s.notDue
      else match s.ok.demandFrame x r fid with
        | (.at_ _, u) => u
        | (.marked k, u) => (u.doneWaits r).answer (.data [] k)
        | (.wait, u) => u.waits)

/-! ## The end of a lift -/

/-- Order of service (R249): a lift that has started, then by class, then by age. -/
def Lift.rank (l : Lift) : Nat := (if l.started then 0 else l.cls) * 2 ^ 80 + l.since

/-- The lift that the flash serves: the first in order among those from local flash that have their frame (log 40). -/
def State.onFlash (s : State) : Option Lift :=
  minBy Lift.rank (s.tiers.lifts.filter fun l =>
    (l.transit.isSome && l.source == 0xFE) || (l.frame.isSome && l.srcOf (s.sourcesOf l.fid) == 0xFE))

/-- The frame is PRESENT: every read that waits on it may go on, and holds it until it has its data (R245, R248). -/
def State.liftDone (s : State) (l : Lift) : State :=
  let s1 := s.updWframe l.fid fun w => { w with st := .present }
  let s2 := s1.updTiers fun t => { t with
    lifts := t.lifts.filter fun x => x.fid != l.fid || x.transit.isSome
    frames := updWhere t.frames (fun f => l.frame == some f.frame) fun f => { f with stamp := s.now, stepRead := false } }
  s2.settleStalls

/-- No source is left for a lift: POISONED where the local copy is unreadable (R260), else ABSENT again and its readers complete
marked (R247). -/
def State.liftFails (s : State) (l : Lift) : State :=
  let gone := s.updTiers fun t => { t with
    weights := t.weights.filter (fun w => w.fid != l.fid), lifts := t.lifts.filter fun x => x.fid != l.fid || x.transit.isSome }
  (if s.tiers.unreadable.contains l.fid then s.poisonFrame l.fid else gone.badWaits l.fid).dropFrame l.frame

/-- A prefetch that meets an uncorrectable read is abandoned (R233). -/
def State.abandonLift (s : State) (l : Lift) : State :=
  ((s.updTiers fun t => { t with
    weights := t.weights.filter fun w => w.fid != l.fid
    lifts := t.lifts.filter fun x => x.fid != l.fid || x.transit.isSome }).dropFrame l.frame).settleStalls

/-- A lift goes on to its next usable source behind source k, or fails. -/
def State.nextSource (s : State) (l : Lift) (k : Nat) : State :=
  match s.sourceFrom l.fid k with
  | some j => (s.updLift l.fid fun x => { x with source := j, retrying := false, delivered := false, started := false }).goLift l.fid
  | none => s.liftFails l

/-- The answer to a peer that asked for a frame: the stream with its bytes, and the status it ends with (R251, R346). -/
def State.answerLift (s : State) (dst : BitVec 8) (tag : BitVec 16) (l : List Byte) (status : Nat) : State :=
  let self := s.eci.moduleIndex
  let taken := s.takeTag dst self tag
  let s1 := taken.2.sendNow (streamOpenMsg self dst tag l.length purposeLift tag.toNat taken.1)
  let s2 := s1.sendStream dst self tag (pieces 640 (l.length / 640 + 1) l)
  (s2.sendNow (streamEndMsg self dst tag status)).dropTag dst self tag

/-- Every retry has failed (R259): the local copy is unreadable, and the peers in manifest order are next. -/
def State.retriesFailed (s : State) (l : Lift) : State :=
  let s1 := s.updTiers fun t => { t with unreadable := if t.unreadable.contains l.fid then t.unreadable else t.unreadable ++ [l.fid] }
  match l.transit with
  | some (dst, tag) => ((s1.updTiers fun t => { t with lifts := dropFirst t.lifts (· == l) }).answerLift dst tag [] 1).poisonIfDue l.fid
  | none => (s1.updLift l.fid fun x => { x with recover := true }).nextSource l 0

/-- A page of a lift cannot be decoded, or the frame's CRC fails, which counts as one (R248, R258): a prefetch is abandoned, a peer's copy
makes way for the next source, local flash begins its retries, or has had all seven. -/
def State.badRead (s : State) (l : Lift) : State :=
  if l.transit.isSome then
    if 7 ≤ l.retries then s.retriesFailed l
    else s.updTiers fun t => { t with lifts := updFirst t.lifts (· == l) fun x => { x with retrying := true } }
  else if l.cls = 3 then s.abandonLift l
  else if l.srcOf (s.sourcesOf l.fid) = 0xFE then
    if 7 ≤ l.retries then s.retriesFailed l
    else s.updLift l.fid fun x => { x with retrying := true, started := true }
  else s.nextSource l (l.source + 1)

/-- Do bytes match the CRC-64 that the installed copy of a frame keeps; a frame that was never installed here has none (R248). -/
def State.crcMatches (s : State) (fid : FrameId) (l : List Byte) : Bool :=
  match (s.tiers.installed.find? fun i => i.model == fid.model && i.obj == fid.obj).bind fun i => i.crcs[fid.f]? with
  | some c => crc64 l == c
  | none => true

/-- LIFT_COMPLETE: from flash in order of service, or from a peer that has delivered all of it. -/
def execLiftComplete (fid : FrameId) (crcOk : Bool) (s : State) : Res :=
  .next (
    let here := s.tiers.lifts.filter fun l => l.fid == fid
    let flash := s.onFlash.filter fun l => l.fid == fid && !l.retrying
    let far := here.find? fun l => l.delivered && l.transit.isNone
    match flash.or far with
    | none => if here.isEmpty then s.notDue else s.waits
    | some l =>
      let place := (s.flashPlace fid).getD 0
      let data := if l.delivered then s.bytes (frameAddr (l.frame.getD 0)) Config.frameBytes else s.flashBytes place
      if !crcOk || !s.crcMatches fid data then s.ok.badRead l
      else
        match l.transit with
        | some (dst, tag) =>
          let s1 := (s.ok.updTiers fun t => { t with lifts := dropFirst t.lifts (· == l) }).readFlash place id
          s1.answerLift dst tag data 0
        | none =>
          let pa := frameAddr (l.frame.getD 0)
          let clean (u : State) : State := (u.markRange pa Config.frameBytes .none).dramUse (if l.cls = 1 then 1 else 2) true pa Config.frameBytes
          if l.delivered then
            let s1 := clean (s.ok.liftDone l)
            if l.recover then s1.count .peerRecovered else s1
          else
            let s1 := (s.ok.putBytes pa data).readFlash place id
            (clean s1).liftDone l)

/-- UNCORRECTABLE_FLASH_READ: a page of the lift that the flash serves cannot be decoded; each page has its own retries (R258). -/
def execUncorrectableFlashRead (fid : FrameId) (page : Fin 32) (s : State) : Res :=
  .next (match s.onFlash.filter fun l => l.fid == fid && !l.retrying && !l.pages.contains page.val with
    | some l =>
      let l1 : Lift := { l with retries := 0, pages := l.pages ++ [page.val] }
      (s.ok.updTiers fun t => { t with lifts := updFirst t.lifts (· == l) fun _ => l1 }).badRead l1
    | none => s.notDue)

/-- FLASH_READ_RETRY: one of up to seven retries ends (R258); its block is to be relocated (R265). -/
def execFlashReadRetry (fid : FrameId) (decoded : Bool) (s : State) : Res :=
  .next (match s.tiers.lifts.find? fun l => l.fid == fid && l.retrying with
    | none => s.notDue
    | some l =>
      let piece := 32 * (s.flashPlace fid).getD 0 + l.pages.getLast?.getD 0
      let s1 := ((s.ok.count .flashRetry).lifeAdd 0x0B 32 1).updBlock (((s.pieceAt piece).map Piece.block).getD 0) fun b =>
        { b with reads := b.reads + 1, relocate := true }
      let n := l.retries + 1
      let l1 : Lift := { l with retries := n, retrying := !decoded }
      let s2 := s1.updTiers fun t => { t with lifts := updFirst t.lifts (· == l) fun _ => l1 }
      if decoded then s2 else if 7 ≤ n then s2.retriesFailed l1 else s2)

/-- WEIGHT_LATE_EXPIRE: a read's wait reaches the model's limit; it completes marked LATE, and the lift goes on (R254). -/
def execWeightLateExpire (r : Reader) (fid : FrameId) (s : State) : Res :=
  .next (match s.tiers.waits.find? (fun w => w.who == r && w.fid == fid && s.waitOpen w) with
    | some w =>
      if s.now < w.since + ms w.limitMs then s.notDue
      else (s.ok.updTiers fun t => { t with waits := updFirst t.waits (· == w) fun x => { x with late := true } }).settleStalls
    | none => s.notDue)

/-! ## The expert predictor (R233) -/

/-- Frames of the predictor in flight for a model. -/
def State.predInFlight (s : State) (m : BitVec 32) : Nat :=
  (s.tiers.lifts.filter fun l => l.fid.model == m && (s.wframe l.fid).any fun w => w.by_ == .pred && w.st == .lifting).length

/-- The routed layer that an arena frame belongs to; none behind the routed layers (R225). -/
def ExpertPlan.layerOf (e : ExpertPlan) (f : Nat) : Option Nat :=
  let l := f / e.objFrames / (e.experts + 1)
  if l < e.moeLayers then some l else none

/-- The history bitmap of a chain and routed layer, bit j for local expert j (R232). -/
def State.history (s : State) (m : Model) (c : Fin 16) (l : Nat) : Nat :=
  let e := m.image.expert
  let n := 64 * cdiv e.localCount 512
  ((m.pinAt (e.histVa + (c.val * e.moeLayers + l) * n)).map fun pa => s.word pa n).getD 0

/-- The modes of the predictor: next-step predicts any routed layer, next-layer the one behind a layer whose bitmap names an expert of the
running step (R232; log 94). -/
def State.predictable (s : State) (x : AccessEnv) (l : Nat) : Bool :=
  let e := x.m.image.expert
  let earlier : Bool := match x.chain, l with
    | some c, k + 1 => s.history x.m c k != 0
    | _, _ => false
  bitAt e.pred 0 || (bitAt e.pred 1 && earlier)

/-- One candidate of the predictor: a mapped, absent frame of a local object, within the budget and the access map. -/
def State.predict (s : State) (x : AccessEnv) (fid : FrameId) : State :=
  let e := x.m.image.expert
  match x.m.manifest.objects[fid.obj]? with
  | none => s
  | some o =>
    let va := x.m.manifest.arenaVa + (o.frame + fid.f) * Config.frameBytes
    let mapped := match s.weightSpot x.m va with
      | some (.weight g _) => g == fid
      | _ => false
    if o.frames ≤ fid.f || !mapped || !((e.layerOf (o.frame + fid.f)).any fun l => s.predictable x l) || (s.wframe fid).isSome || decide (e.predBudget ≤ s.predInFlight x.m.id) then s
    else if !x.v.allowsFrame x.m fid then s.count .runaheadClipped
    else match s.prefetch x.m fid .pred with
      | some u => u.updTiers fun t => { t with predNew := t.predNew ++ [fid] }
      | none => s

/-- The end of a microsecond: the predictions accepted in it count in PRED_FRAMES (R234, R235). -/
def State.countPredictions (s : State) : State :=
  (s.add .predFrames s.tiers.predNew.length).updTiers fun t => { t with predNew := [] }

/-- PRED_PREFETCH: candidates name objects and frames, frames of one object in rising order. -/
def execPredPrefetch (model : BitVec 32) (chain : Fin 16) (candidates : List (Nat × Nat)) (s : State) : Res :=
  .next (match s.accessEnv model chain with
    | none => s.notDue
    | some x =>
      let e := x.m.image.expert
      let rising := pairwiseB (fun a b => a.1 != b.1 || decide (a.2 < b.2)) candidates
      if e.moeLayers = 0 ∨ e.pred = 0 ∨ e.predBudget = 0 ∨ !rising then s.notDue
      else candidates.foldl (fun u c => u.predict x { model := model, obj := c.1, f := c.2 }) s.ok)

end Sys2Proof.Machine
end

