-- ==== Sys2Proof/Machine/Denbel.lean ====
section
/-!
DEFINITION. Denbel as a receiver: the link layer, routing, peer requests and their answers, streams, pod messages, and a loss of
REFCLK (R212 to R215, R251, R343 to R352, R432).
-/

namespace Sys2Proof.Machine

/-! ## Requests that end (R316, R350, R352) -/

def State.dropReq (s : State) (r : PeerReq) : State := s.updDnb fun d => { d with reqs := dropFirst d.reqs (· == r) }

/-- A request still waits for its answer: a read that has been answered stays until it is used. -/
def PeerReq.open_ (r : PeerReq) : Bool := r.chunks == 0 || decide (r.got.length < 64 * r.chunks)

/-- What a failed read brings: free bytes for a task that has failed, marked bytes for a core load, which faults. -/
def State.noData (s : State) (r : PeerReq) (m : Mark) : State :=
  let bytes := (List.range (64 * r.chunks)).map fun i => (BitVec.ofNat 8 (s.drawn (40 + i)).toNat, m)
  s.draw.updDnb fun d => { d with reqs := updFirst d.reqs (· == r) fun x => { x with got := bytes } }

/-- A core store that has timed out, as a device store (R309, R352). -/
def State.storeLost (s : State) (c : Fin 64) (pa size : Nat) : State :=
  (s.updCore c fun x => { x with
    devTimeout := x.devTimeout + 1, devStoreDiscard := x.devStoreDiscard + 1, pending := x.pending.or (some pa) }).event 1 0x0103
      (s.coreId c) 0 (argBits [(64, pa), (128, size)])

/-- A request fails with PEER_LINK_LOST, by who issued it (R352). -/
def State.failReq (s : State) (r : PeerReq) : State :=
  match r.what with
  | .write (some t) => (s.dropReq r).failTask t.1 t.2 .peerLinkLost
  | .read (some t) => (s.noData r .none).failTask t.1 t.2 .peerLinkLost
  | .write none | .read none => s.dropReq r
  | .coreLoad _ => s.noData r .unreadable
  | .coreStore c pa size => (s.dropReq r).storeLost c pa size
  | .lift fid =>
    let s1 := s.dropReq r
    match s1.liftOf fid with
    | some l => s1.nextSource l (l.source + 1)
    | none => s1
  | .stream op => (s.dropReq r).failByHandle op .peerLinkLost

/-- Requests to destinations that have become unreachable fail, and key-value transfers with them end (R215, R350, R352). -/
def State.failUnreachable (s : State) : State :=
  let s1 := (s.dnb.reqs.filter fun r => r.open_ && s.route r.dst == 15).foldl (fun u r => u.failReq r) s
  let s2 := (s1.srv.transfers.filter fun t => s1.route t.peer == 15).foldl (fun u t => u.failByHandle t.op .peerLinkLost) s1
  let lost (l : Lift) : Bool := let src := l.srcOf (s2.sourcesOf l.fid); l.transit.isNone && !l.started && src != 0xFE && s2.route (BitVec.ofNat 8 src) == 15
  ((s2.tiers.lifts.filter lost).foldl (fun u l => u.nextSource l (l.source + 1)) s2).poisonDue

/-- A destination that changes its route does so once its earlier messages have been answered or have timed out (R350). -/
def State.finishSwitch (s : State) : State :=
  let busy (d : Nat) : Bool := s.dnb.reqs.any fun r =>
    r.open_ && r.dst.toNat == d && !(s.dnb.outbox.any fun m => m.tag == r.tag && m.dst == r.dst)
  let ready := s.dnb.switching.filter fun d => !busy d
  if ready.isEmpty then s
  else
    (ready.foldl (fun u d =>
      let alt := (((s.eci.pod.map (·.routes)).getD []).getD d (15, 15)).2
      u.updDnb fun x => { x with routes := assocSet x.routes d alt, switching := x.switching.filter (· != d) }) s).pump

/-- PEER_TIMEOUT: the 200 ms timer of a request expires. -/
def execPeerTimeout (tag : BitVec 16) (s : State) : Res :=
  .next (match s.dnb.reqs.find? fun r => r.tag == tag && r.open_ with
    | none => s.notDue
    | some r => if s.now < r.since + ms 200 then s.notDue else ((s.ok.count .peerTimeout).failReq r).finishSwitch)

/-! ## The link layer (R344, R345, R347) -/

/-- Flits acknowledged leave the replay buffer: those up to and with the acknowledged number. -/
def ackFlits (l : List Flit) (ack : BitVec 10) : List Flit :=
  if l.any (·.seq == ack) then (l.dropWhile fun f => f.seq != ack).drop 1 else l

/-- What a flit header tells the sender: acknowledgement and credits. -/
def DnbPort.hear (p : DnbPort) (f : Flit) : DnbPort :=
  let rest := if f.ackv then ackFlits p.replay f.ack else p.replay
  let p1 := { p with replay := rest, replays := if rest.length < p.replay.length then [] else p.replays }
  if h : f.crvc.toNat < 5 then
    { p1 with credits := upd p1.credits ⟨f.crvc.toNat, h⟩ fun n => min (pick advertised ⟨f.crvc.toNat, h⟩) (n + f.crcnt.toNat) }
  else p1

/-- A port leaves UP to train again; it keeps its replay buffer. -/
def State.retrainPort (s : State) (p : Fin 4) : State :=
  if !(s.port p).state.isUp then s
  else ((s.count (portCtr .dnbRetrain0 .dnbRetrain1 .dnbRetrain2 .dnbRetrain3 p)).lifeAdd 0xA (1 + p.val) 1).updPort p fun x =>
    { x with state := .training, leftUp := some s.now, tState := s.now, retrains := x.retrains + 1, replays := [] }

/-- Times of the replays since the last progress, the latest 16 (R345). -/
def DnbPort.replayed (p : DnbPort) (now : Nat) : List Nat := (now :: p.replays).take 16

/-- Everything unacknowledged is sent again; the sixteenth replay within 100 us without progress makes the port train again (R345). -/
def State.replayPort (s : State) (p : Fin 4) : State :=
  let l := (s.port p).replayed s.now
  let s1 := (s.add (portCtr .dnbReplay0 .dnbReplay1 .dnbReplay2 .dnbReplay3 p) (s.port p).replay.length).updPort p fun x => { x with replays := l }
  if l.length = 16 ∧ s.now ≤ l.getLastD 0 + us 100 then s1.retrainPort p else s1

/-- A sequenced flit is accepted in order and spends the credits of its class; any other is discarded with a NAK. -/
def DnbPort.accept (p : DnbPort) (f : Flit) : DnbPort :=
  if f.seq = p.rxSeq then
    let c := flitCost f
    { p with rxSeq := p.rxSeq + 1, granted := upd p.granted c.1 fun n => n - c.2 }
  else { p with nakOwed := true }

/-- DNB_FLIT_RECEIVE: the messages and stream data of an accepted flit come as commands of their own (DESIGN CHOICE, log 31). -/
def execDnbFlitReceive (p : Fin 4) (flit : Flit) (decodable corrected : Bool) (s : State) : Res :=
  .next (
    if !(s.port p).state.isUp then s.notDue
    else if !decodable then s.ok.updPort p fun x => { x with nakOwed := true }
    else
      let s1 := if corrected then s.ok.count (portCtr .dnbFecCorr0 .dnbFecCorr1 .dnbFecCorr2 .dnbFecCorr3 p) else s.ok
      let s2 := s1.updPort p fun x => x.hear flit
      let s3 := if flit.nak then s2.replayPort p else s2
      let s4 := if flit.kind = 1 ∨ flit.kind = 2 then s3.updPort p fun x => x.accept flit else s3
      s4.drainPort p)

/-- DNB_NAK: the sender replays from ACK + 1. -/
def execDnbNak (p : Fin 4) (ack : BitVec 10) (s : State) : Res :=
  .next (
    if !(s.port p).state.isUp then s.notDue
    else
      let heard : Flit := { emptyFlit with ack := ack, ackv := true, nak := true }
      ((s.ok.updPort p fun x => x.hear heard).replayPort p).drainPort p)

/-- DNB_RETRAIN: on a loss of lane lock, which may come at any time; after 16 replays the port trains without it. -/
def execDnbRetrain (p : Fin 4) (s : State) : Res :=
  .next (if (s.port p).state.isUp then s.ok.retrainPort p else s.notDue)

/-- The POD message of this module: its identity and the digest of the pod description (Table 13.9). -/
def State.podMsg (s : State) (p : Fin 4) : Msg :=
  let digest := match s.eci.pod with
    | some d => Config.sha512 d.raw
    | none => List.replicate 64 0
  { opc := 0x0A, dst := (s.port p).neighbour, src := s.eci.moduleIndex, vc := 3, hops := 0, tag := 0, marks := 0, addr := 0, aux := 0,
    data := leBytes s.eci.moduleIndex.toNat 16 ++ digest }

/-- Destinations that were unreachable because a port was DOWN, without an alternate, are reached by it again (DEDUCED, log 98). -/
def State.regainRoutes (s : State) (p : Fin 4) : State :=
  let primary (d : Nat) : Bool := ((((s.eci.pod.map (·.routes)).getD []).getD d (15, 15)).1) == p.val
  s.updDnb fun x => { x with routes := x.routes.map fun r => if r.2 == 15 && primary r.1 then (r.1, p.val) else r }

/-- DNB_PORT_UP: at full or degraded width. A port that comes back from training goes on where it was; one that was DOWN starts with
the credits of Table 13.10. -/
def execDnbPortUp (p : Fin 4) (lanes : Nat) (s : State) : Res :=
  .next (
    let x := s.port p
    if x.state.isUp ∨ x.heldDown ∨ !s.cxl.microcode ∨ lanes < 8 then s.notDue
    else
      let up (y : DnbPort) : DnbPort := { y with
        state := if 16 ≤ lanes then .up else .degraded, width := if 16 ≤ lanes then 16 else 8, leftUp := none, tState := s.now, replays := [] }
      let fresh (y : DnbPort) : DnbPort := { y with
        txSeq := 0, rxSeq := 0, replay := [], nakOwed := false, credits := advertised, granted := advertised, sendQ := [], streams := [], txTags := [] }
      if x.leftUp.isSome then (s.ok.updPort p up).pump
      else (((s.ok.regainRoutes p).updPort p fun y => { fresh (up y) with sendQ := [msgFlit (s.podMsg p)] })).pump)

/-- A port enters DOWN, destinations switch or are lost (R350). -/
def State.portLost (s : State) (p : Fin 4) : State := ((s.portGone p).failUnreachable).finishSwitch

/-- DNB_PORT_DOWN: not UP 100 ms after leaving UP. -/
def execDnbPortDown (p : Fin 4) (s : State) : Res :=
  .next (match (s.port p).leftUp with
    | some t => if t + ms 100 ≤ s.now then s.ok.portLost p else s.notDue
    | none => s.notDue)

/-- DNB_POD: the neighbour's identity; another than the pod description names holds the port DOWN (R349). -/
def execDnbPod (p : Fin 4) (neighbour : BitVec 8) (s : State) : Res :=
  .next (
    if !(s.port p).state.isUp then s.notDue
    else (((s.ok.updPort p fun x => { x with neighbour := neighbour }).checkNeighbour p).failUnreachable).finishSwitch)

/-! ## Messages for another module (R349) -/

/-- A message forwarded, or discarded at 8 hops or where there is no route. -/
def State.forward (s : State) (m : Msg) : State :=
  match routePort (s.route m.dst) with
  | some p => if m.hops = 7 then s.count .dnbUnroutable
    else (s.updPort p fun x => { x with sendQ := x.sendQ ++ [msgFlit { m with hops := m.hops + 1 }] }).drainPort p
  | none => s.count .dnbUnroutable

/-- A message can arrive: some port is UP. -/
def State.denbelUp (s : State) : Bool := (List.finRange 4).any fun p => (s.port p).state.isUp

/-- DNB_FORWARD; it goes on in Lull and Frost. -/
def execDnbForward (m : Msg) (s : State) : Res :=
  .next (if !s.denbelUp ∨ m.dst = s.eci.moduleIndex then s.notDue else s.ok.forward m)

/-- A message for this module, which wakes it if it sleeps (R345). -/
def State.arrives (s : State) (m : Msg) (f : State → State) : State :=
  if !s.denbelUp ∨ m.dst ≠ s.eci.moduleIndex ∨ s.boot.stage ≠ 9 then s.notDue else s.whenAwake f

/-! ## Peer reads and writes (R335, R348) -/

/-- The port that a source's messages come by, for the event of R335. -/
def State.portOf (s : State) (src : BitVec 8) : InPort :=
  match routePort (s.route src) with
  | some p => ⟨p.val + 1, by omega⟩
  | none => 1

/-- The mark of chunk c of a message. -/
def msgMark (m : Msg) (c : Nat) : Mark := markOfCode (bitsAt m.marks.toNat (2 * c) 2)

/-- Data units of a message with their chunk marks. -/
def msgData (m : Msg) : List MByte := m.data.zipIdx.map fun x => (x.1, msgMark m (x.2 / 64))

/-- The acknowledgement of one write, sent when it has been performed. -/
def wackMsg (self dst : BitVec 8) (tag : BitVec 16) : Msg :=
  { opc := 0x05, dst := dst, src := self, vc := 2, hops := 0, tag := tag, marks := 0, addr := 0, aux := 1, data := [] }

/-- DNB_WR: each admitted chunk is performed; refused ones are acknowledged all the same. -/
def execDnbWr (m : Msg) (s : State) : Res :=
  .next (s.arrives m fun t =>
    (t.inWrite (.peer m.src.toNat) (t.portOf m.src) m.addr.toNat (msgData m)).sendNow (wackMsg t.eci.moduleIndex m.src m.tag))

/-- A chunk merged with what its enabled bytes bring; a chunk written in part keeps its mark beside the new one. -/
def State.maskedChunk (s : State) (a mask : Nat) (data : List Byte) (mark : Mark) : List MByte :=
  let all := mask % 2 ^ 64 == 2 ^ 64 - 1
  (List.range 64).map fun i =>
    (if bitAt mask i then data.getD i 0 else s.byteAt (a + i), if all then mark else joinMark mark (s.markAt a))

/-- DNB_WRP: a write of one chunk under a byte mask. -/
def execDnbWrp (m : Msg) (s : State) : Res :=
  .next (s.arrives m fun t =>
    let a := m.addr.toNat / 64 * 64
    let mask := leNat (m.data.take 8)
    let t1 := if mask = 0 then t
      else t.inWrite (.peer m.src.toNat) (t.portOf m.src) a (t.maskedChunk a mask (m.data.drop 16) (msgMark m 0))
    t1.sendNow (wackMsg t.eci.moduleIndex m.src m.tag))

/-- The answer to a read: its chunks with their marks. -/
def rdrMsg (self dst : BitVec 8) (tag : BitVec 16) (l : List MByte) : Msg :=
  let marks := argBits ((List.range (l.length / 64)).map fun c => (2 * c, markCode (joinMarks (((l.drop (64 * c)).take 64).map (·.2)))))
  { opc := 0x04, dst := dst, src := self, vc := 2, hops := 0, tag := tag, marks := BitVec.ofNat 8 marks, addr := 0, aux := 0, data := l.map (·.1) }

/-- DNB_RD, with what error correction finds in its first line: the earlier writes of its source have been performed; a refused read brings marked zeros (Table 13.5). -/
def execDnbRd (m : Msg) (ecc : Ecc) (s : State) : Res :=
  .next (s.arrives m fun t =>
    let n := 64 * m.aux.toNat
    match t.inRead (.peer m.src.toNat) (t.portOf m.src) (m.addr.toNat / 64 * 64) n ecc with
    | (some l, u) => u.sendNow (rdrMsg t.eci.moduleIndex m.src m.tag l)
    | (none, u) => u.sendNow (rdrMsg t.eci.moduleIndex m.src m.tag (withMark .unreadable (List.replicate n 0))))

/-- Does whoever asked for a read still want it. -/
def State.wanted (s : State) (r : PeerReq) : Bool :=
  match r.what with
  | .read (some t) => ((s.sq t.1).task t.2).isSome
  | .read none => false
  | _ => true

/-- DNB_RDR: the data reaches the request with its tag; an answer that comes too late is dropped. -/
def execDnbRdr (m : Msg) (s : State) : Res :=
  .next (s.arrives m fun t =>
    match t.dnb.reqs.find? fun r => r.tag == m.tag && r.dst == m.src && r.chunks != 0 && r.open_ with
    | none => t
    | some r =>
      if m.data.length ≠ 64 * r.chunks then t
      else if !t.wanted r then (t.dropReq r).finishSwitch
      else (t.updDnb fun d => { d with reqs := updFirst d.reqs (· == r) fun x => { x with got := msgData m } }).finishSwitch)

def PeerReq.isWrite (r : PeerReq) : Bool :=
  match r.what with
  | .write _ | .coreStore _ _ _ => true
  | _ => false

/-- DNB_WACK: the oldest writes to a module are acknowledged, as many as the message counts. -/
def State.acknowledge (s : State) (d : BitVec 8) : Nat → State
  | 0 => s
  | n + 1 =>
    match s.dnb.reqs.find? fun r => r.isWrite && r.dst == d with
    | none => s
    | some r => State.acknowledge (s.dropReq r) d n

def execDnbWack (m : Msg) (s : State) : Res :=
  .next (s.arrives m fun t => (t.acknowledge m.src m.aux.toNat).finishSwitch)

/-! ## Lifts for a peer (R251) -/

/-- The bytes of a PRESENT frame as they are sent, marked chunks as zeros, and the status of their stream (R346). -/
def State.frameOut (s : State) (f : Nat) : List Byte × Nat :=
  let pa := frameAddr f
  if s.markOf pa Config.frameBytes = .none then (s.bytes pa Config.frameBytes, 0)
  else ((List.range (Config.frameBytes / 64)).flatMap fun c => s.chunkOut (pa + 64 * c), 1)

/-- DNB_LIFT: served from the pool, or lifted from this module's flash into a transit buffer. -/
def execDnbLift (m : Msg) (s : State) : Res :=
  .next (s.arrives m fun t =>
    let fid : FrameId := { model := BitVec.ofNat 32 (leNat (m.data.take 4)), obj := leNat ((m.data.drop 4).take 4), f := m.addr.toNat }
    match (t.wframe fid).filter fun w => w.st == .present with
    | some w => (t.dramUse 2 false (frameAddr (w.frame.getD 0)) Config.frameBytes).answerLift m.src m.tag (t.frameOut (w.frame.getD 0)).1 (t.frameOut (w.frame.getD 0)).2
    | none =>
      if t.usable fid 0xFE then
        t.updTiers fun x => { x with lifts := x.lifts ++ [{ fid := fid, cls := 2, since := t.now, source := 0xFE, transit := some (m.src, m.tag) }] }
      else t.answerLift m.src m.tag [] 1)

/-! ## Streams (R344, R346) -/

/-- The stream a message opens. -/
def streamOf (m : Msg) : Stream :=
  { stag := BitVec.ofNat 7 m.aux.toNat, src := m.src, dst := m.dst, mtag := m.tag, length := leNat (m.data.take 8),
    purpose := leNat ((m.data.drop 8).take 4), tag := leNat ((m.data.drop 12).take 4) }

/-- A stream message: for this module it wakes it, for another it goes on. -/
def State.streamStep (s : State) (p : Fin 4) (m : Msg) (on : State → State) (f : State → State) : State :=
  if !(s.port p).state.isUp then s.notDue
  else if m.dst = s.eci.moduleIndex then s.arrives m f
  else f (on s.ok)

/-- A STREAM_OPEN on its way takes a tag of the link it leaves by. -/
def State.forwardOpen (s : State) (m : Msg) : State :=
  let taken := s.takeTag m.dst m.src m.tag
  taken.2.forward { m with aux := taken.1.setWidth 16 }

/-- DNB_STREAM_OPEN: the stream tag is taken on the link. -/
def execDnbStreamOpen (p : Fin 4) (m : Msg) (s : State) : Res :=
  .next (s.streamStep p m (fun t => t.forwardOpen m) fun t =>
    t.updPort p fun x => { x with streams := x.streams.filter (fun y => y.stag != (streamOf m).stag) ++ [streamOf m] })

/-- Bytes of a stream delivered: into the frame of a lift, or into the block sets of an import (R212, R251). -/
def State.deliverStream (s : State) (x : Stream) (part : List Byte) : State :=
  if x.purpose = purposeLift then
    match s.dnb.reqs.find? fun r => r.tag.toNat == x.tag && r.dst == x.src with
    | none => s
    | some r =>
      match r.what with
      | .lift fid =>
        match (s.liftOf fid).bind (·.frame) with
        | some f => s.putBytes (frameAddr f + x.got) part
        | none => s
      | _ => s
  else
    match s.transferWith (BitVec.ofNat 32 x.tag) x.src false with
    | none => s
    | some t =>
      match (s.model t.model).bind (·.plan) with
      | some p => s.importBytes t p x.got part
      | none => s

/-- DNB_STREAM_FLIT: 640 bytes of a stream, the last flit padded. -/
def execDnbStreamFlit (p : Fin 4) (stag : BitVec 7) (data : List Byte) (s : State) : Res :=
  .next (match (s.port p).streams.find? (·.stag == stag) with
    | none => s.notDue
    | some x =>
      let go (t : State) : State :=
        let part := data.take (x.length - x.got)
        let t1 := if x.dst = t.eci.moduleIndex then t.deliverStream x part else t.sendStream x.dst x.src x.mtag [data]
        t1.updPort p fun y => { y with streams := updFirst y.streams (· == x) fun z => { z with got := min z.length (z.got + 640) } }
      if x.dst = s.eci.moduleIndex then (if s.pwr.sleep ≠ .awake then s.requested.waits else go s.requested.ok) else go s.ok)

/-- The end of a lift's stream: delivered, or not to be had from this source (R251, R259). -/
def State.endLiftStream (s : State) (x : Stream) (status : Nat) : State :=
  match s.dnb.reqs.find? fun r => r.tag.toNat == x.tag && r.dst == x.src with
  | none => s
  | some r =>
    match r.what with
    | .lift fid =>
      let s1 := s.dropReq r
      if status = 0 then s1.updLift fid fun l => { l with delivered := true }
      else match s1.liftOf fid with
        | some l => s1.nextSource l (l.source + 1)
        | none => s1
    | _ => s

/-- The end of a key-value stream: an unreadable one ends both operations (R346). -/
def State.endKvStream (s : State) (x : Stream) (status : Nat) : State :=
  let tag := BitVec.ofNat 32 x.tag
  if status = 0 then
    match s.transferWith tag x.src false with
    | some t => s.updTransfer t.op fun y => { y with streamEnd := some 0 }
    | none => s
  else s.endTogether tag x.src (if status = 1 then .dataUnreadable else .cancelled)

/-- DNB_STREAM_END: acted on once every flit has arrived; a cancelled stream sends no more. -/
def execDnbStreamEnd (p : Fin 4) (m : Msg) (s : State) : Res :=
  .next (match (s.port p).streams.find? fun x => x.src == m.src && x.dst == m.dst && x.mtag == m.tag with
    | none => s.notDue
    | some x =>
      if x.got < x.length ∧ m.aux ≠ 2 then s.waits
      else s.streamStep p m (fun t => (t.forward m).dropTag m.dst m.src m.tag) fun t =>
        let t1 := t.updPort p fun y => { y with streams := dropFirst y.streams (· == x) }
        if m.dst ≠ t.eci.moduleIndex then t1
        else (if x.purpose = purposeLift then t1.endLiftStream x m.aux.toNat else t1.endKvStream x m.aux.toNat).finishSwitch)

/-- DNB_KVX: a word of a key-value transfer. -/
def execDnbKvx (m : Msg) (word : KvxWord) (s : State) : Res := .next (s.arrives m fun t => t.kvx m word)

/-! ## REFCLK (R432) -/

/-- REFCLK_LOSS: clocked islands and the time base go on with the holdover oscillator; the CXL link and the Denbel links train again. -/
def execRefclkLoss (s : State) : Res :=
  .next (
    if s.boot.holdover ∨ !s.boot.supply.on then s.notDue
    else
      let s1 := (s.ok.updBoot fun b => { b with holdover := true }).leaveL0
      (List.finRange 4).foldl (fun u p => u.retrainPort p) s1)

end Sys2Proof.Machine
end

