-- ==== Sys2Proof/Machine/Move.lean ====
section
/-!
DEFINITION. Ranges of memory read and written on behalf of a task: page by page through the access map, with marks, waits and stops
(R158, R161 to R163, R171, R246, R255, R256, R338, R351).
-/

namespace Sys2Proof.Machine

/-- What the memory end of an access runs under. -/
structure Port where
  env : AccessEnv
  reader : Reader
  key : Nat
  region : Nat := 0
  snoop : Bool := false
  cls : Nat := 1

/-- What a read comes to. -/
inductive Fetched where
  | got (l : List MByte)
  | wait
  /-- Stopped at a page, with the bytes before it. -/
  | stop (why : PageFor) (l : List MByte)
  deriving DecidableEq, Repr

/-! ## Activities of an access (Table 15.2) -/

/-- The Front at whose base die an address lies: its chip memory or its HBM pair; none elsewhere. -/
def State.frontAt (s : State) (pa : Nat) : Option (Fin 8) :=
  if isChip pa then some ⟨(pa - chipBase) / chipBytes % 8, by omega⟩
  else if isHbm pa then (if h : (s.homeOf pa).val < 8 then some ⟨(s.homeOf pa).val, h⟩ else none)
  else none

/-- The 64-byte accesses of a task to n bytes of memory: near chip memory, HBM at a Front's home agent, and crossings of the
interfaces that they pass. -/
def State.countAccess (s : State) (q : Fin 64) (key pa n : Nat) : State :=
  let f := frontOf q
  let p := s.phaseOf q key
  let k := chunkCount pa n
  let at_ := s.frontAt pa
  let s1 := match at_ with
    | some g => if isHbm pa then s.activity g p 13 k else if g = f then s.activity f p 11 k else s
    | none => s
  if at_ = some f then s1
  else
    let s2 := s1.activity f p 12 k
    match at_ with
    | some g => s2.activity g p 12 k
    | none => s2

/-! ## Peers -/

/-- The reads that n bytes of a peer window take: window address and chunks of each, up to four. -/
def peerReads (pa n : Nat) : List (Nat × Nat) :=
  let l := chunksOf pa n
  (pieces 4 (l.length + 1) l).map fun c => (c.headD 0, c.length)

def State.peerReq (s : State) (task : Fin 64 × Nat) (base : Nat) : Option PeerReq :=
  s.dnb.reqs.find? fun r => r.base == base && r.what == .read (some task)

/-- A read of a peer window: requests that have not been sent are, and the bytes are there once every answer is (R351, R352). -/
def State.peerRead (s : State) (task : Fin 64 × Nat) (pa n : Nat) : Option (List MByte) × State :=
  let s1 := (peerReads pa n).foldl (fun u (x : Nat × Nat) =>
    if (u.peerReq task x.1).isSome then u
    else match u.peerTarget x.1 with
      | none => u
      | some t => u.peerAsk t.1 (.read (some task)) x.1 fun tag => rdMsg u.eci.moduleIndex t.1 tag t.2 x.2) s
  let parts := (peerReads pa n).map fun x => ((s1.peerReq task x.1).map (·.got)).getD []
  if (parts.zip (peerReads pa n)).all fun y => y.1.length == 64 * y.2.2 then
    (some ((parts.flatten.drop (pa % 64)).take n), s1)
  else (none, s1)

/-- Answered reads of a task in a range are used up. -/
def State.dropPeerReads (s : State) (task : Fin 64 × Nat) (pa n : Nat) : State :=
  s.updDnb fun d => { d with reqs := d.reqs.filter fun r => !(r.what == .read (some task) && inRange (pa / 64 * 64) (n + 64) r.base) }

/-! ## The schedule engine's caches (R120, R121) -/

/-- A page of a model's space enters a translation cache; the oldest of 1,024 gives way (log 88). -/
def Squall.translate (x : Squall) (m : BitVec 32) (page : Nat) : Squall :=
  if x.tlb.contains (m, page) then x else { x with tlb := (x.tlb ++ [(m, page)]).drop (x.tlb.length + 1 - 1024) }

/-- An access of a port to a page: the entry of the access map that covers it is read through the schedule engine's cache, and an address
of the model's space is translated. -/
def State.pageUse (s : State) (x : Port) (va : Nat) : State :=
  let q := x.reader.sq
  let page := va / Config.pageBytes
  let s1 := match x.env.v.map.findIdx? fun e => e.covers x.region page with
    | some i => s.schedRead q (x.env.m.imageAt + x.env.v.mapAt + 16 * i) 16
    | none => s
  if x.region = 0 then s1.updSq q fun y => y.translate x.env.m.id page else s1

/-! ## Reads -/

def Port.task (x : Port) : Fin 64 × Nat := (x.reader.sq, x.key)

/-- n bytes where a page leads; none while they wait. -/
def State.readSpot (s : State) (x : Port) (sp : Spot) (n : Nat) : Option (List MByte) × State :=
  match sp with
  | .zero => (some (withMark .none (List.replicate n 0)), s)
  | .mem pa =>
    let s1 := if x.snoop then s.snoop false pa n else s
    let r := s1.readAs (.dma x.reader.sq) pa n
    (some r.1, r.2)
  | .weight fid off =>
    match s.demandFrame x.env x.reader fid with
    | (.at_ pa, u) => (some (u.load (pa + off) n), u)
    | (.marked m, u) => (some (withMark m (List.replicate n 0)), u)
    | (.wait, u) => (none, u)
  -- a read follows the Squall's own pushed writes to the host (Table 12.2)
  | .host pa _ => let u := s.drainEgress; if u.linkUp then (some (u.load pa n), u) else (none, u)
  | .peer pa => s.peerRead x.task pa n
  | .dest _ _ => (some (withMark .unreadable (List.replicate n 0)), s)

/-- What a read that has ended leaves behind: activities, channel accesses, answers used. -/
def State.readDone (s : State) (x : Port) (sp : Spot) (n : Nat) : State :=
  match sp with
  | .zero => s
  | .mem pa => (s.countAccess x.reader.sq x.key pa n).dramRead x.cls pa n
  | .weight fid off =>
    match (s.wframe fid).bind (·.frame) with
    | some f => (s.countAccess x.reader.sq x.key (frameAddr f + off) n).dramRead x.cls (frameAddr f + off) n
    | none => s
  | .host pa _ => s.countAccess x.reader.sq x.key pa n
  | .peer pa => (s.countAccess x.reader.sq x.key pa n).dropPeerReads x.task pa n
  | .dest _ _ => s

def State.readPieces (x : Port) : List (Nat × Nat) → State → List MByte → Fetched × State
  | [], s, acc => (.got acc, s)
  | (va, n) :: l, s, acc =>
    match s.page x.env x.region va false with
    | .spot sp =>
      match s.readSpot x sp n with
      | (some d, u) => State.readPieces x l u (acc ++ d)
      | (none, u) => (.wait, u)
    | .denied => (.stop .denied acc, s)
    | .absent => (.stop .absent acc, s)
    | .lost => (.stop .lost acc, s)

/-- n bytes read from an address of the model's space or of a region. -/
def State.readRange (s : State) (x : Port) (va n : Nat) : Fetched × State :=
  match State.readPieces x (piecesOf va n) s [] with
  | (.wait, u) => (.wait, u)
  | (f, u) =>
    let len := match f with
      | .got l => l.length
      | .stop _ l => l.length
      | .wait => 0
    let done := (piecesOf va len).foldl (fun v (p : Nat × Nat) =>
      match v.page x.env x.region p.1 false with
      | .spot sp => (v.pageUse x p.1).readDone x sp p.2
      | .denied | .absent | .lost => v) u
    (f, done.doneWaits x.reader)

/-! ## Writes -/

/-- A list of bytes cut at 64-byte boundaries of its address, neighbours with one mark joined (R255). -/
def markRuns (pa : Nat) (l : List MByte) : List (Nat × List MByte × Mark) :=
  (chunksOf pa l.length).foldl (fun acc a =>
    let lo := max a pa
    let part := (l.drop (lo - pa)).take (a + 64 - lo)
    let m := joinMarks (part.map (·.2))
    match acc.getLast? with
    | some (b, d, k) => if k = m then acc.dropLast ++ [(b, d ++ part, k)] else acc ++ [(lo, part, m)]
    | none => [(lo, part, m)]) []

/-- The runs of a speculative write: up to 960 bytes, none across a 4 KiB page (R171). -/
def shadowRuns (va : Nat) (l : List MByte) : List (Nat × List MByte) :=
  (piecesOf va l.length).flatMap fun p =>
    ((pieces 960 6 ((l.drop (p.1 - va)).take p.2)).zipIdx).map fun d => (p.1 + 960 * d.2, d.1)

def State.shadowWrite (s : State) (x : Port) (va : Nat) (l : List MByte) : State :=
  match (s.sq x.reader.sq).task x.key with
  | none => s
  | some t =>
    let runs : List ShadowRun := (shadowRuns va l).map fun r =>
      { target := r.1, region := x.region, data := r.2.map (·.1), tag := t.rc.tag, chain := t.chain
        marks := (chunksOf r.1 r.2.length).zipIdx.map fun c =>
          (c.2, joinMarks (((r.2.drop (max c.1 r.1 - r.1)).take (c.1 + 64 - max c.1 r.1)).map (·.2))) }
    s.updModel x.env.m.id fun m => { m with shadow := m.shadow ++ runs }

/-- Bytes written where a page leads; a speculative task writes outside T0 into its shadow (R170, R171). -/
def State.writeSpot (s : State) (x : Port) (va : Nat) (sp : Spot) (l : List MByte) : State :=
  let n := l.length
  match sp with
  | .mem pa =>
    if x.env.spec && !isChip pa then s.shadowWrite x va l
    else
      -- a write that snoops is performed at its home agent before anything reads the line again (R298)
      let s1 := if x.snoop then s.snoop true pa n else s.freshWrite x.reader.sq x.key pa n
      (((s1.storeM pa l).noteKv x.env.m x.region va n).countAccess x.reader.sq x.key pa n).dramUse x.cls true pa n
  | .host pa id =>
    (markRuns pa l).foldl (fun u r => u.hostWrite r.1 (r.2.1.map (·.1)) r.2.2 (some x.task) id) (s.countAccess x.reader.sq x.key pa n)
  | .peer pa =>
    (markRuns pa l).foldl (fun u r => match u.peerTarget r.1 with
      | some t => u.peerWrite t.1 t.2 (r.2.1.map (·.1)) r.2.2 (some x.task)
      | none => u) (s.countAccess x.reader.sq x.key pa n)
  | .dest d pa =>
    (markRuns pa l).foldl (fun u r => u.peerWrite d r.1 (r.2.1.map (·.1)) r.2.2 (some x.task)) (s.countAccess x.reader.sq x.key peerBase n)
  | .weight _ _ | .zero => s

/-- Is any byte of a range resident chip memory. -/
def State.hitsResident (s : State) (pa n : Nat) : Bool := s.residentChip.any fun r => decide (pa < r.1 + r.2) && decide (r.1 < pa + n)

/-- What a write comes to: all of it is done, or it stopped at a page with the bytes before it written. -/
def State.writePieces (x : Port) (l : List MByte) (va : Nat) : List (Nat × Nat) → State → Option PageFor × State
  | [], s => (none, s)
  | (a, n) :: rest, s =>
    match s.page x.env x.region a true with
    | .spot sp => State.writePieces x l va rest ((s.pageUse x a).writeSpot x a sp ((l.drop (a - va)).take n))
    | .denied => (some .denied, s)
    | .absent => (some .absent, s)
    | .lost => (some .lost, s)

/-- Bytes written to an address of the model's space or of a region. -/
def State.writeRange (s : State) (x : Port) (va : Nat) (l : List MByte) : Option PageFor × State :=
  State.writePieces x l va (piecesOf va l.length) s

/-- The first page of a write that it would stop at; nothing is written to find it. -/
def State.writeStop (s : State) (x : Port) (va n : Nat) : Option (Nat × PageFor) :=
  (piecesOf va n).findSome? fun p => match s.page x.env x.region p.1 true with
    | .spot _ => none
    | .denied => some (p.1, .denied)
    | .absent => some (p.1, .absent)
    | .lost => some (p.1, .lost)

/-! ## Core memory -/

/-- n bytes of a Squall's core memory from an offset; offsets wrap at 16 MiB (R103). -/
def State.loadCore (s : State) (q : Fin 64) (off n : Nat) : List MByte :=
  let o := off % 2 ^ 24
  if o + n ≤ 2 ^ 24 then s.load (coreAddr q o) n
  else s.load (coreAddr q o) (2 ^ 24 - o) ++ s.load (coreAddr q 0) (n - (2 ^ 24 - o))

def State.storeCore (s : State) (q : Fin 64) (off : Nat) (l : List MByte) : State :=
  let o := off % 2 ^ 24
  if o + l.length ≤ 2 ^ 24 then s.storeM (coreAddr q o) l
  else (s.storeM (coreAddr q o) (l.take (2 ^ 24 - o))).storeM (coreAddr q 0) (l.drop (2 ^ 24 - o))

/-! ## Conversion and stochastic rounding (R80 to R85) -/

/-- SR_SEED of the step that a task belongs to (R82). -/
def State.stepSeed (s : State) (q : Fin 64) (key : Nat) : W64 :=
  ((((s.sq q).task key).bind fun t => (s.chain t.model t.chain).bind (·.run)).bind fun r => r.items.head?.map (·.seed)).getD 0

/-- The state of a stream of a Squall: restarted from its seed where it has not drawn in this step. -/
def State.streamState (s : State) (q : Fin 64) (key stream : Nat) : W64 :=
  (assoc (s.sq q).streams stream).getD (streamStart (streamSeed (s.stepSeed q key) q.val stream))

/-- n draws of a stream, and the stream behind them. -/
def State.srDraws (s : State) (q : Fin 64) (key stream n : Nat) : List Rounding × State :=
  let d := streamDraws n (s.streamState q key stream)
  (d.2.map Rounding.sr, s.updSq q fun x => { x with streams := assocSet x.streams stream d.1 })

/-- A row converted from one format to another; equal formats are copied (R84). -/
def convertRow (sf : Fmt) (sb : Bool) (df : Fmt) (db sat : Bool) (n c : Nat) (rnds : List Rounding) (l : List MByte) : List MByte :=
  if sf = df ∧ (sb = db ∨ sf.isNb = false) then l else encodeMarked df db sat c (valsMarked sf sb n c l) rnds

end Sys2Proof.Machine
end

