-- ==== Sys2Proof/Machine/Reads.lean ====
section
/-!
DEFINITION. The rows of a descriptor (R158), and the first tagged read of a slot that run-ahead has filled (R106, R266 to R268).
-/

namespace Sys2Proof.Machine

/-! ## Rows of a descriptor -/

def Desc.rowCount (d : Desc) : Nat := d.n1 * d.n2
def Desc.srcBytes (d : Desc) : Nat := rowBytes d.sfmt d.sblk d.n0 d.chunk
def Desc.dstBytes (d : Desc) : Nat := rowBytes d.dfmt d.dblk d.n0 d.chunk
def Desc.converts (d : Desc) : Bool := !(d.sfmt == d.dfmt && (d.sblk == d.dblk || !d.sfmt.isNb))

/-- Offset of row r in core memory. -/
def Desc.coreRow (d : Desc) (r : Nat) : Nat := d.coff + r % d.n1 * d.cs1 + r / d.n1 * d.cs2

/-- Offset of row r in the target's core memory (XFER). -/
def Desc.farRow (d : Desc) (r : Nat) : Nat := d.va2 % 2 ^ 24 + r % d.n1 * d.cs1 + r / d.n1 * d.cs2

/-- Address of row r from a base; `i` stands for i1 or for the index that takes its place; addresses wrap at 48 bits. -/
def Desc.memRow (d : Desc) (base member i r : Nat) : Nat :=
  (((base + i * d.ms1 + r / d.n1 * d.ms2 : Nat) + 64 * (member : Int) * d.mstride) % (2 ^ 48 : Int)).toNat

/-- Does any row behind row r touch a slot, rows being `n` bytes at `off`. -/
def Desc.touchedLater (d : Desc) (off : Nat → Nat) (n r slot : Nat) : Bool :=
  (List.range (d.rowCount - (r + 1))).any fun k => (slotsOf (off (r + 1 + k)) n).contains slot

/-! ## Generations (R266, R267) -/

/-- Do the granules of a source carry generations: the key-value arena, and regions registered for it. -/
def State.hasGens (s : State) (x : AccessEnv) (region va : Nat) : Bool :=
  if region = 0 then x.m.plan.any fun p => inRange p.arenaVa p.arenaBytes va
  else (x.run.items.head?.bind fun i => s.itemRegion i region).any (·.gen)

/-- Is a source address in the key-value arena. -/
def AccessEnv.inArena (x : AccessEnv) (region va : Nat) : Bool := region == 0 && x.m.plan.any fun p => inRange p.arenaVa p.arenaBytes va

/-- The generations of the granules that a range of a source touches, by physical address. -/
def State.sourceGens (s : State) (x : AccessEnv) (region va n : Nat) : List (Nat × Nat) :=
  if !s.hasGens x region va then []
  else ((piecesOf va n).flatMap fun p => match s.page x region p.1 false with
    | .spot (.mem pa) => (granulesOf pa p.2).map fun a => (a, s.genAt a)
    | .spot (.weight _ _) | .spot .zero | .spot (.host _ _) | .spot (.peer _) | .spot (.dest _ _) | .denied | .absent | .lost => []).eraseDups

def Tag.stale (t : Tag) (s : State) : Bool := t.gens.any fun g => s.genAt g.1 != g.2

/-- A part of a slot that could not be fetched again is undefined (R163, R267). -/
def State.loseShare (s : State) (q : Fin 64) (lo hi : Nat) : State :=
  (s.undefine (inRange (coreAddr q lo) (hi - lo))).updSq q fun x => { x with runaheadClipped := x.runaheadClipped + 1 }

/-- One row of a stale slot fetched again: the bytes of it that fall in the slot, with the mark of the index that named the row. -/
def State.refetchRow (s : State) (q : Fin 64) (x : Port) (d : Desc) (slot : Nat) (row : Nat × Nat × Mark) : Bool × State :=
  let lo := max row.2.1 (4096 * slot)
  let hi := min (row.2.1 + d.dstBytes) (4096 * slot + 4096)
  match s.readRange x row.1 d.srcBytes with
  | (.got l, u) =>
    let out := (convertRow d.sfmt d.sblk d.dfmt d.dblk d.sat d.n0 d.chunk (rneAll d.n0) l).map fun b => (b.1, joinMark row.2.2 b.2)
    (true, u.storeCore q lo ((out.drop (lo - row.2.1)).take (hi - lo)))
  | (.wait, u) => (false, u)
  | (.stop _ _, u) => (true, u.loseShare q lo hi)

/-- A stale slot's part of its transfer fetched again from its source, under the map of the step that filled it; false while a row of it
waits. -/
def State.refetchSlot (s : State) (q : Fin 64) (slot : Nat) (t : Tag) : Bool × State :=
  match t.refetch.bind fun r => (s.accessEnv r.model r.chain).map fun env => (r, env) with
  | none => (true, s.loseShare q (4096 * slot) (4096 * slot + 4096))
  | some (r, env) =>
    let x : Port := { env := { env with member := r.member }, reader := { sq := q, ch := 0 }, key := (s.sq q).nextKey, region := r.d.region, snoop := r.d.snoop, cls := r.d.prio + 1 }
    t.rows.foldl (fun (acc : Bool × State) row => if acc.1 then acc.2.refetchRow q x r.d slot row else acc) (true, s)

/-- The first tagged read of a slot starts: what run-ahead recorded for it is counted, compared and dropped; a stale slot returns to
FILLING until its data has been fetched again (R267, R268). False while that waits. -/
def State.firstRead (s : State) (q : Fin 64) (slot : Nat) : Bool × State :=
  let t := (s.sq q).tag slot
  let s1 := if !t.kvp then s
    else
      let u := (s.count .kvpUsed).updSq q fun x => x.setTag slot { t with kvp := false }
      if t.late then u else u.count .kvpTimely
  let plain (x : Squall) : Squall := x.setTag slot { x.tag slot with st := t.st, gens := [], refetch := none, rows := [], again := false }
  if t.gens = [] then (true, s1)
  else if !t.again && !t.stale s1 then (true, s1.updSq q plain)
  else
    match s1.refetchSlot q slot t with
    | (false, u) => (false, u.updSq q fun x => x.setTag slot { x.tag slot with st := .filling, again := true })
    | (true, u) => (true, (u.count .prefetchStale).updSq q fun x => { plain x with tags := (plain x).tags.map fun y => if y.1 = slot then (y.1, { y.2 with st := .full }) else y })

/-- A tagged read of a list of slots, in ascending order: true when all may be read. A request that waits has its watchdog (R106,
R109). -/
def State.awaitSlots (s : State) (q : Fin 64) (req : Nat) : List Nat → Bool × State
  | [] => (true, s.unwatch q req)
  | k :: l =>
    if !((s.sq q).tag k).st.readable && !((s.sq q).tag k).again then (false, s.waitSlot q req k)
    else match s.firstRead q k with
      | (true, u) => State.awaitSlots u q req l
      | (false, u) => (false, u.waits)

/-! ## Tagged writes, slot by slot (R105) -/

/-- Is a slot one that a writer must wait for: neither EMPTY nor being filled by the writer itself. -/
def State.slotTaken (s : State) (own t : Fin 64) (mine : List Nat) (k : Nat) : Bool :=
  let g := ((s.sq t).tag k).st
  g != .empty && !(g == .filling && mine.contains (watchKey own t k))

def CoreWrite.slot (w : CoreWrite) : Nat := w.off % 2 ^ 24 / 4096
def CoreWrite.name (w : CoreWrite) (own : Fin 64) : Nat := watchKey own w.sq w.slot

/-- What a tag records of a write by run-ahead. -/
def CoreWrite.note (w : CoreWrite) (t : Tag) : Tag :=
  { t with
    kvp := t.kvp || w.kvp
    gens := (t.gens ++ w.gens).eraseDups
    refetch := if w.gens.isEmpty then t.refetch else w.refetch
    rows := if w.gens.isEmpty then t.rows else t.rows ++ w.row.toList }

/-- A writer releases a slot; one that run-ahead filled from the key-value arena is counted (R105, R268). -/
def State.releaseSlot (s : State) (t : Fin 64) (k count : Nat) : State :=
  let tag := (s.sq t).tag k
  let s1 := s.release t k count tag
  if tag.kvp then s1.count .kvpSlots else s1

/-- One slot's share of a write: the slot is acquired unless the writer has it, its bytes are written, and it is released with its last
byte. -/
def State.writeShare (s : State) (own : Fin 64) (w : CoreWrite) : CoreWrite × State :=
  let k := w.slot
  let n := min w.data.length (4096 - w.off % 4096)
  let has := w.mine.contains (w.name own)
  let s1 := if has then s else s.acquire w.sq k
  let s2 := (s1.storeCore w.sq w.off (w.data.take n)).updSq w.sq fun x => x.setTag k (w.note (x.tag k))
  let w1 := { w with off := w.off + n, data := w.data.drop n, mine := if has then w.mine else w.mine ++ [w.name own] }
  if w.ends.contains k then ({ w1 with mine := w1.mine.filter (· != w.name own) }, s2.releaseSlot w.sq k w.count) else (w1, s2)

/-- A write carried on slot by slot in ascending order until it is done or must wait (R105). -/
def State.writeShares (s : State) (own : Fin 64) (req : Nat) : Nat → CoreWrite → CoreWrite × State
  | 0, w => (w, s)
  | n + 1, w =>
    if w.data = [] then (w, s.unwatch own req)
    else if s.slotTaken own w.sq w.mine w.slot then (w, s.waitSlot own req (w.name own))
    else
      let y := s.writeShare own w
      State.writeShares y.2 own req n y.1

/-- Fuel for a write: the slots that it can touch, and one look behind the last. -/
def CoreWrite.fuel (w : CoreWrite) : Nat := w.data.length / 4096 + 3

end Sys2Proof.Machine
end

