-- ==== Sys2Proof/Machine/Sched.lean ====
section
/-!
DEFINITION. The schedule engine: records issued in list order to the queues of Table 5.5 (R119, R120, R151, R152, R156, R315,
R319, R395, R440).
-/

namespace Sys2Proof.Machine

/-! ## The list -/

/-- The record that a schedule engine issues next. -/
def Squall.next (x : Squall) : Option Rec := x.lists.head?.bind (·.head)

/-- The list behind its next record; a list with none left is done. -/
def Squall.pass (x : Squall) : Squall :=
  match x.lists with
  | [] => x
  | l :: ls => { x with lists := if l.advance.head.isNone then ls else l.advance :: ls }

/-- The first issue beat from i on that is no gap, at a gap fraction of n/64 (R395). -/
def openBeat (n : Nat) : Nat → Nat → Nat
  | 0, i => i
  | fuel + 1, i => if (i % 64 + 1) * n / 64 > i % 64 * n / 64 then openBeat n fuel (i + 1) else i

/-- The next record read through the schedule engine's cache (R120). -/
def State.readRecord (s : State) (q : Fin 64) : State :=
  match (s.sq q).lists with
  | [] => s
  | l :: _ => s.schedRead q (l.at_ + 64 * l.pos) 64

/-- The beat in which a record issues, and the beats behind it: vector and DMA records issue in no gap. -/
def State.issueBeat (s : State) (q : Fin 64) (gaps : Bool) : State :=
  let n := (s.front (frontOf q)).gap.val
  (s.readRecord q).updSq q fun x => { x with gapCount := (if gaps then openBeat n 64 x.gapCount else x.gapCount) + 1 }

/-- Who issues: the list and the open task. -/
structure Issue where
  list : ListCtx
  task : SqTask
  deriving DecidableEq, Repr

/-- The issue of the next record of the open task; none where no task is open. -/
def Squall.issuing (x : Squall) : Option Issue :=
  match x.lists, x.current.bind x.task with
  | l :: _, some t => some { list := l, task := t }
  | _, _ => none

/-- A record of the open task enters its target queue, numbered in issue order; it is open until it retires (R119, R315). -/
def Squall.enter (x : Squall) (task : Nat) (f : Nat → Squall → Squall) : Squall :=
  f x.nextSeq ({ x with nextSeq := x.nextSeq + 1, open_ := x.open_ ++ [(x.nextSeq, task)] }).pass

/-- A record retires. -/
def Squall.retire (x : Squall) (seq : Nat) : Squall := { x with open_ := x.open_.filter fun r => r.1 != seq }

/-- The next record is issued when `pick_` accepts it: nothing passes a fence that has not retired, and a record whose queue is
full holds up the list (R119, R315). -/
def State.issue {α : Type} (s : State) (q : Fin 64) (pick_ : Rec → Option α) (room : α → Squall → Bool) (gaps : Bool)
    (put : α → Issue → Nat → Squall → Squall) : State :=
  let x := s.sq q
  match x.next.bind pick_, x.issuing with
  | some r, some i =>
    if x.fences ≠ [] then s.waits
    else if !room r x then s.waits
    else (s.ok.issueBeat q gaps).updSq q fun y => y.enter i.task.key (put r i)
  | _, _ => s.notDue

/-! ## Records without a queue -/

/-- The energy profile of the variant that a chain runs (Table 6.3). -/
def State.profileOf (s : State) (m : BitVec 32) (c : Fin 16) : List W32 :=
  (((s.chain m c).bind (·.run)).bind fun r => (s.model m).bind fun x =>
    (x.image.variants[r.variant]?).bind fun v => x.image.energy[v.energy]?).getD []

/-- TASK opens a task: it starts here, and the schedule engine cache drops its host-window lines (R152, R319, R391). -/
def State.openTask (s : State) (sq : Fin 64) : State :=
  let x := s.sq sq
  match x.next, x.lists, x.current with
  | some (.task r), l :: _, none =>
    let t : SqTask := { key := x.nextKey, model := l.model, chain := l.chain, rc := r, lunit := l.lunit, member := l.member, list := l.list, pos := l.pos, tStart := s.now }
    let s1 := (s.ok.issueBeat sq false).updSq sq fun y => ({ y with
      tasks := y.tasks ++ [t], current := some y.nextKey, nextKey := y.nextKey + 1
      cache := y.cache.drop fun a => isHost (64 * a) }).pass
    let s2 := s1.updRun l.model l.chain fun y => { y with
      tasks := updFirst y.tasks (fun z => z.sq == sq && z.list == l.list && z.pos == l.pos && z.member == l.member && z.status.isNone)
        fun z => { z with tStart := some s.now } }
    s2.updFront (frontOf sq) fun w => { w with phaseNow := r.phase, profile := s.profileOf l.model l.chain }
  | _, _, _ => s.notDue

/-- END closes the open task; behind a fence it waits for the fence (R152, R315). -/
def State.closeTask (s : State) (sq : Fin 64) : State :=
  let x := s.sq sq
  match x.next, x.current with
  | some .endTask, some k =>
    if x.fences ≠ [] then s.waits
    else (s.ok.issueBeat sq false).updSq sq fun y =>
      ({ y with tasks := updWhere y.tasks (·.key == k) fun t => { t with ended := true }, current := none }).pass
  | _, _ => s.notDue

/-- LOOP and END_LOOP: a record without a queue, behind a fence waiting for it (R151, R315). -/
def State.passRecord (s : State) (sq : Fin 64) (is : Rec → Bool) : State :=
  if !(s.sq sq).next.any is then s.notDue
  else if (s.sq sq).fences ≠ [] then s.waits
  else (s.ok.issueBeat sq false).updSq sq Squall.pass

def Rec.isLoop : Rec → Bool
  | .loop _ _ _ => true
  | .pass _ | .vop _ | .dma _ _ | .fence _ | .task _ | .endTask | .endLoop => false

def Rec.isEndLoop : Rec → Bool
  | .endLoop => true
  | .pass _ | .vop _ | .dma _ _ | .fence _ | .task _ | .endTask | .loop _ _ _ => false

def execTask (sq : Fin 64) (parity : Option BadWord) (s : State) : Res := .next (s.parity sq parity fun u => u.openTask sq)
def execEndTask (sq : Fin 64) (parity : Option BadWord) (s : State) : Res := .next (s.parity sq parity fun u => u.closeTask sq)
def execLoop (sq : Fin 64) (parity : Option BadWord) (s : State) : Res := .next (s.parity sq parity fun u => u.passRecord sq Rec.isLoop)
def execEndLoop (sq : Fin 64) (parity : Option BadWord) (s : State) : Res := .next (s.parity sq parity fun u => u.passRecord sq Rec.isEndLoop)

/-! ## PASS records -/

/-- Passes of the pass queue: those whose last row has not entered (R440). -/
def Engine.queued (e : Engine) : Nat := (e.passes.filter fun p => decide (p.entered < p.rc.rows)).length

/-- Bytes of the source of a tile: an image of R48, or the narrow source of R74 as its header gives it. -/
def narrowBytes (header : Nat) : Nat :=
  let int2 := bitsAt header 2 2 == 1
  let k := if bitsAt header 4 2 = 2 then 128 else 256
  let v := if int2 then k / 4 else k / 2
  let group := 32 * 2 ^ bitsAt header 7 2
  64 + 128 * v + if bitsAt header 0 2 = 1 then 512 * (k / group) else 0

/-- The stationary format of a tile: that of the record, or the target that a narrow source's header names (Table 3.4; reserved values
as log 89 says). -/
def tileFmt (r : PassRec) (header : Nat) : Fmt × Bool :=
  if r.wfmt = .int4 ∨ r.wfmt = .int2 then
    (match bitsAt header 4 2 with
      | 0 => .nb8e4m3
      | 1 => .nb8e5m2
      | _ => .bf16, bitAt header 6)
  else (r.wfmt, r.wblk)

/-- Bytes of the tile source of a LOAD record, given its first 64 bytes: the image of a pass holds the K positions of its
pair of formats (R36, R37; log 35). -/
def PassRec.sourceBytes (r : PassRec) (header : Nat) : Nat :=
  if r.wfmt = .int4 ∨ r.wfmt = .int2 then narrowBytes header
  else tileBytes r.wfmt r.wblk r.sparse (tileK r.wfmt r.afmt)

/-- The first 64 bytes at a core memory offset of a Squall. -/
def State.headerAt (s : State) (q : Fin 64) (off : Nat) : Nat := s.word (coreAddr q (off % 2 ^ 24)) 64

/-- Slots that a pass's rows at an address touch. -/
def rowSlots (addr stride size rows : Nat) : List Nat :=
  ((List.range rows).flatMap fun r => slotsOf (addr + r * stride) size).eraseDups

/-- A pass offered to an engine whose queue has room: its reads of rows and second tensor begin, a KEEP pass takes the tile of the
pass it follows (R43, R46, R106). The task's span on the engine starts with its first pass (R18). -/
def State.issuePass (s : State) (sq : Fin 64) (op : PassOp) : State :=
  let pick_ : Rec → Option PassRec := fun r => match r with
    | .pass p => if p.op == op then some p else none
    | _ => none
  let room (p : PassRec) (x : Squall) : Bool := decide ((pick x.engines p.engine).queued < 8)
  let put (p : PassRec) (i : Issue) (n : Nat) (x : Squall) : Squall :=
    let e := pick x.engines p.engine
    let prev := (e.passes.filter fun y => y.rc.op != .ewise).getLast?
    let src := if p.keep then (prev.map (·.src)).getD p else p
    let place : TilePlace := if p.keep then (prev.map (·.tile)).getD ((e.lastBank.map TilePlace.loaded).getD .none) else .none
    let y : Pass := { seq := n, task := i.task.key, rc := p, src := src, tile := match place with
      | .loaded b => .loaded b
      | _ => .none }
    let second := p.final && p.ew != 0 && !p.ewpeek
    let ewSize := rowBytes p.ewfmt p.ewblk 128 0
    let x1 := { x with
      engines := upd x.engines p.engine fun z => { z with passes := z.passes ++ [y] }
      tasks := updWhere x.tasks (·.key == i.task.key) fun t =>
        if t.spans.any (·.1 == p.engine.val) then t else { t with spans := t.spans ++ [(p.engine.val, s.now, s.now)] } }
    if second then x1.hold n 2 (rowSlots p.eaddr p.estride ewSize p.rows) else x1
  s.issue sq pick_ room false put

def execPassMac (sq : Fin 64) (parity : Option BadWord) (s : State) : Res := .next (s.parity sq parity fun u => u.issuePass sq .mac)
def execPassL1 (sq : Fin 64) (parity : Option BadWord) (s : State) : Res := .next (s.parity sq parity fun u => u.issuePass sq .l1)
def execPassL2 (sq : Fin 64) (parity : Option BadWord) (s : State) : Res := .next (s.parity sq parity fun u => u.issuePass sq .l2)
def execPassMaxplus (sq : Fin 64) (parity : Option BadWord) (s : State) : Res := .next (s.parity sq parity fun u => u.issuePass sq .maxplus)
def execPassMinplus (sq : Fin 64) (parity : Option BadWord) (s : State) : Res := .next (s.parity sq parity fun u => u.issuePass sq .minplus)
def execPassCmpcount (sq : Fin 64) (parity : Option BadWord) (s : State) : Res := .next (s.parity sq parity fun u => u.issuePass sq .cmpcount)
def execPassEwise (sq : Fin 64) (parity : Option BadWord) (s : State) : Res := .next (s.parity sq parity fun u => u.issuePass sq .ewise)

/-! ## DMA and FENCE records; VOP records queue as they execute (Vector.lean) -/

/-- A DMA record enters its channel's queue, which holds 4 programs besides the one that runs (R440). -/
def State.issueDma (s : State) (sq : Fin 64) : State :=
  s.issue sq
    (fun r => match r with
      | .dma ch p => some (ch, p)
      | _ => none)
    (fun r x => decide ((pick x.chans r.1).queue.length < 4)) true
    (fun r i n x => { x with chans := upd x.chans r.1 fun c =>
      { c with queue := c.queue ++ [{ seq := n, task := i.task.key, at_ := r.2, member := i.list.member, model := i.list.model }] } })

def execDma (sq : Fin 64) (parity : Option BadWord) (s : State) : Res := .next (s.parity sq parity fun u => u.issueDma sq)

/-- A FENCE record enters the fence queue; no later record is issued until it retires (R315). -/
def State.issueFence (s : State) (sq : Fin 64) (sc : Scope) : State :=
  s.issue sq
    (fun r => match r with
      | .fence x => if x == sc then some x else none
      | _ => none)
    (fun _ x => decide (x.fences.length < 4)) false
    (fun r i n x => { x with fences := x.fences ++ [{ seq := n, task := i.task.key, scope := r }] })

def execFenceCore (sq : Fin 64) (parity : Option BadWord) (s : State) : Res := .next (s.parity sq parity fun u => u.issueFence sq .core)
def execFenceChip (sq : Fin 64) (parity : Option BadWord) (s : State) : Res := .next (s.parity sq parity fun u => u.issueFence sq .chip)
def execFenceSys (sq : Fin 64) (parity : Option BadWord) (s : State) : Res := .next (s.parity sq parity fun u => u.issueFence sq .sys)

/-- Does a fence of scope SYS, outside a speculative task, still wait for a host or peer write of its task (R315, R317). -/
def State.sysWait (s : State) (q : Fin 64) (f : FenceEntry) : Bool :=
  let spec := (((s.sq q).task f.task).map (·.rc.spec)).getD false
  f.scope == .sys && !spec &&
    (s.cxl.egress.any (fun e => e.task == some (q, f.task)) || s.dnb.reqs.any fun r => match r.what with
      | .write t => t == some (q, f.task)
      | _ => false)

/-- FENCE_RETIRE: every earlier record of the task has retired, and its writes have reached the visibility point of the scope.
The task's Squall sees its writes to other memories from now on, and with FENCE.CHIP or FENCE.SYS every observer in the module does
(R315, R204). -/
def execFenceRetire (sq : Fin 64) (s : State) : Res :=
  .next (let x := s.sq sq
    match x.fences with
    | [] => s.notDue
    | f :: rest =>
      if x.open_.any (fun r => r.2 == f.task && decide (r.1 < f.seq)) || s.sysWait sq f then s.waits
      else
        let s1 := s.ok.updSq sq fun y => ({ y with fences := rest }).retire f.seq
        if f.scope == Scope.core then s1.coreScope sq f.task else s1.settleWrites fun w => w.sq == sq && w.key == f.task)

end Sys2Proof.Machine
end

