-- ==== Sys2Proof/Machine/Dma.lean ====
section
/-!
DEFINITION. DMA descriptor programs on the eight channels of a Squall (R111 to R113, R117, R135, R157 to R163, R255, R256, R267).
-/

namespace Sys2Proof.Machine

/-! ## The descriptor in progress -/

/-- A channel's running program, its current descriptor, and what its memory end runs under. -/
structure DmaNow where
  q : Fin 64
  ch : Fin 8
  prog : Prog
  d : Desc
  port : Port

def State.dmaNow (s : State) (q : Fin 64) (ch : Fin 8) : Option DmaNow :=
  match (pick (s.sq q).chans ch).run with
  | none => none
  | some p =>
    match s.taskEnv q p.task p.member with
    | none => none
    | some env => (env.m.image.descs[p.at_ + p.pc]?).map fun d =>
        { q := q, ch := ch, prog := p, d := d
          port := { env := env, reader := { sq := q, ch := ch }, key := p.task, region := d.region, snoop := d.snoop, cls := d.prio + 1 } }

def State.updProg (s : State) (q : Fin 64) (ch : Fin 8) (f : Prog → Prog) : State :=
  s.updSq q fun x => { x with chans := upd x.chans ch fun c => { c with run := c.run.map f } }

def DmaNow.req (n : DmaNow) : Nat := reqChannel n.ch
def DmaNow.key (n : DmaNow) : Nat := n.prog.task

/-! ## The core memory end as a writer -/

/-- Bytes written without tags: a RESIDENT slot's share is discarded and counted (R111, R113). -/
def State.untaggedCore (s : State) (t : Fin 64) (off : Nat) (l : List MByte) : State :=
  (slotsOf off l.length).foldl (fun u k =>
    let o := off % 2 ^ 24
    let lo := if 4096 * k < o ∧ o / 4096 ≠ k then 2 ^ 24 - o else max (4096 * k) o - o
    let hi := min l.length (if 4096 * k < o ∧ o / 4096 ≠ k then 2 ^ 24 - o + 4096 * k + 4096 else 4096 * k + 4096 - o)
    let lo' := if 4096 * k < o ∧ o / 4096 ≠ k then lo + 4096 * k else lo
    if ((u.sq t).tag k).st = .resident then u.updSq t fun x => { x with residentWriteDrop := x.residentWriteDrop + 1 }
    else u.storeCore t (off + lo') ((l.drop lo').take (hi - lo'))) s

/-- A write of the channel's row carried on; the last row's write goes on behind the next descriptor when it must wait (R105, R159). -/
def State.dmaWrite (s : State) (n : DmaNow) (w : CoreWrite) : Bool × State :=
  let y := s.writeShares n.q (reqWrite n.req) w.fuel w
  let done (u : State) : State := (u.unwatch n.q n.req).updProg n.q n.ch fun p => { p with row := p.row + 1, src := [], write := none }
  if y.1.data = [] then (true, done (y.2.updProg n.q n.ch fun p => { p with filling := y.1.mine }))
  else if n.prog.row + 1 = n.d.rowCount then
    let z := (y.2.unwatch n.q (reqWrite n.req)).writeShares n.q (reqLate n.ch) 1 y.1
    (true, (done (z.2.updProg n.q n.ch fun p => { p with filling := [], late := p.late ++ [z.1] })).ok)
  else (false, y.2.updProg n.q n.ch fun p => { p with filling := y.1.mine, write := some y.1 })

/-- Row r of the descriptor written into core memory of Squall t at an offset; slots that no later row touches are released (R105). -/
def State.dmaPut (s : State) (n : DmaNow) (t : Fin 64) (off : Nat → Nat) (r : Nat) (l : List MByte) (info : CoreWrite → CoreWrite) : Bool × State :=
  let s0 := s.activity (frontOf t) (s.phaseOf n.q n.key) 10 (chunkCount (off r) l.length)
  if n.d.untag then
    (true, ((s0.untaggedCore t (off r) l).unwatch n.q n.req).updProg n.q n.ch fun p => { p with row := p.row + 1, src := [] })
  else
    let w : CoreWrite := {
      sq := t, off := off r, data := l, count := n.d.count
      ends := (slotsOf (off r) l.length).filter fun k => !n.d.touchedLater off l.length r k
      mine := n.prog.filling }
    s0.dmaWrite n (info w)

/-- Writes of earlier descriptors carried on (R159). -/
def State.pushLate (s : State) (q : Fin 64) (ch : Fin 8) : State :=
  match (pick (s.sq q).chans ch).run with
  | none => s
  | some p =>
    let out := s.out
    let step (acc : List CoreWrite × State) (w : CoreWrite) : List CoreWrite × State :=
      let y := acc.2.writeShares q (reqLate ch) w.fuel w
      (if y.1.data = [] then acc.1 else acc.1 ++ [y.1], y.2)
    let r := p.late.foldl step ([], s)
    (r.2.updProg q ch fun x => { x with late := r.1 }).answer out

/-! ## Ends of rows and descriptors -/

/-- The row is done. -/
def State.dmaRowDone (s : State) (n : DmaNow) : State :=
  (s.unwatch n.q n.req).updProg n.q n.ch fun p => { p with row := p.row + 1, src := [] }

/-- The descriptor that a channel comes to, and the split entry of an XFER's target, read through the schedule engine's cache (R120). -/
def State.readDesc (s : State) (q : Fin 64) (ch : Fin 8) : State :=
  match s.dmaNow q ch with
  | none => s
  | some n =>
    let m := n.port.env.m
    let s1 := s.schedRead q (m.imageAt + m.image.descAt + 64 * (n.prog.at_ + n.prog.pc)) 64
    match if n.d.kind = .xfer then n.port.env.v.splits.findIdx? (·.lunit == n.d.xlunit) else none with
    | some i => s1.schedRead q (m.imageAt + n.port.env.v.splitAt + 8 * i) 8
    | none => s1

/-- The next descriptor. -/
def State.dmaNext (s : State) (n : DmaNow) : State :=
  ((s.unwatch n.q n.req).updProg n.q n.ch fun p => { p with pc := p.pc + 1, row := 0, src := [], write := none }).readDesc n.q n.ch

/-- A descriptor stops at a page (R162, R163): its acquired slots are released; a demand access fails the task, run-ahead is
clipped. Slots that it has begun to read and has not released are released too. -/
def State.dmaStop (s : State) (n : DmaNow) (why : PageFor) (reads : Bool) : State :=
  let mine := ((pick (s.sq n.q).chans n.ch).run.map (·.filling)).getD []
  let s1 := (mine.foldl (fun u k =>
    let t : Fin 64 := if k < 4096 then n.q else ⟨(k / 4096 - 1) % 64, by omega⟩
    u.releaseSlot t (k % 4096) n.d.count) s).updProg n.q n.ch fun p => { p with filling := [] }
  let begun := ((List.range (n.prog.row + 1)).flatMap fun r => slotsOf (n.d.coreRow r) n.d.srcBytes).eraseDups
  let open_ := begun.filter fun k => n.d.touchedLater n.d.coreRow n.d.srcBytes n.prog.row k
  let s2 := if reads && !n.d.untag && !n.d.peek then open_.foldl (fun u k => u.consume n.q k) s1 else s1
  let s3 := if n.d.ra then s2.updSq n.q fun x => { x with runaheadClipped := x.runaheadClipped + 1 }
    else s2.failTask n.q n.key why.reason
  (s3.doneWaits n.port.reader).dmaNext n

/-- Which of two bytes a stopped conversion left is open (R162): one free value per byte. -/
def mixBytes (s : State) (new old : List MByte) : List MByte :=
  (new.zip old).zipIdx.map fun p => if (s.drawn p.2).getLsbD 0 then p.1.1 else p.1.2

/-! ## Index lists -/

/-- Entry i1 of the index list, read by peek, with the mark of its chunk; a marked chunk reads as zeros (R158, R256). -/
def State.dmaIndex (s : State) (n : DmaNow) (r : Nat) : Nat × Mark :=
  let l := s.loadCore n.q (n.d.idx + 4 * (r % n.d.n1)) 4
  (leNat (l.map (·.1)), joinMarks (l.map (·.2)))

def markAll (m : Mark) (l : List MByte) : List MByte := l.map fun b => (b.1, joinMark m b.2)

/-! ## One row of each kind: true when the row or the descriptor has ended, false when it waits -/

/-- The roundings of a converting store: one draw per element, or nearest even (R80, R82). -/
def State.storeRoundings (s : State) (n : DmaNow) : List Rounding × State :=
  if n.d.sr && n.d.converts then s.srDraws n.q n.key n.d.stream n.d.n0 else (rneAll n.d.n0, s)

def State.countConverted (s : State) (n : DmaNow) : State :=
  if n.d.converts then s.activity (frontOf n.q) (s.phaseOf n.q n.key) 14 n.d.n0 else s

/-- Bytes that a stopped row left, written at once into slots that are free or the descriptor's own (R162). -/
def State.partRow (s : State) (n : DmaNow) (part : List MByte) : Bool × State :=
  let off := n.d.coreRow n.prog.row
  if part.isEmpty then (true, s)
  else if n.d.untag then (true, s.untaggedCore n.q off part)
  else match (slotsOf off part.length).find? fun k => s.slotTaken n.q n.q n.prog.filling k with
    | some k => (false, s.waitSlot n.q (reqWrite n.req) k)
    | none =>
      let w : CoreWrite := { sq := n.q, off := off, data := part, count := n.d.count, ends := [], mine := n.prog.filling }
      let y := s.writeShares n.q (reqWrite n.req) w.fuel w
      (true, y.2.updProg n.q n.ch fun p => { p with filling := y.1.mine })

/-- A row read from memory into core memory of this Squall (LOAD, GATHER). -/
def State.loadRow (s : State) (n : DmaNow) (va : Nat) (mark : Mark) : Bool × State :=
  let d := n.d
  let r := n.prog.row
  let gens := if d.ra && d.gen then s.sourceGens n.port.env d.region va d.srcBytes else []
  match s.readRange n.port va d.srcBytes with
  | (.wait, u) => (false, u.waits)
  | (.got l, u) =>
    let out := markAll mark (convertRow d.sfmt d.sblk d.dfmt d.dblk d.sat d.n0 d.chunk (rneAll d.n0) l)
    let arena := n.port.env.inArena d.region va
    let env := n.port.env
    let info (w : CoreWrite) : CoreWrite := { w with
      kvp := d.ra && arena
      gens := gens
      refetch := env.chain.map fun c => { model := env.m.id, chain := c, member := env.member, d := d }
      row := some (va, d.coreRow r % 2 ^ 24, mark) }
    (u.countConverted n).dmaPut n n.q d.coreRow r out info
  | (.stop why l, u) =>
    let old := u.loadCore n.q (d.coreRow r) d.dstBytes
    let part : List MByte :=
      if !d.converts then l
      else
        let padded := l ++ withMark .unreadable (List.replicate (d.srcBytes - l.length) 0)
        let new := convertRow d.sfmt d.sblk d.dfmt d.dblk d.sat d.n0 d.chunk (rneAll d.n0) padded
        (new.zip (mixBytes u new old)).zip old |>.map fun p => if p.1.1.2 = .none then p.1.2 else p.2
    match u.partRow n part with
    | (false, w) => (false, w)
    | (true, w) => (true, w.draw.dmaStop n why false)

/-- What a page holds before a write to it; a peer's page is not seen from here. -/
def State.oldBytes (s : State) (x : Port) (va n : Nat) : List MByte :=
  match s.page x.env x.region va true with
  | .spot (.mem pa) | .spot (.host pa _) => s.load pa n
  | .spot (.peer _) | .spot (.dest _ _) | .spot (.weight _ _) | .spot .zero | .denied | .absent | .lost =>
    (List.range n).map fun i => ((s.drawn (va + i)).setWidth 8, .none)

/-- A row written to memory from a list of bytes; a stop leaves the bytes of earlier pages, of a converted row an open mix. -/
def State.storeRow (s : State) (n : DmaNow) (x : Port) (va : Nat) (l : List MByte) (converts reads : Bool) : State :=
  match s.writeStop x va l.length with
  | none => (s.writeRange x va l).2.dmaRowDone n
  | some (a, why) =>
    let k := a - va
    let before := l.take k
    if !converts then ((s.writeRange x va before).2).dmaStop n why reads
    else
      let old := (piecesOf va k).flatMap fun p => s.oldBytes x p.1 p.2
      let s1 := (s.writeRange x va (mixBytes s before old)).2
      s1.draw.dmaStop n why reads

/-- Rows of the current descriptor, one after another, until one waits or all are done. -/
def State.dmaRows (s : State) (q : Fin 64) (ch : Fin 8) (one : DmaNow → State → Bool × State) (at_ : Nat) : Nat → State
  | 0 => s
  | fuel + 1 =>
    match s.dmaNow q ch with
    | none => s
    | some n =>
      if n.prog.pc ≠ at_ then s
      else if n.d.rowCount ≤ n.prog.row then s.dmaNext n
      else match (match n.prog.write with
          | some w => s.dmaWrite n w
          | none => one n s) with
        | (true, u) => State.dmaRows u q ch one at_ fuel
        | (false, u) => u

/-! ## Commands -/

/-- DMA_PROGRAM_START: an idle channel takes its oldest program (R440, R159). -/
def State.startProgram (s : State) (sq : Fin 64) (ch : Fin 8) : State :=
  let c := pick (s.sq sq).chans ch
  match c.run, c.queue with
  | none, p :: l => (s.ok.updSq sq fun x => { x with chans := upd x.chans ch fun _ => { queue := l, run := some p } }).readDesc sq ch
  | _, _ => s.notDue

def execDmaProgramStart (sq : Fin 64) (ch : Fin 8) (parity : Option BadWord) (s : State) : Res :=
  .next (s.parity sq parity fun u => u.startProgram sq ch)

/-- DMA_PROGRAM_COMPLETE: the program stands at its END descriptor and every write is released (R159). -/
def execDmaProgramComplete (sq : Fin 64) (ch : Fin 8) (s : State) : Res :=
  .next (match s.dmaNow sq ch with
    | some n =>
      if n.d.kind != .stop then s.notDue
      else
        let u := s.pushLate sq ch
        if ((pick (u.sq sq).chans ch).run.any fun p => p.late ≠ [] || p.filling ≠ []) then u.waits
        else (((u.ok.unwatch sq (reqChannel ch)).unwatch sq (reqWrite (reqChannel ch))).unwatch sq (reqLate ch)).updSq sq fun x =>
          ({ x with chans := upd x.chans ch fun c => { c with run := none } }).retire n.prog.seq
    | none => s.notDue)

/-- A descriptor of a kind at the head of a channel is carried out as far as it can go. -/
def State.dmaRun (s : State) (q : Fin 64) (ch : Fin 8) (kind : DKind) (one : DmaNow → State → Bool × State) : State :=
  match s.dmaNow q ch with
  | none => s.notDue
  | some n => if n.d.kind != kind then s.notDue else State.dmaRows (s.ok.pushLate q ch) q ch one n.prog.pc (n.d.rowCount + 1)

def loadOne (n : DmaNow) (s : State) : Bool × State :=
  s.loadRow n (n.d.memRow n.d.va n.port.env.member (n.prog.row % n.d.n1) n.prog.row) .none

/-- GATHER: the index takes the place of i1. -/
def gatherOne (n : DmaNow) (s : State) : Bool × State :=
  match s.awaitSlots n.q n.req (slotsOf (n.d.idx + 4 * (n.prog.row % n.d.n1)) 4) with
  | (false, u) => (false, u)
  | (true, u) =>
    let i := u.dmaIndex n n.prog.row
    u.loadRow n (n.d.memRow n.d.va n.port.env.member i.1 n.prog.row) i.2

/-- The source row of a STORE, XFER or SCATTER read slot by slot in ascending order: a slot that no later row reads is released with its
last byte (R106). -/
def State.coreShares (s : State) (n : DmaNow) : Nat → List MByte → Option (List MByte) × State
  | 0, got => (some got, s)
  | fuel + 1, got =>
    let off := n.d.coreRow n.prog.row + got.length
    let k := off % 2 ^ 24 / 4096
    let c := min (n.d.srcBytes - got.length) (4096 - off % 4096)
    if c = 0 then (some got, s)
    else match s.awaitSlots n.q n.req [k] with
      | (false, u) => (none, u.updProg n.q n.ch fun p => { p with src := got })
      | (true, u) =>
        let l := got ++ u.loadCore n.q off c
        let last := !n.d.peek && !n.d.touchedLater n.d.coreRow n.d.srcBytes n.prog.row k
        State.coreShares (if last then u.consume n.q k else u) n fuel l

def State.coreSource (s : State) (n : DmaNow) : Option (List MByte) × State :=
  let off := n.d.coreRow n.prog.row
  let y := if n.d.untag then (some (s.loadCore n.q off n.d.srcBytes), s) else s.coreShares n (n.d.srcBytes / 4096 + 3) n.prog.src
  if y.1.isSome then (y.1, y.2.activity (frontOf n.q) (y.2.phaseOf n.q n.key) 10 (chunkCount off n.d.srcBytes)) else y

def storeOne (n : DmaNow) (s : State) : Bool × State :=
  match s.coreSource n with
  | (none, u) => (false, u)
  | (some l, u) =>
    let d := n.d
    let w := u.storeRoundings n
    let out := convertRow d.sfmt d.sblk d.dfmt d.dblk d.sat d.n0 d.chunk w.1 l
    let va := d.memRow d.va n.port.env.member (n.prog.row % d.n1) n.prog.row
    (true, (w.2.countConverted n).storeRow n n.port va out d.converts true)

/-- SCATTER: a row that lands in resident chip memory is discarded and counted (R135). -/
def scatterOne (n : DmaNow) (s : State) : Bool × State :=
  match s.awaitSlots n.q n.req (slotsOf (n.d.idx + 4 * (n.prog.row % n.d.n1)) 4) with
  | (false, u) => (false, u)
  | (true, u) =>
    match u.coreSource n with
    | (none, v) => (false, v)
    | (some l, v) =>
      let d := n.d
      let i := v.dmaIndex n n.prog.row
      let w := v.storeRoundings n
      let out := markAll i.2 (convertRow d.sfmt d.sblk d.dfmt d.dblk d.sat d.n0 d.chunk w.1 l)
      let va := d.memRow d.va n.port.env.member i.1 n.prog.row
      let lands := (piecesOf va out.length).any fun p => match w.2.page n.port.env d.region p.1 true with
        | .spot (.mem pa) => w.2.hitsResident pa p.2
        | .spot (.weight _ _) | .spot .zero | .spot (.host _ _) | .spot (.peer _) | .spot (.dest _ _) | .denied | .absent | .lost => false
      if lands then
        (true, (w.2.updSq n.q fun x => { x with residentWriteDrop := x.residentWriteDrop + 1 }).dmaRowDone n)
      else (true, (w.2.countConverted n).storeRow n n.port va out d.converts true)

/-- The Squall that an XFER writes: the unit itself, or the member of a group with the sender's member index (R158). -/
def DmaNow.target (n : DmaNow) : Option (Fin 64) :=
  let l := n.port.env.m.members n.d.xlunit
  let k := if l.length ≤ 1 then l.head? else l[n.port.env.member]?
  k.map fun t => ⟨t % 64, by omega⟩

/-- XFER: a tagged write through the target's DMA port (R117). -/
def xferOne (n : DmaNow) (s : State) : Bool × State :=
  match n.target with
  | none => (true, s.dmaStop n .absent false)
  | some t =>
    let d := n.d
    let r := n.prog.row
    match s.coreSource n with
    | (none, u) => (false, u)
    | (some l, u) =>
      let p := u.phaseOf n.q n.key
      let k := chunkCount (d.farRow r) l.length
      let u1 := if frontOf t = frontOf n.q then u else (u.activity (frontOf n.q) p 12 k).activity (frontOf t) p 12 k
      u1.dmaPut n t d.farRow r l id

/-- MOVE: memory to memory, the destination always in the model's space (R158). -/
def moveOne (n : DmaNow) (s : State) : Bool × State :=
  let d := n.d
  let r := n.prog.row
  let src := d.memRow d.va n.port.env.member (r % d.n1) r
  let dst := d.memRow d.va2 n.port.env.member (r % d.n1) r
  match s.readRange n.port src d.srcBytes with
  | (.wait, u) => (false, u.waits)
  | (.got l, u) => (true, u.storeRow n { n.port with region := 0 } dst l false false)
  | (.stop why l, u) =>
    match u.writeStop { n.port with region := 0 } dst l.length with
    | some (a, w) => (true, (u.writeRange { n.port with region := 0 } dst (l.take (a - dst))).2.dmaStop n w false)
    | none => (true, (u.writeRange { n.port with region := 0 } dst l).2.dmaStop n why false)

def execDmaLoad (sq : Fin 64) (ch : Fin 8) (parity : Option BadWord) (s : State) : Res :=
  .next (s.parity sq parity fun u => u.dmaRun sq ch .load loadOne)
def execDmaStore (sq : Fin 64) (ch : Fin 8) (parity : Option BadWord) (s : State) : Res :=
  .next (s.parity sq parity fun u => u.dmaRun sq ch .store storeOne)
def execDmaXfer (sq : Fin 64) (ch : Fin 8) (parity : Option BadWord) (s : State) : Res :=
  .next (s.parity sq parity fun u => u.dmaRun sq ch .xfer xferOne)
def execDmaGather (sq : Fin 64) (ch : Fin 8) (parity : Option BadWord) (s : State) : Res :=
  .next (s.parity sq parity fun u => u.dmaRun sq ch .gather gatherOne)
def execDmaScatter (sq : Fin 64) (ch : Fin 8) (parity : Option BadWord) (s : State) : Res :=
  .next (s.parity sq parity fun u => u.dmaRun sq ch .scatter scatterOne)
def execDmaMove (sq : Fin 64) (ch : Fin 8) (parity : Option BadWord) (s : State) : Res :=
  .next (s.parity sq parity fun u => u.dmaRun sq ch .move moveOne)

/-! ## SLOT_READ -/

/-- A tagged read of one slot as an operation of its own (R106): it waits while the slot is EMPTY or FILLING; a consuming read
releases it after its last byte. -/
def State.readSlot (s : State) (sq : Fin 64) (slot : Nat) (kind : ReadKind) : State :=
  match s.awaitSlots sq reqVector [slot] with
  | (false, u) => u
  | (true, u) =>
    let l := u.loadCore sq (4096 * slot) 4096
    let v := u.answer (.data (l.map (·.1)) (joinMarks (l.map (·.2))))
    match kind with
    | .peek => v
    | .consume => v.consume sq slot

def execSlotRead (sq : Fin 64) (slot : Fin 4096) (kind : ReadKind) (parity : Option BadWord) (s : State) : Res :=
  .next (s.parity sq parity fun u => u.readSlot sq slot.val kind)

end Sys2Proof.Machine
end

