-- ==== Sys2Proof/Machine/Dram.lean ====
section
/-!
DEFINITION. DRAM channels: arbitration, refresh, temperature, patrol scrub and imbalance windows (R278 to R281, R284, R288, R289, R291).
-/

namespace Sys2Proof.Machine

/-! ## Arbitration (R278, R279) -/

/-- The class that a channel serves next: class 3 when it waits and fewer than 2 of the last 10 accesses were of it, else the highest
with a request waiting. -/
def Channel.nextClass (c : Channel) : Option Nat :=
  let has (k : Nat) : Bool := c.queue.any (·.cls == k)
  if has 3 && decide ((c.last.filter (· == 3)).length < 2) then some 3
  else if has 1 then some 1
  else if has 2 then some 2
  else if has 3 then some 3
  else none

/-- The request that a channel serves next: within the class open-row hits first, none passed by more than 32 later ones; a class 3
request served for its share is the oldest. -/
def State.nextAccess (s : State) (c : Channel) : Option DramReq :=
  match c.nextClass with
  | none => none
  | some k =>
    let own := c.queue.filter (·.cls == k)
    let due := own.find? fun r => decide (32 ≤ r.passed)
    let hit := own.find? fun r => assoc c.openRows (s.reqBank r) == some (s.reqRow r)
    let share := k == 3 && decide ((c.last.filter (· == 3)).length < 2)
    if share then own.head? else (due.or hit).or own.head?

/-- A request leaves the queue: those of its class ahead of it have been passed once more. -/
def servePast : List DramReq → DramReq → List DramReq
  | [], _ => []
  | a :: l, r => if a = r then l else (if a.cls = r.cls then { a with passed := a.passed + 1 } else a) :: servePast l r

/-- The interval of time that three accesses take at half a channel's peak rate, in ns: 64 bytes at 38.4 or 19.2 GB/s (Table 10.1). -/
def throttleNs (ch : Fin 576) : Nat := if ch.val < 512 then 10 else 20

/-- May a channel admit an access: its device's throttle holds it to half its peak rate (R281). -/
def State.admits (s : State) (ch : Fin 576) : Bool :=
  let c := pick s.dram.channels ch
  !(pick s.dram.devices (channelDevice ch)).throttled || decide (c.times.length < 3) || c.times.getLast?.all fun t => decide (t + throttleNs ch ≤ s.now)

/-- Is the DRAM in self-refresh: in Lull and Frost (Table 10.2). -/
def ModSleep.deep : ModSleep → Bool
  | .awake => false
  | .lull _ | .frost _ | .waking _ _ => true

/-- DRAM_ACCESS: one access served; a read whose reader has not met it meets what error correction finds (R283, R285). -/
def execDramAccess (ch : Fin 576) (ecc : Ecc) (s : State) : Res :=
  .next (let c := pick s.dram.channels ch
    match s.nextAccess c with
    | none => s.notDue
    | some r =>
      if s.pwr.sleep.deep || !s.admits ch then s.waits
      else
      let s1 := s.ok.updDram fun d => { d with channels := upd d.channels ch fun x =>
        { x with
          queue := servePast x.queue r, last := (r.cls :: x.last).take 10, openRows := assocSet x.openRows (s.reqBank r) (s.reqRow r)
          times := (s.now :: x.times).take 3, count := x.count + 1 } }
      if r.write || r.checked then s1 else s1.dramCheck (64 * r.asked) ecc)

/-- PREFETCH_AGE_PROMOTE: a class 2 request that has waited 20 us is class 1 from then on (R278). -/
def execPrefetchAgePromote (ch : Fin 576) (s : State) : Res :=
  .next (let due (r : DramReq) : Bool := r.cls == 2 && decide (r.since + us 20 ≤ s.now)
    if (pick s.dram.channels ch).queue.any due then
      s.ok.updDram fun d => { d with channels := upd d.channels ch fun x => { x with queue := updFirst x.queue due fun r => { r with cls := 1 } } }
    else s.notDue)

/-! ## Refresh and temperature (R279 to R281) -/

/-- The refresh interval of a bank at a device's rate, in ns (Table 10.5; for LPDDR5X: log 95). -/
def Device.interval (d : Device) : Nat := if d.rate = 1 then 3900 else if d.rate = 2 then 1950 else 975

/-- REFRESH_DUE: once per interval of the device's rate, in no self-refresh; issued, with those owed; behind demand of the same bank
postponed, for at most 8 intervals (R279, R280). -/
def execRefreshDue (ch : Fin 576) (bank : Fin 48) (s : State) : Res :=
  .next (let c := pick s.dram.channels ch
    let since := (assoc c.refreshed bank.val).getD 0
    if s.pwr.sleep.deep || decide (banksOf (if ch.val < 512 then 0 else 1) ≤ bank.val)
        || decide (s.now < since + (pick s.dram.devices (channelDevice ch)).interval) then s.notDue
    else
      let owed := (assoc c.postponed bank.val).getD 0
      let busy := c.queue.any fun r => r.cls == 1 && s.reqBank r == bank.val
      let next (x : Channel) : Channel :=
        if busy && decide (owed < 8) then { x with postponed := assocSet x.postponed bank.val (owed + 1), refreshed := assocSet x.refreshed bank.val s.now }
        else { x with postponed := assocDel x.postponed bank.val, openRows := assocDel x.openRows bank.val, refreshed := assocSet x.refreshed bank.val s.now }
      s.ok.updDram fun d => { d with channels := upd d.channels ch next })

/-- The steps of Table 10.5: 0 up to 85, 1 above 85, 2 above 95, 3 above 105. -/
def dramLimit (k : Nat) : Int := 75 + 10 * (k : Int)

/-- The step after a reading: up on the first reading above a threshold, down on the first 2 degrees or more below it (R280). -/
def dramStep (level : Nat) (c : Int) : Nat :=
  let up := (List.range 3).foldl (fun l k => if c > dramLimit (k + 1) then max l (k + 1) else l) level
  (List.range 3).foldl (fun l _ => if 0 < l ∧ c ≤ dramLimit l - 2 then l - 1 else l) up

def Device.level (d : Device) : Nat := if d.throttled then 3 else if d.rate = 4 then 2 else if d.rate = 2 then 1 else 0

/-- DRAM_TEMP_READ: every 1 ms; the refresh rate and the throttle follow; a millisecond above each threshold enters the lifetime record
(R270, R280, R281). -/
def execDramTempRead (device : Fin 32) (celsius : Int) (s : State) : Res :=
  .next (let d := pick s.dram.devices device
    let k := dramStep d.level celsius
    if d.readAt.any fun t => decide (s.now < t + ms 1) then s.notDue
    else
    let s1 := s.ok.updDram fun x => { x with devices := upd x.devices device fun _ =>
      { celsius := celsius, rate := if k = 0 then 1 else if k = 1 then 2 else 4, throttled := k == 3, readAt := some s.now } }
    let s2 := (List.range 3).foldl (fun (u : State) (j : Nat) => if celsius > dramLimit (j + 1) then u.lifeAdd 4 (device.val * 3 + j) 1 else u) s1
    if d.throttled == decide (k = 3) then s2
    else s2.event 0 0x0001 unitNone 0 (argBits [(0, device.val), (8, (celsius % 256).toNat), (16, if k = 3 then 1 else 0)]))

/-! ## Patrol scrub (R284) -/

/-- Does the patrol run: while serving and in Calm, not in Lull and Frost. -/
def State.patrols (s : State) : Bool := !(s.pwr.sleep.deep || s.eci.devState == .uninit || s.eci.devState == .booting)

/-- One line of the patrol read in class 3; behind the last populated line a new pass begins. -/
def State.patrolLine (s : State) (checked : Bool) : State :=
  let pa := if s.populated s.dram.patrolAt then s.dram.patrolAt else 0
  let s1 := (s.dramAsk 3 false checked pa 64).updDram fun d => { d with
    patrolAt := if s.populated (pa + 64) then pa + 64 else 0, patrolLines := (d.patrolLines + 1) % 2 ^ 20
    patrolSince := if s.populated (pa + 64) then d.patrolSince else s.now }
  if s1.dram.patrolLines = 0 then s1.count .dramScrubbed else s1

/-- PATROL_SCRUB: the next line of either memory; it stops in Lull and Frost. -/
def execPatrolScrub (ecc : Ecc) (s : State) : Res :=
  .next (if s.patrols then (s.ok.patrolLine true).dramCheck (if s.populated s.dram.patrolAt then s.dram.patrolAt else 0) ecc else s.notDue)

/-- A pass that has lasted 24 hours reads the lines it has not reached now (R284). -/
def State.patrolDue (s : State) : State :=
  if s.patrols && decide (s.dram.patrolSince + dayNs ≤ s.now) then
    (List.range ((s.dramTop - s.dram.patrolAt) / 64)).foldl (fun u _ => u.patrolLine false) s
  else s

/-! ## Imbalance (R288, R289, R291) -/

/-- The bin of a ratio max x n / total (Table 10.6); a window with no accesses has ratio 1. -/
def imbBin (most n total : Nat) : Nat :=
  let r := most * n
  if total = 0 then 0
  else if 4 * r < 5 * total then 0
  else if 2 * r < 3 * total then 1
  else if r < 2 * total then 2
  else if r < 4 * total then 3
  else if r < 8 * total then 4
  else 5

/-- Counts of the window: the 256 HBM channels, of two pseudo-channels each, or the 64 LPDDR5X channels. -/
def State.channelCounts (s : State) (mem : Nat) : List Nat :=
  let c (k : Nat) : Nat := if h : k < 576 then (pick s.dram.channels ⟨k, h⟩).count else 0
  if mem = 0 then (List.range 256).map fun k => c (2 * k) + c (2 * k + 1) else (List.range 64).map fun k => c (512 + k)

/-- The busiest channel, the lowest among equals. -/
def busiest (l : List Nat) : Nat := (l.findIdx? (· == l.foldl max 0)).getD 0

/-- One memory at a window's end: its bin is counted, and its run of imbalanced windows grows, is reported once, or ends. -/
def State.imbOne (s : State) (mem : Fin 2) (bin worst : Nat) : State :=
  let w := s.dram.imbWindow.toNat
  let s1 := s.lifeAdd 6 (mem.val * 6 + bin) 1
  if bin < bitsAt w 16 3 then
    s1.updDram fun d => { d with imbRun := upd d.imbRun mem fun _ => 0, imbArmed := upd d.imbArmed mem fun _ => true }
  else
    let n := pick s1.dram.imbRun mem + 1
    let s2 := s1.updDram fun d => { d with imbRun := upd d.imbRun mem fun _ => n }
    if bitsAt w 20 12 ≤ n ∧ pick s2.dram.imbArmed mem then
      (s2.updDram fun d => { d with imbArmed := upd d.imbArmed mem fun _ => false }).event 0 0x0003 unitNone 0
        (argBits [(0, mem.val), (8, worst), (32, n)])
    else s2

/-- IMB_WINDOW_END. -/
def execImbWindowEnd (s : State) : Res :=
  .next (if s.now < s.dram.imbStart + us (bitsAt s.dram.imbWindow.toNat 0 16) then s.notDue
    else
      let h := s.channelCounts 0
      let l := s.channelCounts 1
      let hb := imbBin (h.foldl max 0) 256 h.sum
      let lb := imbBin (l.foldl max 0) 64 l.sum
      let s1 := (s.ok.imbOne 0 hb (busiest h)).imbOne 1 lb (busiest l)
      s1.updDram fun d => { d with
        imbLast := BitVec.ofNat 32 (argBits [(0, hb), (3, lb), (16, busiest h), (24, busiest l)])
        imbStart := s.now
        channels := d.channels.map fun c => { c with count := 0 }
        imbWindow := d.imbPending.getD d.imbWindow
        imbRun := if d.imbPending.isSome then Vector.replicate 2 0 else d.imbRun
        imbPending := none })

end Sys2Proof.Machine
end

