-- ==== Sys2Proof/Machine/Mgmt.lean ====
section
/-!
DEFINITION. The management port and attestation: ECI requests, MCTP control, I3C common command codes, and the SPDM responder
(R354 to R356, R424, R425, R433).
-/

namespace Sys2Proof.Machine

/-! ## The I3C target (R354, R433) -/

/-- In UNINIT the target NACKs MCTP packets (R433). -/
def State.overMctp (s : State) (f : State → State) : State := if s.eci.devState = .uninit then s.answer .nacked else f s

def State.updMgmt (s : State) (f : Mgmt → Mgmt) : State := { s with mgmt := f s.mgmt }

/-- Requests of the management port without their response (R355). -/
def State.mgmtOutstanding (s : State) : Nat :=
  s.eci.mgmtInbox.length + (s.eci.waiting.filter fun r => r.src == .mgmt).length

/-- MGMT_ECI_REQUEST: an opcode that the port does not take completes at once; the others wait ahead of every queue. A fifth
request is not acknowledged (R355). -/
def execMgmtEciRequest (entry : Entry) (image : List Byte) (s : State) : Res :=
  .next (s.overMctp fun t =>
    let r : RecRef := { src := .mgmt, cid := cidOf entry, session := sessionOf entry }
    if 4 ≤ t.mgmtOutstanding then t.answer .nacked
    else if !knownOpc (opcOf entry) then t.ok.final r .invalidOpcode 0 0 0
    else if !mgmtOpc (opcOf entry) then t.ok.final r .notOnPort 0 0 0
    else
      let t1 := if [0x40, 0x41, 0x42, 0x1A].contains (opcOf entry) then t.ok else t.ok.rouse
      t1.updEci fun e => { e with mgmtInbox := e.mgmtInbox ++ [(entry, image)], arrivals := e.arrivals ++ [.mgmt] })

/-- MCTP_CONTROL: Set Endpoint ID takes a new identifier; every control message is answered (the codes are MCTP's, log 53). -/
def execMctpControl (message : List Byte) (s : State) : Res :=
  .next (s.overMctp fun t =>
    let b (i : Nat) : Byte := message.getD i 0
    if b 2 = 1 ∧ (b 3 &&& 3).toNat ≤ 1 ∧ b 4 ≠ 0 ∧ b 4 ≠ 0xFF then
      (t.updMgmt fun m => { m with mctpEid := b 4 }).answer (.acknowledged (b 4).toNat)
    else t.answer (.acknowledged t.mgmt.mctpEid.toNat))

/-- The static address: 0x30 and the strap (Table 13.12). -/
def State.staticAddress (s : State) : Nat := 0x30 + s.boot.strapAddr.toNat

/-- I3C_CCC: SETDASA and ENTDAA give a dynamic address, RSTDAA takes it away; answered while input power is present (the codes
are I3C's, log 53). -/
def execI3cCcc (code : BitVec 8) (dynamicAddress : BitVec 7) (s : State) : Res :=
  .next (
    if !s.boot.supply.on then s.notDue
    else
      let t := if code = 0x87 ∨ code = 0x07 then s.updMgmt fun m => { m with dynamicAddress := some dynamicAddress }
        else if code = 0x06 then s.updMgmt fun m => { m with dynamicAddress := none }
        else s
      t.answer (.acknowledged s.staticAddress))

/-! ## The SPDM responder (R356) -/

/-- A request on its transport: MCTP over I3C, or CXL DOE. -/
def State.spdmOn (s : State) (t : Transport) (f : State → State) : State :=
  match t with
  | .mctp => s.overMctp f
  | .doe => if s.eci.devState = .uninit ∨ !s.linkUp then s.notDue else f s

def State.spdmConn (s : State) : Transport → SpdmConn
  | .mctp => s.mgmt.spdmMctp
  | .doe => s.mgmt.spdmDoe

def State.updSpdm (s : State) (t : Transport) (f : SpdmConn → SpdmConn) : State :=
  match t with
  | .mctp => s.updMgmt fun m => { m with spdmMctp := f m.spdmMctp }
  | .doe => s.updMgmt fun m => { m with spdmDoe := f m.spdmDoe }

/-- An ERROR response: 1 invalid request, 4 unexpected request (SPDM's codes, log 53). -/
def State.spdmError (s : State) (code : Nat) : State := s.answer (.spdm 0x7F [BitVec.ofNat 8 code])

/-- GET_VERSION starts the connection anew: versions 1.2 and 1.3. -/
def execGetVersion (t : Transport) (s : State) : Res :=
  .next (s.spdmOn t fun u => (u.updSpdm t fun _ => { versionDone := true }).answer (.spdm 0x04 [0x12, 0x13]))

/-- GET_CAPABILITIES: certificates, challenge, signed measurements, and nothing else. -/
def execGetCapabilities (t : Transport) (s : State) : Res :=
  .next (s.spdmOn t fun u =>
    if (u.spdmConn t).versionDone then (u.updSpdm t fun c => { c with capsDone := true }).answer (.spdm 0x61 (leBytes 0x16 4))
    else u.spdmError 4)

/-- NEGOTIATE_ALGORITHMS: Ed25519 and SHA-512. -/
def execNegotiateAlgorithms (t : Transport) (s : State) : Res :=
  .next (s.spdmOn t fun u =>
    if (u.spdmConn t).capsDone then (u.updSpdm t fun c => { c with algsDone := true }).answer (.spdm 0x63 (leBytes 0x400 4 ++ leBytes 0x4 4))
    else u.spdmError 4)

/-- A request that needs the connection set up. -/
def State.spdmReady (s : State) (t : Transport) (f : State → State) : State :=
  s.spdmOn t fun u => if (u.spdmConn t).algsDone then f u else u.spdmError 4

/-- Certificate slot 0: root, intermediate, device and alias certificates; the last follows the alias key (R424). -/
def State.certChain (s : State) : List Byte :=
  Config.certificate 0 ++ Config.certificate 1 ++ Config.certificate 2 ++ Config.certificate (3 + s.boot.aliasKey)

/-- GET_DIGESTS: the slot mask and the digest of the chain. -/
def execGetDigests (t : Transport) (s : State) : Res :=
  .next (s.spdmReady t fun u => u.answer (.spdm 0x01 ([0x01] ++ Config.sha512 u.certChain)))

/-- GET_CERTIFICATE: a part of the chain of slot 0, with the lengths of the part and of what remains. -/
def execGetCertificate (t : Transport) (slot offset length : Nat) (s : State) : Res :=
  .next (s.spdmReady t fun u =>
    let chain := u.certChain
    if slot ≠ 0 ∨ chain.length < offset then u.spdmError 1
    else
      let part := (chain.drop offset).take length
      u.answer (.spdm 0x02 (leBytes part.length 2 ++ leBytes (chain.length - offset - part.length) 2 ++ part)))

/-- The responder's nonce: 32 bytes of a per-boot secret kind (R426), a free value. -/
def State.spdmNonce (s : State) : List Byte := (List.range 4).flatMap fun k => leBytes (s.drawn (20 + k)).toNat 8

/-- CHALLENGE: the chain's digest and a nonce, signed with the alias key (R424). -/
def execChallenge (t : Transport) (slot : Nat) (nonce : List Byte) (s : State) : Res :=
  .next (s.spdmReady t fun u =>
    if slot ≠ 0 then u.spdmError 1
    else
      let body := Config.sha512 u.certChain ++ u.spdmNonce
      u.draw.answer (.spdm 0x03 (body ++ Config.aliasSign u.boot.aliasKey (nonce ++ body))))

/-! ## Measurements (R425) -/

/-- The digest of a component of the running manifest; a component it does not list, and those of the image present at
manufacture, are free values (log 53). -/
def State.componentDigest (s : State) (k : Nat) : List Byte :=
  match (fwManifest (pick s.boot.slots s.boot.active).image).comps.find? (·.1 == k) with
  | some c => c.2.2.2
  | none => (List.range 64).map fun i => Config.bootByte k i

/-- The chain over the identifiers and manifest digests of the loaded models, in load order. -/
def modelChain (l : List Model) : List Byte :=
  l.foldl (fun d m => Config.sha512 (d ++ leBytes m.id.toNat 4 ++ Config.sha512 m.manifest.digest)) (List.replicate 64 0)

/-- A measurement of Table 16.9. -/
def State.measure (s : State) (i : Nat) : List Byte :=
  let slot := pick s.boot.slots s.boot.active
  if i = 1 then (List.range 64).map fun k => Config.bootByte 0 k
  else if i ≤ 6 then s.componentDigest (i - 1)
  else if i = 7 then Config.sha512 (leBytes slot.svn 4 ++ leBytes s.boot.fuses.val 4 ++ leBytes s.boot.active.val 4)
  else if i = 8 then Config.sha512 [if s.eci.debugOn then 1 else 0, if s.eci.debugEver then 1 else 0]
  else modelChain s.srv.models

/-- A block in the DMTF format: index, specification 1, size, a raw digest of 64 bytes; its value type is a free value (log 53). -/
def State.measureBlock (s : State) (i : Nat) : List Byte :=
  [BitVec.ofNat 8 i, 1] ++ leBytes 67 2 ++ [Config.bootByte 0x100 i] ++ leBytes 64 2 ++ s.measure i

/-- GET_MEASUREMENTS: index 0 asks how many blocks there are, 0xFF for all of them; signed with the alias key. -/
def execGetMeasurements (t : Transport) (index : Nat) (nonce : List Byte) (s : State) : Res :=
  .next (s.spdmReady t fun u =>
    if 10 ≤ index ∧ index ≠ 0xFF then u.spdmError 1
    else
      let blocks := if index = 0 then [] else if index = 0xFF then (List.range 9).map (· + 1) else [index]
      let body := [BitVec.ofNat 8 (if index = 0 then 9 else blocks.length)] ++ blocks.flatMap u.measureBlock ++ u.spdmNonce
      u.draw.answer (.spdm 0x60 (body ++ Config.aliasSign u.boot.aliasKey (nonce ++ body))))

end Sys2Proof.Machine
end

