-- ==== Sys2Proof/Machine/Column.lean ====
section
/-!
DEFINITION. Tiles, rows and column sums of a matrix engine: images and their narrow sources, pass exponents, the column field, and
promotion (R36 to R41, R48, R49, R54 to R57, R73 to R75, R86 to R90).
-/

namespace Sys2Proof.Machine

/-! ## Tile images (R48, R56) -/

/-- A tile as the cells hold it: its format, whether 2-of-4, stored elements per column, and its bytes as one number. -/
structure Cells where
  fmt : Fmt
  blk : Bool
  sparse : Bool
  k : Nat
  bits : Nat

def Cells.colBytes (t : Cells) : Nat := cdiv (t.k * t.fmt.width) 8
def Cells.dense (t : Cells) : Nat := if t.sparse then 2 * t.k else t.k
def Cells.expBytes (t : Cells) : Nat := if t.fmt.isNb then t.dense / blkOf t.blk else 0
def Cells.expAt (t : Cells) (j b : Nat) : Nat := bitsAt t.bits (8 * (128 * t.colBytes + j * t.expBytes + b)) 8

/-- The dense K position of stored element m of column j (R55, R56). -/
def Cells.position (t : Cells) (j m : Nat) : Nat :=
  if !t.sparse then m
  else
    let g := m / 2
    let base := 128 * (t.colBytes + t.expBytes) + j * (t.dense / 8)
    let nibble := bitsAt t.bits (8 * (base + g / 2) + 4 * (g % 2)) 4
    4 * g + bitsAt nibble (2 * (m % 2)) 2

/-- The value of stored element m of column j. -/
def Cells.weight (t : Cells) (j m : Nat) : Val :=
  let code := bitsAt t.bits (8 * j * t.colBytes + t.fmt.width * m) t.fmt.width
  if t.fmt.isNb then blockElem t.fmt (t.expAt j (t.position j m / blkOf t.blk)) code else t.fmt.elem code

/-- The larger of two optional exponents. -/
def maxExp (a b : Option Int) : Option Int :=
  match a, b with
  | some x, some y => some (max x y)
  | some x, none => some x
  | none, y => y

/-- The block exponent of an element of a format without blocks: each non-zero finite element is its own block; INT8 is at 0 (R87). -/
def ownExp (f : Fmt) (v : Val) : Option Int :=
  if f = .int8 then some 0
  else match v with
    | .fin _ m e => if m = 0 then none else some (floorLog2 m e)
    | .nan | .inf _ => none

/-- A block exponent byte that contributes: neither the zero code nor the NaN code (R87). -/
def codeExp (c : Nat) : Option Int := if c = 0 ∨ c = 0xFF then none else some ((c : Int) - 127)

/-- The largest block exponent of a tile (R87). -/
def Cells.maxBlock (t : Cells) : Option Int :=
  (List.range 128).foldl (fun acc j =>
    if t.fmt.isNb then (List.range t.expBytes).foldl (fun a b => maxExp a (codeExp (t.expAt j b))) acc
    else (List.range t.k).foldl (fun a m => maxExp a (ownExp t.fmt (t.weight j m))) acc) none

/-- The cells that a bank holds for a pass: the tile in its own format, with the K rows that the pair of formats of this pass packs
(R48; DESIGN CHOICE, log 83). -/
def Bank.cells (b : Bank) (rc : PassRec) : Cells :=
  { fmt := b.tile.fmt, blk := b.tile.blk, sparse := b.tile.sparse, k := tileK b.tile.fmt rc.afmt, bits := leNat b.image }

/-! ## Narrow sources (R74, R75) -/

/-- The exact value of a narrow weight: a table entry, or (q - z) x s; the sign of an exact zero is the product of the signs (DESIGN
CHOICE, log 89). -/
def narrowVal (src : Nat) (int2 lut : Bool) (v k group j m : Nat) : Val :=
  let w := if int2 then 2 else 4
  let q := bitsAt src (8 * (64 + j * v) + w * m) w
  if lut then Fmt.bf16.elem (bitsAt src (256 + 16 * q) 16)
  else
    let entry := bitsAt src (8 * (64 + 128 * v + 4 * (j * (k / group) + m / group))) 32
    let s := Fmt.bf16.elem (bitsAt entry 0 16)
    let d : Int := (q : Int) - (bitsAt entry 16 8 : Nat)
    match s with
    | .nan => .nan
    | .inf neg => if d = 0 then .nan else .inf (neg != decide (d < 0))
    | .fin neg n e => .fin (neg != decide (d < 0)) (d.natAbs * n) e

/-- The tile image that a narrow source expands into. -/
def expandTile (bytes : List Byte) (fmt : Fmt) (blk : Bool) : List Byte :=
  let src := leNat bytes
  let int2 := bitsAt src 2 2 == 1
  let lut := bitsAt src 0 2 == 0
  let k := if fmt = .bf16 then 128 else 256
  let v := if int2 then k / 4 else k / 2
  let group := 32 * 2 ^ bitsAt src 7 2
  let column (j : Nat) : List Val := (List.range k).map fun m => narrowVal src int2 lut v k group j m
  if fmt = .bf16 then
    (List.range 128).flatMap fun j => (column j).flatMap fun x => leBytes (encodePlain .bf16 true .rne x) 2
  else
    let blocks := (List.range 128).map fun j => (pieces (blkOf blk) (k + 1) (column j)).map fun l => encodeBlock fmt l (rneAll l.length)
    (blocks.flatMap fun c => leBytes (packCodes fmt.width (c.flatMap (·.2))) (cdiv (k * fmt.width) 8))
      ++ blocks.flatMap fun c => c.map fun b => BitVec.ofNat 8 b.1

/-! ## Rows (R87, R89) -/

/-- The largest block exponent of a row among its contributing blocks, and its blocks with the zero code (R57). -/
def rowScan (f : Fmt) (blk : Bool) (n : Nat) (bytes : List Byte) : Option Int × Nat :=
  if f.isNb then
    let es := rowExps f blk n 0 bytes
    (es.foldl (fun a c => maxExp a (codeExp c)) none, (es.filter (· == 0)).length)
  else ((rowVals f blk n 0 bytes).foldl (fun a v => maxExp a (ownExp f v)) none, 0)

/-! ## Pass exponents (R88, Table 4.2) -/

def log2Packing (p : Nat) : Int := if p = 4 then 2 else if p = 2 then 1 else 0

/-- E_1 and E_safe from the magnitude exponents of the tile and of the rows. -/
def passExps (op : PassOp) (p : Nat) (mw ma : Option Int) : Int × Int :=
  let lp := log2Packing p
  let full (u : Int) : Int × Int := (u - 15, u - 11)
  match op with
  | .mac => match mw, ma with
    | some w, some a => full (w + a + lp)
    | _, _ => (0, 0)
  | .l1 => match maxExp mw ma with
    | some m => full (m + 1 + lp)
    | none => (0, 0)
  | .l2 => match maxExp mw ma with
    | some m => full (2 * m + 2 + lp)
    | none => (0, 0)
  | .maxplus | .minplus => match maxExp mw ma with
    | some m => (m + 1 - 19, m + 1 - 18)
    | none => (0, 0)
  | .cmpcount | .ewise => (0, 0)

/-! ## The column field (R38 to R41, R49, R86) -/

/-- A partial sum: its 20-bit field, whether it has overflowed, and its sticky flags. -/
structure Sum where
  field : Int
  ovf : Bool := false
  nan : Bool := false
  pinf : Bool := false
  ninf : Bool := false
  deriving DecidableEq, Repr

def fieldMin : Int := -524288
def fieldMax : Int := 524287

/-- The field at the top of a column (Table 2.4). -/
def PassOp.top : PassOp → Int
  | .maxplus => fieldMin
  | .minplus => fieldMax
  | .mac | .l1 | .l2 | .cmpcount | .ewise => 0

/-- A finite value on the grid of 2^e: floor(T / 2^e + 1/2) (R86). -/
def onGrid (e : Int) (neg : Bool) (m : Nat) (x : Int) : Int :=
  let v := Val.signed neg m
  if e ≤ x then v * pow2 (x - e) else (v + pow2 (e - x - 1)) / pow2 (e - x)

/-- Flags of one special value. -/
def Sum.flag (s : Sum) : Val → Sum
  | .nan => { s with nan := true }
  | .inf neg => if neg then { s with ninf := true } else { s with pinf := true }
  | .fin _ _ _ => s

def Val.finite : Val → Bool
  | .fin _ _ _ => true
  | .nan | .inf _ => false

/-- The term of one operand pair: what an accumulating operation adds, or what a comparison takes. -/
def pairTerm (op : PassOp) (a w : Val) : Val :=
  match op with
  | .mac => a.mul w
  | .l1 =>
    if a == .nan || w == .nan then .nan
    else if !a.finite || !w.finite then .inf false
    else match a.add w.neg with
      | .fin _ m e => .fin false m e
      | v => v
  | .l2 =>
    if a == .nan || w == .nan then .nan
    else if !a.finite || !w.finite then .inf false
    else (a.add w.neg).mul (a.add w.neg)
  | .maxplus | .minplus => a.add w
  | .cmpcount => .fin false (if a != .nan && w != .nan && !a.lt w then 1 else 0) 0
  | .ewise => .fin false 0 0

/-- One cell: the exact result over its pairs, aligned, combined with the sum from above. A cell with a special pair in an
accumulating operation adds 0; in MAXPLUS and MINPLUS such a pair takes no part (R86; log 35). -/
def Sum.cell (op : PassOp) (e : Int) (s : Sum) (pairs : List (Val × Val)) : Sum :=
  let ts := pairs.map fun p => pairTerm op p.1 p.2
  let s1 := ts.foldl Sum.flag s
  match op with
  | .maxplus | .minplus =>
    let best := (ts.filter Val.finite).foldl (fun (b : Option Val) v => match b with
      | none => some v
      | some x => some (if op == .maxplus then (if x.lt v then v else x) else if v.lt x then v else x)) none
    match best with
    | some (.fin neg m x) =>
      let t := onGrid e neg m x
      if t ≤ fieldMin ∧ op = .maxplus ∨ t ≥ fieldMax ∧ op = .minplus ∨ t < fieldMin ∨ t > fieldMax then { s1 with ovf := true }
      else { s1 with field := if op = .maxplus then max s1.field t else min s1.field t }
    | _ => s1
  | .mac | .l1 | .l2 | .cmpcount | .ewise =>
    if !ts.all Val.finite then s1
    else match ts.foldl Val.add (.fin false 0 0) with
      | .fin neg m x =>
        let f := s1.field + onGrid e neg m x
        { s1 with field := f, ovf := s1.ovf || decide (f < fieldMin) || decide (f > fieldMax) }
      | .nan | .inf _ => s1

/-- The values of a row of activations, none for an element of a skipped block (R57). -/
def skipVals (f : Fmt) (blk : Bool) (n : Nat) (bytes : List Byte) : List (Option Val) :=
  let exps := rowExps f blk n 0 bytes
  (rowVals f blk n 0 bytes).zipIdx.map fun p => if f.isNb && exps.getD (p.2 / blkOf blk) 1 == 0 then none else some p.1

/-- The operand pairs of a cell for an output: of cell (i, col) in an ordinary pass, of cell (col, j) in a transposed one, where the
cells of array row `col` are met in column order (R36, R54, R55). An element of a skipped block is not multiplied; where nothing is
multiplied it counts as +0 (R57; log 35). -/
def cellPairs (rc : PassRec) (t : Cells) (x : Array (Option Val)) (col i : Nat) : List (Val × Val) :=
  let p := pairPacking t.fmt rc.afmt
  let l : List (Option Val × Val) :=
    if rc.trans then [(x.getD i (some .nan), t.weight i (col * p + rc.lane))]
    else (List.range p).map fun q => (x.getD (t.position col (i * p + q)) (some .nan), t.weight col (i * p + q))
  if rc.op = .mac then l.filterMap fun y => y.1.map fun a => (a, y.2) else l.map fun y => (y.1.getD (.fin false 0 0), y.2)

/-- The sum that leaves the array for an output of a row, at a pass exponent. -/
def columnSum (rc : PassRec) (t : Cells) (e : Int) (x : Array (Option Val)) (col : Nat) : Sum :=
  (List.range 128).foldl (fun s i => s.cell rc.op e (cellPairs rc t x col i)) { field := rc.op.top }

/-! ## Promotion (R40, R41, R90) -/

def Sum.value (s : Sum) (op : PassOp) (e : Int) : W32 :=
  if s.nan || (s.pinf && s.ninf) then f32Nan
  else if s.pinf then f32Inf false
  else if s.ninf then f32Inf true
  else if op = .maxplus ∧ s.field = fieldMin then f32Inf true
  else if op = .minplus ∧ s.field = fieldMax then f32Inf false
  else toF32 (.fin (decide (s.field < 0)) s.field.natAbs e)

/-- What a FIRST pass combines into. -/
def PassOp.identity : PassOp → W32
  | .maxplus => f32Inf true
  | .minplus => f32Inf false
  | .mac | .l1 | .l2 | .cmpcount | .ewise => 0

def PassOp.combine (op : PassOp) (acc v : W32) : W32 :=
  match op with
  | .maxplus => f32Max acc v
  | .minplus => f32Min acc v
  | .mac | .l1 | .l2 | .cmpcount | .ewise => f32Add acc v

/-- The result of an EWISE pass for one element (R58): EWOP 0 add, 1 multiply, 2 maximum, 3 minimum. -/
def ewiseOp (k : Nat) (a b : W32) : W32 :=
  match k with
  | 0 => f32Add a b
  | 1 => f32Mul a b
  | 2 => f32Max a b
  | _ => f32Min a b

end Sys2Proof.Machine
end

