-- ==== Sys2Proof/Machine/Epilogue.lean ====
section
/-!
DEFINITION. The epilogue of an output row: scale, bias, element-wise step and conversion, on the output stage and for a MERGE_ROOT
(R96, R99, R256, R442).
-/

namespace Sys2Proof.Machine

/-- The parameters of an epilogue (Table 4.3), with the operands' addresses for rows of `n` elements, `rows` of them. -/
structure Epi where
  n : Nat
  rows : Nat
  scale : Nat
  bias : Bool
  biasBf16 : Bool
  ew : Nat
  ewfmt : Fmt
  ewblk : Bool
  saddr : Nat
  baddr : Nat
  eaddr : Nat
  estride : Nat
  ofmt : Fmt
  oblk : Bool
  sat : Bool

def PassRec.epi (r : PassRec) : Epi :=
  { n := 128, rows := r.rows, scale := r.scale, bias := r.bias, biasBf16 := r.biasBf16, ew := r.ew, ewfmt := r.ewfmt
    ewblk := r.ewblk, saddr := r.saddr, baddr := r.baddr, eaddr := r.eaddr, estride := r.estride, ofmt := r.ofmt, oblk := r.oblk, sat := r.sat }

/-- A MERGE_ROOT's scale stands at SRC1, its bias at SRC2, its second tensor's rows back to back (R442). -/
def VopRec.epi (v : VopRec) : Epi :=
  { n := v.len, rows := v.rows, scale := v.scale, bias := v.bias, biasBf16 := v.biasBf16, ew := v.ew, ewfmt := v.ewfmt
    ewblk := v.ewblk, saddr := v.src1, baddr := v.src2, eaddr := v.eaddr, estride := rowBytes v.ewfmt v.ewblk v.len 0
    ofmt := v.outfmt, oblk := v.outblk, sat := v.sat }

/-- Bytes of one row of the second tensor and of the destination. -/
def Epi.ewBytes (e : Epi) : Nat := rowBytes e.ewfmt e.ewblk e.n 0
def Epi.outBytes (e : Epi) : Nat := rowBytes e.ofmt e.oblk e.n 0

/-- Where the scale's column values and its row values lie: SCALE is 1 COLUMN, 2 ROW, 3 OUTER. -/
def Epi.rowScale (e : Epi) : Nat := if e.scale = 3 then e.saddr + 4 * e.n else e.saddr

/-- Slots of the scale and the bias that row r needs. -/
def Epi.peeks (e : Epi) (r : Nat) : List Nat :=
  ((if e.scale = 1 ∨ e.scale = 3 then slotsOf e.saddr (4 * e.n) else [])
    ++ (if e.scale = 2 ∨ e.scale = 3 then slotsOf (e.rowScale + 4 * r) 4 else [])
    ++ if e.bias then slotsOf e.baddr ((if e.biasBf16 then 2 else 4) * e.n) else []).eraseDups

/-- Slots of the second tensor's row r. -/
def Epi.ewSlots (e : Epi) (r : Nat) : List Nat := if e.ew = 0 then [] else slotsOf (e.eaddr + r * e.estride) e.ewBytes

/-- A binary32 or BF16 value with its mark, from a list of bytes. -/
def wordsMarked (f : Fmt) (n : Nat) (l : List MByte) : List (W32 × Mark) :=
  (valsMarked f false n 0 l).map fun v => (toF32 v.1, v.2)

/-- Element i of a list of words, zero with no mark where there is none. -/
def wordAt (l : List (W32 × Mark)) (i : Nat) : W32 × Mark := l.getD i (0, .none)

/-- Steps 1 to 3 of R99 on the words of a row, each with its mark. -/
def State.epiSteps (s : State) (q : Fin 64) (e : Epi) (r : Nat) (row : List (W32 × Mark)) : List (W32 × Mark) :=
  let cols := if e.scale = 1 ∨ e.scale = 3 then wordsMarked .fp32 e.n (s.loadCore q e.saddr (4 * e.n)) else []
  let one := if e.scale = 2 ∨ e.scale = 3 then wordAt (wordsMarked .fp32 1 (s.loadCore q (e.rowScale + 4 * r) 4)) 0 else (0, .none)
  let bias := if !e.bias then []
    else if e.biasBf16 then wordsMarked .bf16 e.n (s.loadCore q e.baddr (2 * e.n)) else wordsMarked .fp32 e.n (s.loadCore q e.baddr (4 * e.n))
  let second := if e.ew = 0 then []
    else (valsMarked e.ewfmt e.ewblk e.n 0 (s.loadCore q (e.eaddr + r * e.estride) e.ewBytes)).map fun v => (toF32 v.1, v.2)
  row.zipIdx.map fun p =>
    let j := p.2
    let scaled : W32 × Mark := match e.scale with
      | 0 => p.1
      | 1 => (f32Mul p.1.1 (wordAt cols j).1, joinMark p.1.2 (wordAt cols j).2)
      | 2 => (f32Mul p.1.1 one.1, joinMark p.1.2 one.2)
      | _ => (f32Mul p.1.1 (f32Mul one.1 (wordAt cols j).1), joinMark p.1.2 (joinMark one.2 (wordAt cols j).2))
    let biased : W32 × Mark := if e.bias then (f32Add scaled.1 (wordAt bias j).1, joinMark scaled.2 (wordAt bias j).2) else scaled
    match e.ew with
    | 0 => biased
    | 1 => (f32Add biased.1 (wordAt second j).1, joinMark biased.2 (wordAt second j).2)
    | _ => (f32Mul biased.1 (wordAt second j).1, joinMark biased.2 (wordAt second j).2)

/-- Step 4 of R99: the row in the output format. -/
def Epi.encode (e : Epi) (rnds : List Rounding) (row : List (W32 × Mark)) : List MByte :=
  encodeMarked e.ofmt e.oblk e.sat 0 (row.map fun w => (valOf w.1, w.2)) rnds

end Sys2Proof.Machine
end

