-- ==== Sys2Proof/Machine/Pass.lean ====
section
/-!
DEFINITION. The phases of a pass on a matrix engine (Table 2.6): staging, load, fetch, feed, promotion, verdict, repeat, epilogue and
retirement (R43 to R62, R89 to R92, R99, R394, R439, R442).
-/

namespace Sys2Proof.Machine

/-! ## Passes of an engine -/

def Engine.passOf (e : Engine) (seq : Nat) : Option Pass := e.passes.find? (·.seq == seq)
def State.updPass (s : State) (q : Fin 64) (e : Fin 4) (seq : Nat) (f : Pass → Pass) : State :=
  s.updEng q e fun x => { x with passes := updFirst x.passes (·.seq == seq) f }

/-- Passes with tiles: those that are not element-wise. -/
def Pass.tiled (p : Pass) : Bool := p.rc.op != .ewise
def Pass.loads (p : Pass) : Bool := p.tiled && !p.rc.keep

/-- The passes behind a pass, in order. -/
def Engine.behind (e : Engine) (seq : Nat) : List Pass := e.passes.filter fun p => decide (seq < p.seq)

/-- The KEEP passes directly behind a pass: those before the next LOAD (R46, R50). -/
def Engine.keeps (e : Engine) (seq : Nat) : List Pass := ((e.behind seq).takeWhile fun p => !p.loads).filter (·.tiled)

/-- The LOAD pass whose tile a pass uses: itself or the newest before it. -/
def Engine.loadOf (e : Engine) (seq : Nat) : Option Pass := (e.passes.filter fun p => p.loads && decide (p.seq ≤ seq)).getLast?

/-- Walks the open task's records that have not been issued: is the engine's next pass with a tile a KEEP pass. -/
def ListCtx.keepNext (l : ListCtx) (e : Fin 4) : Nat → Bool
  | 0 => false
  | n + 1 =>
    match l.head with
    | none => false
    | some .endTask => false
    | some (.pass p) => if p.engine == e && p.op != .ewise then p.keep else ListCtx.keepNext l.advance e n
    | some _ => ListCtx.keepNext l.advance e n

/-- A KEEP pass of the group of a pass is still to come: the group is the engine's newest, and the open task names one (R50, R52). -/
def Squall.keepToCome (x : Squall) (e : Fin 4) (p : Pass) : Bool :=
  !((pick x.engines e).behind p.seq).any (·.loads) && x.current == some p.task
    && (x.lists.head?.any fun l => l.keepNext e (issueBound l.recs))

/-! ## Operand windows (Table 2.1) -/

def halfAt (q : Fin 64) (e : Fin 4) (h : Fin 2) : Nat := opAddr q e + 0x10000 * h.val
def accAt (q : Fin 64) (e : Fin 4) (r : Nat) : Nat := opAddr q e + 0x60000 + 512 * r

/-- A pass's sums have all left the array; an EWISE pass has no sums, and is settled when its rows have been taken by the output stage
(R43, R58). -/
def Pass.settled (p : Pass) : Bool :=
  if p.tiled then p.sums.all fun n => n == p.rc.rows
  else p.entered == p.rc.rows && decide (p.rc.rows ≤ p.reads.length + p.written.length)

/-- n bytes at an offset of a list of activation slots. -/
def State.rowRead (s : State) (q : Fin 64) (e : Fin 4) (slots : List Nat) (off n : Nat) : List MByte :=
  (List.range n).flatMap fun i => s.load (opAddr q e + 0x20000 + 1024 * slots.getD ((off + i) / 1024) 0 + (off + i) % 1024) 1

def State.rowWrite (s : State) (q : Fin 64) (e : Fin 4) (slots : List Nat) (l : List MByte) : State :=
  ((pieces 1024 257 l).zip slots).foldl (fun u p => u.storeM (opAddr q e + 0x20000 + 1024 * p.2) p.1) s

/-- The lowest EMPTY activation slots, as many as are asked for; none where fewer are (R33). -/
def Engine.freeSlots (e : Engine) (n : Nat) : Option (List Nat) :=
  let l := ((List.range 256).filter fun k => e.opTag (128 + k) == .empty).take n
  if l.length = n then some l else none

/-- The lowest activation slot that is not EMPTY: the one on which a feeder that lacks room waits (log 9). -/
def Engine.takenSlot (e : Engine) : Nat := ((List.range 256).find? fun k => e.opTag (128 + k) != .empty).getD 0

/-! ## 2 Stage -/

/-- The slots of a tile's source that must be readable: its header first, then all of it. -/
def State.tileSlots (s : State) (q : Fin 64) (r : PassRec) : List Nat := slotsOf r.tsrc (r.sourceBytes (s.headerAt q r.tsrc))

/-- The tile image of a LOAD record, with what it is: a copy of the source, or the expansion of a narrow one (R48, R75, R83). -/
def State.tileOf (s : State) (q : Fin 64) (r : PassRec) : Tile × List MByte :=
  let header := s.headerAt q r.tsrc
  let src := s.loadCore q r.tsrc (r.sourceBytes header)
  let mark := joinMarks (src.map (·.2))
  let f := tileFmt r header
  let image := if r.wfmt = .int4 ∨ r.wfmt = .int2 then withMark mark (expandTile (src.map (·.1)) f.1 f.2) else src
  ({ fmt := f.1, blk := f.2, sparse := r.sparse, mark := mark, bytes := image.length }, image)

/-- TILE_STAGE (R43, R50, R60, R76): the first tile of the list that is neither staged nor loaded. -/
def State.stageTile (s : State) (sq : Fin 64) (e : Fin 4) : State :=
  let x := s.eng sq e
  match x.passes.find? fun p => p.loads && p.tile == .none with
  | none => s.notDue
  | some p =>
    match (List.finRange 2).find? fun h => (pick x.halves h).full.isNone with
    | none => s.waitSlot sq (reqWrite (reqStage e)) (opKey e (if (pick x.halves 0).owner ≤ (pick x.halves 1).owner then 0 else 64))
    | some h =>
      match (s.unwatch sq (reqWrite (reqStage e))).awaitSlots sq (reqStage e) (slotsOf p.rc.tsrc 64) with
      | (false, u) => u
      | (true, u) =>
        match u.awaitSlots sq (reqStage e) (u.tileSlots sq p.rc) with
        | (false, v) => v
        | (true, v) =>
          let t := v.tileOf sq p.rc
          let again := (v.sq sq).holds.any fun y => y.1 == p.seq && y.2.1 == 0
          let v1 := if again then v else v.updSq sq fun y => y.hold p.seq 0 (v.tileSlots sq p.rc)
          let v2 := (v1.ok.coreAccess sq p.task (chunkCount p.rc.tsrc t.2.length)).storeM (halfAt sq e h) t.2
          (v2.updEng sq e fun y => { y.setOp .full (halfSlots h t.2.length) with
            halves := upd y.halves h fun _ => { full := some t.1, owner := p.seq } }).updPass sq e p.seq fun y => { y with tile := .staged h }

def execTileStage (sq : Fin 64) (e : Fin 4) (parity : Option BadWord) (s : State) : Res :=
  .next (s.parity sq parity fun u => u.stageTile sq e)

/-! ## 3 Load -/

def otherBank (b : Fin 2) : Fin 2 := if b = 0 then 1 else 0

def Pass.bank (p : Pass) : Option (Fin 2) :=
  match p.tile with
  | .loaded b => some b
  | .none | .staged _ => none

/-- The bank that the passes before a LOAD used last (R46). -/
def Engine.bankBefore (e : Engine) (seq : Nat) : Option (Fin 2) :=
  (e.passes.filter fun p => decide (p.seq < seq) && p.tiled).foldl (fun b p => p.bank.or b) e.lastBank

/-- Is a bank free for a load: every pass that uses it has entered its last row (R44). -/
def Engine.bankFree (e : Engine) (b : Fin 2) : Bool := e.passes.all fun p => p.bank != some b || p.entered == p.rc.rows

/-- A half is empty again: its contents are undefined (Table 5.3). -/
def State.emptyHalf (s : State) (q : Fin 64) (e : Fin 4) (h : Fin 2) : State :=
  (s.updEng q e fun x => { x.setOp .empty (halfSlots h 0x10000) with halves := upd x.halves h fun _ => {} }).undefine (inRange (halfAt q e h) 0x10000)

/-- TILE_LOAD (R43, R44, R46): staged tiles load in list order, each into the bank that the pass before did not use. -/
def State.loadTile (s : State) (sq : Fin 64) (e : Fin 4) : State :=
  let x := s.eng sq e
  match x.passes.find? fun p => p.loads && p.bank.isNone with
  | none => s.notDue
  | some p =>
    match p.tile with
    | .none | .loaded _ => s.notDue
    | .staged h =>
      let b := ((x.bankBefore p.seq).map otherBank).getD 0
      if !x.bankFree b then s.waits
      else
        let t := ((pick x.halves h).full).getD {}
        let image := (s.load (halfAt sq e h) t.bytes).map (·.1)
        let group := p.seq :: (x.keeps p.seq).map (·.seq)
        let s1 := (s.ok.emptyHalf sq e h).updEng sq e fun y => { y with
          banks := upd y.banks b fun _ => { tile := t, image := image }
          passes := updWhere y.passes (fun z => group.contains z.seq) fun z => { z with tile := .loaded b } }
        s1.activity (frontOf sq) (s1.phaseOf sq p.task) 6 128

def execTileLoad (sq : Fin 64) (e : Fin 4) (parity : Option BadWord) (s : State) : Res :=
  .next (s.parity sq parity fun u => u.loadTile sq e)

/-! ## 4 Fetch -/

/-- The rows that a HELD pass uses: the newest that an earlier pass of its task fetched from the same source and holds (R439). -/
def Engine.heldFor (e : Engine) (p : Pass) : Option HeldRows :=
  (e.held.filter fun h => h.task == p.task && h.aaddr == p.rc.aaddr && h.astride == p.rc.astride && h.rows == p.rc.rows
    && h.afmt == p.rc.afmt && h.ablk == p.rc.ablk).getLast?

/-- A HELD pass with a tile, once every pass before it has its rows, has those that an earlier pass holds for it. -/
def Engine.resolveHeld (e : Engine) : Engine :=
  e.passes.foldl (fun x p =>
    if p.fetched || !p.rc.held || !p.tiled || x.passes.any (fun y => decide (y.seq < p.seq) && !y.fetched) then x
    else match x.heldFor p with
      | none => x
      | some h => { x with passes := updFirst x.passes (·.seq == p.seq) fun y =>
          { y with fetched := true, rowsFrom := h.reader, rowExp := h.rowExp, rowMark := h.rowMark, skips := h.skips } }) e

/-- The stationary format of a pass as its tile image has it: a narrow source expands into the format that the rows pair with (R37,
R73). -/
def Pass.wfmtOf (p : Pass) : Fmt :=
  if p.src.wfmt = .int4 ∨ p.src.wfmt = .int2 then (if p.rc.afmt = .bf16 then .bf16 else .nb8e4m3) else p.src.wfmt

/-- The second row stream of an EWISE pass (R58). -/
def PassRec.ewRow (r : PassRec) : Nat := rowBytes r.ewfmt r.ewblk 128 0

/-- Rows read from core memory: their bytes, and the 64-byte accesses that they take. -/
def State.readRows (s : State) (q : Fin 64) (addr stride size rows : Nat) : List (List MByte) × Nat :=
  ((List.range rows).map fun r => s.loadCore q (addr + r * stride) size,
   (List.range rows).foldl (fun n r => n + chunkCount (addr + r * stride) size) 0)

/-- The rows of one pass fetched: its activation rows, unless a pass before it holds them, and the second stream of an EWISE pass (R43,
R52, R58, R60, R89, R439). -/
def State.fetchRows (s : State) (sq : Fin 64) (e : Fin 4) (p : Pass) : State :=
  let ew := p.rc.op == .ewise
  let size := p.rc.rowSize p.wfmtOf
  let own := !p.rc.held
  let aSlots := if own then rowSlots p.rc.aaddr p.rc.astride size p.rc.rows else []
  let bSlots := if ew then rowSlots p.rc.eaddr p.rc.estride p.rc.ewRow p.rc.rows else []
  let aRoom := if own then cdiv (p.rc.rows * size) 1024 else 0
  let bRoom := if ew then cdiv (p.rc.rows * p.rc.ewRow) 1024 else 0
  match (s.eng sq e).freeSlots (aRoom + bRoom) with
  | none => s.waitSlot sq (reqWrite (reqFetch e)) (opKey e (128 + (s.eng sq e).takenSlot))
  | some room =>
    match (s.unwatch sq (reqWrite (reqFetch e))).awaitSlots sq (reqFetch e) (aSlots ++ bSlots).eraseDups with
    | (false, u) => u
    | (true, u) =>
      let held := if own then none else (u.eng sq e).heldFor p
      let a := u.readRows sq p.rc.aaddr p.rc.astride size (if own then p.rc.rows else 0)
      let b := u.readRows sq p.rc.eaddr p.rc.estride p.rc.ewRow (if ew then p.rc.rows else 0)
      let scans := a.1.map fun l => rowScan p.rc.afmt p.rc.ablk (p.rc.rowElems p.wfmtOf) (l.map (·.1))
      let marks := match held with
        | some h => h.rowMark
        | none => a.1.map fun l => joinMarks (l.map (·.2))
      let exps : List (Option Int) × List Nat := match held with
        | some h => (h.rowExp, h.skips)
        | none => (scans.map (·.1), scans.map (·.2))
      let both := if ew then marks.zipIdx.map fun (y : Mark × Nat) => joinMark y.1 (joinMarks ((b.1.getD y.2 []).map (·.2))) else marks
      let u1 := ((u.ok.updSq sq fun y => (y.hold p.seq 1 aSlots).hold p.seq 3 (if p.rc.ewpeek then [] else bSlots)).coreAccess sq p.task (a.2 + b.2)).rowWrite sq e
        (room.take aRoom) a.1.flatten
      let u2 := (u1.rowWrite sq e (room.drop aRoom) b.1.flatten).updPass sq e p.seq fun y => { y with
        fetched := true, rowsFrom := (held.map (·.reader)).getD p.seq, slots := room.take aRoom, ewSlots := room.drop aRoom
        rowExp := exps.1, rowMark := both, skips := exps.2 }
      let h : HeldRows := {
        task := p.task, aaddr := p.rc.aaddr, astride := p.rc.astride, rows := p.rc.rows, afmt := p.rc.afmt, ablk := p.rc.ablk
        size := size, slots := room.take aRoom, reader := p.seq, rowExp := exps.1, rowMark := marks, skips := exps.2 }
      u2.updEng sq e fun y => (if p.rc.ahold && own then { y.setOp .full (actSlots room) with held := y.held ++ [h] } else y.setOp .full (actSlots room)).resolveHeld

/-- ROW_FETCH: the first pass in order without its rows. -/
def execRowFetch (sq : Fin 64) (e : Fin 4) (parity : Option BadWord) (s : State) : Res :=
  .next (s.parity sq parity fun u =>
    let v := u.updEng sq e Engine.resolveHeld
    match (v.eng sq e).passes.find? fun p => !p.fetched with
    | none => if v.eng sq e = u.eng sq e then v.notDue else v.ok
    | some p => v.fetchRows sq e p)

/-! ## 5 Feed -/

/-- The slots of a pass's rows, and the bytes of a row in them: its own, or those held under the issue that fetched them. -/
def Engine.slotsOfRows (e : Engine) (p : Pass) : List Nat × Nat :=
  match e.held.find? fun h => h.reader == p.rowsFrom with
  | some h => (h.slots, h.size)
  | none => (p.slots, p.rc.rowSize p.wfmtOf)

/-- The first n bytes of row r of a pass. A HELD pass whose rows are longer than those that were fetched for it meets undefined bytes
behind them (log 83). -/
def State.rowData (s : State) (q : Fin 64) (e : Fin 4) (p : Pass) (r n : Nat) : List MByte :=
  let x := (s.eng q e).slotsOfRows p
  s.rowRead q e x.1 (r * x.2) (min n x.2)
    ++ (List.range (n - x.2)).map fun i => (Config.freeByte s.free (opAddr q e + 0x20000 + x.2 + i), p.rowMark.getD r .none)

/-- Which passes may enter rows while repeats are pending: those up to the one named by the oldest, and the KEEP passes behind it
(R50). -/
def Engine.mayEnter (e : Engine) (p : Pass) : Bool :=
  match e.repeats with
  | [] => true
  | (_, after) :: _ => decide (p.seq ≤ after) || (e.keeps after).any (·.seq == p.seq)

/-- The bubble fraction of an engine's slots, in 64ths: at least 32 while its die's droop burst lasts (R394, R396). -/
def State.bubbleOf (s : State) (q : Fin 64) : Nat :=
  let n := (s.front (frontOf q)).bubble.val
  if pick s.pwr.droop ⟨q.val / 4, by omega⟩ then max n 32 else n

/-- The activity that a row entry counts for (Table 15.2). -/
def PassRec.entryClass (r : PassRec) (w : Fmt) : Nat :=
  match r.op with
  | .ewise => 5
  | .l1 | .l2 => 3
  | .maxplus | .minplus | .cmpcount => 4
  | .mac => if r.trans then 2 else match pairPacking w r.afmt with
    | 4 => 0
    | 2 => 1
    | _ => 2

/-- The exponents of a pass, from its tile and all of its rows (R88, R89). -/
def Pass.expsOf (p : Pass) (t : Cells) : Int × Int :=
  let mw := t.maxBlock.map (· + t.fmt.cF)
  let ma := (p.rowExp.foldl maxExp none).map (· + p.rc.afmt.cF)
  passExps p.rc.op (if p.rc.trans then 1 else pairPacking t.fmt p.rc.afmt) mw ma

/-- What the cells hold for a pass: from its first row on, what its bank held then (R46, R47). -/
def State.bankOf (s : State) (q : Fin 64) (e : Fin 4) (p : Pass) : Bank := p.fed.getD (pick (s.eng q e).banks (p.bank.getD 0))

/-- The first row of a pass enters: its tile and its exponents are fixed, and a stochastic epilogue takes its place in its stream (R46,
R82, R89). -/
def State.firstRow (s : State) (q : Fin 64) (e : Fin 4) (p : Pass) : State :=
  let b := s.bankOf q e p
  let s1 := s.updPass q e p.seq fun y =>
    if p.tiled then { y with fed := some b, exps := some (p.expsOf (b.cells p.rc)) } else { y with exps := some (0, 0) }
  if p.rc.final && p.rc.sr then
    let st := s1.streamState q p.task p.rc.stream
    let next := (streamDraws (128 * p.rc.rows) st).1
    (s1.updSq q fun x => { x with streams := assocSet x.streams p.rc.stream next }).updPass q e p.seq fun y => { y with sr0 := some st }
  else s1

/-- One entry slot of an engine goes by (R394). -/
def State.entrySlot (s : State) (q : Fin 64) (e : Fin 4) (bubble : Bool) : State :=
  let f := frontOf q
  let s1 := ((s.updEng q e fun x => { x with slotCount := x.slotCount + 1 }).lifeAdd 8 (2 * f.val + 1) 1).updFront f fun w => { w with entrySlots := w.entrySlots + 1 }
  if bubble then (s1.lifeAdd 8 (2 * f.val) 1).updFront f fun w => { w with bubbleSlots := w.bubbleSlots + 1 } else s1

/-- An accumulator row is busy for a FIRST promotion of a later pass: an earlier FINAL pass has not had it read (R45). -/
def Engine.rowBusy (e : Engine) (p : Pass) (row : Nat) : Bool :=
  e.passes.any fun y => decide (y.seq < p.seq) && y.tiled && y.rc.final && decide (row < y.rc.rows)
    && !(y.reads.any (·.1 == row)) && !y.written.contains row

/-- The pass and row that hold the array, while the row's accumulator is not free (R45). -/
def Engine.holding (e : Engine) : Option (Nat × Nat) := e.hold.filter fun h => (e.passOf h.1).any fun p => e.rowBusy p h.2

/-- ROW_ENTRY (R43, R44, R61, R89, R394): the next row in list order enters, or a bubble in its place. -/
def State.enterRow (s0 : State) (sq : Fin 64) (e : Fin 4) : State :=
  let s := s0.updEng sq e Engine.resolveHeld
  let x := s.eng sq e
  match x.passes.find? fun p => decide (p.entered < p.rc.rows) with
  | none => s0.notDue
  | some p =>
    if !p.fetched || (p.tiled && p.bank.isNone) || x.holding.isSome || !x.mayEnter p then s.waits
    else
      let i := x.slotCount % 64
      let n := s.bubbleOf sq
      if (i + 1) * n / 64 > i * n / 64 then s.ok.entrySlot sq e true
      else
        let s1 := s.ok.entrySlot sq e false
        let s2 := if p.exps.isNone then s1.firstRow sq e p else s1
        let f := frontOf sq
        let ph := s2.phaseOf sq p.task
        let w := if p.tiled then (s.bankOf sq e p).tile.fmt else p.rc.afmt
        ((s2.activity f ph (p.rc.entryClass w) 1).activity f ph 7 (p.skips.getD p.entered 0)).updPass sq e p.seq fun y => { y with entered := y.entered + 1 }

def execRowEntry (sq : Fin 64) (e : Fin 4) (parity : Option BadWord) (s : State) : Res :=
  .next (s.parity sq parity fun u => u.enterRow sq e)

/-! ## 6, 7 Flow and promote -/

/-- The activation values of row r of a pass. -/
def State.rowValues (s : State) (q : Fin 64) (e : Fin 4) (p : Pass) (t : Cells) (r : Nat) : Array (Option Val) :=
  (skipVals p.rc.afmt p.rc.ablk (p.rc.rowElems t.fmt) ((s.rowData q e p r (p.rc.rowSize t.fmt)).map (·.1))).toArray

/-- A value merged into an accumulator, with the marks of the row and the tile (R90, R256). -/
def State.mergeAcc (s : State) (q : Fin 64) (e : Fin 4) (p : Pass) (row col : Nat) (first : Bool) (v : W32) (mark : Mark) : State :=
  let a := accAt q e row + 4 * col
  let old := if first then p.rc.op.identity else BitVec.ofNat 32 (s.word a 4)
  let m := if first then mark else joinMark mark (s.markAt a)
  (s.putWord a 4 (p.rc.op.combine old v).toNat).setMark a m

/-- One sum of a pass promoted, or entered in the overflow map (R49). -/
def State.promote (s : State) (q : Fin 64) (e : Fin 4) (p : Pass) (t : Cells) (mark : Mark) (row col : Nat) : State :=
  let ex := (p.exps.getD (0, 0)).1
  let sum := columnSum p.rc t ex (s.rowValues q e p t row) col
  let m := joinMark mark (p.rowMark.getD row .none)
  if sum.ovf then
    let s1 := s.updPass q e p.seq fun y => { y with ovf := y.ovf ++ [(row, col)] }
    if p.rc.next then s1 else s1.mergeAcc q e p row col true p.rc.op.identity m
  else s.mergeAcc q e p row col (!p.rc.next) (sum.value p.rc.op ex) m

/-- Is an operation a half-rate one (Table 2.4). -/
def PassOp.half : PassOp → Bool
  | .maxplus | .minplus | .cmpcount => true
  | .mac | .l1 | .l2 | .ewise => false

/-- The pass whose sum of a column for a row leaves the array: that of the first pass with sums of the column to come, or of a
full-rate pass behind half-rate ones, whose sums take twice as long, once those have promoted into the same row (R44, R53; log 84). -/
def Engine.promoting (e : Engine) (row : Nat) (col : Fin 128) : Option Pass :=
  let open_ := e.passes.filter fun p => p.tiled && decide (pick p.sums col < p.rc.rows)
  (open_.find? fun p => pick p.sums col == row && open_.all fun y =>
    decide (p.seq ≤ y.seq) || (y.rc.op.half && !p.rc.op.half && (decide (row < pick y.sums col) || decide (y.rc.rows ≤ row)))).filter fun p => decide (row < p.entered)

/-- Rows of a FINAL pass that its epilogue has not read. -/
def Pass.unread (p : Pass) : List Nat :=
  if !p.rc.final then [] else (List.range p.rc.rows).filter fun r => !(p.reads.any (·.1 == r)) && !p.written.contains r

/-- Is an accumulator row of a FINAL pass final (R92): its sums are settled, and no repeat to come names it. -/
def Engine.rowFinal (e : Engine) (p : Pass) (row : Nat) : Bool :=
  if p.tiled then
    p.sums.all (fun n => decide (row < n)) && !(e.passes.any fun y => y.task == p.task && decide (y.seq ≤ p.seq) && y.ovf.any (·.1 == row))
  else decide (row < p.entered)

/-- The tag of the accumulator slot of a row after a promotion into it: FULL when the rows that it serves are final and not read, else
FILLING (R33, R45, R92; log 9). -/
def Engine.fillAcc (e : Engine) (row : Nat) : Engine :=
  let ready (r : Nat) : Bool := e.passes.all (fun p => decide (p.rc.rows ≤ r)) || e.passes.any fun p => p.tiled && p.unread.contains r && e.rowFinal p r
  e.setOp (if ready (2 * (row / 2)) && ready (2 * (row / 2) + 1) then .full else .filling) [accSlot row]

/-- A row has been read out of its accumulators: its slot is EMPTY when the other row of the slot is free too. -/
def Engine.drainAcc (e : Engine) (row : Nat) : Engine :=
  let other := if row % 2 = 0 then row + 1 else row - 1
  let free := e.passes.all fun p => !p.tiled || decide (p.rc.rows ≤ other) || p.sums.all (fun n => decide (n ≤ other)) || (p.rc.final && !p.unread.contains other)
  if free then e.setOp .empty [accSlot row] else e

/-- SUM_PROMOTE (R44, R45, R49, R90): the sum of a column for a row leaves the array; sums of a column leave in row order. A FIRST
promotion into a row that is not free holds the array: rows that entered before the held one go on. -/
def State.promoteSum (s : State) (sq : Fin 64) (e : Fin 4) (row : Fin 256) (col : Fin 128) : State :=
  let x := s.eng sq e
  match x.promoting row.val col with
  | none => s.notDue
  | some p =>
    let behind := x.holding.any fun h => decide (h.1 < p.seq) || (h.1 == p.seq && decide (h.2 < row.val))
    if behind then s.waits
    else if !p.rc.next && x.rowBusy p row.val then (s.updEng sq e fun y => { y with hold := some (p.seq, row.val) }).waits
    else
      let b := s.bankOf sq e p
      let s1 := s.ok.updEng sq e fun y => { y with hold := y.hold.filter fun h => h != (p.seq, row.val) }
      ((s1.promote sq e p (b.cells p.rc) b.tile.mark row.val col.val).updPass sq e p.seq
        fun y => { y with sums := upd y.sums col fun _ => row.val + 1 }).updEng sq e fun y => y.fillAcc row.val

def execSumPromote (sq : Fin 64) (e : Fin 4) (row : Fin 256) (col : Fin 128) (parity : Option BadWord) (s : State) : Res :=
  .next (s.parity sq parity fun u => u.promoteSum sq e row col)

/-! ## 8 Verdict, and what it releases -/

/-- Activation slots of a pass, and the held rows under its name, given back. -/
def Engine.dropRows (e : Engine) (seq : Nat) : Engine :=
  let gone := (e.passes.filter (·.seq == seq)).flatMap (·.slots) ++ (e.held.filter (·.reader == seq)).flatMap (·.slots)
  { e.setOp .empty (actSlots gone) with
    held := e.held.filter fun h => h.reader != seq
    passes := updFirst e.passes (·.seq == seq) fun z => { z with slots := [] } }

/-- The slots of a pass's second stream given back (R58). -/
def Engine.dropSecond (e : Engine) (seq : Nat) : Engine :=
  { e.setOp .empty (actSlots ((e.passes.filter (·.seq == seq)).flatMap (·.ewSlots))) with
    passes := updFirst e.passes (·.seq == seq) fun z => { z with ewSlots := [] } }

/-- Held rows are done with when a pass that gives them up has come, and it, every other user and the pass that fetched them are clean
(R52, R439). -/
def Engine.heldDone (e : Engine) (reader : Nat) : Bool :=
  let users := e.passes.filter fun y => y.rc.held && y.fetched && y.rowsFrom == reader
  users.any (fun y => !y.rc.ahold) && users.all (fun y => y.verdict == .clean) && (e.passOf reader).all fun y => y.verdict == .clean

/-- Slots of tiles and rows that a clean verdict releases (R52, R439): the tile's when every pass of its group is clean and none is to
come; the pass's own rows and second stream; held rows when they are done with. -/
def State.cleanUp (s : State) (q : Fin 64) (e : Fin 4) (p : Pass) : State :=
  let x := s.eng q e
  let s1 := match if p.tiled then x.loadOf p.seq else none with
    | none => s
    | some l =>
      if (l.verdict == .clean) && (x.keeps l.seq).all (fun k => k.verdict == .clean) && !(s.sq q).keepToCome e l then s.doneReading q l.seq 0 fun _ => true
      else s
  let s2 := if p.tiled then s1 else (s1.doneReading q p.seq 3 fun _ => true).updEng q e fun y => y.dropSecond p.seq
  if (p.rowsFrom = p.seq ∧ !p.rc.ahold) ∨ x.heldDone p.rowsFrom then
    (s2.doneReading q p.rowsFrom 1 fun _ => true).updEng q e fun y => y.dropRows p.rowsFrom
  else s2

/-- PASS_VERDICT (R50): the first settled pass without a verdict has its own; repeats queue in the order of their verdicts (R91). -/
def execPassVerdict (sq : Fin 64) (e : Fin 4) (s : State) : Res :=
  .next (let x := s.eng sq e
    match x.passes.find? fun p => p.verdict == .none && p.settled with
    | none => s.notDue
    | some p =>
      if p.ovf = [] then
        let s1 := s.ok.updPass sq e p.seq fun y => { y with verdict := .clean }
        s1.cleanUp sq e { p with verdict := .clean }
      else
        let feeding := (x.passes.find? fun y => decide (0 < y.entered) && decide (y.entered < y.rc.rows)).map (·.seq)
        let last := ((x.passes.filter fun y => y.entered == y.rc.rows).map (·.seq)).foldl max p.seq
        s.ok.updEng sq e fun y => { y with
          passes := updFirst y.passes (·.seq == p.seq) fun z => { z with verdict := .repeatWanted }
          repeats := y.repeats ++ [(p.seq, feeding.getD last)] })

/-! ## 9 Repeat -/

/-- The bank that a repeat loads its tile into: one that no pass waits to feed from, the one the last pass fed did not use first;
when neither is free, that of the pass whose tile is loaded and which has not entered a row (R50, R51). -/
def Engine.repeatBank (e : Engine) : Fin 2 × List Nat :=
  let last := (e.passes.filter fun p => p.tiled && decide (0 < p.entered)).foldl (fun b p => p.bank.or b) e.lastBank
  let want := (last.map otherBank).getD 0
  if e.bankFree want then (want, [])
  else if e.bankFree (otherBank want) then (otherBank want, [])
  else match (e.passes.filter fun p => p.tiled && p.bank.isSome && p.entered == 0).getLast? with
    | none => (want, [])
    | some p =>
      let b := p.bank.getD 0
      (b, (e.passes.filter fun y => y.tiled && y.bank == some b && y.entered == 0).map (·.seq))

/-- The half that a repeat stages into: an empty one, or that of the later of two staged tiles, which is staged again afterwards
(R50). -/
def Engine.repeatHalf (e : Engine) : Fin 2 × Option Nat :=
  match (List.finRange 2).find? fun h => (pick e.halves h).full.isNone with
  | some h => (h, none)
  | none => if (pick e.halves 0).owner > (pick e.halves 1).owner then (0, some (pick e.halves 0).owner) else (1, some (pick e.halves 1).owner)

/-- The repeat of a pass: staged from the same slots (the tile of an earlier task, whose slots are free again, as it was fed), loaded, fed at E_safe, its listed sums promoted, its verdict clean (R50, R53,
R90). -/
def State.doRepeat (s : State) (q : Fin 64) (e : Fin 4) (p : Pass) : State :=
  let x := s.eng q e
  let tile : Bank := match x.loadOf p.seq with
    | some l => let t := s.tileOf q l.rc; { tile := t.1, image := t.2.map (·.1) }
    | none => p.fed.getD {}
  let half := x.repeatHalf
  let bank := x.repeatBank
  let s1 := s.updEng q e fun y => { y with
    passes := y.passes.map fun z =>
      if half.2 = some z.seq then { z with tile := .none } else if bank.2.contains z.seq then { z with tile := .none } else z
    banks := upd y.banks bank.1 fun _ => tile
    repeats := y.repeats.filter fun r => r.1 != p.seq
    passRepeat := y.passRepeat + 1 }
  let s2 := if half.2.isSome then s1.emptyHalf q e half.1 else s1
  let cells := tile.cells p.rc
  let ex := (p.exps.getD (0, 0)).2
  let s3 := p.ovf.foldl (fun u (o : Nat × Nat) =>
    let sum := columnSum p.rc cells ex (u.rowValues q e p cells o.1) o.2
    u.mergeAcc q e p o.1 o.2 false (sum.value p.rc.op ex) (joinMark tile.tile.mark (p.rowMark.getD o.1 .none))) s2
  let f := frontOf q
  let ph := s3.phaseOf q p.task
  let s4 := (((s3.coreAccess q p.task (chunkCount p.src.tsrc tile.image.length)).activity f ph 6 128).activity f ph (p.rc.entryClass tile.tile.fmt) p.rc.rows).lifeAdd 7 (engineNo q e) 1
  let s5 := (s4.updPass q e p.seq fun y => { y with ovf := [], verdict := .clean }).updEng q e fun y => p.ovf.foldl (fun z o => z.fillAcc o.1) y
  s5.cleanUp q e { p with ovf := [], verdict := .clean }

/-- Has the place of a repeat come: the pass it follows, and the KEEP passes behind that one, have entered their last rows and promoted
their sums (R50, R53). -/
def State.repeatDue (s : State) (q : Fin 64) (e : Fin 4) (after : Nat) : Bool :=
  let x := s.eng q e
  let group := (x.passes.filter (·.seq ≤ after)) ++ x.keeps after
  group.all (fun p => p.entered == p.rc.rows && (!p.tiled || p.settled)) && !((x.passOf after).any fun p => (s.sq q).keepToCome e p)

/-- PASS_REPEAT (R50, R91): the oldest pending repeat, at its place in the issue order. -/
def State.nextRepeat (s : State) (sq : Fin 64) (e : Fin 4) : State :=
  match (s.eng sq e).repeats with
  | [] => s.notDue
  | (seq, after) :: _ =>
    match (s.eng sq e).passOf seq with
    | none => s.notDue
    | some p => if s.repeatDue sq e after then s.ok.doRepeat sq e p else s.waits

def execPassRepeat (sq : Fin 64) (e : Fin 4) (parity : Option BadWord) (s : State) : Res :=
  .next (s.parity sq parity fun u => u.nextRepeat sq e)

/-- Does the row that a hold waits for wait itself for a pending repeat (R51, R92). -/
def Engine.waitsForRepeat (e : Engine) (p : Pass) (row : Nat) : Bool :=
  e.passes.any fun y => decide (y.seq < p.seq) && y.verdict == .repeatWanted && y.ovf.any (·.1 == row)

/-- HELD_PASS_EJECT (R51): once the rows ahead of it have promoted, the held row and the rows of its pass behind it leave the array, and
the repeat enters at once. -/
def State.ejectHeld (s : State) (sq : Fin 64) (e : Fin 4) : State :=
  let x := s.eng sq e
  match x.holding, x.repeats with
  | some (seq, row), (rseq, after) :: _ =>
    match x.passOf seq, x.passOf rseq with
    | some p, some r =>
      if !x.waitsForRepeat p row || s.repeatDue sq e after then s.notDue
      else if !(x.passes.all fun y => decide (seq ≤ y.seq) || !y.tiled || y.settled) || !p.sums.all (· == row) then s.waits
      else
        let s1 := s.ok.updEng sq e fun y => { y with
          hold := none
          passes := updFirst y.passes (·.seq == seq) fun z => { z with entered := row } }
        s1.doRepeat sq e r
    | _, _ => s.notDue
  | _, _ => s.notDue

def execHeldPassEject (sq : Fin 64) (e : Fin 4) (parity : Option BadWord) (s : State) : Res :=
  .next (s.parity sq parity fun u => u.ejectHeld sq e)

/-! ## 10 Epilogue -/

def Pass.destSlots (p : Pass) (row : Nat) : List Nat := slotsOf (p.rc.daddr + row * p.rc.dstride) p.rc.epi.outBytes

/-- The 128 words that a row's epilogue starts from: its accumulators, or the element-wise results of an EWISE row (R58). -/
def State.epiWords (s : State) (q : Fin 64) (e : Fin 4) (p : Pass) (row : Nat) : List (W32 × Mark) :=
  if p.tiled then wordsMarked .fp32 128 (s.load (accAt q e row) 512)
  else
    let a := valsMarked p.rc.afmt p.rc.ablk 128 0 (s.rowData q e p row (p.rc.rowSize p.rc.afmt))
    let b := valsMarked p.rc.ewfmt p.rc.ewblk 128 0 (s.rowRead q e p.ewSlots (row * p.rc.ewRow) p.rc.ewRow)
    (a.zip b).map fun y => (ewiseOp p.rc.ewop (toF32 y.1.1) (toF32 y.2.1), p.rowMark.getD row .none)

/-- EPILOGUE_READ (R45, R92): the lowest final row of the oldest FINAL pass, once its destination slots can be acquired; the
accumulator row is free from here on. -/
def State.epilogueRead (s : State) (sq : Fin 64) (e : Fin 4) : State :=
  let x := s.eng sq e
  match x.passes.findSome? fun p => (p.unread.find? fun r => x.rowFinal p r).map fun r => (p, r) with
  | none => s.notDue
  | some (p, r) =>
    let slots := p.destSlots r
    match (s.sq sq).firstTaken p.acq slots with
    | some k => s.waitSlot sq (reqWrite (reqEpilogue e)) k
    | none =>
      let new := slots.filter fun k => !p.acq.contains k
      let words := s.epiWords sq e p r
      let s1 := new.foldl (fun u k => u.acquire sq k) (s.ok.unwatch sq (reqWrite (reqEpilogue e)))
      let s2 := s1.updPass sq e p.seq fun y => { y with acq := y.acq ++ new, reads := y.reads ++ [(r, words)] }
      if p.tiled then (s2.undefine (inRange (accAt sq e r) 512)).updEng sq e fun y => y.drainAcc r else s2

def execEpilogueRead (sq : Fin 64) (e : Fin 4) (parity : Option BadWord) (s : State) : Res :=
  .next (s.parity sq parity fun u => u.epilogueRead sq e)

/-- The roundings of row r of an epilogue (R82): 128 draws a row, in row order from the pass's place in its stream. -/
def Pass.rounds (p : Pass) (r : Nat) : List Rounding :=
  match p.sr0 with
  | none => rneAll 128
  | some st => ((streamDraws (128 * (r + 1)) st).2.drop (128 * r)).map Rounding.sr

/-- EPILOGUE_WRITE (R99, R105, R106): the oldest row read, once its operands are there. -/
def State.epilogueWrite (s : State) (sq : Fin 64) (e : Fin 4) : State :=
  match (s.eng sq e).passes.find? fun p => p.reads ≠ [] with
  | none => s.notDue
  | some p =>
    match p.reads with
    | [] => s.notDue
    | (r, words) :: rest =>
      let epi := p.rc.epi
      match s.awaitSlots sq (reqEpilogue e) (epi.peeks r ++ epi.ewSlots r).eraseDups with
      | (false, u) => u
      | (true, u) =>
        let out := epi.encode (p.rounds r) (u.epiSteps sq epi r words)
        let a := p.rc.daddr + r * p.rc.dstride
        let chunks := chunkCount a out.length + chunkCount epi.saddr (if epi.scale = 0 then 0 else 4 * epi.n)
          + chunkCount epi.baddr (if epi.bias then (if epi.biasBf16 then 2 else 4) * epi.n else 0)
          + chunkCount (epi.eaddr + r * epi.estride) (if epi.ew = 0 then 0 else epi.ewBytes)
        let u1 := ((u.ok.coreAccess sq p.task chunks).storeCore sq a out).updPass sq e p.seq fun y => { y with reads := rest, written := y.written ++ [r] }
        let left := (List.range p.rc.rows).filter fun k => k ≠ r ∧ !p.written.contains k
        let full := p.acq.filter fun k => !left.any fun y => (p.destSlots y).contains k
        let u2 := full.foldl (fun v k => v.release sq k p.rc.ocount {}) u1
        let u3 := u2.updPass sq e p.seq fun y => { y with acq := y.acq.filter fun k => !full.contains k }
        u3.doneReading sq p.seq 2 fun k => !left.any fun y => (epi.ewSlots y).contains k

def execEpilogueWrite (sq : Fin 64) (e : Fin 4) (parity : Option BadWord) (s : State) : Res :=
  .next (s.parity sq parity fun u => u.epilogueWrite sq e)

/-! ## 11 Retire -/

/-- PASS_RETIRE (R43, R119): the task's time on the engine runs to here (R18). -/
def execPassRetire (sq : Fin 64) (e : Fin 4) (s : State) : Res :=
  .next (match (s.eng sq e).passes.find? fun p => !p.retired && p.verdict == .clean && (!p.rc.final || p.written.length == p.rc.rows) with
    | none => s.notDue
    | some p =>
      let s1 := s.ok.updPass sq e p.seq fun y => { y with retired := true }
      s1.updSq sq fun x => ({ x with tasks := updWhere x.tasks (·.key == p.task) fun t =>
        { t with spans := t.spans.map fun (y : Nat × Nat × Nat) => if y.1 = e.val then (y.1, y.2.1, s.now) else y } }).retire p.seq)

end Sys2Proof.Machine
end

