-- ==== Sys2Proof/Machine/Power.lean ====
section
/-!
DEFINITION. The power controller: estimates, bubbles and gaps, input energy, droop, temperature and the thermal trip
(R389, R391 to R400, R403, R404).
-/

namespace Sys2Proof.Machine

/-! ## The estimate (R391) -/

/-- The count of activity k of a phase in the running period; activity 15 goes to the phase of the last task started. -/
def FrontPwr.countOf (w : FrontPwr) (p : Fin 4) (k : Nat) : Nat :=
  if k = 15 then (if w.phaseNow = p then w.awakeNs else 0) else (assoc w.counts (16 * p.val + k)).getD 0

/-- Watts of a phase over the activities lo to lo + n - 1, without the correction factor: picojoules divided by 10 us. -/
def State.phaseWatts (s : State) (f : Fin 8) (p : Fin 4) (lo n : Nat) : Rat :=
  ((List.range n).foldl (fun (x : Rat) (k : Nat) =>
    x + ratOf ((s.front f).weight p (lo + k)) * (((s.front f).countOf p (lo + k) : Nat) : Rat)) 0) / 10000000

/-- The estimate over a range of activities: each phase by its correction factor. -/
def State.estimateOf (s : State) (f : Fin 8) (lo n : Nat) : Rat :=
  (List.finRange 4).foldl (fun (x : Rat) (p : Fin 4) => x + pick (s.front f).factor p * s.phaseWatts f p lo n) 0

/-- Phases a Front ran in the period: those of its running tasks and those with activity (R397). -/
def State.phaseRan (s : State) (f : Fin 8) (p : Fin 4) : Bool :=
  (s.phasesOn f).any (fun x => x.2 == p) || (s.front f).counts.any fun c => c.1 / 16 == p.val

/-- The estimate formed at a boundary; the ME part is that of activities 0 to 7 (DEDUCED, log 49). -/
def State.formEstimate (s : State) (f : Fin 8) : State :=
  let est := s.estimateOf f 0 16
  let me := s.estimateOf f 0 8
  let un := est / (1 - ((s.front f).bubble.val : Rat) / 64)
  let energy := (s.front f).energyPart + est / 100
  let peak (p : Fin 4) : Option Rat :=
    let old := pick (s.front f).peaks p
    if s.phaseRan f p then some (match old with
      | some x => if x < un then un else x
      | none => un)
    else old
  s.updFront f fun w => { w with
    estimate := est, meEstimate := me, peaks := Vector.ofFn peak
    phaseEnergy := Vector.ofFn fun p => pick w.phaseEnergy p + 10 * s.phaseWatts f p 0 16
    energyMj := w.energyMj + (max 0 energy.floor).toNat, energyPart := energy - (max 0 energy.floor : Int)
    counts := [], awakeNs := 0 }

/-! ## The boundary (R389, R393, R395, R398 to R400) -/

/-- A write or command that takes effect counts (R409). -/
def State.capChanged (s : State) : State := ((s.count .capChange).lifeAdd 8 16 1).updPwr fun p => { p with lastChange := s.now }

def State.takeCap (s : State) : State :=
  match s.pwr.capWanted with
  | none => s
  | some w => (s.updPwr fun p => { p with cap := w, capWanted := none }).capChanged

def State.takeMode (s : State) : State :=
  match s.pwr.capModeDue with
  | none => s
  | some v => (s.updPwr fun p => { p with
      mode := BitVec.ofNat 2 (bitsAt v.toNat 0 2), lullAfter := BitVec.ofNat 8 (bitsAt v.toNat 8 8), frostAfter := BitVec.ofNat 8 (bitsAt v.toNat 16 8)
      demands := if bitAt v.toNat 4 then [] else p.demands, capModeDue := none }).capChanged

/-- The gap fraction from the predicted estimate, the share and the non-ME power without gaps (R395). -/
def newGap (g : Fin 61) (b1 : Fin 61) (predicted share rest : Rat) : Fin 61 :=
  if g = 0 ∧ !(b1.val = 60 ∧ 102 / 100 * share < predicted) then 0
  else if 0 < rest then toSlots ((g.val : Rat) / 64 + (predicted - share) / rest)
  else 0

/-- Bubble and gap fractions for the next period; in the first two periods of a step they follow its need (R393, R395, R402). -/
def FrontPwr.nextFractions (w : FrontPwr) : FrontPwr :=
  let b : Rat := (w.bubble.val : Rat) / 64
  let est := match w.override with
    | some (_, d) => d * (1 - b)
    | none => w.estimate
  let a := w.mePower
  let b1 := newBubble w.bubble w.share est a
  let predicted := est - a * ((b1.val : Rat) / 64 - b)
  let rest := (est - w.meEstimate) / (1 - (w.gap.val : Rat) / 64)
  { w with bubble := b1, gap := newGap w.gap b1 predicted w.share rest, override := match w.override with
      | some (n + 2, d) => some (n + 1, d)
      | _ => none }

/-- PERIOD_BOUNDARY: every 10 us of the time base, with the last rail readings of the CPU and the IO group (R391). -/
def execPeriodBoundary (cpuWatts ioWatts : Nat) (s : State) : Res :=
  .next (
    if s.now % us 10 ≠ 0 ∨ s.pwr.lastPeriod = some s.now ∨ s.eci.devState = .uninit ∨ s.pwr.sleep.deep then s.notDue
    else
      let s1 := (s.ok.takeCap).takeMode
      let s2 := (List.finRange 8).foldl (fun u f => u.formEstimate f) s1
      let s3 := (s2.updPwr fun p => { p with cpuEst := cpuWatts, ioEst := ioWatts, lastPeriod := some s.now }).setShares
      s3.updPwr fun p => { p with fronts := p.fronts.map FrontPwr.nextFractions })

/-! ## Input energy and the factors (R389, R392) -/

/-- A factor moved an eighth of the way to measured over estimated, within 0.5 to 2.0. -/
def nextFactor (c ratio : Rat) : Rat := max (1 / 2) (min 2 (c + (ratio - c) / 8))

/-- Factors of a Front from its rail energy; the estimate is the uncorrected one (DEDUCED, log 49). -/
def FrontPwr.calibrate (w : FrontPwr) (railMicroJoules : Nat) : FrontPwr :=
  let e := w.phaseEnergy.toList.foldl (· + ·) 0
  let next (p : Fin 4) : Rat :=
    if 0 < e ∧ 0 < pick w.phaseEnergy p then nextFactor (pick w.factor p) ((railMicroJoules : Rat) / e) else pick w.factor p
  { w with factor := Vector.ofFn next, phaseEnergy := Vector.replicate 4 0 }

/-- POWER_WINDOW: an aligned window of 1 ms with its measured input energy and the rail energy of each Front. -/
def execPowerWindow (inputMicroJoules : Nat) (railMicroJoules : List Nat) (s : State) : Res :=
  .next (
    if s.now % ms 1 ≠ 0 ∨ s.pwr.lastWindow = some s.now ∨ s.eci.devState = .uninit then s.notDue
    else
      let part := s.pwr.energyPart + inputMicroJoules
      let watts : Rat := (inputMicroJoules : Rat) / 1000
      let s1 := (s.ok.add .inputEnergyMj (part / 1000)).updPwr fun p => { p with
        energyPart := part % 1000, excess := max 0 (watts - (p.cap : Rat)), lastWindow := some s.now
        fronts := p.fronts.mapIdx fun i w => match railMicroJoules[i]? with
          | some m => w.calibrate m
          | none => w }
      if 102000 * s.pwr.cap < 100 * inputMicroJoules then (s1.count .capExceed).lifeAdd 8 17 1 else s1)

/-! ## Droop (R396) -/

def execDroopFire (die : Fin 16) (s : State) : Res :=
  .next (if s.eci.devState = .uninit then s.notDue
    else ((s.ok.count .droopBurst).lifeAdd 8 18 1).updPwr fun p => { p with droop := upd p.droop die fun _ => true })

def execDroopBurstEnd (die : Fin 16) (s : State) : Res :=
  .next (if pick s.pwr.droop die then s.ok.updPwr fun p => { p with droop := upd p.droop die fun _ => false } else s.notDue)

/-! ## Temperature (R403) -/

/-- Logic dies of a consumer of Table 15.1: the eight Fronts, the CPU, the IO group. -/
def consumerDies (i : Fin 10) : List Nat :=
  if i.val < 8 then [2 * i.val, 2 * i.val + 1, 16 + i.val]
  else if i.val = 8 then [24, 25]
  else [26, 27, 28, 29, 30, 31]

/-- The bin of a temperature in the lifetime record (Table 16.6). -/
def tempBin (c : Int) : Nat := if c < 25 then 0 else min 22 ((c - 20) / 5).toNat

/-- A consumer's throttle after a sample: the factor moves a twentieth per 10 samples of one kind. -/
def State.throttle (s : State) (i : Fin 10) : State :=
  let temps := (consumerDies i).filterMap fun d => (assoc s.pwr.temps d).map fun c => (d, c)
  let top := temps.foldl (fun (m : Nat × Int) (x : Nat × Int) => if m.2 < x.2 then x else m) (temps.headD (0, 0))
  let hot := temps.any fun x => decide (x.2 > 105)
  let cool := !temps.isEmpty && temps.all fun x => decide (x.2 < 103)
  let t := pick s.pwr.thermalTick i
  let n : Int := if hot then max t 0 + 1 else if cool then min t 0 - 1 else 0
  let k := (pick s.pwr.thermal i).val
  let k1 := if n = 10 then max 5 (k - 1) else if n = -10 then min 20 (k + 1) else k
  let was := pick s.pwr.throttled i
  let now := hot || (was && !(cool && k1 == 20))
  let s1 := s.updPwr fun p => { p with
    thermalTick := upd p.thermalTick i fun _ => if n = 10 ∨ n = -10 then 0 else n
    thermal := upd p.thermal i fun _ => ⟨k1 % 21, by omega⟩, throttled := upd p.throttled i fun _ => now }
  if now == was then s1
  else
    let args := argBits [(0, top.1), (8, (top.2 % 256).toNat), (16, if now then 1 else 0)]
    let s2 := s1.event 0 0x0007 unitNone 0 args
    if now then (s2.count .thermThrottle).lifeAdd 8 19 1 else s2

/-- Readings kept. -/
def State.readTemps (s : State) (l : List Reading) : State :=
  s.updPwr fun p => { p with temps := (l.filter fun r => decide (r.die < 48)).foldl (fun t r => assocSet t r.die r.celsius) p.temps }

/-- The sample's time entered in the lifetime record. -/
def State.binTemps (s : State) (l : List Reading) : State :=
  (l.filter fun r => decide (r.die < 48)).foldl (fun u r => u.lifeAdd 1 (r.die * 23 + tempBin r.celsius) 1) s

/-- TEMP_SAMPLE: the sensors are read every 100 us of the time base. -/
def execTempSample (readings : List Reading) (s : State) : Res :=
  .next (
    if !s.boot.supply.on ∨ s.now % us 100 ≠ 0 ∨ s.pwr.lastTemp = some s.now then s.notDue
    else
      let s1 := ((s.ok.readTemps readings).binTemps readings).updPwr fun p => { p with lastTemp := some s.now }
      (List.finRange 10).foldl (fun u i => u.throttle i) s1)

/-! ## The thermal trip (R404) -/

/-- Power is gone from all but die K, IO-H, IO-M, LPDDR5X and the fabric: what the other dies and the HBM held is lost; sessions and
their queues stay. -/
def State.tripPower (s : State) : State :=
  let w := s.warmReset
  let z := State.reset
  { s with
    free := s.free + 1
    mem := s.keptMem false, marks := s.marks.filter fun m => isLpd (64 * m.1)
    srv := z.srv, tiers := w.tiers, squalls := z.squalls, cores := z.cores, coh := z.coh
    dram := { s.dram with channels := z.dram.channels }
    pwr := { s.pwr with fronts := w.pwr.fronts, demands := [], droop := z.pwr.droop, sleep := .awake }
    dnb := w.dnb
    boot := { s.boot with stage := 0 } }

/-- THERMAL_TRIP: a reading above 115 degrees on a logic die or an HBM stack; the lifetime record is written (R418). -/
def execThermalTrip (die : Nat) (celsius : Int) (s : State) : Res :=
  .next (
    if celsius ≤ 115 ∨ 48 ≤ die ∨ !s.boot.supply.on ∨ s.pwr.tripped ∨ s.eci.devState = .uninit then s.notDue
    else
      let s1 := (s.ok.event 4 0x0401 s.moduleId 0 (argBits [(0, die), (8, (celsius % 256).toNat)])).lifeAdd 8 20 1
      let s2 := s1.updPwr fun p => { p with tripped := true, temps := assocSet p.temps die celsius }
      s2.fault.writeLifetime.tripPower)

/-- Every sensor below 95 degrees, as last read. -/
def State.coolEnough (s : State) : Bool := s.pwr.temps.all fun x => decide (x.2 < 95)

/-- TRIP_RELEASE: with every sensor below 95 degrees THERMTRIP_N is released, and the boot that a module reset asked for begins; a
cold reset needs none. -/
def execTripRelease (readings : List Reading) (s : State) : Res :=
  .next (
    let s1 := s.readTemps readings
    if !s.pwr.tripped ∨ !s1.coolEnough ∨ !(s.pwr.tripReset ∨ s.eci.devState = .uninit) then s.notDue
    else
      let s2 := s1.ok.updPwr fun p => { p with tripped := false, tripReset := false }
      if s.eci.devState = .uninit then s2 else s2.warmBoot)

end Sys2Proof.Machine
end

