-- ==== Sys2Proof/Machine/Sleep.lean ====
section
/-!
DEFINITION. Sleep states: Calm and Lull of a Front, Lull and Frost of the module, and waking (R136, R310, R405 to R408).
-/

namespace Sys2Proof.Machine

/-! ## What keeps a Front awake -/

/-- The logical units that a chain's split tables bind (R149, R407). -/
def Model.chainFronts (m : Model) (chain : Fin 16) : List (Fin 8) :=
  let fam := ((m.image.familyOf chain).map fun f => (f.firstVariant, f.variantCount)).getD (0, 0)
  let vs := (m.image.variants.drop fam.1).take fam.2
  (vs.flatMap fun v => m.runFronts v ++ v.splits.flatMap fun sp => (m.members sp.lunit).map fun u => frontOf ⟨u % 64, by omega⟩).eraseDups

/-- Does a gate, a closed step or a running step of some chain concern a Front. -/
def State.frontBound (s : State) (f : Fin 8) : Bool :=
  s.srv.chains.any fun c =>
    ((c.gate.isSome || !c.closed.isEmpty) && (s.model c.model).any fun m => (m.chainFronts c.chain).contains f)
      || c.run.any fun r => r.fronts.contains f

/-- Has a Squall nothing queued or running. -/
def Squall.quiet (x : Squall) : Bool :=
  x.tasks.isEmpty && x.lists.isEmpty && x.open_.isEmpty && x.vq.isEmpty && x.fences.isEmpty
    && x.chans.toList.all fun c => c.queue.isEmpty && c.run.isNone

def State.frontQuiet (s : State) (f : Fin 8) : Bool :=
  !s.frontBound f && (List.finRange 8).all fun k => (s.sq (squallOf f k)).quiet

/-- Is a RESET_SCOPE of the Front or of a unit on it under way. -/
def State.frontReset (s : State) (f : Fin 8) : Bool :=
  s.logs.resets.any fun r => (s.unitRef r.unit).any fun u => u.within (.front f)

/-- The module runs: all stages of bring-up have ended and it is not asleep. -/
def State.moduleAwake (s : State) : Bool := s.boot.stage == 9 && s.pwr.sleep == .awake

/-! ## Calm and Lull of a Front (R406) -/

/-- FRONT_CALM_ENTER: no task, DMA or commit copy runs or is queued on the Front, and no open gate keeps it awake (DEDUCED, log 50). -/
def execFrontCalmEnter (front : Fin 8) (s : State) : Res :=
  .next (if s.moduleAwake && (s.front front).sleep == .awake && s.frontQuiet front && !s.frontReset front then
      s.ok.updFront front fun w => { w with sleep := .calm s.now }
    else s.notDue)

/-- In the CACHE role a Front enters Lull at once unless its bit in CACHE_AWAKE is set (R378). -/
def State.cacheLull (s : State) (f : Fin 8) : Bool := s.eci.role == some .cache && !s.eci.cacheAwake.getLsbD f.val

/-- FRONT_LULL_ENTER: at a 1 ms boundary after LULL_AFTER ms of Calm, or at once in the CACHE role. -/
def execFrontLullEnter (front : Fin 8) (s : State) : Res :=
  .next (match (s.front front).sleep with
    | .calm t =>
      let due := s.now % ms 1 == 0 && s.pwr.lullAfter != 0 && decide (t + ms s.pwr.lullAfter.toNat ≤ s.now)
      if s.moduleAwake && (due || s.cacheLull front) && !s.frontBound front && !s.frontReset front then
        s.ok.updFront front fun w => { w with sleep := .lull s.now }
      else s.notDue
    | _ => s.notDue)

/-! ## Lull and Frost of the module (R406, R310) -/

/-- Does a core wait in WFI with no interrupt pending and nothing under way. -/
def CoreSt.parked (x : CoreSt) : Bool :=
  !x.inService || (x.wfi && !x.irq && x.dev.isEmpty && x.rst == .running)

/-- The conditions of module Lull. -/
def State.lullReady (s : State) : Bool :=
  s.moduleAwake && (List.finRange 8).all (fun f => (s.front f).sleep.isLull)
    && s.cores.toList.all CoreSt.parked
    && s.srv.chains.all (fun c => c.gate.isNone && c.closed.isEmpty && c.run.isNone)
    && s.eci.ops.all (fun o => o.st == .suspended) && s.srv.transfers.all (fun t => (s.op t.op).any (·.st == .suspended)) && s.tiers.lifts.isEmpty && s.coh.reqs.isEmpty && s.dnb.reqs.isEmpty
    && s.eci.arrivals.isEmpty && s.logs.resets.isEmpty
    && decide (s.pwr.lastRequest + ms 1 ≤ s.now)

/-- Store buffers of every core drained. -/
def State.drainCores (s : State) : State := (List.finRange 64).foldl (fun u c => u.drainAll c) s

/-- MODULE_LULL_ENTER: the cores drain, their dirty lines go back, their caches are invalidated; DRAM refreshes itself. -/
def execModuleLullEnter (s : State) : Res :=
  .next (
    if !s.lullReady then s.notDue
    else
      let s1 := s.ok.drainCores
      if s1.cores.toList.any (fun c => !c.sb.isEmpty) then s1.waits
      else
        let s2 := (List.finRange 64).foldl (fun u c => u.writeBackCore c) s1
        s2.updPwr fun p => { p with sleep := .lull s.now, wakeOwed := false })

/-- FROST_ENTER: at a 1 ms boundary after FROST_AFTER s of module Lull; chip memory is dropped. -/
def execFrostEnter (s : State) : Res :=
  .next (match s.pwr.sleep with
    | .lull t =>
      if s.now % ms 1 == 0 && s.pwr.frostAfter != 0 && decide (t + ms (1000 * s.pwr.frostAfter.toNat) ≤ s.now) then
        (s.ok.undefine isChip).updPwr fun p => { p with sleep := .frost s.now }
      else s.notDue
    | _ => s.notDue)

/-! ## Waking (R407, R408, R136) -/

/-- FRONT_WAKE: an item is in a gate of a chain that binds units of the Front, or a RESET_SCOPE names it. -/
def execFrontWake (front : Fin 8) (s : State) : Res :=
  .next (
    let wake (deep : Bool) : State :=
      if s.moduleAwake && (s.frontBound front || s.frontReset front) then
        s.ok.updFront front fun w => { w with sleep := .waking s.now deep }
      else s.notDue
    match (s.front front).sleep with
    | .calm _ => wake false
    | .lull _ => wake true
    | .awake | .waking _ _ => s.notDue)

/-- Is a core interrupt pending. -/
def State.irqPending (s : State) : Bool := s.cores.toList.any fun c => c.irq && c.inService

/-- MODULE_WAKE: a wake event has arrived. -/
def execModuleWake (s : State) : Res :=
  .next (
    let wake (deep : Bool) : State :=
      if s.pwr.wakeOwed || s.irqPending then
        (s.ok.count .wake).updPwr fun p => { p with sleep := .waking s.now deep, wakeOwed := false }
      else s.notDue
    match s.pwr.sleep with
    | .lull _ => wake false
    | .frost _ => wake true
    | .awake | .waking _ _ => s.notDue)

/-- Non-resident contents of a Front are undefined after any sleep state; after Lull its resident core memory is loaded again (R136). -/
def State.frontUp (s : State) (f : Fin 8) (deep : Bool) : State :=
  let s1 := (s.undefine (s.stepMemory [f] [] s.residentChip)).updFront f fun w => { w with sleep := .awake }
  if deep then
    (List.finRange 8).foldl (fun u k =>
      let q := squallOf f k
      (u.updSq q fun x => { x with cache := {}, tlb := [] }).reloadSquall q) s1
  else s1

/-- Resident chip memory of every model loaded again, 4 KiB by 4 KiB. -/
def State.reloadChip (s : State) : State :=
  s.residentChip.foldl (fun u r => (List.range (cdiv r.2 4096)).foldl (fun v k => v.reload (r.1 + 4096 * k)) u) s

/-- WAKE_COMPLETE: the module's wake ends, or else that of the first Front that wakes. -/
def execWakeComplete (s : State) : Res :=
  .next (match s.pwr.sleep with
    | .waking _ deep =>
      let s1 := s.ok.updPwr fun p => { p with sleep := .awake }
      if deep then
        let restart (x : CoreSt) : CoreSt := { x with rst := if x.rst = .running then .invalidating else x.rst }
        { s1.reloadChip with cores := s1.reloadChip.cores.map restart }
      else s1
    | .lull _ | .frost _ => s.notDue
    | .awake =>
      match (List.finRange 8).findSome? (fun f => match (s.front f).sleep with
        | .waking _ deep => some (f, deep)
        | _ => none) with
      | some x => s.ok.frontUp x.1 x.2
      | none => s.notDue)

end Sys2Proof.Machine
end

