-- ==== Sys2Proof/Machine/Tiers.lean ====
section
/-!
DEFINITION. Block sets moved between the pool and the overflow area (R238, R244, R245), and the upkeep of the flash (R264, R265).
-/

namespace Sys2Proof.Machine

/-! ## Demotion and promotion -/

/-- KV_DEMOTE_COMPLETE: the copy ends and the pool frame is freed; a step of its sequence that started meanwhile keeps it where it
is. -/
def execKvDemoteComplete (model : BitVec 32) (sub : Nat) (s : State) : Res :=
  .next (match s.srv.blocks.find? (fun b => b.model == model && b.sub == sub && b.demoting && b.inPool) with
    | none => s.notDue
    | some b =>
      if !s.demotable b then s.ok.setBlock b fun x => { x with demoting := false }
      else match s.freeOverflow b.places.length with
        | none => s.waits
        | some places => (s.ok.demoteBlock b places).feedLifts)

/-- Sequences of a model that hold a block set, by handle. -/
def State.holders (s : State) (b : BlockSet) : List Nat := (s.srv.seqs.filter (·.holds b)).map (·.handle)

/-- KV_PROMOTE: free frames only, in rising order of sequence handles, while no step of its sequences runs (R238, R245). -/
def execKvPromote (model : BitVec 32) (sub : Nat) (s : State) : Res :=
  .next (match s.srv.blocks.find? (fun b => b.model == model && b.sub == sub && !b.inPool), s.model model with
    | some b, some m =>
      let first (x : BlockSet) : Nat := (s.holders x).foldl min (2 ^ 32)
      let low := (s.srv.blocks.filter fun x => !x.inPool && s.demotable x).foldl (fun n x => min n (first x)) (2 ^ 32)
      if !s.demotable b || first b != low then s.notDue
      else match s.takeSubs b.tenant m.id b.places.length true (b.places.length / 32 + 2) with
        | (none, u) => u.trimKv.waits
        | (some places, u) =>
          let s1 := u.ok.moveBlock b places
          let s2 := s1.setBlock b fun x => { x with inPool := true, places := places }
          (s2.updTiers fun t => { t with overflow := t.overflow.filter fun a => !b.places.contains a }).count .kvPromote
    | _, _ => s.notDue)

/-! ## Flash upkeep -/

/-- DRIZZLE_RELOCATE: a block read 100,000 times since its last erase, or one that a retry or its corrected bits have named
(R265). -/
def execDrizzleRelocate (block : Nat) (s : State) : Res :=
  .next (
    let b := s.blockOf block
    if !s.flashBlocks.contains block || !(b.relocate || decide (100000 ≤ b.reads)) then s.notDue
    else ((s.ok.relocateBlock block).count .drizzleReloc).lifeAdd 0x0B 31 1)

/-- DRIZZLE_SCAN: a block read once; a retry it needed, or its corrected bits, name it for relocation. -/
def execDrizzleScan (block : Nat) (retried thresholdPassed : Bool) (s : State) : Res :=
  .next (
    if !s.flashBlocks.contains block then s.notDue
    else s.ok.scanBlock block (retried || thresholdPassed))

/-- WEAR_RELOCATE: a block whose count lies more than 200 below the average (R264). -/
def execWearRelocate (block : Nat) (s : State) : Res :=
  .next (
    if !s.flashBlocks.contains block || decide (s.averageErases ≤ (s.blockOf block).erases + 200) then s.notDue
    else s.ok.relocateBlock block)

end Sys2Proof.Machine
end

