-- ==== Sys2Proof/Machine/Vector.lean ====
section
/-!
DEFINITION. The vector unit: every operation of Table 6.17, with its reads, its writes and its marks (R96, R97, R122 to R128, R155,
R189, R190, R256, R442).
-/

namespace Sys2Proof.Machine

/-- The offset that means no source (Table 6.16). -/
def noSource : Nat := 0xFFFFFF

abbrev VRow := List (W32 × Mark)

/-! ## Reads (R106) -/

/-- One read of an operation: source (3 is the second tensor of a MERGE_ROOT), offset, bytes. -/
structure VRead where
  src : Nat
  off : Nat
  bytes : Nat
  deriving DecidableEq, Repr

def VopRec.inBytes (v : VopRec) : Nat := rowBytes v.infmt v.inblk v.len 0
def VopRec.outBytes (v : VopRec) : Nat := rowBytes v.outfmt v.outblk v.len 0
def VopRec.maskBytes (v : VopRec) : Nat := 16 * cdiv v.len 128

/-- Row r of input i of a merge. -/
def VopRec.mergeRow (v : VopRec) (i r : Nat) : Nat := v.src0 + (i * v.rows + r) * v.sstride

/-- What row r of an operation reads; GATHER's and SCATTER's index list is read for each row, their rows are left out. -/
def VopRec.reads (v : VopRec) (r : Nat) : List VRead :=
  let row (i off : Nat) : List VRead := if i ≠ 0 ∧ off = noSource then [] else [{ src := i, off := off + r * v.sstride, bytes := v.inBytes }]
  let all (i off n : Nat) : List VRead := if off = noSource then [] else [{ src := i, off := off, bytes := n }]
  let merge : List VRead := (List.range v.param).map fun i => { src := 0, off := v.mergeRow i r, bytes := v.inBytes }
  match v.opc with
  | 0x01 | 0x02 | 0x04 | 0x05 | 0x06 => row 0 v.src0 ++ row 1 v.src1
  | 0x03 => row 0 v.src0 ++ row 1 v.src1 ++ row 2 v.src2
  | 0x07 => row 0 v.src0 ++ row 1 v.src1 ++ (if v.src2 = noSource then [] else [{ src := 2, off := v.src2 + r * v.maskBytes, bytes := v.maskBytes }])
  | 0x28 => row 0 v.src0 ++ all 1 v.src1 (4 * v.len) ++ all 2 v.src2 (4 * v.len)
  | 0x30 => row 0 v.src0 ++ (if v.src1 = noSource then [] else [{ src := 1, off := v.src1 + r * v.sstride, bytes := 8 * (v.len / 2) }])
  | 0x40 | 0x41 => all 1 v.src1 (4 * v.rows)
  | 0x48 => merge
  | 0x49 =>
    let e := v.epi
    merge
      ++ (if e.scale = 1 ∨ e.scale = 3 then [{ src := 1, off := e.saddr, bytes := 4 * e.n }] else [])
      ++ (if e.scale = 2 ∨ e.scale = 3 then [{ src := 1, off := e.rowScale + 4 * r, bytes := 4 }] else [])
      ++ (if e.bias then [{ src := 2, off := e.baddr, bytes := (if e.biasBf16 then 2 else 4) * e.n }] else [])
      ++ (if e.ew = 0 then [] else [{ src := 3, off := e.eaddr + r * e.estride, bytes := e.ewBytes }])
  | _ => row 0 v.src0

/-- The index list of a GATHER or SCATTER, each entry with the mark of its chunk. -/
def State.vopIndices (s : State) (q : Fin 64) (v : VopRec) : List (Nat × Mark) :=
  (List.range v.rows).map fun r =>
    let l := s.loadCore q (v.src1 + 4 * r) 4
    (leNat (l.map (·.1)), joinMarks (l.map (·.2)))

/-- All that row r reads, once the index list of a GATHER or SCATTER may be read. -/
def State.rowReads (s : State) (q : Fin 64) (v : VopRec) (r : Nat) : List VRead :=
  v.reads r ++ (match v.opc with
    | 0x40 => [{ src := 0, off := v.src0 + ((s.vopIndices q v).getD r (0, .none)).1 * v.sstride, bytes := v.inBytes }]
    | 0x41 => [{ src := 0, off := v.src0 + r * v.sstride, bytes := v.inBytes }]
    | _ => [])

/-- Slots of a list of reads, and those of its consuming reads: source i is peeked where bit i of PEEK is set. -/
def readSlots (l : List VRead) : List Nat := (l.flatMap fun r => slotsOf r.off r.bytes).eraseDups
def VopRec.eaten (v : VopRec) (l : List VRead) : List Nat := readSlots (l.filter fun r => decide (3 ≤ r.src) || !bitAt v.peek r.src)

/-! ## Loads (R123) -/

/-- A row of a source in binary32, with marks; the values of a source that is not there are open. -/
def State.vRow (s : State) (q : Fin 64) (v : VopRec) (off : Nat) : VRow :=
  (valsMarked v.infmt v.inblk v.len 0 (s.loadCore q off v.inBytes)).map fun x => (toF32 x.1, x.2)

def State.vSrc (s : State) (q : Fin 64) (v : VopRec) (i base r : Nat) : VRow :=
  if i ≠ 0 ∧ base = noSource then (List.range v.len).map fun j => ((s.drawn (2 ^ 40 * i + r * v.len + j)).setWidth 32, .none)
  else s.vRow q v (base + r * v.sstride)

def zip2 (f : W32 → W32 → W32) (a b : VRow) : VRow := (a.zip b).map fun p => (f p.1.1 p.2.1, joinMark p.1.2 p.2.2)
def rowMarks (l : VRow) : Mark := joinMarks (l.map (·.2))

/-! ## Arithmetic -/

/-- A comparison to a mask: 0 EQ, 1 LT, 2 LE, 3 NE; a NaN is equal to nothing. -/
def cmpOp (p : Nat) (a b : W32) : Bool :=
  let x := valOf a
  let y := valOf b
  match p with
  | 0 => x.eqv y
  | 1 => x.lt y
  | 2 => x.lt y || x.eqv y
  | _ => !x.eqv y

/-- Pairs of neighbours combined; an odd one out goes on. -/
def pairUp (f : W32 → W32 → W32) : List W32 → List W32
  | a :: b :: l => f a b :: pairUp f l
  | l => l

/-- A pairwise tree over the lanes of one beat. -/
def treeOf (f : W32 → W32 → W32) : Nat → List W32 → W32
  | 0, l => l.headD 0
  | n + 1, l => if l.length ≤ 1 then l.headD 0 else treeOf f n (pairUp f l)

/-- A row reduced: a tree over each beat's 512 lanes, the beats accumulated in order (R124). -/
def reduceRow (f : W32 → W32 → W32) (l : List W32) : W32 :=
  match (pieces 512 (l.length + 1) l).map (treeOf f 10) with
  | [] => 0
  | a :: rest => rest.foldl f a

/-- binary32 of log2 e. -/
def log2eF32 : W32 := 0x3FB8AA3B

/-- SOFTMAX of a row (R127, R190): results, normaliser, flag word. -/
def softmaxRow (l : List W32) : List W32 × W32 × Nat :=
  let m := reduceRow f32Max l
  if valOf m = .nan then (l.map fun _ => f32Nan, f32Nan, 0)
  else if m = f32Inf true then (l.map fun _ => 0, 0, 1)
  else
    let e := l.map fun x => f32Exp2 (f32Mul (f32Sub x m) log2eF32)
    let t := reduceRow f32Add e
    (e.map fun x => f32Div x t, t, 0)

/-- RMSNORM and LAYERNORM of a row, before gain and bias (Table 5.6; the formulas are those of the names, log 45). -/
def normRow (layer : Bool) (eps : W32) (l : List W32) : List W32 :=
  let n := toF32 (.fin false l.length 0)
  let l1 := if layer then (let mean := f32Div (reduceRow f32Add l) n; l.map fun x => f32Sub x mean) else l
  let ms := f32Div (reduceRow f32Add (l1.map fun x => f32Mul x x)) n
  let k := f32Rsqrt (f32Add ms eps)
  l1.map fun x => f32Mul x k

/-- Does a pair come before another in TOPK's order (R126). -/
def ranksBefore (a b : W32 × Nat) : Bool :=
  let x := valOf a.1
  let y := valOf b.1
  if x = .nan then y = .nan && decide (a.2 < b.2)
  else if y = .nan then true
  else if y.lt x then true
  else if x.lt y then false
  else decide (a.2 < b.2)

/-- The first k pairs of a row in TOPK's order. -/
def topGo : Nat → List (W32 × Nat) → List (W32 × Nat)
  | 0, _ => []
  | k + 1, l =>
    match l with
    | [] => []
    | a :: rest =>
      let best := rest.foldl (fun b c => if ranksBefore c b then c else b) a
      best :: topGo k (l.filter fun c => c.2 ≠ best.2)

def topkRow (k : Nat) (l : List W32) : List Byte :=
  let t := topGo k l.zipIdx
  (t ++ List.replicate (k - t.length) (f32Inf true, 0xFFFFFFFF)).flatMap fun (p : W32 × Nat) => leBytes p.1.toNat 4 ++ leBytes p.2 4

/-- ROTARY on a row and its table row (R128): x0 c - x1 s and x0 s + x1 c, the product of x1 rounded first
(DEDUCED, log 101); an element without a partner has no stated result (log 56). -/
def State.rotaryRow (s : State) (halves : Bool) (r : Nat) (x : VRow) (t : VRow) : VRow :=
  let h := x.length / 2
  (List.range x.length).map fun j =>
    let i := if halves then j % h else j / 2
    let second := if halves then decide (h ≤ j) else j % 2 == 1
    if 2 * h ≤ j then ((s.drawn (2 ^ 41 + r)).setWidth 32, (wordAt x j).2)
    else
      let a := wordAt x (if halves then i else 2 * i)
      let b := wordAt x (if halves then i + h else 2 * i + 1)
      let c := wordAt t (2 * i)
      let d := wordAt t (2 * i + 1)
      let m := joinMark (joinMark a.2 b.2) (joinMark c.2 d.2)
      if second then (f32Fma a.1 d.1 (f32Mul b.1 c.1), m)
      else (f32Fma a.1 c.1 (f32Mul b.1 d.1 ^^^ 0x80000000), m)

/-! ## Results: what each operation writes, as offsets with bytes -/

/-- Row r of the destination, encoded; rounding to nearest even (R123). -/
def VopRec.outRow (v : VopRec) (r : Nat) (l : VRow) : Nat × List MByte :=
  (v.dst + r * v.dstride, encodeMarked v.outfmt v.outblk v.sat 0 (l.map fun w => (valOf w.1, w.2)) (rneAll l.length))

def markRow (m : Mark) (l : List W32) : VRow := l.map fun w => (w, m)

/-- Element-wise results: two sources, three, one. -/
def State.vBinary (s : State) (q : Fin 64) (v : VopRec) (f : W32 → W32 → W32) (r : Nat) : List (Nat × List MByte) :=
  [v.outRow r (zip2 f (s.vSrc q v 0 v.src0 r) (s.vSrc q v 1 v.src1 r))]

def State.vFma (s : State) (q : Fin 64) (v : VopRec) (r : Nat) : List (Nat × List MByte) :=
  [v.outRow r ((((s.vSrc q v 0 v.src0 r).zip (s.vSrc q v 1 v.src1 r)).zip (s.vSrc q v 2 v.src2 r)).map fun p =>
    (f32Fma p.1.1.1 p.1.2.1 p.2.1, joinMark (joinMark p.1.1.2 p.1.2.2) p.2.2))]

def State.vUnary (s : State) (q : Fin 64) (v : VopRec) (f : W32 → W32) (r : Nat) : List (Nat × List MByte) :=
  [v.outRow r ((s.vSrc q v 0 v.src0 r).map fun x => (f x.1, x.2))]

/-- CMP: a bitmap, rows back to back (R189). -/
def State.vCmp (s : State) (q : Fin 64) (v : VopRec) (r : Nat) : List (Nat × List MByte) :=
  let bits := ((s.vSrc q v 0 v.src0 r).zip (s.vSrc q v 1 v.src1 r)).map fun p => (cmpOp v.param p.1.1 p.2.1, joinMark p.1.2 p.2.2)
  [(v.dst + r * v.maskBytes, (List.range v.maskBytes).map fun k =>
    let here := (bits.drop (8 * k)).take 8
    (BitVec.ofNat 8 (here.foldr (fun b n => 2 * n + if b.1 then 1 else 0) 0), joinMarks (here.map (·.2))))]

/-- SELECT: the element of source 0 where the mask holds 1, else that of source 1, or minus infinity without one (R189). -/
def State.vSelect (s : State) (q : Fin 64) (v : VopRec) (r : Nat) : List (Nat × List MByte) :=
  let mask := s.loadCore q (v.src2 + r * v.maskBytes) v.maskBytes
  let a := s.vSrc q v 0 v.src0 r
  let b : VRow := if v.src1 = noSource then a.map fun _ => (f32Inf true, .none) else s.vSrc q v 1 v.src1 r
  [v.outRow r ((a.zip b).zipIdx.map fun p =>
    let m : MByte := mask.getD (p.2 / 8) (0, .none)
    (if m.1.toNat.testBit (p.2 % 8) then p.1.1.1 else p.1.2.1, joinMark (joinMark p.1.1.2 p.1.2.2) m.2))]

def State.vReduce (s : State) (q : Fin 64) (v : VopRec) (f : W32 → W32 → W32) (r : Nat) : List (Nat × List MByte) :=
  let x := s.vSrc q v 0 v.src0 r
  [v.outRow r [(reduceRow f (x.map (·.1)), rowMarks x)]]

def State.vNorm (s : State) (q : Fin 64) (v : VopRec) (r : Nat) : List (Nat × List MByte) :=
  let aux (off : Nat) : Option VRow := if off = noSource then none else some (wordsMarked .fp32 v.len (s.loadCore q off (4 * v.len)))
  let gain := aux v.src1
  let bias := aux v.src2
  let x := s.vSrc q v 0 v.src0 r
  let m := joinMark (rowMarks x) (joinMark ((gain.map rowMarks).getD .none) ((bias.map rowMarks).getD .none))
  let y := normRow (v.param == 1) v.eps (x.map (·.1))
  let z := match gain with
    | some g => List.zipWith f32Mul y (g.map (·.1))
    | none => y
  [v.outRow r (markRow m (match bias with
    | some b => List.zipWith f32Add z (b.map (·.1))
    | none => z))]

/-- SOFTMAX with its trailers (R127, R190). -/
def State.vSoftmax (s : State) (q : Fin 64) (v : VopRec) (r : Nat) : List (Nat × List MByte) :=
  let x := s.vSrc q v 0 v.src0 r
  let m := rowMarks x
  let y := softmaxRow (x.map (·.1))
  [v.outRow r (markRow m y.1), (v.dst + v.rows * v.dstride + 8 * r, withMark m (leBytes y.2.1.toNat 4 ++ leBytes y.2.2 4))]

def State.vRotary (s : State) (q : Fin 64) (v : VopRec) (r : Nat) : List (Nat × List MByte) :=
  let n := 2 * (v.len / 2)
  let t : VRow := if v.src1 = noSource then (List.range n).map fun j => ((s.drawn (r * n + j)).setWidth 32, .none)
    else wordsMarked .fp32 n (s.loadCore q (v.src1 + r * v.sstride) (4 * n))
  [v.outRow r (s.rotaryRow (v.param == 1) r (s.vSrc q v 0 v.src0 r) t)]

def State.vTopk (s : State) (q : Fin 64) (v : VopRec) (r : Nat) : List (Nat × List MByte) :=
  let x := s.vSrc q v 0 v.src0 r
  [(v.dst + r * v.dstride, withMark (rowMarks x) (topkRow v.param (x.map (·.1))))]

/-- One row moved: copied where the formats are equal, else through binary32 (R84, R123). -/
def State.vMove (s : State) (q : Fin 64) (v : VopRec) (src dst : Nat) (m : Mark) : Nat × List MByte :=
  let l := s.loadCore q src v.inBytes
  let out : List MByte := if v.infmt = v.outfmt ∧ (v.inblk = v.outblk ∨ v.infmt.isNb = false) then l
    else encodeMarked v.outfmt v.outblk v.sat 0 ((s.vRow q v src).map fun w => (valOf w.1, w.2)) (rneAll v.len)
  let k := joinMark m (joinMarks (l.map (·.2)))
  (dst, out.map fun b => (b.1, k))

def State.vGather (s : State) (q : Fin 64) (v : VopRec) (r : Nat) : List (Nat × List MByte) :=
  let i := (s.vopIndices q v).getD r (0, .none)
  [s.vMove q v (v.src0 + i.1 * v.sstride) (v.dst + r * v.dstride) i.2]

def State.vScatter (s : State) (q : Fin 64) (v : VopRec) (r : Nat) : List (Nat × List MByte) :=
  let i := (s.vopIndices q v).getD r (0, .none)
  [s.vMove q v (v.src0 + r * v.sstride) (v.dst + i.1 * v.dstride) i.2]

/-- When input i's row r of a merge was there: when the last of its slots became FULL; a RESIDENT slot never was waited for (R97). -/
def State.arrivedAt (s : State) (q : Fin 64) (v : VopRec) (i r : Nat) : Nat :=
  (slotsOf (v.mergeRow i r) v.inBytes).foldl (fun n k =>
    let t := (s.sq q).tag k
    max n (if t.st = .full then t.order + 1 else 0)) 0

/-- The inputs of a merge node in the order in which their slots became FULL; inputs that share their last slot in the order that the
command brings (R97; log 57). -/
def State.arrivalOrder (s : State) (q : Fin 64) (v : VopRec) (arrival : List Nat) (r : Nat) : List Nat :=
  arrival.foldl (fun l i =>
    let n := s.arrivedAt q v i r
    l.takeWhile (fun j => decide (s.arrivedAt q v j r ≤ n)) ++ i :: l.dropWhile fun j => decide (s.arrivedAt q v j r ≤ n)) []

/-- The inputs of a merge node added in their order of arrival (R96, R97). -/
def State.vSum (s : State) (q : Fin 64) (v : VopRec) (arrival : List Nat) (r : Nat) : VRow :=
  match (s.arrivalOrder q v arrival r).map fun i => s.vRow q v (v.mergeRow i r) with
  | [] => []
  | a :: l => l.foldl (zip2 f32Add) a

def State.vMerge (s : State) (q : Fin 64) (v : VopRec) (arrival : List Nat) (r : Nat) : List (Nat × List MByte) :=
  [v.outRow r (s.vSum q v arrival r)]

def State.vMergeRoot (s : State) (q : Fin 64) (v : VopRec) (arrival : List Nat) (r : Nat) : List (Nat × List MByte) :=
  [(v.dst + r * v.dstride, v.epi.encode (rneAll v.len) (s.epiSteps q v.epi r (s.vSum q v arrival r)))]

/-- Where row r of an operation writes: offsets and bytes. -/
def State.vDests (s : State) (q : Fin 64) (v : VopRec) (r : Nat) : List (Nat × Nat) :=
  match v.opc with
  | 0x06 => [(v.dst + r * v.maskBytes, v.maskBytes)]
  | 0x20 | 0x21 | 0x22 => [(v.dst + r * v.dstride, rowBytes v.outfmt v.outblk 1 0)]
  | 0x29 => [(v.dst + r * v.dstride, v.outBytes), (v.dst + v.rows * v.dstride + 8 * r, 8)]
  | 0x38 => [(v.dst + r * v.dstride, 8 * v.param)]
  | 0x41 => [(v.dst + ((s.vopIndices q v).getD r (0, .none)).1 * v.dstride, v.outBytes)]
  | _ => [(v.dst + r * v.dstride, v.outBytes)]

/-! ## One operation from the vector queue -/

/-- What an operation does to the data of a row, and the lane-beats and transcendental elements it counts (Table 15.2). -/
structure VopDoes where
  opc : Nat
  out : State → Fin 64 → VopRec → Nat → List (Nat × List MByte)
  lanes : Nat := 1
  transcendental : Nat := 0
  arrival : Option (List Nat) := none

/-- Is an arrival order one: each input once. -/
def arrivalOk (n : Nat) (l : List Nat) : Bool := l.length == n && (List.range n).all l.contains

def State.updVop (s : State) (q : Fin 64) (seq : Nat) (f : VopEntry → VopEntry) : State :=
  s.updSq q fun x => { x with vq := updFirst x.vq (·.seq == seq) f }

/-- The parts of a row's reads that lie in a slot. -/
def State.shareOf (s : State) (q : Fin 64) (l : List VRead) (k : Nat) : List (Nat × List MByte) :=
  l.flatMap fun r =>
    let o := r.off % 2 ^ 24
    let lo := max o (4096 * k)
    let hi := min (o + r.bytes) (4096 * k + 4096)
    if lo < hi then [(lo, s.loadCore q lo (hi - lo))] else []

/-- Slots that an operation gives up when it has read row r: those of its consuming reads up to that row that no later row reads
(R106). -/
def State.givenUp (s : State) (q : Fin 64) (v : VopRec) (r : Nat) : List Nat :=
  (v.eaten (s.rowReads q v r)).filter fun k => !((List.range (v.rows - (r + 1))).any fun j => (v.eaten (s.rowReads q v (r + 1 + j))).contains k)

/-- Core memory as a row meets it: with the parts that were read before their slots were given up. -/
def State.overlay (s : State) (q : Fin 64) (v : VopEntry) : State :=
  v.came.foldl (fun u p => u.updSq q fun x => x.setTag p.1 { st := .full, order := p.2 }) (v.buf.foldl (fun u p => u.storeCore q p.1 p.2) s)

/-- The next row of an operation is read, slot by slot; when all of it has been read its results are computed and queue to be
written. False while a slot must be waited for (R106, R122 to R128). -/
def State.vopRow (s : State) (q : Fin 64) (v : VopEntry) (op : VopDoes) : Bool × State :=
  let seen (k : Nat) : Bool := v.came.any fun b => b.1 == k
  let o := s.overlay q v
  let first := (readSlots (v.rc.reads v.row)).filter fun k => !seen k
  let wanted := if first.all fun k => ((s.sq q).tag k).st.readable then (readSlots (o.rowReads q v.rc v.row)).filter fun k => !seen k else first
  match s.awaitSlots q reqVector wanted with
  | (false, u) =>
    let ready := wanted.takeWhile fun k => ((u.sq q).tag k).st.readable
    let give := (o.givenUp q v.rc v.row).filter ready.contains
    let parts := give.flatMap fun k => u.shareOf q (o.rowReads q v.rc v.row) k
    let came := give.map fun k => (k, ((u.sq q).tag k).order)
    (false, give.foldl (fun w k => w.consume q k) (u.updVop q v.seq fun y => { y with buf := y.buf ++ parts, came := y.came ++ came }))
  | (true, u) =>
    let o := u.overlay q v
    let reads := o.rowReads q v.rc v.row
    let out := op.out o q v.rc v.row
    let later := (List.range (v.rc.rows - (v.row + 1))).flatMap fun j => (o.vDests q v.rc (v.row + 1 + j)).flatMap fun d => slotsOf d.1 d.2
    let writes : List CoreWrite := out.zipIdx.map fun x =>
      let rest := (out.drop (x.2 + 1)).flatMap fun y => slotsOf y.1 y.2.length
      { sq := q, off := x.1.1, data := x.1.2, count := v.rc.ocount
        ends := (slotsOf x.1.1 x.1.2.length).filter fun k => !later.contains k && !rest.contains k }
    let f := frontOf q
    let p := u.phaseOf q v.task
    let inputs := if op.arrival.isSome then v.rc.param else 1
    let chunks := reads.foldl (fun k r => k + chunkCount r.off r.bytes) 0 + out.foldl (fun k y => k + chunkCount y.1 y.2.length) 0
    let u1 := ((u.activity f p 8 (op.lanes * inputs * v.rc.len)).activity f p 9 (op.transcendental * v.rc.len)).coreAccess q v.task chunks
    let u2 := ((o.givenUp q v.rc v.row).filter fun k => !seen k).foldl (fun w k => w.consume q k) u1
    (true, (u2.updVop q v.seq fun y => { y with row := y.row + 1, buf := [], came := [], writes := y.writes ++ writes }).draw)

/-- Results of an operation written, in order, until one must wait (R105). -/
def State.vopWrites (s : State) (q : Fin 64) (v : VopEntry) : State :=
  let step (acc : List CoreWrite × List Nat × State) (w : CoreWrite) : List CoreWrite × List Nat × State :=
    if acc.1 ≠ [] then (acc.1 ++ [w], acc.2)
    else
      let y := acc.2.2.writeShares q (reqWrite reqVector) w.fuel { w with mine := acc.2.1 }
      (if y.1.data = [] then [] else [y.1], y.1.mine, y.2)
  let r := v.writes.foldl step ([], v.mine, s)
  let u := r.2.2.updVop q v.seq fun y => { y with writes := r.1, mine := r.2.1 }
  if r.1 = [] ∧ v.row = v.rc.rows then u.updSq q fun x => ({ x with vq := x.vq.filter fun y => y.seq != v.seq }).retire v.seq else u

/-- Results of every operation that has issued its rows into the lanes written as far as they can be. -/
def State.vopDrain (s : State) (q : Fin 64) : State :=
  let out := s.out
  ((s.sq q).vq.foldl (fun u v => u.vopWrites q v) s).answer out

/-- The first operation of the vector queue that has not issued all of its rows. -/
def Squall.vopFront (x : Squall) : Option VopEntry := x.vq.find? fun v => decide (v.row < v.rc.rows)

/-- The rows of the front operation, one after another, each followed by what can be written. -/
def State.vopRows (s : State) (q : Fin 64) (seq : Nat) (op : VopDoes) : Nat → State
  | 0 => s
  | n + 1 =>
    match (s.sq q).vopFront with
    | none => s
    | some v =>
      if v.seq ≠ seq then s
      else match s.vopRow q v op with
        | (true, u) => State.vopRows (u.vopDrain q) q seq op n
        | (false, u) => u.vopDrain q

/-- A VOP command: the next record of the list enters the vector queue when it is this operation and there is room (an operation stays in
it until its last row has been issued, R440); then the front of the queue is carried out when it is this operation, and results that
wait are written. -/
def State.vop (s : State) (q : Fin 64) (op : VopDoes) : State :=
  let issued := s.issue q
    (fun r => match r with
      | .vop v => if v.opc == op.opc then some v else none
      | _ => none)
    (fun _ x => decide ((x.vq.filter fun v => decide (v.row < v.rc.rows)).length < 32)) true
    (fun v i n x => { x with vq := x.vq ++ [{ seq := n, task := i.task.key, rc := v }] })
  let s1 := if issued.out = .done then issued else s
  match (s1.sq q).vopFront with
  | some v =>
    if v.rc.opc ≠ op.opc then (if issued.out = .done then s1 else if (s.sq q).vq.any (·.rc.opc == op.opc) then (s.vopDrain q).waits else issued)
    else if op.arrival.any (fun l => !arrivalOk v.rc.param l) then (if issued.out = .done then s1 else s.notDue)
    else State.vopRows (s1.ok.vopDrain q) q v.seq op v.rc.rows
  | none =>
    let u := s1.ok.vopDrain q
    if !(s1.sq q).vq.any (·.rc.opc == op.opc) then issued else if (u.sq q).vq.isEmpty then u else u.waits

def execVopAdd (sq : Fin 64) (parity : Option BadWord) (s : State) : Res :=
  .next (s.parity sq parity fun y => y.vop sq { opc := 0x01, out := fun u q v r => u.vBinary q v f32Add r })
def execVopMul (sq : Fin 64) (parity : Option BadWord) (s : State) : Res :=
  .next (s.parity sq parity fun y => y.vop sq { opc := 0x02, out := fun u q v => u.vBinary q v f32Mul })
def execVopFma (sq : Fin 64) (parity : Option BadWord) (s : State) : Res :=
  .next (s.parity sq parity fun y => y.vop sq { opc := 0x03, out := State.vFma })
def execVopMin (sq : Fin 64) (parity : Option BadWord) (s : State) : Res :=
  .next (s.parity sq parity fun y => y.vop sq { opc := 0x04, out := fun u q v => u.vBinary q v f32Min })
def execVopMax (sq : Fin 64) (parity : Option BadWord) (s : State) : Res :=
  .next (s.parity sq parity fun y => y.vop sq { opc := 0x05, out := fun u q v => u.vBinary q v f32Max })
def execVopCmp (sq : Fin 64) (parity : Option BadWord) (s : State) : Res :=
  .next (s.parity sq parity fun y => y.vop sq { opc := 0x06, out := State.vCmp })
def execVopSelect (sq : Fin 64) (parity : Option BadWord) (s : State) : Res :=
  .next (s.parity sq parity fun y => y.vop sq { opc := 0x07, out := State.vSelect })
def execVopExp2 (sq : Fin 64) (parity : Option BadWord) (s : State) : Res :=
  .next (s.parity sq parity fun y => y.vop sq { opc := 0x10, out := fun u q v => u.vUnary q v f32Exp2, lanes := 0, transcendental := 1 })
def execVopLog2 (sq : Fin 64) (parity : Option BadWord) (s : State) : Res :=
  .next (s.parity sq parity fun y => y.vop sq { opc := 0x11, out := fun u q v => u.vUnary q v f32Log2, lanes := 0, transcendental := 1 })
def execVopRcp (sq : Fin 64) (parity : Option BadWord) (s : State) : Res :=
  .next (s.parity sq parity fun y => y.vop sq { opc := 0x12, out := fun u q v => u.vUnary q v f32Rcp, lanes := 0, transcendental := 1 })
def execVopRsqrt (sq : Fin 64) (parity : Option BadWord) (s : State) : Res :=
  .next (s.parity sq parity fun y => y.vop sq { opc := 0x13, out := fun u q v => u.vUnary q v f32Rsqrt, lanes := 0, transcendental := 1 })
def execVopSqrt (sq : Fin 64) (parity : Option BadWord) (s : State) : Res :=
  .next (s.parity sq parity fun y => y.vop sq { opc := 0x14, out := fun u q v => u.vUnary q v f32Sqrt, lanes := 0, transcendental := 1 })
def execVopTanh (sq : Fin 64) (parity : Option BadWord) (s : State) : Res :=
  .next (s.parity sq parity fun y => y.vop sq { opc := 0x15, out := fun u q v => u.vUnary q v f32Tanh, lanes := 0, transcendental := 1 })
def execVopSigmoid (sq : Fin 64) (parity : Option BadWord) (s : State) : Res :=
  .next (s.parity sq parity fun y => y.vop sq { opc := 0x16, out := fun u q v => u.vUnary q v f32Sigmoid, lanes := 0, transcendental := 1 })
def execVopSum (sq : Fin 64) (parity : Option BadWord) (s : State) : Res :=
  .next (s.parity sq parity fun y => y.vop sq { opc := 0x20, out := fun u q v => u.vReduce q v f32Add, lanes := 0 })
def execVopRowMax (sq : Fin 64) (parity : Option BadWord) (s : State) : Res :=
  .next (s.parity sq parity fun y => y.vop sq { opc := 0x21, out := fun u q v => u.vReduce q v f32Max, lanes := 0 })
def execVopRowMin (sq : Fin 64) (parity : Option BadWord) (s : State) : Res :=
  .next (s.parity sq parity fun y => y.vop sq { opc := 0x22, out := fun u q v => u.vReduce q v f32Min, lanes := 0 })
def execVopNorm (sq : Fin 64) (parity : Option BadWord) (s : State) : Res :=
  .next (s.parity sq parity fun y => y.vop sq { opc := 0x28, out := State.vNorm, lanes := 2 })
def execVopSoftmax (sq : Fin 64) (parity : Option BadWord) (s : State) : Res :=
  .next (s.parity sq parity fun y => y.vop sq { opc := 0x29, out := State.vSoftmax, lanes := 2, transcendental := 1 })
def execVopRotary (sq : Fin 64) (parity : Option BadWord) (s : State) : Res :=
  .next (s.parity sq parity fun y => y.vop sq { opc := 0x30, out := State.vRotary, lanes := 0 })
def execVopTopk (sq : Fin 64) (parity : Option BadWord) (s : State) : Res :=
  .next (s.parity sq parity fun y => y.vop sq { opc := 0x38, out := State.vTopk, lanes := 0 })
def execVopGather (sq : Fin 64) (parity : Option BadWord) (s : State) : Res :=
  .next (s.parity sq parity fun y => y.vop sq { opc := 0x40, out := State.vGather, lanes := 0 })
def execVopScatter (sq : Fin 64) (parity : Option BadWord) (s : State) : Res :=
  .next (s.parity sq parity fun y => y.vop sq { opc := 0x41, out := State.vScatter, lanes := 0 })
def execVopMerge (sq : Fin 64) (arrival : List Nat) (parity : Option BadWord) (s : State) : Res :=
  .next (s.parity sq parity fun y => y.vop sq { opc := 0x48, out := fun u q v => u.vMerge q v arrival, arrival := some arrival })
def execVopMergeRoot (sq : Fin 64) (arrival : List Nat) (parity : Option BadWord) (s : State) : Res :=
  .next (s.parity sq parity fun y => y.vop sq { opc := 0x49, out := fun u q v => u.vMergeRoot q v arrival, arrival := some arrival })

end Sys2Proof.Machine
end

