-- ==== Sys2Proof/Machine/Dispatch.lean ====
section
/-!
DEFINITION. One arm per command: a direct call of its meaning.
-/

namespace Sys2Proof.Machine

def exec (i : Instr) (s : State) : Host.Outcome State Fault Refusal :=
  match i with
  -- ECI commands (14_eci Table 14.7): the entry stands at its source
  | .attach src => Sys2Proof.Machine.execAttach src s
  | .detach src => Sys2Proof.Machine.execDetach src s
  | .reattach src => Sys2Proof.Machine.execReattach src s
  | .modelLoad src => Sys2Proof.Machine.execModelLoad src s
  | .modelLoadComplete op => Sys2Proof.Machine.execModelLoadComplete op s
  | .modelInstall src => Sys2Proof.Machine.execModelInstall src s
  | .modelInstallComplete op => Sys2Proof.Machine.execModelInstallComplete op s
  | .installSwitch model => Sys2Proof.Machine.execInstallSwitch model s
  | .modelEvict src => Sys2Proof.Machine.execModelEvict src s
  | .roleSet src => Sys2Proof.Machine.execRoleSet src s
  | .policySet src => Sys2Proof.Machine.execPolicySet src s
  | .powerCapSet src => Sys2Proof.Machine.execPowerCapSet src s
  | .regionRegister src => Sys2Proof.Machine.execRegionRegister src s
  | .regionRelease src => Sys2Proof.Machine.execRegionRelease src s
  | .seqOpen src => Sys2Proof.Machine.execSeqOpen src s
  | .seqClose src => Sys2Proof.Machine.execSeqClose src s
  | .stepSubmit src => Sys2Proof.Machine.execStepSubmit src s
  | .kvExport src => Sys2Proof.Machine.execKvExport src s
  | .kvImport src => Sys2Proof.Machine.execKvImport src s
  | .kvTransferComplete op => Sys2Proof.Machine.execKvTransferComplete op s
  | .suspend src => Sys2Proof.Machine.execSuspend src s
  | .resume src => Sys2Proof.Machine.execResume src s
  | .cancel src => Sys2Proof.Machine.execCancel src s
  | .longOpSafePoint op => Sys2Proof.Machine.execLongOpSafePoint op s
  | .query src => Sys2Proof.Machine.execQuery src s
  | .countersRead src => Sys2Proof.Machine.execCountersRead src s
  | .logRead src => Sys2Proof.Machine.execLogRead src s
  | .pageRetire src => Sys2Proof.Machine.execPageRetire src s
  | .fwStage src => Sys2Proof.Machine.execFwStage src s
  | .fwStageComplete op => Sys2Proof.Machine.execFwStageComplete op s
  | .fwCommit src => Sys2Proof.Machine.execFwCommit src s
  | .resetScope src => Sys2Proof.Machine.execResetScope src s
  | .scrub src => Sys2Proof.Machine.execScrub src s
  | .scrubComplete op => Sys2Proof.Machine.execScrubComplete op s
  -- registers and the queue engine
  | .eciSqTail q v path => Sys2Proof.Machine.execEciSqTail q v path s
  | .eciCqHead q v => Sys2Proof.Machine.execEciCqHead q v s
  | .eciQCfg q v => Sys2Proof.Machine.execEciQCfg q v s
  | .eciUrgDoorbell v => Sys2Proof.Machine.execEciUrgDoorbell v s
  | .eciBeat v => Sys2Proof.Machine.execEciBeat v s
  | .eciGustDefault v => Sys2Proof.Machine.execEciGustDefault v s
  | .memImbWindow v => Sys2Proof.Machine.execMemImbWindow v s
  | .cohOrderMode k v => Sys2Proof.Machine.execCohOrderMode k v s
  | .cohCfgLock v => Sys2Proof.Machine.execCohCfgLock v s
  | .cohDevTimeout v => Sys2Proof.Machine.execCohDevTimeout v s
  | .capModeSet v => Sys2Proof.Machine.execCapModeSet v s
  | .learnClear v => Sys2Proof.Machine.execLearnClear v s
  | .hdmDecoderCommit ways hostBase hostSize => Sys2Proof.Machine.execHdmDecoderCommit ways hostBase hostSize s
  | .registerWrite offset size v path => Sys2Proof.Machine.execRegisterWrite offset size v path s
  | .sqFetch => Sys2Proof.Machine.execSqFetch s
  | .hostPushComplete q => Sys2Proof.Machine.execHostPushComplete q s
  -- steps
  | .gustExpire model chain => Sys2Proof.Machine.execGustExpire model chain s
  | .stepDispatch model chain => Sys2Proof.Machine.execStepDispatch model chain s
  | .kvAllocate model seq => Sys2Proof.Machine.execKvAllocate model seq s
  | .waveRelease front model chain wave => Sys2Proof.Machine.execWaveRelease front model chain wave s
  -- schedule records: the next record of the Squall's list
  | .task sq parity => Sys2Proof.Machine.execTask sq parity s
  | .endTask sq parity => Sys2Proof.Machine.execEndTask sq parity s
  | .loop sq parity => Sys2Proof.Machine.execLoop sq parity s
  | .endLoop sq parity => Sys2Proof.Machine.execEndLoop sq parity s
  | .passMac sq parity => Sys2Proof.Machine.execPassMac sq parity s
  | .passL1 sq parity => Sys2Proof.Machine.execPassL1 sq parity s
  | .passL2 sq parity => Sys2Proof.Machine.execPassL2 sq parity s
  | .passMaxplus sq parity => Sys2Proof.Machine.execPassMaxplus sq parity s
  | .passMinplus sq parity => Sys2Proof.Machine.execPassMinplus sq parity s
  | .passCmpcount sq parity => Sys2Proof.Machine.execPassCmpcount sq parity s
  | .passEwise sq parity => Sys2Proof.Machine.execPassEwise sq parity s
  -- phases of a pass
  | .tileStage sq e parity => Sys2Proof.Machine.execTileStage sq e parity s
  | .tileLoad sq e parity => Sys2Proof.Machine.execTileLoad sq e parity s
  | .rowFetch sq e parity => Sys2Proof.Machine.execRowFetch sq e parity s
  | .rowEntry sq e parity => Sys2Proof.Machine.execRowEntry sq e parity s
  | .sumPromote sq e row col parity => Sys2Proof.Machine.execSumPromote sq e row col parity s
  | .passVerdict sq e => Sys2Proof.Machine.execPassVerdict sq e s
  | .passRepeat sq e parity => Sys2Proof.Machine.execPassRepeat sq e parity s
  | .heldPassEject sq e parity => Sys2Proof.Machine.execHeldPassEject sq e parity s
  | .epilogueRead sq e parity => Sys2Proof.Machine.execEpilogueRead sq e parity s
  | .epilogueWrite sq e parity => Sys2Proof.Machine.execEpilogueWrite sq e parity s
  | .passRetire sq e => Sys2Proof.Machine.execPassRetire sq e s
  -- vector operations
  | .vopAdd sq parity => Sys2Proof.Machine.execVopAdd sq parity s
  | .vopMul sq parity => Sys2Proof.Machine.execVopMul sq parity s
  | .vopFma sq parity => Sys2Proof.Machine.execVopFma sq parity s
  | .vopMin sq parity => Sys2Proof.Machine.execVopMin sq parity s
  | .vopMax sq parity => Sys2Proof.Machine.execVopMax sq parity s
  | .vopCmp sq parity => Sys2Proof.Machine.execVopCmp sq parity s
  | .vopSelect sq parity => Sys2Proof.Machine.execVopSelect sq parity s
  | .vopExp2 sq parity => Sys2Proof.Machine.execVopExp2 sq parity s
  | .vopLog2 sq parity => Sys2Proof.Machine.execVopLog2 sq parity s
  | .vopRcp sq parity => Sys2Proof.Machine.execVopRcp sq parity s
  | .vopRsqrt sq parity => Sys2Proof.Machine.execVopRsqrt sq parity s
  | .vopSqrt sq parity => Sys2Proof.Machine.execVopSqrt sq parity s
  | .vopTanh sq parity => Sys2Proof.Machine.execVopTanh sq parity s
  | .vopSigmoid sq parity => Sys2Proof.Machine.execVopSigmoid sq parity s
  | .vopSum sq parity => Sys2Proof.Machine.execVopSum sq parity s
  | .vopRowMax sq parity => Sys2Proof.Machine.execVopRowMax sq parity s
  | .vopRowMin sq parity => Sys2Proof.Machine.execVopRowMin sq parity s
  | .vopNorm sq parity => Sys2Proof.Machine.execVopNorm sq parity s
  | .vopSoftmax sq parity => Sys2Proof.Machine.execVopSoftmax sq parity s
  | .vopRotary sq parity => Sys2Proof.Machine.execVopRotary sq parity s
  | .vopTopk sq parity => Sys2Proof.Machine.execVopTopk sq parity s
  | .vopGather sq parity => Sys2Proof.Machine.execVopGather sq parity s
  | .vopScatter sq parity => Sys2Proof.Machine.execVopScatter sq parity s
  | .vopMerge sq arrival parity => Sys2Proof.Machine.execVopMerge sq arrival parity s
  | .vopMergeRoot sq arrival parity => Sys2Proof.Machine.execVopMergeRoot sq arrival parity s
  -- DMA
  | .dma sq parity => Sys2Proof.Machine.execDma sq parity s
  | .dmaProgramStart sq ch parity => Sys2Proof.Machine.execDmaProgramStart sq ch parity s
  | .dmaLoad sq ch parity => Sys2Proof.Machine.execDmaLoad sq ch parity s
  | .dmaStore sq ch parity => Sys2Proof.Machine.execDmaStore sq ch parity s
  | .dmaXfer sq ch parity => Sys2Proof.Machine.execDmaXfer sq ch parity s
  | .dmaGather sq ch parity => Sys2Proof.Machine.execDmaGather sq ch parity s
  | .dmaScatter sq ch parity => Sys2Proof.Machine.execDmaScatter sq ch parity s
  | .dmaMove sq ch parity => Sys2Proof.Machine.execDmaMove sq ch parity s
  | .dmaProgramComplete sq ch => Sys2Proof.Machine.execDmaProgramComplete sq ch s
  | .fenceCore sq parity => Sys2Proof.Machine.execFenceCore sq parity s
  | .fenceChip sq parity => Sys2Proof.Machine.execFenceChip sq parity s
  | .fenceSys sq parity => Sys2Proof.Machine.execFenceSys sq parity s
  | .fenceRetire sq => Sys2Proof.Machine.execFenceRetire sq s
  | .slotRelease sq slot count => Sys2Proof.Machine.execSlotRelease sq slot count s
  | .slotRead sq slot kind parity => Sys2Proof.Machine.execSlotRead sq slot kind parity s
  | .tagStall sq => Sys2Proof.Machine.execTagStall sq s
  | .taskFinal sq => Sys2Proof.Machine.execTaskFinal sq s
  | .stepEnd model chain => Sys2Proof.Machine.execStepEnd model chain s
  | .commitCopyComplete model chain ok => Sys2Proof.Machine.execCommitCopyComplete model chain ok s
  | .prefixInsert model chain => Sys2Proof.Machine.execPrefixInsert model chain s
  | .debugLoad path pa size parity => Sys2Proof.Machine.execDebugLoad path pa size parity s
  | .debugStore path pa data => Sys2Proof.Machine.execDebugStore path pa data s
  -- cores and coherence
  | .cboClean c pa attr => Sys2Proof.Machine.execCboClean c pa attr s
  | .cboFlush c pa attr => Sys2Proof.Machine.execCboFlush c pa attr s
  | .cboInval c pa attr cbie => Sys2Proof.Machine.execCboInval c pa attr cbie s
  | .cboZero c pa attr => Sys2Proof.Machine.execCboZero c pa attr s
  | .coreFence c predWrites => Sys2Proof.Machine.execCoreFence c predWrites s
  | .trapEntry c => Sys2Proof.Machine.execTrapEntry c s
  | .deviceLoad c pa size form answered => Sys2Proof.Machine.execDeviceLoad c pa size form answered s
  | .deviceStore c pa va size v form answered => Sys2Proof.Machine.execDeviceStore c pa va size v form answered s
  | .devTimeout c => Sys2Proof.Machine.execDevTimeout c s
  | .storeDrainTimeout c => Sys2Proof.Machine.execStoreDrainTimeout c s
  | .coreInvalidateDone c => Sys2Proof.Machine.execCoreInvalidateDone c s
  | .cohRequest a line kind => Sys2Proof.Machine.execCohRequest a line kind s
  | .cohSnoop a req => Sys2Proof.Machine.execCohSnoop a req s
  | .cohSnoopAnswer a req => Sys2Proof.Machine.execCohSnoopAnswer a req s
  | .cohWriteback a req => Sys2Proof.Machine.execCohWriteback a req s
  | .cohGrant req ecc => Sys2Proof.Machine.execCohGrant req ecc s
  | .cohNack req => Sys2Proof.Machine.execCohNack req s
  | .nackRetry req => Sys2Proof.Machine.execNackRetry req s
  | .escalationServe home => Sys2Proof.Machine.execEscalationServe home s
  | .reservationExpire line => Sys2Proof.Machine.execReservationExpire line s
  -- DRAM
  | .dramAccess ch ecc => Sys2Proof.Machine.execDramAccess ch ecc s
  | .prefetchAgePromote ch => Sys2Proof.Machine.execPrefetchAgePromote ch s
  | .refreshDue ch bank => Sys2Proof.Machine.execRefreshDue ch bank s
  | .dramTempRead device celsius => Sys2Proof.Machine.execDramTempRead device celsius s
  | .patrolScrub ecc => Sys2Proof.Machine.execPatrolScrub ecc s
  | .imbWindowEnd => Sys2Proof.Machine.execImbWindowEnd s
  -- tiers and flash
  | .weightFrameRead r fid => Sys2Proof.Machine.execWeightFrameRead r fid s
  | .liftComplete fid crcOk => Sys2Proof.Machine.execLiftComplete fid crcOk s
  | .flashReadRetry fid decoded => Sys2Proof.Machine.execFlashReadRetry fid decoded s
  | .weightLateExpire r fid => Sys2Proof.Machine.execWeightLateExpire r fid s
  | .kvDemoteComplete model sub => Sys2Proof.Machine.execKvDemoteComplete model sub s
  | .kvPromote model sub => Sys2Proof.Machine.execKvPromote model sub s
  | .predPrefetch model chain candidates => Sys2Proof.Machine.execPredPrefetch model chain candidates s
  | .drizzleRelocate block => Sys2Proof.Machine.execDrizzleRelocate block s
  | .drizzleScan block retried thresholdPassed => Sys2Proof.Machine.execDrizzleScan block retried thresholdPassed s
  | .wearRelocate block => Sys2Proof.Machine.execWearRelocate block s
  -- power, thermal, sleep
  | .periodBoundary cpuWatts ioWatts => Sys2Proof.Machine.execPeriodBoundary cpuWatts ioWatts s
  | .powerWindow inputMicroJoules railMicroJoules => Sys2Proof.Machine.execPowerWindow inputMicroJoules railMicroJoules s
  | .droopFire die => Sys2Proof.Machine.execDroopFire die s
  | .droopBurstEnd die => Sys2Proof.Machine.execDroopBurstEnd die s
  | .tempSample readings => Sys2Proof.Machine.execTempSample readings s
  | .thermalTrip die celsius => Sys2Proof.Machine.execThermalTrip die celsius s
  | .tripRelease readings => Sys2Proof.Machine.execTripRelease readings s
  | .frontCalmEnter front => Sys2Proof.Machine.execFrontCalmEnter front s
  | .frontLullEnter front => Sys2Proof.Machine.execFrontLullEnter front s
  | .moduleLullEnter => Sys2Proof.Machine.execModuleLullEnter s
  | .frostEnter => Sys2Proof.Machine.execFrostEnter s
  | .frontWake front => Sys2Proof.Machine.execFrontWake front s
  | .moduleWake => Sys2Proof.Machine.execModuleWake s
  | .wakeComplete => Sys2Proof.Machine.execWakeComplete s
  -- supply, reset, boot
  | .inputLoss => Sys2Proof.Machine.execInputLoss s
  | .inputLow => Sys2Proof.Machine.execInputLow s
  | .inputOvervoltage => Sys2Proof.Machine.execInputOvervoltage s
  | .inputRestore => Sys2Proof.Machine.execInputRestore s
  | .refclkLoss => Sys2Proof.Machine.execRefclkLoss s
  | .resetNAssert microseconds => Sys2Proof.Machine.execResetNAssert microseconds s
  | .resetNDeassert addr cohProfile => Sys2Proof.Machine.execResetNDeassert addr cohProfile s
  | .bootStart => Sys2Proof.Machine.execBootStart s
  | .bootStageComplete failedStacks failedPackages failedUnits => Sys2Proof.Machine.execBootStageComplete failedStacks failedPackages failedUnits s
  | .bootReady => Sys2Proof.Machine.execBootReady s
  | .bootWatchdog => Sys2Proof.Machine.execBootWatchdog s
  | .heartbeatTick => Sys2Proof.Machine.execHeartbeatTick s
  | .heartbeatWatchdog => Sys2Proof.Machine.execHeartbeatWatchdog s
  | .sessionBeatLapse session => Sys2Proof.Machine.execSessionBeatLapse session s
  | .lifetimeRecordWrite => Sys2Proof.Machine.execLifetimeRecordWrite s
  | .unitFailed u cause => Sys2Proof.Machine.execUnitFailed u cause s
  | .moduleFailed cause => Sys2Proof.Machine.execModuleFailed cause s
  -- CXL
  | .cxlMemRead dpa size ecc => Sys2Proof.Machine.execCxlMemRead dpa size ecc s
  | .cxlMemWrite dpa data poison => Sys2Proof.Machine.execCxlMemWrite dpa data poison s
  | .bar4Read offset size requester ecc => Sys2Proof.Machine.execBar4Read offset size requester ecc s
  | .bar4Write offset data requester poison => Sys2Proof.Machine.execBar4Write offset data requester poison s
  | .cxlConfigRequest => Sys2Proof.Machine.execCxlConfigRequest s
  | .cxlLinkRecovery => Sys2Proof.Machine.execCxlLinkRecovery s
  | .cxlLinkL0 => Sys2Proof.Machine.execCxlLinkL0 s
  | .cxlLinkTimeout => Sys2Proof.Machine.execCxlLinkTimeout s
  | .cxlHotReset => Sys2Proof.Machine.execCxlHotReset s
  | .cxlLinkDisable => Sys2Proof.Machine.execCxlLinkDisable s
  | .cxlFlr => Sys2Proof.Machine.execCxlFlr s
  | .perstNAssert => Sys2Proof.Machine.execPerstNAssert s
  | .identifyMemoryDevice => Sys2Proof.Machine.execIdentifyMemoryDevice s
  | .getSupportedLogs => Sys2Proof.Machine.execGetSupportedLogs s
  | .getLog offset length => Sys2Proof.Machine.execGetLog offset length s
  | .getEventRecords log => Sys2Proof.Machine.execGetEventRecords log s
  | .clearEventRecords log handles => Sys2Proof.Machine.execClearEventRecords log handles s
  | .mailboxUnsupported opcode => Sys2Proof.Machine.execMailboxUnsupported opcode s
  -- SPDM and management
  | .getVersion t => Sys2Proof.Machine.execGetVersion t s
  | .getCapabilities t => Sys2Proof.Machine.execGetCapabilities t s
  | .negotiateAlgorithms t => Sys2Proof.Machine.execNegotiateAlgorithms t s
  | .getDigests t => Sys2Proof.Machine.execGetDigests t s
  | .getCertificate t slot offset length => Sys2Proof.Machine.execGetCertificate t slot offset length s
  | .challenge t slot nonce => Sys2Proof.Machine.execChallenge t slot nonce s
  | .getMeasurements t index nonce => Sys2Proof.Machine.execGetMeasurements t index nonce s
  | .mgmtEciRequest entry image => Sys2Proof.Machine.execMgmtEciRequest entry image s
  | .mctpControl message => Sys2Proof.Machine.execMctpControl message s
  | .i3cCcc code dynamicAddress => Sys2Proof.Machine.execI3cCcc code dynamicAddress s
  -- Denbel
  | .dnbFlitReceive p flit decodable corrected => Sys2Proof.Machine.execDnbFlitReceive p flit decodable corrected s
  | .dnbNak p ack => Sys2Proof.Machine.execDnbNak p ack s
  | .dnbRetrain p => Sys2Proof.Machine.execDnbRetrain p s
  | .dnbPortUp p lanes => Sys2Proof.Machine.execDnbPortUp p lanes s
  | .dnbPortDown p => Sys2Proof.Machine.execDnbPortDown p s
  | .dnbForward m => Sys2Proof.Machine.execDnbForward m s
  | .dnbWr m => Sys2Proof.Machine.execDnbWr m s
  | .dnbWrp m => Sys2Proof.Machine.execDnbWrp m s
  | .dnbRd m ecc => Sys2Proof.Machine.execDnbRd m ecc s
  | .dnbRdr m => Sys2Proof.Machine.execDnbRdr m s
  | .dnbWack m => Sys2Proof.Machine.execDnbWack m s
  | .dnbLift m => Sys2Proof.Machine.execDnbLift m s
  | .dnbStreamOpen p m => Sys2Proof.Machine.execDnbStreamOpen p m s
  | .dnbStreamFlit p stag data => Sys2Proof.Machine.execDnbStreamFlit p stag data s
  | .dnbStreamEnd p m => Sys2Proof.Machine.execDnbStreamEnd p m s
  | .dnbKvx m word => Sys2Proof.Machine.execDnbKvx m word s
  | .dnbPod p neighbour => Sys2Proof.Machine.execDnbPod p neighbour s
  | .peerTimeout tag => Sys2Proof.Machine.execPeerTimeout tag s
  | .powerUp => Sys2Proof.Machine.execPowerUp s
  | .inputInRange => Sys2Proof.Machine.execInputInRange s
  | .perstNDeassert => Sys2Proof.Machine.execPerstNDeassert s
  | .cxlLinkUp lanes gigatransfers => Sys2Proof.Machine.execCxlLinkUp lanes gigatransfers s
  | .selfTestComplete passed => Sys2Proof.Machine.execSelfTestComplete passed s
  | .coreLoad c pa size attr form parity => Sys2Proof.Machine.execCoreLoad c pa size attr form parity s
  | .coreStore c pa size v attr form => Sys2Proof.Machine.execCoreStore c pa size v attr form s
  | .uncorrectableFlashRead fid page => Sys2Proof.Machine.execUncorrectableFlashRead fid page s
  | .reattachLockEnd => Sys2Proof.Machine.execReattachLockEnd s

end Sys2Proof.Machine
end

