-- ==== Sys2Proof/Machine/Idle.lean ====
section
/-!
DEFINITION. What passes while no command waits: one nanosecond of the time base, and the work of the module that no command of the
table stands for (DESIGN CHOICE, log 3).
-/

namespace Sys2Proof.Machine

/-- Is a Front outside Calm and Lull. -/
def FrontSleep.outside : FrontSleep → Bool
  | .calm _ | .lull _ => false
  | .awake | .waking _ _ => true

/-- A nanosecond of a Front (R391, activity 15). -/
def FrontPwr.tick (w : FrontPwr) : FrontPwr := if w.sleep.outside then { w with awakeNs := w.awakeNs + 1 } else w

/-- A millisecond of a Front in Calm or Lull (R409). -/
def FrontPwr.tickMs (w : FrontPwr) : FrontPwr :=
  match w.sleep with
  | .calm _ => { w with calmMs := w.calmMs + 1 }
  | .lull _ => { w with lullMs := w.lullMs + 1 }
  | .awake | .waking _ _ => w

/-- How many Fronts are in a state. -/
def State.countFronts (s : State) (p : FrontSleep → Bool) : Nat := (s.pwr.fronts.toList.filter fun w => p w.sleep).length

def FrontSleep.isCalm : FrontSleep → Bool
  | .calm _ => true
  | _ => false

/-- A millisecond boundary: time in each state enters the counters and the lifetime record (R409, Table 16.6). -/
def State.millisecond (s : State) : State :=
  let s1 := (s.lifeAdd 0 0 1).lifeAdd 9 0 (if s.eci.devState = .serving then 1 else 0)
  let s2 := (s1.lifeAdd 9 1 (s.countFronts FrontSleep.isCalm)).lifeAdd 9 2 (s.countFronts FrontSleep.isLull)
  let s3 := s2.updPwr fun p => { p with fronts := p.fronts.map FrontPwr.tickMs }
  match s.pwr.sleep with
  | .lull _ => (s3.count .moduleLullMs).lifeAdd 9 3 1
  | .frost _ => (s3.count .frostMs).lifeAdd 9 4 1
  | .awake | .waking _ _ => s3

/-- A core with nothing under way waits in WFI again (log 10). -/
def CoreSt.park (x : CoreSt) : CoreSt := if x.sb.isEmpty && x.dev.isEmpty && x.pending.isNone && !x.irq then { x with wfi := true } else x

/-- What a nanosecond does when input power is present. -/
def State.tick (s : State) : State :=
  let s1 := s.updPwr fun p => { p with fronts := p.fronts.map FrontPwr.tick }
  let s0 := if s1.now % 1000 = 0 && !s1.tiers.predNew.isEmpty then s1.countPredictions else s1
  let s2 := if s1.now % ms 1 = 0 then s0.millisecond.scanDue.patrolDue else s0
  let s3 := (s2.drainCores.drainEgress).pump
  let s4 := s3.feedLifts.settleStalls
  let s5 := { s4 with cores := s4.cores.map CoreSt.park }
  if s5.eci.vector64Owed then s5.vector64 else s5

/-- The block on an empty queue. -/
def State.idle (s : State) : State :=
  let t := { s with now := s.now + 1, out := .none }
  if s.boot.supply.on then t.tick else t

end Sys2Proof.Machine
end

