-- ==== Sys2Proof/Safety.lean ====
section
/-!
DEFINITION. What counts as a safe state and a safe run: the settings, the memories and the lists of a legal state, and the
relation between a state and a later one that no command breaks.
-/

namespace Sys2Proof.Machine

/-- A setting of the power controller, the coherence registers and the control processor that the spec allows. -/
structure Settings where
  cap : Nat
  capWanted : Option Nat
  mode : BitVec 2
  modeDue : Option (BitVec 32)
  devTimeout : BitVec 32
  longOps : Nat
  deriving DecidableEq, Repr

/-- The settings a state holds. -/
def State.settings (s : State) : Settings :=
  { cap := s.pwr.cap, capWanted := s.pwr.capWanted, mode := s.pwr.mode, modeDue := s.pwr.capModeDue
    devTimeout := s.coh.devTimeout, longOps := s.eci.ops.length }

/-- The cap lies in 800 to 3600 W (R389), and so does a cap that waits for the next period. -/
def capLegal (w : Nat) : Prop := 800 ≤ w ∧ w ≤ 3600

/-- A setting in the ranges of the spec: the cap (R389), MODE 00 or 01 (R400), COH_DEV_TIMEOUT 10 to 100,000 us (Table 11.8),
at most 16 long operations in flight (R381). -/
structure LegalSettings (x : Settings) : Prop where
  cap : capLegal x.cap
  capWanted : ∀ w, x.capWanted = some w → capLegal w
  mode : x.mode.toNat ≤ 1
  modeDue : ∀ v, x.modeDue = some v → v.toNat % 4 ≤ 1
  devTimeout : 10 ≤ x.devTimeout.toNat ∧ x.devTimeout.toNat ≤ 100000
  longOps : x.longOps ≤ 16

/-- A legal state: memory and flash in canonical form, settings in the ranges of the spec. -/
structure LegalState (s : State) : Prop where
  mem : Memory.wf s.mem = true
  flash : Memory.wf s.tiers.flash = true
  settings : LegalSettings s.settings

/-- How a state that a command leaves relates to the one it met: the queue and the time base stand, the rollback counter
in fuses is not lowered (R422), and a legal state stays legal. -/
structure Follows (s t : State) : Prop where
  queue : t.pending = s.pending
  clock : t.now = s.now
  fuses : s.boot.fuses ≤ t.boot.fuses
  legal : LegalState s → LegalState t

/-! ## A command begun at a source -/

/-- The path of a source takes an opcode (R355, R383). -/
def onPath (src : Src) (o : Nat) : Bool :=
  match src with
  | .pair _ => true
  | .urgent _ => urgentOpc o
  | .mgmt => mgmtOpc o

/-- Who begins a command of opcode o: ATTACH and REATTACH come on a pair that need not be bound (R374, R376). -/
def State.callerOf (s : State) (o : Nat) (src : Src) (e : Entry) : Option Cmd :=
  match src with
  | .pair _ => if o = 0x01 ∨ o = 0x03 then some ((s.caller src e).getD { src := src, e := e }) else s.caller src e
  | _ => s.caller src e

/-- The entry of c stands at a source with opcode o, on a path that takes it, from a caller who may use it, with its header
and every field in range: only the state is left to judge (R366, R368, R369). -/
structure Begun (s : State) (o : Nat) (src : Src) (fields : Cmd → List FieldSpec) (c : Cmd) : Prop where
  entry : s.entryAt src = some c.e
  opcode : opcOf c.e = o
  served : s.eci.devState ≠ .uninit
  path : onPath src o = true
  caller : s.callerOf o src c.e = some c
  header : headerBad src c.e = none
  fieldsOk : badField c.e 64 (fields c) = none
  operator : operatorOpc o = true → c.op = true

/-- The same in a device state where the command is legal: the command's own effect follows (R378). -/
structure Accepted (s : State) (o : Nat) (src : Src) (fields : Cmd → List FieldSpec) (c : Cmd) : Prop
    extends Begun s o src fields c where
  legal : s.conflict o c = false

/-- What the writing of completion records leaves alone: everything but memory, the queue pairs, the urgent slots, the records
that wait for a push, the interrupts, the commands that wait at their sources, and the management port's responses. -/
structure RecordOnly (s t : State) : Prop where
  now : t.now = s.now
  free : t.free = s.free
  pending : t.pending = s.pending
  marks : t.marks = s.marks
  gens : t.gens = s.gens
  eci : t.eci = { s.eci with
    pairs := t.eci.pairs, urgCpl := t.eci.urgCpl, urgBusy := t.eci.urgBusy, urgDone := t.eci.urgDone
    mgmtInbox := t.eci.mgmtInbox, posts := t.eci.posts, msix := t.eci.msix, waiting := t.eci.waiting
    arrivals := t.eci.arrivals }
  srv : t.srv = s.srv
  tiers : t.tiers = s.tiers
  squalls : t.squalls = s.squalls
  cores : t.cores = s.cores
  coh : t.coh = s.coh
  dram : t.dram = s.dram
  pwr : t.pwr = s.pwr
  cxl : t.cxl = s.cxl
  dnb : t.dnb = s.dnb
  mgmt : t.mgmt = { s.mgmt with responses := t.mgmt.responses }
  boot : t.boot = s.boot
  logs : t.logs = s.logs
  ctrs : t.ctrs = s.ctrs

/-! ## Slots that a request would read -/

/-- The slots that a request would read stand ready: FULL or RESIDENT, with nothing of run-ahead to check first. -/
def State.SlotsReady (s : State) (q : Fin 64) (l : List Nat) : Prop :=
  ∀ k ∈ l, ((s.sq q).tag k).st.readable = true ∧ ((s.sq q).tag k).kvp = false ∧ ((s.sq q).tag k).gens = []

end Sys2Proof.Machine
end

