-- ==== Sys2Proof/Certificates/Slice0/Obligations.lean ====
section
/-!
DEFINITION. The statements about the model that provers are asked to prove, family by family. A statement of several parts is the
conjunction of claims that stand before it. Where a command's own effect is stated, the state after it is written out: what the
equation does not name is unchanged.
-/

open Sys2Proof Sys2Proof.Machine

/-! ## The whole machine -/

/-- A step with a command at the front of the queue runs that command on the state with the queue's rest. -/
def Obligations.StepRunsFrontCommand : Prop :=
  ∀ (c : Instr) (l : List Instr) (s : State), s.pending = c :: l → step s = exec c { s with pending := l }

/-- On an empty queue a step is one nanosecond of the time base (the model's choice, log 3): the queue stays empty, the time base rises
by one, and with the supply off nothing else changes. -/
def Obligations.EmptyQueueIdles : Prop :=
  ∀ s : State, s.pending = [] →
    ∃ t, step s = .next t ∧ t.pending = [] ∧ t.now = s.now + 1 ∧
      (s.boot.supply.on = false → t = { s with now := s.now + 1, out := .none })

/-- Every command answers a next state from every state: none faults and none is refused. -/
def Obligations.EveryCommandAnswersNext : Prop :=
  ∀ (c : Instr) (s : State), ∃ t, exec c s = .next t

/-- The values that the spec states for registers at reset. -/
def Obligations.ResetValues : Prop :=
  State.reset.eci.devState = .uninit ∧ State.reset.eciState = 0x70 ∧ State.reset.eci.gustDefault = 0x96 ∧
  State.reset.eci.mixedPrefill = 0x03 ∧ State.reset.dram.imbWindow = 0x3E8403E8 ∧ State.reset.dram.imbLast = 0 ∧
  State.reset.coh.locked = false ∧ (∀ k : Fin 40, pick State.reset.coh.orderMode k = 0) ∧
  State.reset.coh.devTimeout = 0x64 ∧ State.reset.pwr.cap = 3200 ∧ State.reset.pwr.capMode = 0 ∧
  State.reset.errSummary = 0 ∧ State.reset.urgStatus = 0 ∧ (∀ q : Fin 64, (State.reset.pair q).status = 0) ∧
  State.reset.eci.sessions = [] ∧ State.reset.pending = [] ∧ State.reset.mem = []

/-- The state after reset is legal. -/
def Obligations.ResetIsLegal : Prop := LegalState State.reset

/-- A step from a legal state leaves a legal state: memory and flash in canonical form, the cap within 800 to 3600 W, a MODE that is not
reserved, COH_DEV_TIMEOUT within its range, at most 16 long operations. -/
def Obligations.StepsKeepLegal : Prop :=
  ∀ s t : State, step s = .next t → LegalState s → LegalState t

/-- No step lowers the rollback counter in the fuses. -/
def Obligations.FusesNeverLowered : Prop :=
  ∀ s t : State, step s = .next t → s.boot.fuses ≤ t.boot.fuses

/-- A command changes neither the rest of the queue nor the time base. -/
def Obligations.CommandsKeepQueueAndClock : Prop :=
  ∀ (c : Instr) (s t : State), exec c s = .next t → t.pending = s.pending ∧ t.now = s.now

/-- A byte stored reads back, and every byte whose place differs (the place of a retired page being its spare) reads as before: the law
of memory under which every store of the module is stated. -/
def Obligations.StoredBytesReadBack : Prop :=
  ∀ (s : State) (pa : Nat) (b : Byte), Memory.wf s.mem = true →
    (s.putByte pa b).byteAt pa = b ∧
    ∀ a, s.real a ≠ s.real pa → (s.putByte pa b).byteAt a = s.byteAt a

/-- What the writing of a command's final record leaves alone (R365, R367): everything but memory, the queue pairs, the urgent slots,
the interrupts sent, the waiting commands and the answer. -/
def Claim.FinalRecordsChangeRecordsOnly : Prop :=
  ∀ (s : State) (c : Cmd) (st : Status) (detail handle result : Nat),
    RecordOnly s (s.endCmd c st detail handle result) ∧ RecordOnly s (s.begin c) ∧ RecordOnly s (s.unreserve c.src) ∧
    RecordOnly s (s.finish c.ref st detail handle result)

/-- A record for a pair whose completion queue lies in device memory is written at CQ_TAIL with the running phase, SQ_HEAD, the device
state and the time; the tail moves on, and at the end of the queue returns to 0 with the phase turned; one reservation becomes one
unread record (R365, R367). -/
def Claim.RecordWrittenAtTail : Prop :=
  ∀ (s : State) (r : RecRef) (q : Fin 64) (st : Status) (detail handle result : Nat),
    r.src = .pair q → isHost ((s.pair q).cqNow q) = false →
    let p := s.pair q
    let t := s.final r st detail handle result
    t.mem = (s.putBytes (p.cqNow q + 128 * p.cqTail.toNat)
      (leBytes (recStamp s p.phase p.sqHead.toNat (recBody r.cid q.val false st detail handle result)).toNat 128)).mem ∧
    (t.pair q).unread = p.unread + 1 ∧ (t.pair q).reserved = p.reserved - 1 ∧ (t.pair q).sqHead = p.sqHead ∧
    (p.cqTail.toNat + 1 = entriesOf p.cqLog2 → (t.pair q).cqTail = 0 ∧ (t.pair q).phase = !p.phase) ∧
    (p.cqTail.toNat + 1 ≠ entriesOf p.cqLog2 → (t.pair q).cqTail = p.cqTail + 1 ∧ (t.pair q).phase = p.phase) ∧
    ∀ k, k ≠ q → t.pair k = s.pair k

/-- Writing completion records: the tail of the queue, and nothing but records. -/
def Obligations.RecordsAreWrittenAtTheTail : Prop :=
  Claim.FinalRecordsChangeRecordsOnly ∧ Claim.RecordWrittenAtTail

/-! ## Registers and doorbells -/

/-- In UNINIT a register write is discarded (R361). -/
def Claim.UninitDiscardsRegisterWrites : Prop :=
  ∀ (s : State) (q : Fin 64) (k : Fin 40) (v : BitVec 32) (w : BitVec 64) (path : Path), s.eci.devState = .uninit →
    (∀ c ∈ [Instr.eciSqTail q v path, .eciCqHead q v, .eciQCfg q v, .eciUrgDoorbell v, .eciBeat v, .eciGustDefault v,
        .memImbWindow v, .cohOrderMode k w, .cohCfgLock v, .cohDevTimeout v, .capModeSet v, .learnClear v],
      exec c s = .next { s with out := .done }) ∧
    ∀ (off : BitVec 16) (size : Nat), (regAt off.toNat size).isSome = true →
      exec (.registerWrite off size w path) s = .next { s with out := .done }

/-- A write of the window at a register's own offset and size is the write of that register: the row REGISTER_WRITE and the rows of the
registers agree. Served, it writes the bytes of an urgent slot, the bases of a pair that no session holds, which an inactive pair
keeps inactive, and the done bits of ECI_URG_STATUS that it writes 1 to, and leaves read-only registers as they are (R360, R361,
R363). -/
def Claim.WindowWritesAreRegisterWrites : Prop :=
  ∀ (s : State) (v : BitVec 32) (w : BitVec 64) (path : Path),
    exec (.registerWrite 0x40 4 (v.zeroExtend 64) path) s = exec (.eciUrgDoorbell v) s ∧
    exec (.registerWrite 0x48 4 (v.zeroExtend 64) path) s = exec (.eciBeat v) s ∧
    exec (.registerWrite 0x2040 4 (v.zeroExtend 64) path) s = exec (.eciGustDefault v) s ∧
    exec (.registerWrite 0x2100 4 (v.zeroExtend 64) path) s = exec (.memImbWindow v) s ∧
    exec (.registerWrite 0x2340 4 (v.zeroExtend 64) path) s = exec (.cohDevTimeout v) s ∧
    exec (.registerWrite 0x2348 4 (v.zeroExtend 64) path) s = exec (.cohCfgLock v) s ∧
    (∀ q : Fin 64,
      exec (.registerWrite (BitVec.ofNat 16 (0x1010 + 0x20 * q.val)) 4 (v.zeroExtend 64) path) s = exec (.eciQCfg q v) s ∧
      exec (.registerWrite (BitVec.ofNat 16 (0x1018 + 0x20 * q.val)) 4 (v.zeroExtend 64) path) s = exec (.eciSqTail q v path) s ∧
      exec (.registerWrite (BitVec.ofNat 16 (0x101C + 0x20 * q.val)) 4 (v.zeroExtend 64) path) s = exec (.eciCqHead q v) s) ∧
    (∀ k : Fin 40,
      exec (.registerWrite (BitVec.ofNat 16 (0x2200 + 8 * k.val)) 8 w path) s = exec (.cohOrderMode k w) s) ∧
    (s.eci.devState ≠ .uninit →
      (∀ q : Fin 64, (s.pair q).session = none → (s.pair q).active = false →
        exec (.registerWrite (BitVec.ofNat 16 (0x1000 + 0x20 * q.val)) 8 w path) s = .next (State.updPair s.ok q fun p => { p with sqBase := w }) ∧
        exec (.registerWrite (BitVec.ofNat 16 (0x1008 + 0x20 * q.val)) 8 w path) s = .next (State.updPair s.ok q fun p => { p with cqBase := w })) ∧
      (∀ (u : Fin 4) (b : Fin 16), exec (.registerWrite (BitVec.ofNat 16 (0x400 + 0x100 * u.val + 8 * b.val)) 8 w path) s =
        .next (State.updEci s.ok fun e => { e with urgEntry := upd e.urgEntry u (entryPut (64 * b.val) 64 w.toNat) })) ∧
      exec (.registerWrite 0x44 4 (v.zeroExtend 64) path) s =
        .next (State.updEci s.ok fun e => { e with urgDone := e.urgDone.mapIdx fun u d => d && !bitAt v.toNat (4 + u) }) ∧
      ∀ off : BitVec 16, off.toNat ∈ [0x00, 0x04, 0x08, 0x10, 0x18, 0x20, 0x2108] →
        exec (.registerWrite off 4 (v.zeroExtend 64) path) s = .next s.ok)

/-- An access of the window with a size that is not the register's: Unsupported Request to the host, an access fault to a core (R361,
R308); nothing else changes. -/
def Claim.WrongSizeWritesAreRefused : Prop :=
  ∀ (s : State) (off : BitVec 16) (size : Nat) (w : BitVec 64) (c : Fin 64), regAt off.toNat size = none →
    exec (.registerWrite off size w .host) s = .next { s with out := .unsupportedRequest } ∧
    exec (.registerWrite off size w (.core c)) s =
      .next { s with out := .accessFault 7 (0x038000000000 + off.toNat) }

/-- Writes of the register window: by register, discarded in UNINIT, refused at a wrong size. Complete here: registerWrite. -/
def Obligations.WindowWritesFollowTheRegisters : Prop :=
  Claim.UninitDiscardsRegisterWrites ∧ Claim.WindowWritesAreRegisterWrites ∧ Claim.WrongSizeWritesAreRefused

/-- ECI_SQ_TAIL (R364): on an ACTIVE pair of a session that is not lost, a tail inside the queue is taken, with the path of the
doorbell; a tail outside the queue, or a pair that is not ACTIVE, leaves every register as it was. -/
def Claim.SqTailMovesInsideTheQueue : Prop :=
  ∀ (s : State) (q : Fin 64) (v : BitVec 32) (path : Path), s.eci.devState ≠ .uninit →
    ((s.pair q).active = true → v.toNat % 4096 < 2 ^ (s.pair q).sqLog2.toNat →
      (∀ i x, (s.pair q).session = some i → s.session i = some x → x.lost = false) →
      exec (.eciSqTail q v path) s = .next { s with
        out := .done
        pwr := s.rouse.pwr
        eci := { s.eci with pairs := upd s.eci.pairs q fun p => { p with
          sqTail := BitVec.ofNat 12 (v.toNat % 4096)
          onPkg := some (match path with | .host => false | .core _ => true) } } }) ∧
    ((s.pair q).active = false ∨ 2 ^ (s.pair q).sqLog2.toNat ≤ v.toNat % 4096 →
      exec (.eciSqTail q v path) s = .next { s with out := .done })

/-- ECI_CQ_HEAD (R365): on an ACTIVE pair, with no REATTACH delivering on it, a head within the unread records frees the k records it
passes; a head outside the queue or past the unread records has no effect. -/
def Claim.CqHeadFreesUnreadRecords : Prop :=
  ∀ (s : State) (q : Fin 64) (v : BitVec 32), s.eci.devState ≠ .uninit → (s.pair q).active = true →
    let p := s.pair q
    let n := 2 ^ p.cqLog2.toNat
    let h := v.toNat % 4096
    let k := (h + n - p.cqHead.toNat) % n
    (h < n → k ≤ p.unread → (∀ d ∈ s.eci.delivering, d.q ≠ q) →
      exec (.eciCqHead q v) s = .next { s with
        out := .done
        eci := { s.eci with pairs := upd s.eci.pairs q fun p => { p with
          cqHead := BitVec.ofNat 12 h, unread := p.unread - k, shadowUnread := min p.shadowUnread (p.unread - k) } } }) ∧
    (n ≤ h ∨ p.unread < k → exec (.eciCqHead q v) s = .next { s with out := .done })

/-- ECI_Q_CFG on a pair that no session holds (R363): ENABLE from 0 to 1 with valid bases and sizes makes the pair ACTIVE with SQ_HEAD
and CQ_TAIL 0 and the completion phase 1; with an invalid base or size ACTIVE stays 0; ENABLE 0 makes it inactive. -/
def Claim.EnableActivatesAValidPair : Prop :=
  ∀ (s : State) (q : Fin 64) (v : BitVec 32), s.eci.devState ≠ .uninit → (s.pair q).session = none →
    (s.pair q).enable = false → (s.pair q).active = false →
    let sqLog2 := BitVec.ofNat 4 (v.toNat % 16)
    let cqLog2 := BitVec.ofNat 4 (v.toNat / 16 % 16)
    let valid := queueOk (s.pair q).sqBase sqLog2 && queueOk (s.pair q).cqBase cqLog2
    ∃ t, exec (.eciQCfg q v) s = .next t ∧
      (t.pair q).sqLog2 = sqLog2 ∧ (t.pair q).cqLog2 = cqLog2 ∧
      (t.pair q).enable = v.getLsbD 8 ∧ (t.pair q).irq = v.getLsbD 9 ∧
      ((t.pair q).active = true ↔ v.getLsbD 8 = true ∧ valid = true) ∧
      ((t.pair q).active = true → (t.pair q).sqHead = 0 ∧ (t.pair q).cqTail = 0 ∧ (t.pair q).phase = true ∧ (t.pair q).inbox = []) ∧
      t = { s with out := .done, eci := { s.eci with pairs := t.eci.pairs } } ∧ ∀ k, k ≠ q → t.pair k = s.pair k

/-- ECI_SQ_TAIL, ECI_CQ_HEAD and ECI_Q_CFG. Complete here: eciSqTail, eciCqHead, eciQCfg. -/
def Obligations.QueueRegistersMoveInsideQueues : Prop :=
  Claim.SqTailMovesInsideTheQueue ∧ Claim.CqHeadFreesUnreadRecords ∧ Claim.EnableActivatesAValidPair

/-- ECI_URG_DOORBELL (R383): a slot that is not BUSY, with an opcode that the urgent path takes, becomes BUSY, and its command waits
ahead of every queue; the doorbell of a BUSY slot has no effect. -/
def Claim.UrgentDoorbellQueuesItsEntry : Prop :=
  ∀ (s : State) (u : Fin 4) (v : BitVec 32), s.eci.devState ≠ .uninit → v.toNat % 4 = u.val →
    (pick s.eci.urgBusy u = true → exec (.eciUrgDoorbell v) s = .next { s with out := .done }) ∧
    (pick s.eci.urgBusy u = false → urgentOpc (opcOf (pick s.eci.urgEntry u)) = true →
      exec (.eciUrgDoorbell v) s = .next { s with
        out := .done
        pwr := s.rouse.pwr
        eci := { s.eci with urgBusy := s.eci.urgBusy.set u.val true, arrivals := s.eci.arrivals ++ [.urgent u] } })

/-- ECI_BEAT (R375): the session it names, not lost and within its interval, counts its interval anew; no other session and nothing else
changes. -/
def Claim.BeatRenewsItsSession : Prop :=
  ∀ (s : State) (v : BitVec 32) (x : Session), s.eci.devState ≠ .uninit → s.session (BitVec.ofNat 16 (v.toNat % 65536)) = some x →
    x.lost = false → (x.beatMs = 0 ∨ s.now ≤ x.lastBeat + 1000000 * x.beatMs) →
    ∃ t, exec (.eciBeat v) s = .next t ∧ t.session x.id = some { x with lastBeat := s.now } ∧
      (∀ i, i ≠ x.id → t.session i = s.session i) ∧
      t = { s with out := .done, eci := { s.eci with sessions := t.eci.sessions } }

/-- A fetch (R364, R365): the first pair, cyclically, that has an entry and room takes the entry at SQ_HEAD into the device; the head
moves on, one record is reserved, two for a long operation, and the next fetch starts at the pair behind it. -/
def Claim.FetchTakesTheHeadEntry : Prop :=
  ∀ (s : State) (q : Fin 64),
    s.eci.devState ≠ .uninit → s.eci.devState ≠ .booting → s.eci.devState ≠ .updating → s.eci.arrivals = [] →
    s.pwr.sleep = .awake → s.nextFetch = some q →
    let p := s.pair q
    let e : Entry := BitVec.ofNat 1024 (s.word (p.sqBase.toNat + 128 * p.sqHead.toNat) 128)
    (∀ x ∈ (p.inbox ++ [e]).head?, knownOpc (opcOf x) = true) →
    exec .sqFetch s = .next { s with
      out := .done
      eci := { s.eci with
        rrNext := q + 1
        pairs := upd s.eci.pairs q fun p => { p with
          sqHead := if p.sqHead.toNat + 1 = 2 ^ p.sqLog2.toNat then 0 else p.sqHead + 1
          reserved := p.reserved + (if longOpc (opcOf e) then 2 else 1), inbox := p.inbox ++ [e] } } }

/-- Urgent doorbells, heartbeats, and the fetch of a pair's head entry. Complete here: eciUrgDoorbell, eciBeat, sqFetch. -/
def Obligations.DoorbellsBeatsAndFetches : Prop :=
  Claim.UrgentDoorbellQueuesItsEntry ∧ Claim.BeatRenewsItsSession ∧ Claim.FetchTakesTheHeadEntry

/-- ECI_GUST_DEFAULT (10 to 100,000 us), COH_DEV_TIMEOUT (10 to 100,000 us) and MEM_IMB_WINDOW (window 100 to 10,000, ratio 1 to 5,
count at least 1) take a value in range and ignore any other; MEM_IMB_WINDOW waits for the next window boundary. -/
def Claim.RangedRegistersTakeLegalValues : Prop :=
  ∀ (s : State) (v : BitVec 32), s.eci.devState ≠ .uninit →
    let g := v.toNat % 2 ^ 17
    let w := v.toNat % 65536
    let th := v.toNat / 65536 % 8
    let pe := v.toNat / 2 ^ 20
    exec (.eciGustDefault v) s = .next { s with
      out := .done
      eci := { s.eci with gustDefault := if 10 ≤ g ∧ g ≤ 100000 then BitVec.ofNat 32 g else s.eci.gustDefault } } ∧
    exec (.cohDevTimeout v) s = .next { s with
      out := .done
      coh := { s.coh with devTimeout := if 10 ≤ g ∧ g ≤ 100000 then BitVec.ofNat 32 g else s.coh.devTimeout } } ∧
    exec (.memImbWindow v) s = .next { s with
      out := .done
      dram := { s.dram with
        imbPending := if 100 ≤ w ∧ w ≤ 10000 ∧ 1 ≤ th ∧ th ≤ 5 ∧ 1 ≤ pe
          then some (BitVec.ofNat 32 (w + 65536 * th + 2 ^ 20 * pe)) else s.dram.imbPending } }

/-- COH_ORDER_MODE and COH_CFG_LOCK (R307): while the lock is clear a write replaces the word; once it is set, a write has no effect;
LOCK is set by a 1 and never cleared by a write. -/
def Claim.OrderModeUntilLocked : Prop :=
  ∀ (s : State) (k : Fin 40) (w : BitVec 64) (v : BitVec 32), s.eci.devState ≠ .uninit →
    (s.coh.locked = false → exec (.cohOrderMode k w) s =
      .next { s with out := .done, coh := { s.coh with orderMode := s.coh.orderMode.set k.val w } }) ∧
    (s.coh.locked = true → exec (.cohOrderMode k w) s = .next { s with out := .done }) ∧
    exec (.cohCfgLock v) s =
      .next { s with out := .done, coh := { s.coh with locked := s.coh.locked || v.getLsbD 0 } }

/-- PWR_CAP_MODE (R400): a write with a MODE that is not reserved shows at once in the register's fields and waits for the next period
boundary, with LEARN_CLEAR set (LEARN_CLEAR) or clear (CAP_MODE_SET, unless one that waits has it set); a write whose MODE is
reserved has no effect at all. -/
def Claim.CapModeWaitsForThePeriod : Prop :=
  ∀ (s : State) (v : BitVec 32), s.eci.devState ≠ .uninit →
    let rw := v.toNat % 4 + 256 * (v.toNat / 256 % 65536)
    let wasClear := s.pwr.capModeDue.any fun w => w.getLsbD 4
    (v.toNat % 4 ≤ 1 →
      exec (.capModeSet v) s = .next { s with
        out := .done
        pwr := { s.pwr with
          capMode := BitVec.ofNat 32 rw, capModeDue := some (BitVec.ofNat 32 (if wasClear then rw + 16 else rw)) } } ∧
      exec (.learnClear v) s = .next { s with
        out := .done
        pwr := { s.pwr with capMode := BitVec.ofNat 32 rw, capModeDue := some (BitVec.ofNat 32 (rw + 16)) } }) ∧
    (2 ≤ v.toNat % 4 →
      exec (.capModeSet v) s = .next { s with out := .done } ∧ exec (.learnClear v) s = .next { s with out := .done })

/-- The HDM decoder commits with one interleave way and a host range of 256 MiB granules, and otherwise reports an error and stays
uncommitted (R332). -/
def Claim.HdmDecoderCommits : Prop :=
  ∀ (s : State) (ways : Nat) (base size : BitVec 64),
    (ways = 1 → base.toNat % 0x10000000 = 0 → size.toNat % 0x10000000 = 0 →
      exec (.hdmDecoderCommit ways base size) s = .next { s with
        out := .done
        cxl := { s.cxl with hdmCommitted := true, hdmError := false, hdmBase := base, hdmSize := size } }) ∧
    (ways ≠ 1 ∨ base.toNat % 0x10000000 ≠ 0 ∨ size.toNat % 0x10000000 ≠ 0 →
      exec (.hdmDecoderCommit ways base size) s = .next { s with
        out := .done
        cxl := { s.cxl with hdmCommitted := false, hdmError := true } })

/-- Setting registers take their legal values and ignore the others. Complete here: eciGustDefault, memImbWindow, cohDevTimeout,
cohOrderMode, cohCfgLock, capModeSet, learnClear, hdmDecoderCommit. -/
def Obligations.SettingRegistersTakeLegalValues : Prop :=
  Claim.RangedRegistersTakeLegalValues ∧ Claim.OrderModeUntilLocked ∧ Claim.CapModeWaitsForThePeriod ∧ Claim.HdmDecoderCommits

/-! ## ECI commands: what holds of all of them -/

/-- A refusal (R367, R388) changes nothing but the records: no effect of the command remains. -/
def Claim.RefusalsHaveNoEffect : Prop :=
  ∀ (s : State) (c : Cmd) (st : Status) (detail : Nat), RecordOnly s (s.refuse c st detail)

/-- A command that the device state does not admit (R378, Table 14.13) is refused with STATE_CONFLICT and has no effect. -/
def Claim.IllegalStatesRefuseCommands : Prop :=
  ∀ (s : State) (src : Src) (c : Cmd),
    let refused (i : Instr) (o : Nat) (fields : Cmd → List FieldSpec) : Prop :=
      Begun s o src fields c → s.conflict o c = true → exec i s = .next ((s.ok).refuse c .stateConflict 0)
    refused (.attach src) 0x01 (fun _ => attachFields) ∧
    refused (.detach src) 0x02 (fun _ => [(64, 16, anyVal)]) ∧
    refused (.reattach src) 0x03 (fun _ => [(64, 16, anyVal), (128, 64, anyVal), (192, 64, anyVal)]) ∧
    refused (.modelLoad src) 0x10 (fun _ => modelLoadFields) ∧
    refused (.modelInstall src) 0x11 (fun _ => modelInstallFields) ∧
    refused (.modelEvict src) 0x12 (fun _ => [(64, 32, anyVal)]) ∧
    refused (.roleSet src) 0x18 (fun _ => [(64, 3, inVals 0 3)]) ∧
    refused (.policySet src) 0x19 policyFields ∧
    refused (.powerCapSet src) 0x1A (fun _ => [(64, 12, anyVal)]) ∧
    refused (.regionRegister src) 0x20 (fun _ => regionFields) ∧
    refused (.regionRelease src) 0x21 (fun _ => [(64, 16, anyVal)]) ∧
    refused (.seqOpen src) 0x28 (fun _ => [(64, 32, anyVal), (96, 64, anyVal), (160, 32, anyVal)]) ∧
    refused (.seqClose src) 0x29 (fun _ => [(64, 32, anyVal), (96, 16, anyVal)]) ∧
    refused (.stepSubmit src) 0x2A (fun _ => submitFields) ∧
    refused (.kvExport src) 0x30 (fun _ => kvExportFields) ∧
    refused (.kvImport src) 0x31 (fun _ => [(64, 32, anyVal), (96, 16, anyVal), (112, 8, anyVal), (128, 32, anyVal)]) ∧
    refused (.suspend src) 0x38 (fun _ => [targetField fun k => k == 0 || k == 3]) ∧
    refused (.resume src) 0x39 (fun _ => [targetField fun k => k == 0 || k == 3]) ∧
    refused (.cancel src) 0x3A (fun _ => [targetField fun k => k != 3]) ∧
    refused (.query src) 0x40 (outputFields 8) ∧
    refused (.countersRead src) 0x41 (fun c => (64, 8, anyVal) :: (72, 4, anyVal) :: (outputFields 8 c).drop 1) ∧
    refused (.logRead src) 0x42 (outputFields 8) ∧
    refused (.pageRetire src) 0x48 (fun _ => [(64, 48, anyVal)]) ∧
    refused (.fwStage src) 0x49 fwStageFields ∧
    refused (.fwCommit src) 0x4A (fun _ => []) ∧
    refused (.resetScope src) 0x4B (fun _ => [(64, 32, anyVal), (96, 1, anyVal)]) ∧
    refused (.scrub src) 0x4C (fun _ => [(64, 2, inVals 0 1)])

/-- A record carries the device state at its writing in STATE, bits 39 to 36 (R379, Table 14.5). -/
def Claim.RecordsCarryTheState : Prop :=
  ∀ (s : State) (cid : BitVec 16) (sqid head detail : Nat) (accepted phase : Bool) (st : Status), sqid < 64 → head < 4096 →
    bitsAt (recStamp s phase head (recBody cid sqid accepted st detail 0 0)).toNat 36 4 = s.eci.devState.code

/-- A command illegal in the present state is refused with STATE_CONFLICT, its record carries the state, and nothing else changes. -/
def Obligations.IllegalStateIsRefusedWithoutEffect : Prop :=
  Claim.RefusalsHaveNoEffect ∧ Claim.IllegalStatesRefuseCommands ∧ Claim.RecordsCarryTheState

/-! ## Sessions -/

/-- ATTACH (R374): on a pair that no session holds, with a role that agrees, a new session with a fresh token is created and bound to
the pair and to every ACTIVE pair of PAIRS that is not bound; the record answers the session, its token, the module index and the
number of journalled items held for the tenant. -/
def Claim.AttachCreatesASession : Prop :=
  ∀ (s : State) (q : Fin 64) (c : Cmd), Accepted s 0x01 (.pair q) (fun _ => attachFields) c →
    (s.pair q).session = none → c.src = .pair q →
    (c.f 192 48 = 0 ∨ (s.readable (c.f 192 48) = true ∧ s.podRefused (s.bytes (c.f 192 48) 4096) = false)) →
    (c.f 176 3 = 7 ∨ (s.eci.sessions = [] ∧ s.srv.models = []) ∨ s.eci.role.map Role.code = some (c.f 176 3)) →
    let id := s.newSession
    let tenant := BitVec.ofNat 32 (c.f 64 32)
    let x : Session := { id := id, tenant := tenant, token := s.newToken, onPkg := ((s.pair q).onPkg).getD false, beatMs := c.f 160 16, lastBeat := s.now }
    let u := State.bindPairs { s with
        out := .done
        free := s.free + 1
        eci := { s.eci with
          sessions := s.eci.sessions ++ [x]
          role := if c.f 176 3 = 7 then s.eci.role else Role.ofCode (c.f 176 3) } } id
      fun k => k == q || (bitAt (c.f 96 64) k.val && (s.pair k).active && (s.pair k).session.isNone)
    let v := if c.f 192 48 ≠ 0 ∧ s.eci.pod = none then (match podOf (s.bytes (c.f 192 48) 4096) with
      | some d => u.enterPod d
      | none => u) else u
    let held := match s.eci.journal with
      | some j => (j.items.filter fun i => j.sessions.any fun y => y.id == i.session && y.tenant == tenant).length
      | none => 0
    exec (.attach (.pair q)) s = .next (v.done { c with session := id, tenant := tenant } id.toNat
      (res [(192, s.newToken.toNat), (256, v.eci.moduleIndex.toNat), (264, held)])) ∧
    ∀ k, (u.pair k).session =
      if k = q ∨ (bitAt (c.f 96 64) k.val = true ∧ (s.pair k).active = true ∧ (s.pair k).session = none) then some id
      else (s.pair k).session

/-- DETACH (R377) of a session that its caller may detach: its items and operations are cancelled, and the DETACH ends once the
session's work is final and recorded. -/
def Claim.DetachEndsWithItsSessionsWork : Prop :=
  ∀ (s : State) (src : Src) (c : Cmd), Accepted s 0x02 src (fun _ => [(64, 16, anyVal)]) c →
    let w := BitVec.ofNat 16 (c.f 64 16)
    let id := if w = 0xFFFF then c.session else w
    (s.session id).isSome = true → (id = c.session ∨ c.op = true) →
    exec (.detach src) s = .next (State.tryDetach (State.cancelSession
      (((s.ok).begin c).updEci fun e => { e with detaching := e.detaching ++ [(c.ref, id)] }) id))

/-- A session that ends (R377, orders 3 to 6) leaves no session of its number, no region of its own and no pair bound to it. -/
def Claim.DroppedSessionsLeaveNothing : Prop :=
  ∀ (s : State) (id : BitVec 16), (s.session id).isSome = true →
    (s.dropSession id).session id = none ∧ (∀ q, ((s.dropSession id).pair q).session ≠ some id) ∧
    (∀ r ∈ (s.dropSession id).eci.regions, r.session ≠ id) ∧
    ∀ i, i ≠ id → (s.dropSession id).session i = s.session i

/-- ATTACH creates a session, DETACH ends it with its work. Complete here: attach, detach. -/
def Obligations.SessionsBeginAndEnd : Prop :=
  Claim.AttachCreatesASession ∧ Claim.DetachEndsWithItsSessionsWork ∧ Claim.DroppedSessionsLeaveNothing

/-- REATTACH (R376) of a lost session with its token: the session is no longer lost, counts its interval from now and is bound to the
pair that submitted, which is stopped no longer; no other session changes. -/
def Claim.ReattachRevivesALostSession : Prop :=
  ∀ (s : State) (q : Fin 64) (c : Cmd) (x : Session),
    Accepted s 0x03 (.pair q) (fun _ => [(64, 16, anyVal), (128, 64, anyVal), (192, 64, anyVal)]) c → c.src = .pair q →
    s.session (BitVec.ofNat 16 (c.f 64 16)) = some x → x.lost = true → (s.pair q).session = none →
    (∀ t, s.eci.reattachLockUntil = some t → t ≤ s.now) → c.f 128 64 = x.token.toNat →
    ∃ t y, exec (.reattach (.pair q)) s = .next t ∧ t.session x.id = some y ∧
      y = { x with lost := false, lastBeat := s.now, onPkg := ((s.pair q).onPkg).getD x.onPkg, journal := [] } ∧
      (t.pair q).session = some x.id ∧ (t.pair q).stopped = false ∧ ∀ i, i ≠ x.id → t.session i = s.session i

/-- A REATTACH with a wrong token is refused and counted (R376): the eighth within 60 s starts a lock of 60 s, and REATTACH_LOCK_END
ends the lock once its time has come. -/
def Claim.WrongTokensLockReattach : Prop :=
  (∀ (s : State) (q : Fin 64) (c : Cmd) (x : Session),
    Accepted s 0x03 (.pair q) (fun _ => [(64, 16, anyVal), (128, 64, anyVal), (192, 64, anyVal)]) c → c.src = .pair q →
    s.session (BitVec.ofNat 16 (c.f 64 16)) = some x → x.lost = true → (s.pair q).session = none →
    (∀ t, s.eci.reattachLockUntil = some t → t ≤ s.now) → c.f 128 64 ≠ x.token.toNat →
    exec (.reattach (.pair q)) s = .next (State.refuse (State.badToken s.ok) c .badToken 0)) ∧
  (∀ s : State,
    let recent := s.eci.badTokens.filter fun t => decide (s.now < t + 60000000000)
    (recent.length < 7 → s.badToken = { s with eci := { s.eci with badTokens := recent ++ [s.now] } }) ∧
    (7 ≤ recent.length →
      s.badToken = { s with eci := { s.eci with badTokens := [], reattachLockUntil := some (s.now + 60000000000) } })) ∧
  (∀ (s : State) (t : Nat), s.eci.reattachLockUntil = some t → t ≤ s.now →
    exec .reattachLockEnd s = .next { s with out := .done, eci := { s.eci with reattachLockUntil := none } })

/-- A session whose interval has run out (R375) is lost: its pairs move to their shadow queues, its host-bound requests fail, and the
loss is logged with cause 4. -/
def Claim.LapsedSessionsAreLost : Prop :=
  ∀ (s : State) (i : BitVec 16) (x : Session), s.session i = some x → s.eci.devState ≠ .uninit →
    x.beatMs ≠ 0 → x.lost = false → x.lastBeat + 1000000 * x.beatMs < s.now →
    exec (.sessionBeatLapse i) s = .next (State.loseHost s.ok (fun y => y.id == i) (fun e => e.session == i) 4 i.toNat)

/-- REATTACH, its lock, and sessions that lapse. Complete here: reattach, reattachLockEnd, sessionBeatLapse. -/
def Obligations.LostSessionsReattach : Prop :=
  Claim.ReattachRevivesALostSession ∧ Claim.WrongTokensLockReattach ∧ Claim.LapsedSessionsAreLost

/-! ## Roles, policies, the cap -/

/-- ROLE_SET, POLICY_SET and POWER_CAP_SET: the role, the policy's value with its previous value in the record (R371), and the cap that
the next period takes, the record giving the cap in force (R389); a cap outside 800 to 3600 W is refused. -/
def Claim.OperatorSettings : Prop :=
  ∀ (s : State) (src : Src) (c : Cmd),
    (Accepted s 0x18 src (fun _ => [(64, 3, inVals 0 3)]) c → s.eci.ops = [] →
      exec (.roleSet src) s =
        .next (State.done { s with out := .done, eci := { s.eci with role := Role.ofCode (c.f 64 3) } } c 0 0)) ∧
    (∀ k, Accepted s 0x19 src policyFields c → policyKey (c.f 64 16) = some k → (k.op = true → c.op = true) →
      (k.op = false → ∃ m, s.model (BitVec.ofNat 32 (c.f 96 32)) = some m ∧ (c.all = true ∨ m.tenant = c.tenant)) →
      s.policyOk k (BitVec.ofNat 32 (c.f 96 32)) (c.f 128 64) = true →
      let r := State.policySet s.ok k (BitVec.ofNat 32 (c.f 96 32)) (c.f 128 64) (leBytes (c.f 192 256) 32)
      exec (.policySet src) s = .next (r.2.done c 0 (res [(192, r.1)]))) ∧
    (Accepted s 0x1A src (fun _ => [(64, 12, anyVal)]) c →
      (capLegal (c.f 64 12) → exec (.powerCapSet src) s =
        .next (State.done { s with out := .done, pwr := { s.pwr with capWanted := some (c.f 64 12) } } c 0 (res [(192, s.pwr.cap)]))) ∧
      (¬ capLegal (c.f 64 12) → exec (.powerCapSet src) s = .next ((s.ok).refuse c .capRange 0)))

/-- The previous VALUE that POLICY_SET reports is the VALUE of the POLICY_SET before it (R371, Table 14.8), for every key but MODEL_KEY
and for every VALUE in the key's range. -/
def Claim.PolicyValuesReadBack : Prop :=
  ∀ (s : State) (k : PolicyKey) (t : BitVec 32) (v w : Nat) (d d' : List Byte), k ≠ .modelKey → s.policyOk k t v = true →
    (k.op = false → (s.model t).isSome = true) → ((s.policySet k t v d).2.policySet k t w d').1 = v

/-- ROLE_SET, POLICY_SET and POWER_CAP_SET. Complete here: roleSet, policySet, powerCapSet. -/
def Obligations.SettingCommandsTakeEffect : Prop :=
  Claim.OperatorSettings ∧ Claim.PolicyValuesReadBack

/-! ## Regions and sequences -/

/-- REGION_REGISTER (R334): an admissible range becomes a region under the lowest free handle, with the flags, requesters and modules of
the entry; an inadmissible one is refused. REGION_RELEASE: a region of the caller's tenant that no open item names is gone; one that
is named is refused with REGION_BUSY. -/
def Claim.RegionsComeAndGo : Prop :=
  ∀ (s : State) (src : Src) (c : Cmd),
    (Accepted s 0x20 src (fun _ => regionFields) c →
      (s.regionOk c.tenant (c.f 64 48) (c.f 128 32) = false →
        exec (.regionRegister src) s = .next ((s.ok).refuse c .regionInvalid 0)) ∧
      ∀ h, s.regionOk c.tenant (c.f 64 48) (c.f 128 32) = true →
        firstNat (fun h => !s.eci.regions.any (·.handle == BitVec.ofNat 16 h)) 1 65535 = some h →
        let r : Region := {
          handle := BitVec.ofNat 16 h, base := c.f 64 48, pages := c.f 128 32
          host := bitAt (c.f 160 6) 0, adapter := bitAt (c.f 160 6) 1, peer := bitAt (c.f 160 6) 2
          write := bitAt (c.f 160 6) 3, snoop := bitAt (c.f 160 6) 4, gen := bitAt (c.f 160 6) 5
          requesters := ((List.range 8).map fun i => BitVec.ofNat 16 (c.f (192 + 16 * i) 16)).filter (· != 0)
          modules := (List.range 256).filter (bitAt (c.f 320 256)), session := c.session }
        exec (.regionRegister src) s =
          .next (State.done { s with out := .done, eci := { s.eci with regions := s.eci.regions ++ [r] } } c h 0)) ∧
    (∀ r, Accepted s 0x21 src (fun _ => [(64, 16, anyVal)]) c → s.regionFor c (c.f 64 16) = some r →
      ((∀ i ∈ s.openItems, c.f 64 16 ∉ i.handles) →
        exec (.regionRelease src) s = .next (State.done (State.unpattern { s with
            out := .done
            eci := { s.eci with regions := s.eci.regions.filter fun x => x.handle != r.handle } } [c.f 64 16]) c 0 0)) ∧
      ((∃ i ∈ s.openItems, c.f 64 16 ∈ i.handles) →
        exec (.regionRelease src) s = .next ((s.ok).refuse c .regionBusy 0)))

/-- SEQ_OPEN (R182, R207, R209): a sequence of the model under its lowest free handle starts with the directory entries that the walk of
the prompt's blocks meets, one reference on each, once no insertion of a step's prefixes is under way; SEQ_CLOSE: the sequence is
closed. -/
def Claim.SequencesOpenAndClose : Prop :=
  ∀ (s : State) (src : Src) (c : Cmd) (m : Model),
    (∀ h, Accepted s 0x28 src (fun _ => [(64, 32, anyVal), (96, 64, anyVal), (160, 32, anyVal)]) c →
      s.eci.role ≠ some .cache → s.modelFor c (BitVec.ofNat 32 (c.f 64 32)) = some m → s.readable (c.f 96 64) = true →
      (∀ k ∈ s.srv.chains, k.model = m.id → k.inserting = []) → s.newHandle m = some h →
      let k := (c.f 160 32 - 1) / 64
      let hits := s.dirWalk m.id c.tenant none (s.rootHash m c.tenant) (cutBlocks k (s.tokens (c.f 96 64) (64 * k)))
      let q : Seq := { model := m.id, handle := h, tenant := c.tenant, session := c.session, n := 64 * hits.length,
                       table := hits.map (·.sub), shared := hits.map (·.id) }
      let u := (State.shareEntries s.ok (hits.map (·.id))).updSrv fun v => { v with seqs := v.seqs ++ [q] }
      exec (.seqOpen src) s = .next ((u.writeTable m q).done c h (res [(192, 64 * hits.length), (224, hits.length)]))) ∧
    (Accepted s 0x29 src (fun _ => [(64, 32, anyVal), (96, 16, anyVal)]) c →
      s.modelFor c (BitVec.ofNat 32 (c.f 64 32)) = some m → (s.seqFor c (BitVec.ofNat 32 (c.f 64 32)) (c.f 96 16)).isSome = true →
      exec (.seqClose src) s =
        .next ((State.closeSeq s.ok (BitVec.ofNat 32 (c.f 64 32)) (c.f 96 16)).done c 0 0))

/-- REGION_REGISTER, REGION_RELEASE, SEQ_OPEN and SEQ_CLOSE. Complete here: regionRegister, regionRelease, seqOpen, seqClose. -/
def Obligations.RegionsAndSequencesComeAndGo : Prop :=
  Claim.RegionsComeAndGo ∧ Claim.SequencesOpenAndClose

/-! ## SUSPEND, RESUME, CANCEL -/

/-- SUSPEND and RESUME (R380, R382): of the module, DRAINING until work has ended, and back to the state before; of a long operation, at
its next safe point, and on from there. -/
def Claim.SuspendAndResume : Prop :=
  ∀ (s : State) (src : Src) (c : Cmd) (o : LongOp),
    (Accepted s 0x38 src (fun _ => [targetField fun k => k == 0 || k == 3]) c →
      (c.f 64 64 >>> 62 = 3 → c.op = true → (s.eci.devState = .ready ∨ s.eci.devState = .serving ∨ s.eci.devState = .degraded) →
        exec (.suspend src) s = .next (State.tryDrain (((s.ok).begin c).updEci fun e => { e with
          devState := .draining, stateBefore := e.devState, drainWhy := some (.suspend, c.ref)
          ops := updWhere e.ops (·.st == .running) fun o => { o with st := .suspending, byModule := true } }))) ∧
      (c.f 64 64 >>> 62 ≠ 3 → s.opFor c (c.f 64 64 % 2 ^ 32) = .live o →
        (o.st = .running → exec (.suspend src) s = .next (((s.ok).begin c).updOp o.handle fun x =>
          { x with st := .suspending, suspenders := x.suspenders ++ [c.ref] })) ∧
        (o.st = .suspended → exec (.suspend src) s = .next ((s.ok).done c 0 0)))) ∧
    (Accepted s 0x39 src (fun _ => [targetField fun k => k == 0 || k == 3]) c →
      (c.f 64 64 >>> 62 = 3 → c.op = true → s.eci.devState = .suspended →
        let mine (x : LongOp) : Bool := x.byModule && x.st == .suspended
        exec (.resume src) s = .next (State.done ((s.eci.ops.filter mine).foldl (fun u x => u.tellHeld x false)
          ((State.setDev s.ok s.resumeState).updEci fun e => { e with
            ops := updWhere e.ops mine fun x => { x with st := .running, byModule := false } })) c 0 0)) ∧
      (c.f 64 64 >>> 62 ≠ 3 → s.opFor c (c.f 64 64 % 2 ^ 32) = .live o → o.st = .suspended →
        exec (.resume src) s = .next (State.done (State.tellHeld (State.updOp s.ok o.handle fun x =>
          { x with st := .running, byModule := false }) o false) c 0 0)))

/-- CANCEL (R382, R386): of a running operation, which ends at its next safe point; of an item of a pair by its identifier; of every
item of a chain that the caller's session submitted. A target that is final answers ALREADY_FINAL. -/
def Claim.CancelEndsItsTarget : Prop :=
  ∀ (s : State) (src : Src) (c : Cmd) (o : LongOp), Accepted s 0x3A src (fun _ => [targetField fun k => k != 3]) c →
    (c.f 64 64 >>> 62 = 0 → s.opFor c (c.f 64 64 % 2 ^ 32) = .live o → o.st ≠ .suspended →
      exec (.cancel src) s = .next (((s.ok).begin c).updOp o.handle fun x =>
        { x with st := .ending, cancellers := x.cancellers ++ [c.ref] })) ∧
    (c.f 64 64 >>> 62 = 0 → s.opFor c (c.f 64 64 % 2 ^ 32) = .final →
      exec (.cancel src) s = .next ((s.ok).endCmd c .alreadyFinal 0 0 0)) ∧
    (c.f 64 64 >>> 62 = 1 →
      let hit (i : Item) : Bool := i.ref.src == .pair ⟨c.f 64 64 / 65536 % 64, Nat.mod_lt _ (by decide)⟩
        && i.ref.cid == BitVec.ofNat 16 (c.f 64 64 % 65536) && (c.all || i.tenant == c.tenant)
      (s.openItems.any hit = true →
        exec (.cancel src) s = .next (State.settle (State.done (State.cancelWhere s.ok fun _ i => hit i) c 0 0))) ∧
      (s.openItems.any hit = false → exec (.cancel src) s = .next ((s.ok).endCmd c .alreadyFinal 0 0 0))) ∧
    (c.f 64 64 >>> 62 = 2 → (s.modelFor c (BitVec.ofNat 32 (c.f 64 64 / 65536 % 2 ^ 32))).isSome = true →
      exec (.cancel src) s = .next (State.settle (State.done (State.cancelWhere s.ok fun ch i =>
        ch.model == BitVec.ofNat 32 (c.f 64 64 / 65536 % 2 ^ 32) && ch.chain.val == c.f 64 64 % 16
          && (c.all || i.ref.session == c.session)) c 0 0)))

/-- SUSPEND, RESUME and CANCEL. Complete here: suspend, resume, cancel. -/
def Obligations.SuspendResumeAndCancel : Prop :=
  Claim.SuspendAndResume ∧ Claim.CancelEndsItsTarget

/-! ## Models, steps submitted, transfers, long operations -/

/-- A long operation that begins (R365, R381): the next handle, one operation more, an accepted record with the handle; refused with
LONG_OP_LIMIT where sixteen run. -/
def Claim.LongOperationsBegin : Prop :=
  ∀ (s : State) (c : Cmd) (k : LongKind) (m : BitVec 32) (total : Nat) (f : Nat → State → State),
    (s.eci.ops.length < 16 →
      ∃ u, s.startOp c k m total f = f s.eci.nextHandle u ∧
        u.eci.ops = s.eci.ops ++ [{ handle := s.eci.nextHandle, kind := k, ref := c.ref, tenant := c.tenant, model := m, entry := c.e, total := total }] ∧
        u.eci.nextHandle = s.eci.nextHandle + 1 ∧
        RecordOnly { s with eci := { s.eci with ops := u.eci.ops, nextHandle := u.eci.nextHandle } } u) ∧
    (16 ≤ s.eci.ops.length → s.startOp c k m total f = s.refuse c .longOpLimit 0)

/-- The commands of long operations begin one: MODEL_LOAD (R140), MODEL_INSTALL (R262), KV_EXPORT and KV_IMPORT of a route that exists
(R211), FW_STAGE (R422) and SCRUB (R265). -/
def Claim.LongCommandsBeginTheirOperation : Prop :=
  ∀ (s : State) (src : Src) (c : Cmd),
    (Accepted s 0x10 src (fun _ => modelLoadFields) c → s.readable (c.f 64 48) = true → s.readable (c.f 128 48) = true →
      let id := BitVec.ofNat 32 (s.word (c.f 64 48 + 8) 4)
      s.modelUsed id = false →
      exec (.modelLoad src) s = .next (State.startOp s.ok c .modelLoad id
        (max 1 (findSection (sectionsOf (s.bytes (c.f 128 48) 576)) 9).entries) fun _ t => t.rekey)) ∧
    (Accepted s 0x11 src (fun _ => modelInstallFields) c → s.readable (c.f 64 48) = true →
      let mr := s.manifestAt (c.f 64 48)
      exec (.modelInstall src) s = .next (State.startOp s.ok c .modelInstall mr.m.modelId
        ((installed mr.m (c.f 192 32) (c.f 224 32)).foldl (fun n o => n + o.1.frames) 0)
        fun h t => t.updTiers fun x => { x with writing := x.writing ++ [(h, 0)] })) ∧
    (∀ m p q, Accepted s 0x30 src (fun _ => kvExportFields) c → s.eci.role ≠ some .cache →
      let id := BitVec.ofNat 32 (c.f 64 32)
      let h := c.f 96 16
      s.modelFor c id = some m → m.plan = some p → s.seqFor c id h = some q → c.f 128 32 ≤ c.f 160 32 →
      (c.f 120 1 = 1 → s.streamItem c id h = true) → (routePort (s.route (BitVec.ofNat 8 (c.f 112 8)))).isSome = true →
      exec (.kvExport src) s = .next (State.startOp s.ok c .kvExport id (c.f 160 32 + 1 - c.f 128 32) fun op u =>
        let t : Transfer := { op := op, isExport := true, tag := BitVec.ofNat 32 (c.f 192 32), peer := BitVec.ofNat 8 (c.f 112 8)
                              model := id, seq := h, stream := c.f 120 1 == 1, b0 := c.f 128 32, b1 := c.f 160 32, known := true }
        let u1 := u.updSrv fun v => { v with transfers := v.transfers ++ [t] }
        u1.sendNow (kvxReady u1 t p true))) ∧
    (∀ m p k, Accepted s 0x31 src (fun _ => [(64, 32, anyVal), (96, 16, anyVal), (112, 8, anyVal), (128, 32, anyVal)]) c →
      s.eci.role ≠ some .cache →
      let id := BitVec.ofNat 32 (c.f 64 32)
      let peer := BitVec.ofNat 8 (c.f 112 8)
      let tag := BitVec.ofNat 32 (c.f 128 32)
      s.modelFor c id = some m → m.plan = some p →
      (c.f 96 16 = 0xFFFF ∧ s.newHandle m = some k ∨ c.f 96 16 ≠ 0xFFFF ∧ c.f 96 16 = k ∧ (s.seqFor c id k).isSome = true) →
      (s.seqOf id k).any (·.importing) = false → (routePort (s.route peer)).isSome = true →
      exec (.kvImport src) s = .next (State.startOp s.ok c .kvImport id 0 fun op u =>
        let u1 := if c.f 96 16 = 0xFFFF then u.updSrv fun v => { v with
            seqs := v.seqs ++ [{ model := id, handle := k, tenant := c.tenant, session := c.session, importing := true }] }
          else u.updSeq id k fun x => { x with importing := true }
        let u2 := u1.updSrv fun v => { v with
          transfers := v.transfers ++ [{ op := op, isExport := false, tag := tag, peer := peer, model := id, seq := k
                                         newSeq := c.f 96 16 == 0xFFFF }] }
        match u2.srv.heard.find? (fun x => x.tag == tag && x.peer == peer) with
        | some x => (u2.updSrv fun v => { v with heard := dropFirst v.heard (· == x) }).learnExport op x
        | none => u2)) ∧
    (Accepted s 0x49 src fwStageFields c →
      let img := match c.src with
        | .mgmt => s.mgmtImage
        | _ => []
      exec (.fwStage src) s = .next (State.startOp s.ok c .fwStage 0 (cdiv (c.f 128 32) 0x10000) fun _ t =>
        t.updBoot fun b => { b with staged := none, slots := upd b.slots b.other fun _ => { image := img.take (c.f 128 32) } })) ∧
    (Accepted s 0x4C src (fun _ => [(64, 2, inVals 0 1)]) c →
      exec (.scrub src) s = .next (State.startOp s.ok c .scrub 0 (if c.f 64 2 = 0 then s.flashBlocks.length else s.patrolUnits) fun _ t => t))

/-- An operation that ends (R367, R382) is no longer in flight, and its handle names a final operation from then on. -/
def Claim.EndedOperationsAreFinal : Prop :=
  ∀ (s : State) (o : LongOp) (st : Status) (detail result : Nat), 0 < o.handle → o.handle < s.eci.nextHandle →
    (s.endOp o st detail result).op o.handle = none ∧ (s.endOp o st detail result).eci.nextHandle = s.eci.nextHandle ∧
    ∀ c, c.all = true → (s.endOp o st detail result).opFor c o.handle = .final

/-- A safe point (R381, R382) of a load, a staging or a scrub that has one ahead does the part before it (a scrub reads the next block,
or the next 2^20 lines) and counts one more passed; there a running operation goes on, one that a SUSPEND waits for is suspended,
and one that a CANCEL waits for ends CANCELLED. -/
def Claim.SafePointsSuspendAndCancel : Prop :=
  ∀ (s : State) (o : LongOp), s.op o.handle = some o → o.passed < o.total →
    (o.kind = .modelLoad ∨ o.kind = .fwStage ∨ o.kind = .scrub) →
    let x : LongOp := { o with passed := o.passed + 1 }
    let u := (State.opWork s.ok o).updOp o.handle fun y => { y with passed := min y.total (y.passed + 1) }
    u.op o.handle = some x ∧
    (o.st = .running → exec (.longOpSafePoint o.handle) s = .next u) ∧
    (o.st = .suspending → exec (.longOpSafePoint o.handle) s = .next (u.suspendOp x)) ∧
    (o.st = .ending → exec (.longOpSafePoint o.handle) s = .next (u.failOp x .cancelled 0 0))

/-- Long operations begin, meet safe points and end once. Complete here: modelLoad, modelInstall, kvExport, kvImport, fwStage, scrub,
longOpSafePoint. -/
def Obligations.LongOperationsRunToTheirEnd : Prop :=
  Claim.LongOperationsBegin ∧ Claim.LongCommandsBeginTheirOperation ∧ Claim.EndedOperationsAreFinal ∧ Claim.SafePointsSuspendAndCancel

/-- MODEL_LOAD_COMPLETE (R140, R372): where the manifest and the image pass every check and the units and pinned frames can be had, the
model is in force and the operation ends DONE, if the tenant's key signs the manifest and the digest of the image is the manifest's;
else it ends with MANIFEST_INVALID. -/
def Claim.CheckedModelsLoad : Prop :=
  ∀ (s : State) (op : Nat) (o : LongOp) (bs : List Binding) (frames : List Nat) (u : State),
    s.endable op .modelLoad = some o → s.readable (fld o.entry 64 48) = true → s.readable (fld o.entry 128 48) = true →
    let mr := s.manifestAt (fld o.entry 64 48)
    let raw := s.bytes (fld o.entry 128 48) (fld o.entry 192 32)
    let img := imageOf raw
    mr.ok = true → objectsApart mr.m = true → mr.m.arenaVa ≠ 0 →
    s.loadDetail { mixed := s.eci.role == some .mixed, arenaVa := mr.m.arenaVa, arenaBytes := arenaBytes mr.m img.expert } mr.m raw
      (fld o.entry 192 32) = none →
    manifestFits mr.m img.expert = true → s.bindImage img s.unitIn s.heldAreas = some bs →
    s.poolUse o.tenant + img.pinNeed mr.m ≤ s.ceilingOf o.tenant → img.pinNeed mr.m ≤ s.tiers.poolSize →
    State.takePinned s.ok o.tenant mr.m.modelId (img.pinWishes mr.m bs) = (some frames, u) →
    exec (.modelLoadComplete op) s = .next (
      if s.signed o.tenant mr = true ∧ mr.imageDigest = Config.sha512 raw then u.placeModel o mr.m img bs frames
      else State.failOp s.ok o .manifestInvalid 0 0)

/-- A model in force (R22, R140, R380): it stands in the list with its tenant, its image and its bindings, and READY has become SERVING. -/
def Claim.PlacedModelsServe : Prop :=
  ∀ (s : State) (o : LongOp) (mf : Manifest) (img : Image) (bs : List Binding) (frames : List Nat), s.model mf.modelId = none →
    s.eci.detaching = [] →
    (∃ m, (s.placeModel o mf img bs frames).model mf.modelId = some m ∧ m.tenant = o.tenant ∧ m.image = img ∧ m.manifest = mf) ∧
    (s.eci.devState = .ready → (s.placeModel o mf img bs frames).eci.devState = .serving) ∧
    (s.placeModel o mf img bs frames).op o.handle = none

/-- MODEL_EVICT (R21, R135, R380): a model of the caller's tenant that no item and no operation holds is unloaded: it, its chains,
sequences, key-value block sets and directory entries are gone, and with the last model SERVING becomes READY; a busy one is
refused. -/
def Claim.EvictedModelsAreGone : Prop :=
  (∀ (s : State) (src : Src) (c : Cmd), Accepted s 0x12 src (fun _ => [(64, 32, anyVal)]) c →
    (s.modelFor c (BitVec.ofNat 32 (c.f 64 32))).isSome = true →
    (s.modelBusy (BitVec.ofNat 32 (c.f 64 32)) = false → exec (.modelEvict src) s =
      .next (State.settle (State.done (State.evictModel s.ok (BitVec.ofNat 32 (c.f 64 32))) c 0 0))) ∧
    (s.modelBusy (BitVec.ofNat 32 (c.f 64 32)) = true → exec (.modelEvict src) s = .next ((s.ok).refuse c .modelBusy 0))) ∧
  ∀ (s : State) (m : BitVec 32), let t := s.evictModel m
    t.model m = none ∧ (∀ x ∈ t.srv.chains, x.model ≠ m) ∧ (∀ x ∈ t.srv.seqs, x.model ≠ m) ∧ (∀ x ∈ t.srv.blocks, x.model ≠ m) ∧
    (∀ x ∈ t.srv.dir, x.model ≠ m) ∧ (∀ x ∈ t.tiers.frames, x.model ≠ m) ∧ (∀ k, k ≠ m → t.model k = s.model k) ∧
    (t.srv.models = [] → s.eci.devState = .serving → t.eci.devState = .ready)

/-- MODEL_LOAD completes with a checked model; MODEL_EVICT takes it away. Complete here: modelLoadComplete, modelEvict. -/
def Obligations.ModelsLoadAndGo : Prop :=
  Claim.CheckedModelsLoad ∧ Claim.PlacedModelsServe ∧ Claim.EvictedModelsAreGone

/-- MODEL_INSTALL_COMPLETE (R262, R263): where the manifest is in order and the space suffices, the objects stand in flash and the
operation ends DONE with the frames written, if the manifest is signed and the data match their digests (an uninterpreted standard,
log 13), else with MANIFEST_INVALID; of a loaded model, whose manifest has the same digests for them, the copies wait for
INSTALL_SWITCH. -/
def Claim.CheckedObjectsInstall : Prop :=
  ∀ (s : State) (op : Nat) (o : LongOp), s.endable op .modelInstall = some o →
    s.readable (fld o.entry 64 48) = true → s.readable (fld o.entry 128 48) = true →
    let mr := s.manifestAt (fld o.entry 64 48)
    let src := fld o.entry 128 48
    let l := installed mr.m (fld o.entry 192 32) (fld o.entry 224 32)
    let frames := l.foldl (fun n x => n + x.1.frames) 0
    mr.ok = true → objectsApart mr.m = true → mr.m.arenaVa ≠ 0 → fld o.entry 224 32 ≠ 0 →
    fld o.entry 192 32 + fld o.entry 224 32 ≤ mr.m.objects.length →
    (∀ m, s.model mr.m.modelId = some m → ∀ x ∈ l, (m.manifest.objects[x.2]?).map (·.digest) = some x.1.digest) →
    s.flashFrames + frames ≤ flashCapacity →
    let r := State.installObjects s.ok src s.tiers.flashUsed l
    let u := r.1.updTiers fun t => { t with flashUsed := t.flashUsed + frames, writing := t.writing.filter fun w => w.1 != o.handle }
    let v := if (s.model mr.m.modelId).isSome then u.updModel mr.m.modelId fun m => { m with switching := m.switching ++ r.2 }
      else (l.zip r.2).foldl (fun (u : State) (x : (WObject × Nat) × (Nat × Nat)) =>
        (u.nowInstalled mr.m.modelId x.1.2 x.1.1 x.2.2).renewObject mr.m.modelId x.1.2 false) u
    exec (.modelInstallComplete op) s = .next (
      if s.signed o.tenant mr = true ∧ s.dataOk src l = true then v.endOp o .done 0 (res [(192, frames)])
      else State.failOp s.ok o .manifestInvalid (if s.signed o.tenant mr then 1 else 0) 0)

/-- INSTALL_SWITCH (R263): at a step boundary of a loaded model, every copy that waits replaces the one in flash, and none waits any
more. -/
def Claim.InstalledCopiesSwitchAtABoundary : Prop :=
  ∀ (s : State) (m : Model), s.model m.id = some m → m.switching ≠ [] → s.modelRuns m.id = false →
    let u := m.switching.foldl (fun u x => match m.manifest.objects[x.1]? with
      | none => u
      | some o => (u.nowInstalled m.id x.1 o x.2).renewObject m.id x.1 true) s.ok
    exec (.installSwitch m.id) s = .next (u.updModel m.id fun x => { x with switching := [] }) ∧
    ((u.updModel m.id fun x => { x with switching := [] }).model m.id).map (·.switching) = some []

/-- MODEL_INSTALL, and the switch of installed copies at a step boundary. Complete here: modelInstallComplete, installSwitch. -/
def Obligations.ObjectsInstallAndSwitch : Prop :=
  Claim.CheckedObjectsInstall ∧ Claim.InstalledCopiesSwitchAtABoundary

/-- STEP_SUBMIT (R373): an item that its chain can take, in the order of the checks, enters its chain's gate (R165), its select table
written where a mask object governs it; one that fails a check ends at once with the first failure that applies. -/
def Claim.SubmittedItemsEnter : Prop :=
  ∀ (s : State) (src : Src) (c : Cmd) (m : Model) (ch : Fin 16) (f : Family), Accepted s 0x2A src (fun _ => submitFields) c →
    ch.val = c.f 96 4 → s.eci.role ≠ some .cache → s.modelFor c (BitVec.ofNat 32 (c.f 64 32)) = some m →
    m.image.familyOf ch = some f → ch.val < m.image.chains → c.f 112 11 + c.f 104 7 ≠ 0 →
    let p := m.image.attn.getD ch.val {}
    (c.f 128 16 = 0xFFFF ∧ p.attn = false ∨ c.f 128 16 ≠ 0xFFFF ∧ (s.seqFor c m.id (c.f 128 16)).isSome = true) →
    s.roleRuns f = true →
    (m.image.regionSlots.length ≤ 16 ∧ c.f 736 48 = 0 ∨ 16 < m.image.regionSlots.length ∧ s.readable (c.f 736 48) = true) →
    let i := s.entryItem c m.image
    let n := ((i.seq.bind (s.seqOf m.id)).map (·.n)).getD 0
    let v := s.itemMask p i n
    (i.maskOff = 0 ∨ ∀ r, s.itemRegion i p.maskSlot = some r → s.readable r.base = true) →
    (s.acceptFails m ch f i = none →
      let u := match p.attn, v.base with
        | true, some pa => (State.popEntry s.ok c.src).writeSelect v (pa + v.seloff)
        | _, _ => State.popEntry s.ok c.src
      exec (.stepSubmit src) s = .next ((u.updChain m.id ch fun x => x.enter f (s.gustLimit m.image) s.now i i.flush).nextBad c.src)) ∧
    ∀ st, s.acceptFails m ch f i = some st →
      exec (.stepSubmit src) s = .next (((State.popEntry s.ok c.src).failItem m.id i st 0 0xFFFF).nextBad c.src)

/-- The gate (R165, R166, R168): an item that enters stands last in the open gate or, where it fills or flushes it, last in the step
that closes; the items before it stand as they were. GUST_EXPIRE: an open gate whose timer has run out closes into a step. -/
def Claim.GatesFillAndClose : Prop :=
  (∀ (x : Chain) (f : Family) (limit now : Nat) (i : Item) (flush : Bool), let y := x.enter f limit now i flush
    (∃ l, (∃ g, y.gate = some g ∧ g.items = l ++ [i]) ∨ (y.gate = none ∧ ∃ k ks, y.closed = ks ++ [k] ∧ k.items = l ++ [i])) ∧
    (y.closed.flatMap (·.items)) ++ ((y.gate.map (·.items)).getD []) = (x.closed.flatMap (·.items)) ++ ((x.gate.map (·.items)).getD []) ++ [i] ∧
    y.run = x.run) ∧
  ∀ (s : State) (m : BitVec 32) (ch : Fin 16) (x : Chain) (g : Gate), s.chain m ch = some x → x.gate = some g →
    g.tOpen + 1000 * g.limitUs ≤ s.now →
    exec (.gustExpire m ch) s = .next (State.updChain s.ok m ch fun c => c.close .gust s.now)

/-- STEP_SUBMIT and the expiry of gusts. Complete here: stepSubmit, gustExpire. -/
def Obligations.ItemsEnterTheirGate : Prop :=
  Claim.SubmittedItemsEnter ∧ Claim.GatesFillAndClose

/-- KV_TRANSFER_COMPLETE (R212, R213): an export whose destination stands ready and takes data, and whose items have ended, completes;
an import ends once its reservation stands and the exporter has finished its bulk or its streamed data. -/
def Claim.TransfersComplete : Prop :=
  ∀ (s : State) (t : Transfer) (o : LongOp), s.transfer t.op = some t →
    (t.isExport = true → t.peerReady = true → t.peerHeld = false → s.endable t.op .kvExport = some o →
      (t.nx = none → ∀ c ∈ s.srv.chains, ∀ i ∈ c.items, s.exportsItem t i = false) →
      exec (.kvTransferComplete t.op) s = .next (State.finishExport (if t.stream = true ∧ t.nx = none then
        State.updTransfer s.ok t.op fun x => { x with nx := (s.seqOf t.model t.seq).map (·.n) } else s.ok) o t)) ∧
    (∀ nx, t.isExport = false → t.nx = some nx → t.reserved = true → (t.streamEnd = some 0 ∨ t.stream = true) →
      s.endable t.op .kvImport = some o →
      exec (.kvTransferComplete t.op) s = .next (State.finishImport s.ok o t nx))

/-- FW_STAGE_COMPLETE and FW_COMMIT (R419, R422, R423): an image that is whole and verifies, with a counter not below the fuses, is
staged in the slot that is not ACTIVE, which else is left invalid; a commit makes the staged slot ACTIVE on trial and drains the
module into UPDATING. SCRUB_COMPLETE (R265, R284): the blocks, or the lines in units of 2^20, that no safe point stood behind are
read, and the record counts all of them. -/
def Claim.FirmwareAndScrubComplete : Prop :=
  (∀ (s : State) (op : Nat) (o : LongOp), s.endable op .fwStage = some o → (o.ref.src = .mgmt ∨ s.readable (fld o.entry 64 48) = true) →
    let n := fld o.entry 128 32
    let img := match o.ref.src with
      | .mgmt => (pick s.boot.slots s.boot.other).image
      | _ => s.bytes (fld o.entry 64 48) n
    let bad := State.updBoot s.ok fun b => { b with staged := none, slots := upd b.slots b.other fun _ => {} }
    exec (.fwStageComplete op) s = .next (
      if img.length = n ∧ fwVerifies img = true then
        if s.boot.fuses.val ≤ (fwManifest img).svn then
          (State.updBoot s.ok fun b => { b with staged := some b.other, slots := upd b.slots b.other fun _ => fwSlot img }).endOp o .done 0 0
        else bad.failOp o .fwRollback 0 0
      else bad.failOp o .fwInvalid 0 0)) ∧
  (∀ (s : State) (src : Src) (c : Cmd) (f : Fin 2), Accepted s 0x4A src (fun _ => []) c → s.eci.ops = [] → s.boot.staged = some f →
    (s.eci.devState = .ready ∨ s.eci.devState = .serving ∨ s.eci.devState = .degraded) →
    let u := State.writeLifetime (State.updBoot s.ok fun b => { b with active := f, trial := true, staged := none })
    exec (.fwCommit src) s = .next (State.tryDrain ((u.begin c).updEci fun e =>
      { e with devState := .draining, stateBefore := e.devState, drainWhy := some (.fwCommit, c.ref) }))) ∧
  ∀ (s : State) (op : Nat) (o : LongOp), s.endable op .scrub = some o →
    let what := fld o.entry 64 2
    let n := if what = 0 then s.flashBlocks.length else s.patrolUnits
    exec (.scrubComplete op) s = .next (((List.range (n - o.passed)).foldl (fun u k => u.scrubPart what (o.passed + k)) s.ok).endOp o
      .done 0 (res [(192, n)]))

/-- Key-value transfers, firmware staging and commit, and scrubs complete. Complete here: kvTransferComplete, fwStageComplete, fwCommit,
scrubComplete. -/
def Obligations.TransfersFirmwareAndScrubComplete : Prop :=
  Claim.TransfersComplete ∧ Claim.FirmwareAndScrubComplete

/-! ## QUERY, COUNTERS_READ, LOG_READ, PAGE_RETIRE, RESET_SCOPE -/

/-- QUERY, COUNTERS_READ and LOG_READ (R370) of a subject that exists write the part of the output that OFFSET and LEN choose, and
answer its length, the bytes written and its first 96 bytes from OFFSET; LOG_READ of the events marks those returned as read. -/
def Obligations.ReadingCommandsAnswerTheirOutput : Prop :=
  ∀ (s : State) (src : Src) (c : Cmd) (out : List Byte), s.outReady c = true →
    (Accepted s 0x40 src (outputFields 8) c → s.subject c = .ok out →
      exec (.query src) s = .next ((State.writeOut s.ok c out).done c 0 (outResult c out))) ∧
    (Accepted s 0x41 src (fun c => (64, 8, anyVal) :: (72, 4, anyVal) :: (outputFields 8 c).drop 1) c → s.selection c = .ok out →
      exec (.countersRead src) s = .next ((State.writeOut s.ok c out).done c 0 (outResult c out))) ∧
    (Accepted s 0x42 src (outputFields 8) c → s.logSelection c = .ok out →
      let u := if c.f 64 8 = 0 then State.markReturned s.ok c else s.ok
      exec (.logRead src) s = .next ((u.writeOut c out).done c 0 (outResult c out)))

/-- PAGE_RETIRE (R286) of a populated page: retired, with the location in the lifetime record; a page retired before is DONE again with
no effect; without a spare page the command ends RETIRE_FULL. -/
def Claim.PagesRetire : Prop :=
  ∀ (s : State) (src : Src) (c : Cmd), Accepted s 0x48 src (fun _ => [(64, 48, anyVal)]) c → s.populated (c.f 64 48) = true →
    let page := c.f 64 48 / 4096
    ((assoc s.dram.retired page).isSome = true → exec (.pageRetire src) s = .next ((s.ok).done c 0 0)) ∧
    (assoc s.dram.retired page = none →
      (∀ u, State.retirePage s.ok page = some u → exec (.pageRetire src) s = .next (State.done (u.updLogs fun l => { l with
        life := { l.life with retirements := l.life.retirements ++ [(if isHbm (c.f 64 48) then 0 else 1, s.dramLoc (s.badLine page))] } }) c 0 0)) ∧
      (State.retirePage s.ok page = none → exec (.pageRetire src) s = .next ((s.ok).endCmd c .retireFull 0 0 0)))

/-- RESET_SCOPE (R23, R416) of a unit that no reset under way holds: the unit is reset, and the command waits for its self-test;
SELF_TEST_COMPLETE: the unit is back in service, or out of service with UNIT_OFFLINE, and the commands that waited get their
records. -/
def Claim.ScopesResetAndAreTested : Prop :=
  (∀ (s : State) (src : Src) (c : Cmd) (u : UnitRef), Accepted s 0x4B src (fun _ => [(64, 32, anyVal), (96, 1, anyVal)]) c →
    s.unitRef (BitVec.ofNat 32 (c.f 64 32)) = some u → u.kind ≠ 0x80 → (c.f 96 1 = 1 → u.kind = 5) →
    (∀ r ∈ s.logs.resets, ∀ v, s.unitRef r.unit = some v → u.within v = false) →
    exec (.resetScope src) s = .next (State.settle (State.resetUnit (((s.ok).begin c).updLogs fun l => { l with
      resets := l.resets ++ [{ unit := BitVec.ofNat 32 (c.f 64 32), cold := c.f 96 1 == 1, waiting := [c.ref], since := s.now }] })
      u (c.f 96 1 == 1)))) ∧
  ∀ (s : State) (r : UnitReset) (u : UnitRef), s.logs.resets.find? (fun r => (s.unitRef r.unit).any s.testable) = some r →
    s.unitRef r.unit = some u →
    exec (.selfTestComplete true) s =
      .next (((((u.tested.filter fun x => !s.pairGone x).foldl (fun v x => v.unitBack x) s.ok)).endReset r 0).tryHeal) ∧
    exec (.selfTestComplete false) s =
      .next (((u.tested.foldl (fun v x => v.failUnit x 1) s.ok).endReset r 1).settle)

/-- UNIT_FAILED (R417) of a unit in service takes it out of service; MODULE_FAILED (R329, R413, R415): event 0x0402, every item and
operation fails with MODULE_FAULT, the module is FAULTED and the port Viral. -/
def Claim.FailuresTakeUnitsOut : Prop :=
  (∀ (s : State) (u : FailedUnit) (cause : Fin 4), s.eci.devState ≠ .uninit → s.eci.devState ≠ .booting → s.inServiceNow u = true →
    exec (.unitFailed u cause) s = .next (State.settle (State.failUnit (match u with
      | .core c => State.failOffload s.ok c .unitOffline
      | .squall _ => s.ok) u cause.val))) ∧
  ∀ (s : State) (cause : Fin 3), s.eci.devState ≠ .uninit →
    ∃ t, exec (.moduleFailed cause) s = .next t ∧ t.eci.devState = .faulted ∧ t.cxl.viral = true ∧
      t = ((((s.ok).event 4 0x0402 s.moduleId 0 cause.val).failEverything .moduleFault).setDev .faulted).updCxl fun c => { c with viral := true }

/-- PAGE_RETIRE, RESET_SCOPE and its test, and failing units. Complete here: pageRetire, resetScope, selfTestComplete, unitFailed,
moduleFailed. -/
def Obligations.UnitsAndPagesLeaveService : Prop :=
  Claim.PagesRetire ∧ Claim.ScopesResetAndAreTested ∧ Claim.FailuresTakeUnitsOut

/-! ## Supply, resets, boot -/

/-- INPUT_LOSS and INPUT_OVERVOLTAGE (R390, R429): the module falls to UNINIT without power; sessions, models and DRAM contents are
gone, flash, firmware slots and fuses stay, and outside UNINIT and BOOTING a journal with cause 0 keeps sessions and unfinished
items. -/
def Claim.InputLossKeepsFlashAndJournal : Prop :=
  ∀ s : State, s.boot.supply.on = true →
    ∀ p ∈ [(Instr.inputLoss, Supply.lost), (.inputOvervoltage, .overvoltage)],
    ∃ t, exec p.1 s = .next t ∧ t.eci.devState = .uninit ∧ t.boot.supply = p.2 ∧ t.boot.lostAt = some s.now ∧ t.boot.pwrgood = false ∧
      t.eci.sessions = [] ∧ t.srv = {} ∧ t.mem = s.mem.filter (fun c => isHost c.1) ∧ t.tiers.flash = s.tiers.flash ∧
      t.tiers.installed = s.tiers.installed ∧ t.boot.slots = s.boot.slots ∧ t.boot.active = s.boot.active ∧ t.boot.fuses = s.boot.fuses ∧
      (s.eci.devState ≠ .uninit → s.eci.devState ≠ .booting → t.eci.journal = some (s.makeJournal 0))

/-- POWER_UP, INPUT_RESTORE, INPUT_LOW and INPUT_IN_RANGE (R390, R429, R433): power comes back with PWRGOOD high and a cold boot to
come; an input between 38 and 40 V is low until it is back in range; nothing else changes. -/
def Claim.SupplyComesBack : Prop :=
  ∀ s : State,
    let back : State := { s with
      out := .done
      boot := { s.boot with supply := .inRange, lostAt := none, pwrgood := true, cold := true, releasedAt := s.now, offSince := some s.now }
      pwr := { s.pwr with inputLow := false } }
    (s.boot.supply = .off ∨ s.boot.supply = .lost → exec .powerUp s = .next back) ∧
    (s.boot.supply = .overvoltage → exec .inputRestore s = .next back) ∧
    (s.boot.supply = .inRange → exec .inputLow s = .next { s with
      out := .done, boot := { s.boot with supply := .low }, pwr := { s.pwr with inputLow := true } }) ∧
    (s.boot.supply = .low → exec .inputInRange s = .next { s with
      out := .done, boot := { s.boot with supply := .inRange }, pwr := { s.pwr with inputLow := false } })

/-- RESET_N (R431, R433, R434): asserted for at least 10 us it takes the module to UNINIT, with a journal of cause 2 outside UNINIT and
BOOTING; at its deassertion the straps are sampled; 100 us later, with power good, BOOT_START begins a cold boot at stage 1. -/
def Claim.ResetPinTakesTheModuleDown : Prop :=
  (∀ (s : State) (us : Nat), s.boot.resetN = true → 10 ≤ us →
    ∃ t, exec (.resetNAssert us) s = .next t ∧ t.eci.devState = .uninit ∧ t.boot.resetN = false ∧ t.boot.stage = 0 ∧
      (s.eci.devState ≠ .uninit → s.eci.devState ≠ .booting → t.eci.journal = some (s.makeJournal 2))) ∧
  (∀ (s : State) (a : BitVec 3) (p : BitVec 2), s.boot.resetN = false →
    exec (.resetNDeassert a p) s = .next { s with
      out := .done, boot := { s.boot with resetN := true, strapAddr := a, strapCoh := p, releasedAt := s.now } }) ∧
  (∀ s : State, s.eci.devState = .uninit → s.boot.supply.on = true → s.boot.pwrgood = true → s.boot.resetN = true →
    s.boot.releasedAt + 100000 ≤ s.now → s.pwr.tripped = false →
    ∃ t, exec .bootStart s = .next t ∧ t.eci.devState = .booting ∧ t.boot.stage = 1 ∧ t.boot.cold = true ∧ t.boot.startedAt = s.now ∧
      t.boot.bootCount = s.boot.bootCount + 1 ∧ t.mem = s.mem ∧ t.tiers = s.tiers) ∧
  ∀ s : State, s.eci.devState = .updating →
    ∃ t, exec .bootStart s = .next t ∧ t.eci.devState = .booting ∧ t.boot.stage = 1 ∧ t.boot.cold = false ∧ t.pwr.cap = s.pwr.cap

/-- Input loss and return, and the reset pin. Complete here: inputLoss, inputOvervoltage, inputLow, inputRestore, powerUp, inputInRange,
resetNAssert, resetNDeassert, bootStart. -/
def Obligations.SupplyAndResetPins : Prop :=
  Claim.InputLossKeepsFlashAndJournal ∧ Claim.SupplyComesBack ∧ Claim.ResetPinTakesTheModuleDown

/-- Bring-up (R420, R436, Table 17.5): each stage ends in the next; stage 2 runs the ACTIVE slot, or the other one where ACTIVE does not
pass, or leaves the module FAULTED under the ROM; stage 3 excludes the pairs of failed stacks, or stops the boot on a failed
package; stages 4 and 5 zero HBM and, in a cold boot, LPDDR5X; stage 7 locks COH_ORDER_MODE. -/
def Claim.BringUpGoesStageByStage : Prop :=
  ∀ (s : State) (badStacks packages : List Nat) (units : List FailedUnit), s.eci.devState = .booting → s.boot.stopped = false →
    1 ≤ s.boot.stage → s.boot.stage ≤ 8 →
    ∃ t, exec (.bootStageComplete badStacks packages units) s = .next t ∧
      (s.boot.stage = 2 →
        (s.slotBoots s.boot.active = true → t.boot.stage = 3 ∧ t.boot.active = s.boot.active) ∧
        (s.slotBoots s.boot.active = false → s.slotBoots s.boot.other = true → t.boot.stage = 3 ∧ t.boot.active = s.boot.other ∧ t.boot.trial = false) ∧
        (s.slotBoots s.boot.active = false → s.slotBoots s.boot.other = false → t.eci.devState = .faulted ∧ t.boot.romFaulted = true)) ∧
      (s.boot.stage = 3 →
        (packages ≠ [] → t = { s with out := .done, boot := { s.boot with stopped := true } }) ∧
        (packages = [] → badStacks = [] → t.boot.stage = 4 ∧ t.dram.excluded = 0 ∧ t.tiers.poolSize = 784384)) ∧
      (s.boot.stage = 4 → t.boot.stage = (if s.boot.cold then 5 else 6) ∧ t.mem = s.mem.filter fun c => !isHbm c.1) ∧
      (s.boot.stage = 5 → t.boot.stage = 6 ∧ t.mem = s.mem.filter fun c => !isLpd c.1) ∧
      (s.boot.stage = 7 → t.coh.locked = true ∧ pick t.coh.orderMode 0 = profileMode s.boot.strapCoh.toNat) ∧
      (s.boot.stage = 1 ∨ 6 ≤ s.boot.stage → t.boot.stage = s.boot.stage + 1)

/-- BOOT_READY (R380, R420, R421): the module is READY with the heartbeat at 0 and TRIAL clear, and the fused counter has risen to the
image's where a trial image asks for it. -/
def Claim.BootReadyEndsTheTrial : Prop :=
  ∀ s : State, s.eci.devState = .booting → s.boot.stage = 9 → s.boot.bootFailures = [] →
    ∃ t, exec .bootReady s = .next t ∧ t.eci.devState = .ready ∧ t.eci.heartbeat = 0 ∧ t.eci.bootEndedAt = s.now ∧
      t.boot.trial = false ∧ t.boot.failed = 0 ∧
      t.boot.fuses.val =
        (let f := pick s.boot.slots s.boot.active
         if s.boot.trial = true ∧ f.advance = true ∧ s.boot.fuses.val < f.svn then min f.svn 128 else s.boot.fuses.val)

/-- BOOT_WATCHDOG (R420): a boot that has run for 10 s begins again; the second failure falls back to the other slot where it can boot;
after a fallback the module is FAULTED under the ROM. -/
def Claim.BootWatchdogFallsBack : Prop :=
  ∀ s : State, s.eci.devState = .booting → s.boot.startedAt + 10000000000 ≤ s.now →
    ∃ t, exec .bootWatchdog s = .next t ∧
      (s.boot.failed = 0 → t.eci.devState = .booting ∧ t.boot.stage = 1 ∧ t.boot.failed = 1 ∧ t.boot.startedAt = s.now ∧ t.boot.active = s.boot.active) ∧
      (1 ≤ s.boot.failed → s.boot.fellBack = false → s.slotBoots s.boot.other = true →
        t.eci.devState = .booting ∧ t.boot.stage = 1 ∧ t.boot.active = s.boot.other ∧ t.boot.fellBack = true ∧ t.boot.trial = false) ∧
      (1 ≤ s.boot.failed → s.boot.fellBack = true → t.eci.devState = .faulted ∧ t.boot.romFaulted = true)

/-- The heartbeat (R360, R414) rises by one each ms while the firmware runs; one that has stood for 100 ms takes the module to UNINIT
with a journal of cause 1; the lifetime record (R418) is written every 10 minutes to the older of its two copies. -/
def Claim.HeartbeatAndLifetimeRecord : Prop :=
  ∀ s : State,
    (s.firmwareRuns = true → s.eci.lastHeartbeat + 1000000 ≤ s.now →
      exec .heartbeatTick s = .next { s with
        out := .done, eci := { s.eci with heartbeat := s.eci.heartbeat + 1, lastHeartbeat := s.now } }) ∧
    (s.firmwareRuns = true → s.eci.lastHeartbeat + 100000000 ≤ s.now →
      ∃ t, exec .heartbeatWatchdog s = .next t ∧ t.eci.devState = .uninit ∧ t.eci.journal = some (s.makeJournal 1) ∧ t.boot.releasedAt = s.now) ∧
    (s.eci.devState ≠ .uninit → s.logs.life.lastWrite + 600000000000 ≤ s.now →
      exec .lifetimeRecordWrite s = .next { s with
        out := .done
        logs := { s.logs with life := { s.logs.life with
          copies := s.logs.life.copies.set s.logs.life.older.val s.logs.life.counts
          older := 1 - s.logs.life.older, writes := s.logs.life.writes + 1, lastWrite := s.now } } })

/-- Bring-up stage by stage, the trial image, watchdogs and the lifetime record. Complete here: bootStageComplete, bootReady,
bootWatchdog, heartbeatTick, heartbeatWatchdog, lifetimeRecordWrite. -/
def Obligations.BringUpAndItsWatchdogs : Prop :=
  Claim.BringUpGoesStageByStage ∧ Claim.BootReadyEndsTheTrial ∧ Claim.BootWatchdogFallsBack ∧ Claim.HeartbeatAndLifetimeRecord

/-! ## Power, droop, temperature, sleep -/

/-- PERIOD_BOUNDARY (R389, R391, R400): at each 10 us boundary a cap and a mode that wait take effect, and the estimates are formed;
only the power controller's state, counters and the lifetime record change. -/
def Claim.PeriodBoundaryTakesSettings : Prop :=
  ∀ (s : State) (cpu io : Nat), s.now % 10000 = 0 → s.pwr.lastPeriod ≠ some s.now → s.eci.devState ≠ .uninit → s.pwr.sleep.deep = false →
    ∃ t, exec (.periodBoundary cpu io) s = .next t ∧ t.pwr.cap = s.pwr.capWanted.getD s.pwr.cap ∧ t.pwr.capWanted = none ∧
      t.pwr.capModeDue = none ∧ t.pwr.capMode = s.pwr.capMode ∧
      (∀ v, s.pwr.capModeDue = some v → t.pwr.mode.toNat = v.toNat % 4 ∧ t.pwr.lullAfter.toNat = v.toNat / 256 % 256 ∧
        t.pwr.frostAfter.toNat = v.toNat / 65536 % 256 ∧ (v.getLsbD 4 = true → t.pwr.demands = [])) ∧
      (s.pwr.capModeDue = none → t.pwr.mode = s.pwr.mode ∧ t.pwr.demands = s.pwr.demands) ∧
      t.pwr.cpuEst = cpu ∧ t.pwr.ioEst = io ∧ t.pwr.lastPeriod = some s.now ∧
      t = { s with out := .done, pwr := t.pwr, ctrs := t.ctrs, logs := t.logs }

/-- POWER_WINDOW (R389, R392, R409): a 1 ms window adds its energy to INPUT_ENERGY_MJ, what is left over counting on; the excess over
the cap stands until the next window; more than 102% of the cap counts in CAP_EXCEED; correction factors stay within 0.5 to 2.0. -/
def Claim.PowerWindowCountsEnergy : Prop :=
  ∀ (s : State) (uj : Nat) (rails : List Nat), s.now % 1000000 = 0 → s.pwr.lastWindow ≠ some s.now → s.eci.devState ≠ .uninit →
    ∃ t, exec (.powerWindow uj rails) s = .next t ∧
      1000 * t.ctr .inputEnergyMj + t.pwr.energyPart = 1000 * s.ctr .inputEnergyMj + s.pwr.energyPart + uj ∧ t.pwr.energyPart < 1000 ∧
      t.pwr.excess = max 0 ((uj : Rat) / 1000 - s.pwr.cap) ∧ t.pwr.lastWindow = some s.now ∧
      t.ctr .capExceed = s.ctr .capExceed + (if 102000 * s.pwr.cap < 100 * uj then 1 else 0) ∧
      ((∀ f p, 1 / 2 ≤ pick (s.front f).factor p ∧ pick (s.front f).factor p ≤ 2) →
        ∀ f p, 1 / 2 ≤ pick (t.front f).factor p ∧ pick (t.front f).factor p ≤ 2) ∧
      t = { s with out := .done, pwr := t.pwr, ctrs := t.ctrs, logs := t.logs }

/-- DROOP_FIRE and DROOP_BURST_END (R396): a die's droop sensor fires, which counts, and its burst ends. -/
def Claim.DroopBurstsCount : Prop :=
  ∀ (s : State) (d : Fin 16),
    (s.eci.devState ≠ .uninit → ∃ t, exec (.droopFire d) s = .next t ∧ t.ctr .droopBurst = s.ctr .droopBurst + 1 ∧
      t = { s with out := .done, ctrs := t.ctrs, logs := t.logs, pwr := { s.pwr with droop := s.pwr.droop.set d.val true } }) ∧
    (pick s.pwr.droop d = true →
      exec (.droopBurstEnd d) s = .next { s with out := .done, pwr := { s.pwr with droop := s.pwr.droop.set d.val false } })

/-- TEMP_SAMPLE (R403), every 100 us of the time base: the readings of the 48 sensors are kept, and every throttle factor stays between
5 and 20 twentieths. THERMAL_TRIP (R404): a reading above 115 degrees makes the module FAULTED and Viral with its models gone, and
writes the lifetime record (R418); TRIP_RELEASE: with every sensor below 95 degrees the trip ends, and the boot that a module reset
asked for begins. -/
def Claim.TemperatureThrottlesAndTrips : Prop :=
  (∀ (s : State) (l : List Reading), s.boot.supply.on = true → s.now % 100000 = 0 → s.pwr.lastTemp ≠ some s.now →
    ∃ t, exec (.tempSample l) s = .next t ∧ t.pwr.temps = (s.readTemps l).pwr.temps ∧ t.pwr.lastTemp = some s.now ∧
      (∀ r : Reading, r.die < 48 → l = [r] →
        assoc t.pwr.temps r.die = some r.celsius ∧ ∀ d, d ≠ r.die → assoc t.pwr.temps d = assoc s.pwr.temps d) ∧
      ((∀ i, 5 ≤ (pick s.pwr.thermal i).val) → ∀ i, 5 ≤ (pick t.pwr.thermal i).val)) ∧
  (∀ (s : State) (die : Nat) (c : Int), 115 < c → die < 48 → s.boot.supply.on = true → s.pwr.tripped = false → s.eci.devState ≠ .uninit →
    ∃ t, exec (.thermalTrip die c) s = .next t ∧ t.pwr.tripped = true ∧ t.eci.devState = .faulted ∧ t.cxl.viral = true ∧ t.srv.models = [] ∧
      t.boot.stage = 0 ∧ assoc t.pwr.temps die = some c ∧ t.logs.life.writes = s.logs.life.writes + 1) ∧
  ∀ (s : State) (l : List Reading), s.pwr.tripped = true → (s.readTemps l).coolEnough = true →
    (s.eci.devState = .uninit → ∃ t, exec (.tripRelease l) s = .next t ∧ t.pwr.tripped = false ∧ t.eci.devState = .uninit) ∧
    (s.pwr.tripReset = true → s.eci.devState ≠ .uninit →
      ∃ t, exec (.tripRelease l) s = .next t ∧ t.pwr.tripped = false ∧ t.eci.devState = .booting ∧ t.boot.stage = 1)

/-- Power periods and windows, droop bursts, temperature. Complete here: periodBoundary, powerWindow, droopFire, droopBurstEnd,
tempSample, thermalTrip, tripRelease. -/
def Obligations.PowerAndTemperatureControl : Prop :=
  Claim.PeriodBoundaryTakesSettings ∧ Claim.PowerWindowCountsEnergy ∧ Claim.DroopBurstsCount ∧ Claim.TemperatureThrottlesAndTrips

/-- Sleep of a Front (R405 to R407): a quiet Front enters Calm, from Calm it enters Lull at a millisecond boundary after LULL_AFTER ms
or at once in the CACHE role, and it wakes where work or a reset concerns it; only its sleep state changes. -/
def Claim.FrontsSleepAndWake : Prop :=
  ∀ (s : State) (f : Fin 8), s.moduleAwake = true →
    let slept (x : FrontSleep) : State := { s with out := .done, pwr := { s.pwr with fronts := upd s.pwr.fronts f fun w => { w with sleep := x } } }
    ((s.front f).sleep = .awake → s.frontQuiet f = true → s.frontReset f = false → exec (.frontCalmEnter f) s = .next (slept (.calm s.now))) ∧
    (∀ t, (s.front f).sleep = .calm t → s.frontBound f = false → s.frontReset f = false →
      (s.cacheLull f = true ∨ (s.now % 1000000 = 0 ∧ s.pwr.lullAfter ≠ 0 ∧ t + 1000000 * s.pwr.lullAfter.toNat ≤ s.now)) →
      exec (.frontLullEnter f) s = .next (slept (.lull s.now))) ∧
    (s.frontBound f = true ∨ s.frontReset f = true →
      (∀ t, (s.front f).sleep = .calm t → exec (.frontWake f) s = .next (slept (.waking s.now false))) ∧
      (∀ t, (s.front f).sleep = .lull t → exec (.frontWake f) s = .next (slept (.waking s.now true))))

/-- Sleep of the module (R310, R406 to R408): where everything rests and the store buffers drain, it enters Lull with every core's
caches empty; after FROST_AFTER s of it, Frost, which drops chip memory; a wake event wakes it, and the wake ends awake. -/
def Claim.ModuleSleepsAndWakes : Prop :=
  (∀ s : State, s.lullReady = true → (∀ c, ((State.drainCores s.ok).core c).sb = []) →
    ∃ t, exec .moduleLullEnter s = .next t ∧ t.pwr.sleep = .lull s.now ∧ t.pwr.wakeOwed = false ∧
      ∀ c, (t.core c).l1i = {} ∧ (t.core c).l1d = {} ∧ (t.core c).l2 = {}) ∧
  (∀ (s : State) (t : Nat), s.pwr.sleep = .lull t → s.now % 1000000 = 0 → s.pwr.frostAfter ≠ 0 →
    t + 1000000 * (1000 * s.pwr.frostAfter.toNat) ≤ s.now →
    ∃ u, exec .frostEnter s = .next u ∧ u.pwr.sleep = .frost s.now ∧ u.mem = s.mem.filter fun c => !isChip c.1) ∧
  (∀ (s : State) (t : Nat), s.pwr.wakeOwed = true →
    (s.pwr.sleep = .lull t → ∃ u, exec .moduleWake s = .next u ∧ u.pwr.sleep = .waking s.now false ∧ u.pwr.wakeOwed = false ∧ u.ctr .wake = s.ctr .wake + 1) ∧
    (s.pwr.sleep = .frost t → ∃ u, exec .moduleWake s = .next u ∧ u.pwr.sleep = .waking s.now true ∧ u.pwr.wakeOwed = false ∧ u.ctr .wake = s.ctr .wake + 1)) ∧
  (∀ (s : State) (t : Nat) (deep : Bool), s.pwr.sleep = .waking t deep → ∃ u, exec .wakeComplete s = .next u ∧ u.pwr.sleep = .awake) ∧
  ∀ (s : State) (f : Fin 8) (t : Nat) (deep : Bool), s.pwr.sleep = .awake → (s.front f).sleep = .waking t deep →
    (∀ g : Fin 8, g < f → ∀ x d, (s.front g).sleep ≠ .waking x d) →
    ∃ u, exec .wakeComplete s = .next u ∧ (u.front f).sleep = .awake ∧ ∀ g, g ≠ f → u.front g = s.front g

/-- Sleep states of Fronts and of the module. Complete here: frontCalmEnter, frontLullEnter, frontWake, moduleLullEnter, frostEnter,
moduleWake, wakeComplete. -/
def Obligations.FrontsAndModuleSleepAndWake : Prop :=
  Claim.FrontsSleepAndWake ∧ Claim.ModuleSleepsAndWakes

/-! ## Server cores -/

/-- CORE_LOAD (R256, R285, R294, R295, R298, R309), of every form and page attribute: a load whose lines the core's caches hold,
unpoisoned, answers them under the stores of its own buffer, and faults where it meets one of them uncorrectable; a load of chip memory answers its bytes, zeros where a chunk carries a
mark, and one of non-cacheable DRAM its unmarked bytes; core windows answer as their debug port does, a peer's memory as the answers
to its reads. AMOs and load-reserved outside cacheable memory, loads of no memory and words that fail their parity fault. -/
def Claim.CoreLoadsAnswerTheirBytes : Prop :=
  ∀ (s : State) (c : Fin 64) (pa : BitVec 48) (size : Nat) (attr : PageAttr) (form : CoreForm) (p : Option BadWord),
    s.coreRuns c = true → 0 < size → size ≤ 64 →
    let a := pa.toNat
    let u := s.coreWorks c
    (∀ l, s.typeOf a size attr = .cacheable → s.cachedLoad c a size = some (l, false) →
      (∀ k, p = some (.cache k) → k.toNat ∉ linesOf a size) →
      ∃ t, exec (.coreLoad c pa size attr form p) s = .next t ∧ t.out = .data (forward (s.core c).sb a l) .none ∧
        t = { s with out := t.out, cores := t.cores } ∧ (∀ d, d ≠ c → t.core d = s.core d) ∧ (t.core c).sb = (s.core c).sb ∧
        (form = .lrsc → (t.core c).reserved = some (a / 64))) ∧
    (∀ l k, s.typeOf a size attr = .cacheable → s.cachedLoad c a size = some (l, false) → p = some (.cache k) → k.toNat ∈ linesOf a size →
      ∃ t, exec (.coreLoad c pa size attr form p) s = .next t ∧ t.out = .accessFault (loadCause form) a ∧
        t = { s with out := t.out, cores := t.cores } ∧ (∀ d, d ≠ c → t.core d = s.core d)) ∧
    (form = .plain ∨ form = .vector →
      (s.typeOf a size attr = .chip → s.coh.fresh = [] → badIn p a size = false → exec (.coreLoad c pa size attr form p) s = .next { u with
        out := .data (forward (s.core c).sb a ((List.range size).map fun i => if s.markAt (a + i) = .none then s.byteAt (a + i) else 0)) .none }) ∧
      (s.typeOf a size attr = .chip → badIn p a size = true →
        exec (.coreLoad c pa size attr form p) s = .next { u.reloadBad p with out := .accessFault 5 a }) ∧
      (s.typeOf a size attr = .nonCacheable → isHost a = false → p = none → s.coh.fresh = [] → (∀ i < size, s.markAt (a + i) = .none) →
        exec (.coreLoad c pa size attr form p) s = .next { u.dramRead 1 a size with
          out := .data (forward (s.core c).sb a ((List.range size).map fun i => s.byteAt (a + i))) .none }) ∧
      (s.typeOf a size attr = .window → exec (.coreLoad c pa size attr form p) s = .next (u.debugRead (.core c) a size p)) ∧
      (s.typeOf a size attr = .peer → exec (.coreLoad c pa size attr form p) s = .next (u.peerLoad c a size))) ∧
    (form = .amo ∨ form = .lrsc → (s.typeOf a size attr = .chip ∨ s.typeOf a size attr = .nonCacheable ∨ s.typeOf a size attr = .window ∨
        s.typeOf a size attr = .peer) →
      exec (.coreLoad c pa size attr form p) s = .next { u with out := .accessFault (loadCause form) a }) ∧
    (s.typeOf a size attr = .absent → exec (.coreLoad c pa size attr form p) s = .next { u with out := .accessFault (loadCause form) a })

/-- CORE_STORE (R295, R296, R308, R309, R311), of every form and page attribute: a plain or vector store to memory enters the store
buffer, one entry for each 64-byte chunk; one to a core window is a debug store; one to no memory, and an AMO or store-conditional
outside cacheable memory, faults and stores nothing. A store-conditional whose reservation is gone answers 1, drops any reservation
and stores nothing; with its reservation it puts its bytes in its owned line and answers 0; an AMO on an owned line puts its bytes
there and answers the old ones. -/
def Claim.CoreStoresEnterTheBuffer : Prop :=
  ∀ (s : State) (c : Fin 64) (pa : BitVec 48) (size : Nat) (v : BitVec 64) (attr : PageAttr) (form : CoreForm),
    s.coreRuns c = true → 0 < size → size ≤ 8 →
    let a := pa.toNat
    let d := leBytes v.toNat size
    let w := s.coreWorks c
    let enters (k : Bool) : State := (chunksOf a size).foldl (fun u b => u.enterStore c
      { pa := max b a, data := (d.drop (max b a - a)).take (min (b + 64) (a + size) - max b a), cacheable := k }) w
    (form = .plain ∨ form = .vector →
      (s.typeOf a size attr = .cacheable → exec (.coreStore c pa size v attr form) s = .next (enters true)) ∧
      (s.typeOf a size attr = .nonCacheable ∨ s.typeOf a size attr = .chip ∨ s.typeOf a size attr = .peer →
        exec (.coreStore c pa size v attr form) s = .next (enters false)) ∧
      (s.typeOf a size attr = .window → exec (.coreStore c pa size v attr form) s = .next (w.debugWrite (.core c) a d))) ∧
    (s.typeOf a size attr = .absent → exec (.coreStore c pa size v attr form) s = .next { w with out := .accessFault 7 a }) ∧
    (form = .amo ∨ form = .lrsc →
      (s.typeOf a size attr = .chip ∨ s.typeOf a size attr = .nonCacheable ∨ s.typeOf a size attr = .window ∨ s.typeOf a size attr = .peer →
        exec (.coreStore c pa size v attr form) s = .next { w with out := .accessFault 7 a }) ∧
      (s.typeOf a size attr = .cacheable →
        let u := (w.fetchHost c a size).drainAll c
        (form = .lrsc → (u.core c).reserved ≠ some (a / 64) → exec (.coreStore c pa size v attr form) s =
          .next { State.updCore u c (fun x => { x with reserved := none }) with out := .data [1] .none }) ∧
        (∀ l, (form = .lrsc → (u.core c).reserved = some (a / 64)) → (u.core c).sb = [] → (u.core c).line (a / 64) = some l →
          (l.st = .m ∨ l.st = .e) → l.poison = false →
          exec (.coreStore c pa size v attr form) s = .next { State.updCore u c (fun x =>
              { (x.hit (a / 64)).changeLine (a / 64) fun y => { y with st := .m, data := patch y.data (a % 64) d } with reserved := none }) with
            out := .data (if form = .amo then (l.data.drop (a % 64)).take size else [0]) .none })))

/-- A store in the buffer (R296): where it merges with what waits to at most 56 stores, it is in the buffer before the buffer drains. -/
def Claim.StoresMergeInTheBuffer : Prop :=
  ∀ (s : State) (c : Fin 64) (b : BufStore), (mergeStore (s.core c).sb b).length ≤ 56 →
    s.enterStore c b = (s.updCore c fun x => { x with sb := mergeStore x.sb b }).drainSome c

/-- Core loads and stores. Complete here: coreLoad, coreStore. -/
def Obligations.CoresLoadAndStore : Prop :=
  Claim.CoreLoadsAnswerTheirBytes ∧ Claim.CoreStoresEnterTheBuffer ∧ Claim.StoresMergeInTheBuffer

/-- Cache operations (R295, R297) on a cacheable line that no buffered store names: CBO_CLEAN writes a dirty line back and keeps it in
E, CBO_FLUSH writes it back and drops it, CBO_INVAL drops it (CBIE 11) or flushes it (CBIE 01), CBO_ZERO makes an owned DRAM line
zeros in M, or a host line. On other memory CBO_CLEAN, CBO_FLUSH and CBO_INVAL change nothing, and CBO_ZERO stores 64 zeros; on no
memory all fault. -/
def Claim.CacheOperations : Prop :=
  ∀ (s : State) (c : Fin 64) (pa : BitVec 48) (attr : PageAttr), s.coreRuns c = true →
    let line := pa.toNat / 64
    let zeros : List Byte := List.replicate 64 0
    let u := (s.coreWorks c).drainAll c
    let ty := (u.memType pa.toNat).under attr
    (ty = .cacheable → (∀ b ∈ (u.core c).sb, b.pa / 64 ≠ line) →
      (∀ l, (u.core c).line line = some l → l.st = .m →
        exec (.cboClean c pa attr) s = .next ((u.writeBack l).updCore c fun x => x.changeLine line fun y => { y with st := .e }) ∧
        exec (.cboFlush c pa attr) s =
          .next (((u.writeBack l).updCore c fun x => x.changeLine line fun y => { y with st := .e }).updCore c fun x => x.dropLine line)) ∧
      ((∀ l, (u.core c).line line = some l → l.st ≠ .m) →
        exec (.cboClean c pa attr) s = .next u ∧ exec (.cboFlush c pa attr) s = .next (u.updCore c fun x => x.dropLine line)) ∧
      exec (.cboInval c pa attr 3) s = .next (u.updCore c fun x => x.dropLine line) ∧
      exec (.cboInval c pa attr 1) s = exec (.cboFlush c pa attr) s ∧
      ((u.core c).owns line = true → isHost pa.toNat = false →
        exec (.cboZero c pa attr) s = .next (u.updCore c fun x => (x.hit line).changeLine line fun _ => { line := line, st := .m, data := zeros })) ∧
      (isHost pa.toNat = true → exec (.cboZero c pa attr) s = .next (u.fillCore c { line := line, st := .m, data := zeros }))) ∧
    (ty ≠ .cacheable → ty ≠ .absent →
      exec (.cboClean c pa attr) s = .next u ∧ exec (.cboFlush c pa attr) s = .next u ∧
      (∀ b : BitVec 2, b = 1 ∨ b = 3 → exec (.cboInval c pa attr b) s = .next u) ∧
      (u.memType pa.toNat = .chip → exec (.cboZero c pa attr) s = .next ((u.putBytes (64 * line) zeros).markRange (64 * line) 64 .none)) ∧
      (u.memType pa.toNat = .window → exec (.cboZero c pa attr) s = .next (u.debugWrite (.core c) (64 * line) zeros)) ∧
      (u.memType pa.toNat = .peer → exec (.cboZero c pa attr) s = .next (peerStore c u { pa := 64 * line, data := zeros, cacheable := false })) ∧
      (u.memType pa.toNat = .cacheable → isHost pa.toNat = false →
        exec (.cboZero c pa attr) s = .next ((u.store (64 * line) zeros .none).dramUse 3 true (64 * line) 64)) ∧
      (u.memType pa.toNat = .cacheable → isHost pa.toNat = true →
        exec (.cboZero c pa attr) s = .next (u.hostWrite (64 * line) zeros .none none 0))) ∧
    (ty = .absent →
      ∀ i ∈ [Instr.cboClean c pa attr, .cboFlush c pa attr, .cboInval c pa attr 1, .cboInval c pa attr 3, .cboZero c pa attr],
      exec i s = .next { u with out := .accessFault 7 pa.toNat })

/-- CORE_FENCE and TRAP_ENTRY (R309, R310, R322): a failed device store that waits is raised at a fence; otherwise a fence over writes
ends once the store buffer is empty, no store is on its way and the host has the lines flushed to it; an exception or interrupt is
entered once the buffer is empty. -/
def Claim.FencesAndTrapsDrainStores : Prop :=
  ∀ (s : State) (c : Fin 64), s.coreRuns c = true →
    let u := (s.coreWorks c).drainAll c
    let v := u.drainEgress
    (∀ va b, (s.core c).pending = some va → exec (.coreFence c b) s =
      .next { (s.coreWorks c).updCore c (fun x => { x with pending := none }) with out := .accessFault 7 va }) ∧
    ((s.core c).pending = none →
      exec (.coreFence c false) s = .next (s.coreWorks c) ∧
      ((v.core c).sb = [] → (∀ d ∈ (v.core c).dev, d.isStore = false) → (∀ r ∈ v.dnb.reqs, ∀ va n, r.what ≠ .coreStore c va n) →
        (∀ e ∈ v.cxl.egress, e.task = none → e.session ≠ 0) → exec (.coreFence c true) s = .next v) ∧
      ((v.core c).sb ≠ [] → exec (.coreFence c true) s = .next { v with out := .waits })) ∧
    ((u.core c).sb = [] → exec (.trapEntry c) s = .next (u.updCore c fun x => { x with irq := false })) ∧
    ((u.core c).sb ≠ [] → exec (.trapEntry c) s = .next { u with out := .waits })

/-- Cache operations, fences and trap entry of a core. Complete here: cboClean, cboFlush, cboInval, cboZero, coreFence, trapEntry. -/
def Obligations.CacheOperationsAndFences : Prop :=
  Claim.CacheOperations ∧ Claim.FencesAndTrapsDrainStores

/-- Device accesses (R295, R308, R309) of a core that waits for no device: an aligned plain DEVICE_LOAD answered from the register
window brings the register's value, a DEVICE_STORE writes it; memory whose page is mapped IO is read and written in the same way; an
access that is not answered waits with its age; one of another form, misaligned or of no memory faults; a fault that waits is raised
first. -/
def Claim.DeviceAccessesReachRegisters : Prop :=
  ∀ (s : State) (c : Fin 64) (pa : BitVec 48) (va v : BitVec 64) (size : Nat) (form : CoreForm) (ans : Bool), s.coreRuns c = true →
    let a := pa.toNat
    let w := s.coreWorks c
    let u := w.drainAll c
    let data := leBytes v.toNat size
    (∀ x, (s.core c).pending = some x →
      exec (.deviceLoad c pa size form ans) s = .next (w.raisePending c x) ∧ exec (.deviceStore c pa va size v form ans) s = .next (w.raisePending c x)) ∧
    ((s.core c).pending = none →
      (deviceFaults a size form = true ∨ w.memType a = .absent →
        exec (.deviceLoad c pa size form ans) s = .next { w with out := .accessFault (loadCause form) a } ∧
        exec (.deviceStore c pa va size v form ans) s = .next { w with out := .accessFault 7 a }) ∧
      (deviceFaults a size form = false → w.memType a ≠ .absent → (u.core c).sb = [] → (u.core c).dev = [] →
        (ans = false →
          (∃ t, exec (.deviceLoad c pa size form ans) s = .next t ∧ (t.core c).dev = [{ isStore := false, pa := a, va := a, size := size, since := s.now }]) ∧
          ∃ t, exec (.deviceStore c pa va size v form ans) s = .next t ∧
            (t.core c).dev = [{ isStore := true, pa := a, va := va.toNat, size := size, since := s.now }]) ∧
        (ans = true →
          (u.memType a = .device →
            exec (.deviceLoad c pa size form ans) s =
              .next { u with out := .data (leBytes ((u.regRead (a - 0x038000000000) size).getD 0) size) .none } ∧
            exec (.deviceStore c pa va size v form ans) s =
              .next (u.regWrite (a - 0x038000000000) size (v.toNat % 2 ^ (8 * size)) (.core c))) ∧
          (u.memType a = .chip →
            exec (.deviceLoad c pa size form ans) s = .next (u.chipLoad c a size) ∧
            exec (.deviceStore c pa va size v form ans) s = .next (u.store a data .none)) ∧
          (u.memType a = .window →
            exec (.deviceLoad c pa size form ans) s = .next (u.debugRead (.core c) a size none) ∧
            exec (.deviceStore c pa va size v form ans) s = .next (u.debugWrite (.core c) a data)) ∧
          (u.memType a = .cacheable → isDram a = true →
            exec (.deviceLoad c pa size form ans) s = .next (u.memoryLoad c a size (loadCause form) none) ∧
            exec (.deviceStore c pa va size v form ans) s = .next ((u.store a data .none).dramUse 3 true a size)))))

/-- DEV_TIMEOUT (R309): the oldest access of a core without an answer is given up after COH_DEV_TIMEOUT, counted and reported; a load
faults; a store is discarded, performed at its target or not, which is free, and its fault waits for the next point that raises it. -/
def Claim.DeviceTimeoutsAreReported : Prop :=
  ∀ (s : State) (c : Fin 64) (d : DevAcc) (rest : List DevAcc), (s.core c).dev = d :: rest →
    d.since + 1000 * (s.coh.devTimeout.toNat % 2 ^ 17) ≤ s.now →
    ∃ t, exec (.devTimeout c) s = .next t ∧
      (d.isStore = false → t.out = .accessFault 5 d.va ∧ t.mem = s.mem ∧ (∀ k, k ≠ c → t.core k = s.core k) ∧
        t.core c = { s.core c with dev := rest, devTimeout := (s.core c).devTimeout + 1 }) ∧
      (d.isStore = true → ∃ u, (u = State.draw s.ok ∨ u = (State.deviceWrite (State.draw s.ok) c d.pa d.size d.val).answer .done) ∧
        t.mem = u.mem ∧ (∀ k, k ≠ c → t.core k = u.core k) ∧
        t.core c = { u.core c with
          dev := rest, devTimeout := (u.core c).devTimeout + 1, devStoreDiscard := (u.core c).devStoreDiscard + 1
          pending := some ((u.core c).pending.getD d.va) })

/-- Device loads and stores of a core, and their timeouts. Complete here: deviceLoad, deviceStore, devTimeout. -/
def Obligations.DeviceAccessesOfCores : Prop :=
  Claim.DeviceAccessesReachRegisters ∧ Claim.DeviceTimeoutsAreReported

/-- A core's reset (R299, R310, R311): STORE_DRAIN_TIMEOUT of a core whose buffer drains goes on to write its dirty lines back and drop
its caches, and after 10 us without it discards and counts what is left; CORE_INVALIDATE_DONE lets the core run with empty caches. -/
def Claim.CoreResetsDrainAndInvalidate : Prop :=
  ∀ (s : State) (c : Fin 64) (t : Nat),
    ((s.core c).rst = .draining t →
      let u := State.drainAll s.ok c
      ((u.core c).sb = [] → exec (.storeDrainTimeout c) s = .next (u.afterDrain c)) ∧
      ((u.core c).sb ≠ [] → t + 10000 ≤ s.now →
        ∃ v, exec (.storeDrainTimeout c) s = .next v ∧ (v.core c).sb = [] ∧
          v.ctr .resetStoreDiscard = s.ctr .resetStoreDiscard + (u.core c).sb.length)) ∧
    ((s.core c).rst = .invalidating →
      exec (.coreInvalidateDone c) s = .next { s with
        out := .done, cores := upd s.cores c fun x => { x with rst := .running, l1i := {}, l1d := {}, l2 := {} } })

/-- Debug accesses (R111 to R113, R129, R134, R256): while debug access is on, DEBUG_LOAD of a window answers its bytes, zeros where a
chunk carries a mark, or fails where a word of it fails its parity; DEBUG_STORE writes the bytes of slots that are not RESIDENT;
while it is off both are refused on their path. -/
def Claim.DebugAccessesNeedDebug : Prop :=
  ∀ (s : State) (pa : BitVec 48) (size : Nat) (data : List Byte) (c : Fin 64) (path : Path) (p : Option BadWord),
    isWindow pa.toNat = true → isWindow (pa.toNat + size - 1) = true → 0 < size → data.length = size →
    (s.eci.debugOn = true →
      (badIn p pa.toNat size = false → exec (.debugLoad path pa size p) s = .next { s with
        out := .data ((List.range size).map fun i => if s.markAt (pa.toNat + i) = .none then s.byteAt (pa.toNat + i) else 0)
          (if path = .host then s.markOf pa.toNat size else .none) }) ∧
      (badIn p pa.toNat size = true →
        let u := (s.parityCount (windowSquall pa.toNat)).reloadBad p
        exec (.debugLoad .host pa size p) s = .next { u with out := .data (List.replicate size 0) .unreadable } ∧
        exec (.debugLoad (.core c) pa size p) s = .next { u with out := .accessFault 5 pa.toNat }) ∧
      exec (.debugStore path pa data) s = .next ((State.countDrops s.ok pa.toNat size).untaggedWrite pa.toNat data)) ∧
    (s.eci.debugOn = false →
      exec (.debugLoad .host pa size p) s = .next { s with out := .unsupportedRequest } ∧
      exec (.debugStore .host pa data) s = .next { s with out := .unsupportedRequest } ∧
      exec (.debugLoad (.core c) pa size p) s = .next { s with out := .accessFault 5 pa.toNat } ∧
      exec (.debugStore (.core c) pa data) s = .next { s with out := .accessFault 7 pa.toNat })

/-- Resets of a core, and debug accesses. Complete here: storeDrainTimeout, coreInvalidateDone, debugLoad, debugStore. -/
def Obligations.CoreResetsAndDebugAccesses : Prop :=
  Claim.CoreResetsDrainAndInvalidate ∧ Claim.DebugAccessesNeedDebug

/-! ## Coherence -/

/-- COH_REQUEST (R300 to R302, R306): a request that an agent may make enters the list with the next number, ordered at its home stop
with every other coherent agent to snoop, or turned away where the line is blocked; a core has at most 32. -/
def Claim.CoherentRequestsAreOrdered : Prop :=
  ∀ (s : State) (a : Agent) (line : BitVec 42) (k : CohKind), isDram (64 * line.toNat) = true → s.populated (64 * line.toNat) = true →
    mayAsk a k = true → s.satisfied a line.toNat k = false →
    (∀ r ∈ s.coh.reqs, r.agent = a → r.line ≠ line.toNat) → (∀ c, a = .core c → (s.coh.reqs.filter fun r => r.agent == a).length < 32) →
    s.req s.coh.nextReq = none →
    let r : CohReq := { id := s.coh.nextReq, agent := a, line := line.toNat, kind := k }
    let u : State := { s with out := .done, coh := { s.coh with reqs := s.coh.reqs ++ [r], nextReq := s.coh.nextReq + 1 } }
    ∃ t, exec (.cohRequest a line k) s = .next t ∧
      t.req r.id = some (if u.blocked r then { r with phase := .nacked }
        else { r with phase := .snooping, waiting := coherentAgents.filter (· != a) }) ∧
      t = { u with coh := { u.coh with reqs := t.coh.reqs } }

/-- COH_SNOOP (R302, R306): an agent without the line answers clean; a holder gives the line up to S for a read and to I for an
ownership request, with a NACK and its write-back where it was M. In owner-ordered mode the owner reserves its turn for the first
request it hears, and answers a NACK to the others until that reservation ends. -/
def Claim.SnoopsTakeTheLine : Prop :=
  ∀ (s : State) (a : Agent) (r : CohReq), s.req r.id = some r → r.phase = .snooping → a ∈ r.waiting →
    let heard (u : State) (nack : Bool) : State :=
      u.updReq r.id fun x => { x with waiting := x.waiting.filter (· != a), answers := x.answers ++ [(a, nack)] }
    let other : Prop := r.escalates = false ∧ ∃ p ∈ s.coh.reservations, p.line = r.line ∧ p.owner = a ∧ p.req ≠ r.id
    let mine : Prop := ∃ p ∈ s.coh.reservations, p.line = r.line ∧ p.owner = a ∧ p.req = r.id
    (other → exec (.cohSnoop a r.id) s = .next (heard s.ok true)) ∧
    (¬ other →
      (s.held a r.line = none → exec (.cohSnoop a r.id) s = .next (heard s.ok false)) ∧
      ∀ l v, s.held a r.line = some l →
        (s.ownerOrdered r.line = true ∧ (l.st = .m ∨ l.st = .e) ∧ r.escalates = false ∧ ¬ mine → v = { s with
          out := .done, coh := { s.coh with reservations := s.coh.reservations ++ [{ line := r.line, req := r.id, owner := a }] } }) →
        (¬ (s.ownerOrdered r.line = true ∧ (l.st = .m ∨ l.st = .e) ∧ r.escalates = false ∧ ¬ mine) → v = s.ok) →
        let u := if r.kind = .read then State.shareHeld v a r.line else State.dropHeld v a r.line
        (l.st ≠ .m → exec (.cohSnoop a r.id) s = .next (heard u false)) ∧
        (l.st = .m → exec (.cohSnoop a r.id) s =
          .next (heard (u.updReq r.id fun x => { x with writeback := some (a, l.data), backPoison := l.poison }) true)))

/-- COH_SNOOP_ANSWER and COH_WRITEBACK (R302, R304): an answer is taken off its request; a NACK for a request that is not escalated
turns it away, any other answer may be the last that its grant waits for, and the last clean one grants it; a write-back stores the
line in memory, and requests of the line that only waited for it are granted. -/
def Claim.AnswersGrantOrRefuse : Prop :=
  ∀ (s : State) (a : Agent) (r : CohReq), s.req r.id = some r →
    (∀ b, r.answers.find? (·.1 == a) = some (a, b) →
      let u := State.updReq s.ok r.id fun x => { x with answers := dropFirst x.answers (· == (a, b)) }
      (r.phase ≠ .snooping → exec (.cohSnoopAnswer a r.id) s = .next u) ∧
      (r.phase = .snooping → b = true → r.escalates = false →
        exec (.cohSnoopAnswer a r.id) s = .next (u.updReq r.id fun x => { x with phase := .nacked })) ∧
      (r.phase = .snooping → b = false ∨ r.escalates = true → exec (.cohSnoopAnswer a r.id) s =
        .next (State.trySend (u.updReq r.id fun x => { x with nackSeen := x.nackSeen || (b && x.writeback.isSome) }) r.id))) ∧
    (r.phase = .snooping → r.waiting = [] → r.answers = [(a, false)] → r.nackSeen = false →
      (∀ x ∈ s.coh.reqs, x.line = r.line → x.writeback = none) →
      ∃ t, exec (.cohSnoopAnswer a r.id) s = .next t ∧ t.req r.id = some { r with answers := [], phase := .granted } ∧
        t = { s with out := .done, coh := { s.coh with reqs := t.coh.reqs } }) ∧
    (∀ data, r.writeback = some (a, data) →
      ∃ t, exec (.cohWriteback a r.id) s = .next t ∧ (t.req r.id).map (·.writeback) = some none ∧
        t.mem = (State.store s.ok (64 * r.line) data (if r.backPoison then .unreadable else .none)).mem ∧ t.cores = s.cores)

/-- Coherent requests, snoops, answers and write-backs. Complete here: cohRequest, cohSnoop, cohSnoopAnswer, cohWriteback. -/
def Obligations.CoherentRequestsSnoopAndAnswer : Prop :=
  Claim.CoherentRequestsAreOrdered ∧ Claim.SnoopsTakeTheLine ∧ Claim.AnswersGrantOrRefuse

/-- COH_GRANT to an agent with a cache (R294, R298, R301, R304, R310): the request and its reservation end, and the agent holds the line
as it was granted: E to a read that found no copy, S to one that found copies, E with the data of memory to an ownership request, M
with zeros without data; a schedule engine holds it in S. A core's stores that waited for it drain. -/
def Claim.GrantsGiveTheLine : Prop :=
  ∀ (s : State) (r : CohReq) (ecc : Ecc), s.req r.id = some r → r.phase = .granted →
    let u := if s.carriesData r then ((s.ok).dramCheck (64 * r.line) ecc).dramRead 1 (64 * r.line) 64 else s.ok
    let v := u.endReq r
    let l := u.grantedLine r
    v.req r.id = none ∧ (∀ p ∈ v.coh.reservations, p.req ≠ r.id) ∧
    (∀ c, r.agent = .core c → exec (.cohGrant r.id ecc) s = .next (((v.fillCore c l).drainSome c).afterDrain c) ∧
      ((s.core c).sb = [] → (s.core c).rst = .running → exec (.cohGrant r.id ecc) s = .next (v.fillCore c l))) ∧
    (∀ q, r.agent = .sched q → exec (.cohGrant r.id ecc) s =
      .next (v.updSq q fun x => { x with cache := x.cache.fill schedGeometry { l with st := .s } })) ∧
    (r.agent = .cluster → exec (.cohGrant r.id ecc) s = .next (v.updCoh fun x => { x with
      cluster := { x.cluster with lines := x.cluster.lines.filter (·.line != r.line) ++ [l] } }))

/-- COH_GRANT to a requester without a cache (R298, R300, R301): it is answered the line, and the request ends. -/
def Claim.GrantsAnswerUncachedRequesters : Prop :=
  ∀ (s : State) (r : CohReq), s.req r.id = some r → r.phase = .granted → (r.agent = .ioProxy ∨ r.agent = .kEngines ∨ ∃ q, r.agent = .dma q) →
    r.kind ≠ .ownNoData →
    ∃ t, exec (.cohGrant r.id .clean) s = .next t ∧ t.req r.id = none ∧ t.mem = s.mem ∧
      t.out = .data (s.bytes (64 * r.line) 64) (if s.markOf (64 * r.line) 64 = .none then .none else .unreadable)

/-- COH_NACK, NACK_RETRY, ESCALATION_SERVE and RESERVATION_EXPIRE (R303, R304, R306): a request turned away is retried, counted where a
core makes it; its seventeenth issue carries the escalation mark and queues at its home agent, ending a reservation of its line; the
home agent serves its oldest when the line's open round has ended. -/
def Claim.NackedRequestsRetryAndEscalate : Prop :=
  ∀ (s : State) (r : CohReq), s.req r.id = some r →
    let counted (u : State) (f : CoreSt → CoreSt) : State := match r.agent with
      | .core c => u.updCore c f
      | .sched _ | .dma _ | .cluster | .ioProxy | .kEngines => u
    (r.phase = .nacked → exec (.cohNack r.id) s =
      .next (State.updReq s.ok r.id fun x => { x with phase := .retrying, answers := [], waiting := [] })) ∧
    (r.phase = .retrying → r.issue < 16 →
      exec (.nackRetry r.id) s = .next (State.arrive (counted (State.updReq s.ok r.id fun x => { x with issue := r.issue + 1 }) fun x =>
        { x with nackRetry := x.nackRetry + 1 }) { r with issue := r.issue + 1 })) ∧
    (r.phase = .retrying → 16 ≤ r.issue → (∀ x ∈ s.coh.reqs, x.agent = r.agent → x.id ≠ r.id → x.escalates = false) →
      ∃ t, exec (.nackRetry r.id) s = .next t ∧ t.req r.id = some { r with issue := r.issue + 1, phase := .escalated } ∧
        (∀ c, r.agent = .core c → (t.core c).escalated = (s.core c).escalated + 1 ∧ (t.core c).nackRetry = (s.core c).nackRetry + 1) ∧
        (∀ p ∈ t.coh.reservations, p.line ≠ r.line) ∧
        pick t.coh.queues (s.homeOf (64 * r.line)) = pick s.coh.queues (s.homeOf (64 * r.line)) ++ [r.id]) ∧
    (∀ home, (pick s.coh.queues home).head? = some r.id → r.phase = .escalated →
      (∀ x ∈ s.coh.reqs, x.line = r.line → x.id ≠ r.id → x.open_ = false) →
      exec (.escalationServe home) s = .next (State.updReq s.ok r.id CohReq.start)) ∧
    ∀ line : BitVec 42, (∃ p ∈ s.coh.reservations, p.line = line.toNat) →
      exec (.reservationExpire line) s = .next { s with
        out := .done, coh := { s.coh with reservations := s.coh.reservations.filter fun p => p.line != line.toNat } }

/-- Grants of lines, and retries with their escalation. Complete here: cohGrant, cohNack, nackRetry, escalationServe, reservationExpire. -/
def Obligations.CoherentGrantsAndRetries : Prop :=
  Claim.GrantsGiveTheLine ∧ Claim.GrantsAnswerUncachedRequesters ∧ Claim.NackedRequestsRetryAndEscalate

/-! ## DRAM channels -/

/-- DRAM_ACCESS (R277, R278, R281, R283, R285): outside self-refresh, and within its device's throttle, the channel serves the request
that arbitration chooses, which leaves the queue and is counted, its row open in its bank; a read that no command has met yet meets
what error correction found, any other access does not. -/
def Claim.ChannelsServeTheirChoice : Prop :=
  ∀ (s : State) (ch : Fin 576) (ecc : Ecc) (r : DramReq), s.nextAccess (pick s.dram.channels ch) = some r →
    r ∈ (pick s.dram.channels ch).queue ∧
    (s.pwr.sleep.deep = true ∨ s.admits ch = false → exec (.dramAccess ch ecc) s = .next { s with out := .waits }) ∧
    (s.pwr.sleep.deep = false → s.admits ch = true →
      let u : State := { s with out := .done, dram := { s.dram with channels := upd s.dram.channels ch fun x =>
        { x with
          queue := servePast x.queue r, last := (r.cls :: x.last).take 10, openRows := assocSet x.openRows (s.reqBank r) (s.reqRow r)
          times := (s.now :: x.times).take 3, count := x.count + 1 } } }
      (r.write = true ∨ r.checked = true → exec (.dramAccess ch ecc) s = .next u) ∧
      (r.write = false → r.checked = false → exec (.dramAccess ch ecc) s = .next (u.dramCheck (64 * r.asked) ecc)) ∧
      exec (.dramAccess ch .clean) s = .next u)

/-- Arbitration (R278): class 3 has a share of at least 2 in 10 accesses; otherwise class 1 goes before class 2 and class 2 before class
3. -/
def Claim.ArbitrationFollowsClasses : Prop :=
  ∀ (s : State) (c : Channel) (r : DramReq), s.nextAccess c = some r →
    r ∈ c.queue ∧
    ((∃ x ∈ c.queue, x.cls = 3) → (c.last.filter (· == 3)).length < 2 → r.cls = 3) ∧
    (((∀ x ∈ c.queue, x.cls ≠ 3) ∨ 2 ≤ (c.last.filter (· == 3)).length) → (∃ x ∈ c.queue, x.cls = 1) → r.cls = 1) ∧
    (((∀ x ∈ c.queue, x.cls ≠ 3) ∨ 2 ≤ (c.last.filter (· == 3)).length) → (∀ x ∈ c.queue, x.cls ≠ 1) → (∃ x ∈ c.queue, x.cls = 2) → r.cls = 2)

/-- What error correction finds (R282, R283, R285): nothing on a clean line; a corrected line is counted and stays as it is; one
corrected to another codeword is counted alike and holds open data from then on; an uncorrectable one carries the UNREADABLE mark
and is counted. -/
def Claim.EccMarksUncorrectableLines : Prop :=
  ∀ (s : State) (pa : Nat), s.dramCheck pa .clean = s ∧
    (s.dramCheck pa .corrected).ctr .dramCorrected = s.ctr .dramCorrected + 1 ∧ (s.dramCheck pa .corrected).mem = s.mem ∧
    (s.dramCheck pa .corrected).marks = s.marks ∧
    (s.dramCheck pa .miscorrected).ctr .dramCorrected = s.ctr .dramCorrected + 1 ∧
    (s.dramCheck pa .miscorrected).mem =
      (s.putBytes (pa / 64 * 64) ((List.range 64).map fun i => Config.freeByte s.free (pa / 64 * 64 + i))).mem ∧
    (s.dramCheck pa .uncorrectable).ctr .dramUncorrected = s.ctr .dramUncorrected + 1 ∧
    (s.weightAt (pa / 64 * 64) = none → (s.dramCheck pa .uncorrectable).markAt (pa / 64 * 64) = .unreadable ∧
      (s.dramCheck pa .uncorrectable).mem = s.mem)

/-- DRAM channels serve by class and age, and mark uncorrectable lines. Complete here: dramAccess. -/
def Obligations.DramChannelsServeRequests : Prop :=
  Claim.ChannelsServeTheirChoice ∧ Claim.ArbitrationFollowsClasses ∧ Claim.EccMarksUncorrectableLines

/-- PREFETCH_AGE_PROMOTE, REFRESH_DUE, PATROL_SCRUB (R278 to R280, R284): the first class 2 request that has waited 20 us becomes class
1; a refresh of a bank, due once per interval of its device's rate, goes out with those owed and closes its row, or is postponed
behind demand of its bank, at most eight times; the patrol reads the next populated line in class 3. -/
def Claim.ChannelUpkeep : Prop :=
  (∀ (s : State) (ch : Fin 576), let due (r : DramReq) : Bool := r.cls == 2 && decide (r.since + 20000 ≤ s.now)
    (pick s.dram.channels ch).queue.any due = true →
    exec (.prefetchAgePromote ch) s = .next { s with out := .done, dram := { s.dram with channels := upd s.dram.channels ch fun x =>
      { x with queue := updFirst x.queue due fun r => { r with cls := 1 } } } }) ∧
  (∀ (s : State) (ch : Fin 576) (bank : Fin 48),
    let c := pick s.dram.channels ch
    let owed := (assoc c.postponed bank.val).getD 0
    let busy := c.queue.any fun r => r.cls == 1 && s.reqBank r == bank.val
    s.pwr.sleep.deep = false → (512 ≤ ch.val → bank.val < 16) →
    (assoc c.refreshed bank.val).getD 0 + (pick s.dram.devices (channelDevice ch)).interval ≤ s.now →
    exec (.refreshDue ch bank) s = .next { s with out := .done, dram := { s.dram with channels := upd s.dram.channels ch fun x =>
      if busy = true ∧ owed < 8 then
        { x with postponed := assocSet x.postponed bank.val (owed + 1), refreshed := assocSet x.refreshed bank.val s.now }
      else { x with postponed := assocDel x.postponed bank.val, openRows := assocDel x.openRows bank.val
                    refreshed := assocSet x.refreshed bank.val s.now } } }) ∧
  ∀ s : State, s.pwr.sleep.deep = false → s.eci.devState ≠ .uninit → s.eci.devState ≠ .booting →
    let pa := if s.populated s.dram.patrolAt = true then s.dram.patrolAt else 0
    (∀ ecc, ∃ u, exec (.patrolScrub ecc) s = .next (u.dramCheck pa ecc) ∧ exec (.patrolScrub .clean) s = .next u) ∧
    ∃ t, exec (.patrolScrub .clean) s = .next t ∧ t.dram.patrolAt = (if s.populated (pa + 64) = true then pa + 64 else 0) ∧
      t.dram.patrolLines = (s.dram.patrolLines + 1) % 2 ^ 20 ∧ t.mem = s.mem ∧ t.marks = s.marks ∧
      t.ctr .dramScrubbed = s.ctr .dramScrubbed + (if (s.dram.patrolLines + 1) % 2 ^ 20 = 0 then 1 else 0)

/-- DRAM_TEMP_READ (R270, R280, R281), once a millisecond: the device keeps its reading; above 105 degrees it is throttled at rate 4, at
83 or below it runs at rate 1 without a throttle; only the device's entry, the counts of the lifetime record and the event log
change. -/
def Claim.DramTemperatureSetsTheRate : Prop :=
  ∀ (s : State) (d : Fin 32) (c : Int), (∀ x, (pick s.dram.devices d).readAt = some x → x + 1000000 ≤ s.now) →
    ∃ t, exec (.dramTempRead d c) s = .next t ∧ (pick t.dram.devices d).celsius = c ∧
      (105 < c → (pick t.dram.devices d).rate = 4 ∧ (pick t.dram.devices d).throttled = true) ∧
      (95 < c → (pick t.dram.devices d).rate = 4) ∧ (85 < c → 2 ≤ (pick t.dram.devices d).rate) ∧
      (c ≤ 83 → (pick t.dram.devices d).rate = 1 ∧ (pick t.dram.devices d).throttled = false) ∧
      (∀ k, k ≠ d → pick t.dram.devices k = pick s.dram.devices k) ∧
      t = { s with out := .done, dram := { s.dram with devices := t.dram.devices }, logs := t.logs, ctrs := t.ctrs, mgmt := t.mgmt }

/-- IMB_WINDOW_END (R288, R291): at a window's end MEM_IMB_LAST takes the bins of both memories and their busiest channels, counts start
anew, and a write of MEM_IMB_WINDOW that waits takes effect with the run counts cleared. -/
def Claim.ImbalanceWindowsEnd : Prop :=
  ∀ s : State, s.dram.imbStart + 1000 * (s.dram.imbWindow.toNat % 65536) ≤ s.now →
    let h := s.channelCounts 0
    let l := s.channelCounts 1
    ∃ t, exec .imbWindowEnd s = .next t ∧
      t.dram.imbLast = BitVec.ofNat 32 (imbBin (h.foldl max 0) 256 h.sum + 8 * imbBin (l.foldl max 0) 64 l.sum
        + 65536 * busiest h + 16777216 * busiest l) ∧
      t.dram.imbStart = s.now ∧ t.dram.imbWindow = s.dram.imbPending.getD s.dram.imbWindow ∧ t.dram.imbPending = none ∧
      (∀ k, (pick t.dram.channels k).count = 0) ∧ (s.dram.imbPending.isSome = true → ∀ m, pick t.dram.imbRun m = 0) ∧
      t.mem = s.mem

/-- Refresh, patrol scrub, DRAM temperature and imbalance windows. Complete here: prefetchAgePromote, refreshDue, patrolScrub,
dramTempRead, imbWindowEnd. -/
def Obligations.DramUpkeep : Prop :=
  Claim.ChannelUpkeep ∧ Claim.DramTemperatureSetsTheRate ∧ Claim.ImbalanceWindowsEnd

/-! ## Tiers and flash -/

/-- WEIGHT_FRAME_READ (R246, R247, R254, R443) by a channel of a running program of the frame's model: a PRESENT frame is read at once
and stamped; a POISONED one, and one without a usable source, completes marked UNREADABLE; the read of a LIFTING one waits; that of
an ABSENT one with a source counts in UPD_DEMAND and waits; a read that has become late completes marked LATE. -/
def Claim.DemandReadsLiftFrames : Prop :=
  ∀ (s : State) (r : Reader) (fid : FrameId) (x : AccessEnv) (o : WObject),
    ((s.readerTask r).bind fun t => s.taskEnv r.sq t.key 0) = some x → x.m.id = fid.model → x.m.manifest.objects[fid.obj]? = some o → fid.f < o.frames →
    let waits (t : State) : Prop := ∃ w ∈ t.tiers.waits, w.who = r ∧ w.fid = fid ∧ w.since = s.now ∧ w.late = false
    ((∃ w ∈ s.tiers.waits, w.who = r ∧ w.fid = fid ∧ w.late = true) →
      ∃ t, exec (.weightFrameRead r fid) s = .next t ∧ t.out = .data [] .late ∧ t.mem = s.mem) ∧
    ((∀ w ∈ s.tiers.waits, ¬ (w.who = r ∧ w.fid = fid)) →
      (∀ w, s.wframe fid = some w → w.st = .present →
        ∃ t, exec (.weightFrameRead r fid) s = .next t ∧ t.out = .done ∧ (t.wframe fid).map (·.used) = some true ∧
          (t.wframe fid).map (·.st) = some .present ∧ t.mem = s.mem) ∧
      (∀ w, s.wframe fid = some w → w.st = .poisoned →
        ∃ t, exec (.weightFrameRead r fid) s = .next t ∧ t.out = .data [] .unreadable ∧ t.mem = s.mem) ∧
      (∀ w, s.wframe fid = some w → w.st = .lifting → ∃ t, exec (.weightFrameRead r fid) s = .next t ∧ t.out = .waits ∧ waits t) ∧
      (∀ k, s.wframe fid = none → s.sourceFrom fid 0 = some k →
        ∃ t, exec (.weightFrameRead r fid) s = .next t ∧ t.out = .waits ∧ t.ctr .updDemand = s.ctr .updDemand + 1 ∧ waits t) ∧
      (s.wframe fid = none → s.sourceFrom fid 0 = none →
        ∃ t, exec (.weightFrameRead r fid) s = .next t ∧ t.out = .data [] .unreadable ∧ t.mem = s.mem))

/-- LIFT_COMPLETE (R248, R249, R251, R258): of the lift that the flash serves, with a CRC that holds, the frame's bytes stand in its
pool frame and the lift is done, or leave for the peer that asked; of one that a peer has delivered, its bytes stay where they are.
With a CRC that fails a prefetch is abandoned, and a demand lift from flash goes into its retries. -/
def Claim.LiftsMakeFramesPresent : Prop :=
  ∀ (s : State) (l : Lift) (ok : Bool),
    let place := (s.flashPlace l.fid).getD 0
    let clean (u : State) (pa : Nat) : State := (u.markRange pa 0x200000 .none).dramUse (if l.cls = 1 then 1 else 2) true pa 0x200000
    (s.onFlash = some l → l.retrying = false → l.delivered = false →
      (ok = true ∧ s.crcMatches l.fid (s.flashBytes place) = true →
        (∀ n, l.transit = none → l.frame = some n → exec (.liftComplete l.fid ok) s = .next
          (State.liftDone (clean ((State.putBytes s.ok (frameAddr n) (s.flashBytes place)).readFlash place id) (frameAddr n)) l)) ∧
        (∀ dst tag, l.transit = some (dst, tag) → exec (.liftComplete l.fid ok) s = .next
          (((s.ok.updTiers fun t => { t with lifts := dropFirst t.lifts (· == l) }).readFlash place id).answerLift dst tag
            (s.flashBytes place) 0))) ∧
      (ok = false ∨ s.crcMatches l.fid (s.flashBytes place) = false → l.transit = none →
        (l.cls = 3 → exec (.liftComplete l.fid ok) s = .next (State.abandonLift s.ok l)) ∧
        (l.cls ≠ 3 → l.srcOf (s.sourcesOf l.fid) = 0xFE → l.retries < 7 →
          exec (.liftComplete l.fid ok) s = .next (State.updLift s.ok l.fid fun x => { x with retrying := true, started := true })))) ∧
    ∀ n, (∀ k, s.onFlash = some k → k.fid = l.fid → k.retrying = true) →
      s.tiers.lifts.find? (fun x => x.fid == l.fid && x.delivered && x.transit.isNone) = some l → l.frame = some n → ok = true →
      s.crcMatches l.fid (s.bytes (frameAddr n) 0x200000) = true →
      exec (.liftComplete l.fid ok) s = .next (let u := clean (State.liftDone s.ok l) (frameAddr n)
        if l.recover = true then u.count .peerRecovered else u)

/-- A lift that is done (R248): its frame is PRESENT, no lift of it is left, and no read waits for it any more. -/
def Claim.DoneLiftsReleaseReaders : Prop :=
  ∀ (s : State) (l : Lift) (w : WFrame), s.wframe l.fid = some w →
    ((s.liftDone l).wframe l.fid).map (·.st) = some .present ∧ (s.liftDone l).liftOf l.fid = none ∧
    ∀ x ∈ (s.liftDone l).tiers.waits, x.fid = l.fid → (s.liftDone l).waitOpen x = false

/-- Demand reads lift weight frames, and done lifts release their readers. Complete here: weightFrameRead, liftComplete. -/
def Obligations.WeightFramesAreLifted : Prop :=
  Claim.DemandReadsLiftFrames ∧ Claim.LiftsMakeFramesPresent ∧ Claim.DoneLiftsReleaseReaders

/-- UNCORRECTABLE_FLASH_READ and FLASH_READ_RETRY (R233, R258, R259): a page that cannot be decoded sends a lift from flash into its
retries, which are counted anew for each page, or abandons a prefetch; a retry counts and names its block for relocation; the
seventh that fails marks the local copy unreadable. -/
def Claim.FlashReadsRetry : Prop :=
  (∀ (s : State) (l : Lift) (page : Fin 32), s.onFlash = some l → l.retrying = false → page.val ∉ l.pages → l.transit = none →
    let l1 : Lift := { l with retries := 0, pages := l.pages ++ [page.val] }
    let u := s.ok.updTiers fun t => { t with lifts := updFirst t.lifts (· == l) fun _ => l1 }
    (l.cls ≠ 3 → exec (.uncorrectableFlashRead l.fid page) s = .next (u.updLift l.fid fun x => { x with retrying := true, started := true })) ∧
    (l.cls = 3 → exec (.uncorrectableFlashRead l.fid page) s = .next (u.abandonLift l1))) ∧
  ∀ (s : State) (fid : FrameId) (l : Lift), s.tiers.lifts.find? (fun l => l.fid == fid && l.retrying) = some l →
    (∃ t, exec (.flashReadRetry fid true) s = .next t ∧ t.ctr .flashRetry = s.ctr .flashRetry + 1 ∧
      (∃ x ∈ t.tiers.lifts, x = { l with retries := l.retries + 1, retrying := false }) ∧ t.tiers.unreadable = s.tiers.unreadable ∧ t.mem = s.mem) ∧
    (l.retries < 6 → ∃ t, exec (.flashReadRetry fid false) s = .next t ∧ t.ctr .flashRetry = s.ctr .flashRetry + 1 ∧
      (∃ x ∈ t.tiers.lifts, x = { l with retries := l.retries + 1 }) ∧ t.tiers.unreadable = s.tiers.unreadable ∧ t.mem = s.mem) ∧
    (6 ≤ l.retries → ∃ t, exec (.flashReadRetry fid false) s = .next t ∧ l.fid ∈ t.tiers.unreadable)

/-- WEIGHT_LATE_EXPIRE (R254): a read that has waited for its model's limit is late from then on; the lift goes on. -/
def Claim.LateReadsCompleteMarked : Prop :=
  ∀ (s : State) (w : WaitRead), s.tiers.waits.find? (fun x => x.who == w.who && x.fid == w.fid && s.waitOpen x) = some w →
    w.since + 1000000 * w.limitMs ≤ s.now →
    ∃ t, exec (.weightLateExpire w.who w.fid) s = .next t ∧ { w with late := true } ∈ t.tiers.waits ∧ t.tiers.lifts = s.tiers.lifts ∧ t.mem = s.mem

/-- PRED_PREFETCH (R233): candidates of a model with the predictor on, frames of an object in rising order, are offered one after the
other. -/
def Claim.PredictorOffersItsCandidates : Prop :=
  ∀ (s : State) (m : BitVec 32) (ch : Fin 16) (l : List (Nat × Nat)) (x : AccessEnv), s.accessEnv m ch = some x →
    x.m.image.expert.moeLayers ≠ 0 → x.m.image.expert.pred ≠ 0 → x.m.image.expert.predBudget ≠ 0 →
    (pairwiseB (fun (a b : Nat × Nat) => a.1 != b.1 || decide (a.2 < b.2)) l) = true →
    exec (.predPrefetch m ch l) s = .next (l.foldl (fun u c => State.predict u x { model := m, obj := c.1, f := c.2 }) s.ok)

/-- KV_DEMOTE_COMPLETE and KV_PROMOTE (R238, R244, R245): the copy of a block set that is idle ends in the overflow area, its pool
places free and the demotion counted; a block set of the lowest idle handle is promoted into free frames. -/
def Claim.BlockSetsMoveBetweenTiers : Prop :=
  (∀ (s : State) (b : BlockSet) (places : List Nat), s.srv.blocks.find? (fun x => x.model == b.model && x.sub == b.sub && x.demoting && x.inPool) = some b →
    (s.demotable b = false → exec (.kvDemoteComplete b.model b.sub) s = .next (State.setBlock s.ok b fun x => { x with demoting := false })) ∧
    (s.demotable b = true → s.freeOverflow b.places.length = some places →
      let u := State.demoteBlock s.ok b places
      exec (.kvDemoteComplete b.model b.sub) s = .next u.feedLifts ∧ u.ctr .kvDemote = s.ctr .kvDemote + 1 ∧
        u.tiers.overflow = s.tiers.overflow ++ places ∧
        u.srv.blocks.find? (fun x => x.model == b.model && x.sub == b.sub) = (s.srv.blocks.find? fun x => x.model == b.model && x.sub == b.sub).map
          fun x => { x with demoting := false, inPool := false, places := places })) ∧
  ∀ (s u : State) (b : BlockSet) (m : Model) (places : List Nat), s.srv.blocks.find? (fun x => x.model == b.model && x.sub == b.sub && !x.inPool) = some b →
    s.model b.model = some m → s.demotable b = true →
    (∀ x ∈ s.srv.blocks, x.inPool = false → s.demotable x = true → (s.holders b).foldl min (2 ^ 32) ≤ (s.holders x).foldl min (2 ^ 32)) →
    s.takeSubs b.tenant m.id b.places.length true (b.places.length / 32 + 2) = (some places, u) →
    exec (.kvPromote b.model b.sub) s = .next (State.count ((((u.ok).moveBlock b places).setBlock b fun x =>
      { x with inPool := true, places := places }).updTiers fun t => { t with overflow := t.overflow.filter fun a => !b.places.contains a }) .kvPromote)

/-- Flash upkeep (R264, R265): DRIZZLE_SCAN reads a block and names it for relocation where a retry or its corrected bits ask for it;
DRIZZLE_RELOCATE moves the pages of a block that is named or has been read 100,000 times; WEAR_RELOCATE those of one whose erases
lie more than 200 below the average. A block of which every page's copy passes its CRC holds nothing after it, has no reads and one
erase more; no content changes. -/
def Claim.FlashBlocksAreRelocated : Prop :=
  ∀ (s : State) (k : Nat), k ∈ s.flashBlocks →
    let moved (t : State) : Prop := t.tiers.flash = s.tiers.flash ∧ ((∀ p ∈ s.tiers.pieces, p.block = k → crc64 (s.flashPiece p.piece) = p.crc) →
      s.freshBlock ≠ k → k ∉ t.flashBlocks ∧ (t.blockOf k).reads = 0 ∧ (t.blockOf k).erases = (s.blockOf k).erases + 1 ∧ (t.blockOf k).relocate = false)
    (∀ r p, ∃ t, exec (.drizzleScan k r p) s = .next t ∧ (t.blockOf k).reads = (s.blockOf k).reads + 1 ∧ (t.blockOf k).lastScan = s.now ∧
      (t.blockOf k).relocate = ((s.blockOf k).relocate || (r || p)) ∧ t.ctr .drizzleScanned = s.ctr .drizzleScanned + 1 ∧
      t = { s with out := .done, tiers := { s.tiers with blocks := t.tiers.blocks }, ctrs := t.ctrs }) ∧
    ((s.blockOf k).relocate = true ∨ 100000 ≤ (s.blockOf k).reads →
      ∃ t, exec (.drizzleRelocate k) s = .next t ∧ t.ctr .drizzleReloc = s.ctr .drizzleReloc + 1 ∧ moved t) ∧
    ((s.blockOf k).erases + 200 < s.averageErases → ∃ t, exec (.wearRelocate k) s = .next t ∧ t.mem = s.mem ∧ moved t)

/-- Flash reads, late reads, relocation, prediction and block sets between tiers. Complete here: flashReadRetry, uncorrectableFlashRead,
weightLateExpire, predPrefetch, kvDemoteComplete, kvPromote, drizzleRelocate, drizzleScan, wearRelocate. -/
def Obligations.FlashAndTiersMove : Prop :=
  Claim.FlashReadsRetry ∧ Claim.LateReadsCompleteMarked ∧ Claim.PredictorOffersItsCandidates ∧ Claim.BlockSetsMoveBetweenTiers ∧ Claim.FlashBlocksAreRelocated

/-! ## The CXL port -/

/-- CXL_MEM_READ and CXL_MEM_WRITE (R332, R333, R335, R336) of an awake module over a committed decoder, no DMA write being on its way:
a read of which every chunk is admitted without a snoop answers its bytes, one of which a chunk is refused answers zeros with poison
and is counted; a write is performed chunk by chunk under the mark that its poison gives. A request to a module that sleeps wakes it
and waits. -/
def Claim.CxlMemoryIsChecked : Prop :=
  ∀ (s : State) (dpa : BitVec 48) (size : Nat) (data : List Byte) (poison : Bool) (ecc : Ecc),
    s.linkUp = true → s.cxl.state ≠ .pcieOnly → s.boot.stage = 9 → s.cxl.hdmCommitted = true →
    let u : State := { s with out := .done, pwr := { s.pwr with lastRequest := s.now } }
    (0 < size → dpa.toNat + size ≤ s.dramTop → s.pwr.sleep = .awake → s.coh.fresh = [] →
      ((∀ a ∈ chunksOf dpa.toNat size, u.admitted .host false (max a dpa.toNat) = some false) →
        let w := (u.dramRead 1 dpa.toNat size).dramCheck dpa.toNat ecc
        exec (.cxlMemRead dpa size ecc) s = .next (w.answerRead (w.load dpa.toNat size)) ∧
        ∃ t, exec (.cxlMemRead dpa size .clean) s = .next t ∧ t.mem = s.mem ∧ t.marks = s.marks ∧
          t.out = .data ((s.load dpa.toNat size).map (·.1)) (joinMarks ((s.load dpa.toNat size).map (·.2)))) ∧
      ((∃ a ∈ chunksOf dpa.toNat size, u.admitted .host false (max a dpa.toNat) = none) →
        ∃ t, exec (.cxlMemRead dpa size ecc) s = .next t ∧ t.mem = s.mem ∧ t.marks = s.marks ∧
          t.out = .data (List.replicate size 0) .unreadable ∧ t.ctr .inDenyRead = s.ctr .inDenyRead + 1)) ∧
    (data ≠ [] → dpa.toNat + data.length ≤ s.dramTop → s.pwr.sleep = .awake →
      exec (.cxlMemWrite dpa data poison) s =
        .next (u.inWrite .host 0 dpa.toNat (data.map fun b => (b, if poison then .unreadable else .none)))) ∧
    (0 < size → dpa.toNat + size ≤ s.dramTop → s.pwr.sleep ≠ .awake → exec (.cxlMemRead dpa size ecc) s = .next { s.requested with out := .waits })

/-- BAR4 (R330, R334): an access reaches memory as its requester's, as a CXL access does; in PCIe mode BAR4 is disabled, a read is an
Unsupported Request and a write has no effect. -/
def Claim.Bar4IsCheckedByRequester : Prop :=
  ∀ (s : State) (off : BitVec 42) (size : Nat) (data : List Byte) (id : BitVec 16) (poison : Bool) (ecc : Ecc),
    s.linkUp = true → s.boot.stage = 9 → s.pwr.sleep = .awake → s.coh.fresh = [] → 0 < size → data ≠ [] →
    let x := inletOf id
    let u : State := { s with out := .done, pwr := { s.pwr with lastRequest := s.now } }
    (s.cxl.state ≠ .pcieOnly →
      exec (.bar4Write off data id poison) s =
        .next (u.inWrite x 0 off.toNat (data.map fun b => (b, if poison then .unreadable else .none))) ∧
      ((∀ a ∈ chunksOf off.toNat size, u.admitted x false (max a off.toNat) = some false) →
        let w := (u.dramRead 1 off.toNat size).dramCheck off.toNat ecc
        exec (.bar4Read off size id ecc) s = .next (w.answerRead (w.load off.toNat size)) ∧
        ∃ t, exec (.bar4Read off size id .clean) s = .next t ∧ t.mem = s.mem ∧
          t.out = .data ((s.load off.toNat size).map (·.1)) (joinMarks ((s.load off.toNat size).map (·.2)))) ∧
      ((∃ a ∈ chunksOf off.toNat size, u.admitted x false (max a off.toNat) = none) →
        ∃ t, exec (.bar4Read off size id ecc) s = .next t ∧ t.mem = s.mem ∧ t.out = .unsupportedRequest ∧
          t.ctr .inDenyRead = s.ctr .inDenyRead + 1)) ∧
    (s.cxl.state = .pcieOnly →
      exec (.bar4Read off size id ecc) s = .next { s with out := .unsupportedRequest } ∧
      exec (.bar4Write off data id poison) s = .next { s with out := .done })

/-- CXL.mem and BAR4 accesses. Complete here: cxlMemRead, cxlMemWrite, bar4Read, bar4Write. -/
def Obligations.CxlMemoryAndBar4 : Prop :=
  Claim.CxlMemoryIsChecked ∧ Claim.Bar4IsCheckedByRequester

/-- One chunk of an incoming write (R335): refused, it is dropped and counted by its source, and no byte and no mark changes; admitted
without a snoop, its bytes are in memory, and bytes at other places are as before. -/
def Claim.RefusedChunksAreDropped : Prop :=
  ∀ (s : State) (x : Inlet) (port : InPort) (a : Nat) (data : List MByte),
    (s.admitted x true a = none →
      (s.inChunk x port a data).mem = s.mem ∧ (s.inChunk x port a data).marks = s.marks ∧ (s.inChunk x port a data).gens = s.gens ∧
      (s.inChunk x port a data).ctr x.dropCtr = s.ctr x.dropCtr + 1) ∧
    (s.admitted x true a = some false →
      (s.inChunk x port a data).mem = (s.putBytes a (data.map (·.1))).mem ∧ (s.inChunk x port a data).ctrs = s.ctrs)

/-- Who a region admits (R334, Table 13.4): the host, an adapter that its list names or any where the list is empty, a module that its
list names or any of the pod, each under its own flag. -/
def Claim.RegionsAdmitByTheirLists : Prop :=
  ∀ (r : Region) (inPod : Bool) (id : BitVec 16) (m : Nat),
    (r.admits inPod .host = true ↔ r.host = true) ∧
    (r.admits inPod (.adapter id) = true ↔ r.adapter = true ∧ (r.requesters = [] ∨ id ∈ r.requesters)) ∧
    (r.admits inPod (.peer m) = true ↔ r.peer = true ∧ ((r.modules = [] ∧ inPod = true) ∨ (r.modules ≠ [] ∧ m ∈ r.modules)))

/-- Incoming accesses are admitted by their regions; refused chunks are dropped and counted. -/
def Obligations.IncomingAccessesAreChecked : Prop :=
  Claim.RefusedChunksAreDropped ∧ Claim.RegionsAdmitByTheirLists

/-- The CXL link (R330, R339): training ends at the state that its lanes and rate give; a link that leaves L0 is counted and trains;
back in L0 within 50 ms its egress leaves in order. -/
def Claim.CxlLinkTrains : Prop :=
  ∀ (s : State) (lanes gt : Nat),
    (s.cxl.state = .training ∨ s.cxl.state = .down → s.cxl.leftL0 = none → s.boot.perstN = true → s.cxl.microcode = true →
      (lanes < 8 → s.cxl.state = .training → exec (.cxlLinkUp lanes gt) s =
        .next { s with out := .done, cxl := { s.cxl with state := .down, tState := s.now } }) ∧
      (8 ≤ lanes → exec (.cxlLinkUp lanes gt) s = .next { s with
        out := .done
        cxl := { s.cxl with
          width := if 16 ≤ lanes then 16 else 8, speed := gt, tState := s.now
          state := if gt < 32 then .pcieOnly else if lanes < 16 then .degraded else .up } })) ∧
    (s.linkUp = true → ∃ t, exec .cxlLinkRecovery s = .next t ∧ t.cxl.state = .training ∧ t.cxl.leftL0 = some s.now ∧
      t.cxl.retrains = s.cxl.retrains + 1 ∧ t.ctr .cxlRetrain = s.ctr .cxlRetrain + 1 ∧ t.mem = s.mem ∧ t.eci = s.eci) ∧
    (∀ t0, s.cxl.leftL0 = some t0 → s.now ≤ t0 + 50000000 → s.cxl.state = .training →
      exec .cxlLinkL0 s = .next (State.drainEgress { s with
        out := .done, cxl := { s.cxl with leftL0 := none, state := s.cxl.upState, tState := s.now } }))

/-- The ways to lose the host (R340, R341): 50 ms out of L0, a hot reset, a disabled link, a function reset, PERST_N: the sessions
attached over the port are lost under the cause, and the link is then down, trains again, or stays. -/
def Claim.PortEventsLoseTheHost : Prop :=
  ∀ s : State, (s.linkUp = true ∨ s.cxl.leftL0.isSome = true) →
    let lost (i : Instr) (u : State) (cause : Nat) (after : LinkState) : Prop :=
      ∃ t, exec i s = .next t ∧ t.eci = (State.portLoss u cause).eci ∧ t.mem = (State.portLoss u cause).mem ∧ t.cxl.state = after ∧
        t.cxl.leftL0 = none ∧ ∀ i x, s.session i = some x → x.onPkg = false → s.eci.detaching = [] → t.session i = some { x with lost := true }
    (∀ t0, s.cxl.leftL0 = some t0 → t0 + 50000000 ≤ s.now → lost .cxlLinkTimeout s.ok 0 .down) ∧
    lost .cxlHotReset s.ok 1 .training ∧ lost .cxlLinkDisable s.ok 1 .down ∧
    (s.linkUp = true → lost .cxlFlr s.ok 2 s.cxl.state) ∧
    (s.boot.perstN = true → s.eci.devState ≠ .uninit → s.cxl.state ≠ .down → lost .perstNAssert { s with out := .done, boot := { s.boot with perstN := false } } 3 .down)

/-- PERST_N (Table 13.13): deasserted, training begins once the microcode is loaded, and until then configuration requests are to be
retried; REFCLK lost, the holdover oscillator takes over and the CXL link trains again. -/
def Claim.TrainingWaitsForPerst : Prop :=
  ∀ s : State,
    (s.boot.perstN = false → s.cxl.state ≠ .training →
      exec .perstNDeassert s = .next (if s.cxl.microcode
        then { s with out := .done, boot := { s.boot with perstN := true }, cxl := { s.cxl with state := .training, tState := s.now } }
        else { s with out := .done, boot := { s.boot with perstN := true } })) ∧
    (s.cxl.microcode = true → s.boot.perstN = true → exec .cxlConfigRequest s = .next { s with out := .done }) ∧
    (s.cxl.microcode = false ∨ s.boot.perstN = false → exec .cxlConfigRequest s = .next { s with out := .configRetry }) ∧
    (s.boot.holdover = false → s.boot.supply.on = true →
      ∃ t, exec .refclkLoss s = .next t ∧ t.boot = { s.boot with holdover := true } ∧ t.mem = s.mem ∧ t.eci = s.eci ∧
        (s.linkUp = true → t.cxl.state = .training) ∧
        ∀ p, (s.port p).state.isUp = true → (t.port p).state = .training ∧ (t.port p).leftUp = some s.now)

/-- HOST_PUSH_COMPLETE (R326, R338): over a link that carries traffic, what was issued before leaves first, the pair's oldest waiting
record is written to its completion queue, and a DETACH that waited for it may end; with the link away it waits. -/
def Claim.PushesFollowTheirOrder : Prop :=
  ∀ (s : State) (q : Fin 64) (p : Post), s.eci.posts.find? (·.q == q) = some p →
    (s.linkUp = true → exec (.hostPushComplete q) s =
      .next ((((s.ok).drainEgress).updEci fun e => { e with posts := dropFirst e.posts (·.q == q) }).putPost p).tryDetach) ∧
    (∀ u : State, (u.putPost p).eci = (u.cqPut p.q p.body).eci) ∧
    (s.linkUp = false → exec (.hostPushComplete q) s = .next { s with out := .waits })

/-- The CXL link, host loss, PERST_N, REFCLK, and pushes to the host. Complete here: cxlLinkRecovery, cxlLinkL0, cxlLinkUp,
cxlLinkTimeout, cxlHotReset, cxlLinkDisable, cxlFlr, perstNAssert, refclkLoss, cxlConfigRequest, perstNDeassert, hostPushComplete. -/
def Obligations.CxlLinkAndHostPushes : Prop :=
  Claim.CxlLinkTrains ∧ Claim.PortEventsLoseTheHost ∧ Claim.TrainingWaitsForPerst ∧ Claim.PushesFollowTheirOrder

/-- The device mailbox (R329, R332, R411) outside UNINIT over a link that is up: IDENTIFY gives the populated DRAM, all volatile, in
units of 256 MiB; a log's unread records are read without being marked, and cleared by handle; every opcode but five is answered
Unsupported. -/
def Obligations.MailboxAnswers : Prop :=
  ∀ (s : State) (log : Fin 4) (handles : List Nat) (opc : BitVec 16) (offset length : Nat), s.eci.devState ≠ .uninit → s.linkUp = true →
    (∃ l, exec .identifyMemoryDevice s = .next { s with out := .mailbox 0 l } ∧ l.length = 69 ∧
      (l.drop 16).take 16 = leBytes (s.dramTop / 2 ^ 28) 8 ++ leBytes (s.dramTop / 2 ^ 28) 8) ∧
    exec .getSupportedLogs s = .next { s with out := .mailbox 0 (leBytes 1 2 ++ leBytes 0 6 ++ effectsUuid ++ leBytes 20 4) } ∧
    (∃ l, exec (.getLog offset length) s = .next { s with out := if 20 < offset + length then .mailbox 2 [] else .mailbox 0 l } ∧
      (offset + length ≤ 20 → l.length = length)) ∧
    exec (.getEventRecords log) s = .next { s with
      out := .mailbox 0 (leBytes 0 20 ++ leBytes (s.inLog log).length 2 ++ leBytes 0 10 ++ (s.inLog log).flatMap vendorRecord) } ∧
    (∃ t, exec (.clearEventRecords log handles) s = .next t ∧ t.out = .mailbox 0 [] ∧
      (∀ e ∈ t.inLog log, e.handle ∉ handles) ∧ (∀ k, k ≠ log → t.inLog k = s.inLog k) ∧
      t = { s with out := t.out, logs := { s.logs with events := t.logs.events } }) ∧
    (opc.toNat ∉ [0x4000, 0x0400, 0x0401, 0x0100, 0x0101] →
      exec (.mailboxUnsupported opc) s = .next { s with out := .mailbox 0x15 [] })

/-! ## The management port and attestation -/

/-- MGMT_ECI_REQUEST (R355): with fewer than four requests outstanding, an opcode of the port waits with its entry, an opcode outside
the port completes with NOT_ON_THIS_PORT and an unknown one with INVALID_OPCODE; a fifth request is not acknowledged; in UNINIT the
target acknowledges no packet (R433). -/
def Claim.ManagementRequestsQueue : Prop :=
  ∀ (s : State) (e : Entry) (image : List Byte),
    let r : RecRef := { src := .mgmt, cid := cidOf e, session := sessionOf e }
    (s.eci.devState ≠ .uninit → s.mgmtOutstanding < 4 →
      (knownOpc (opcOf e) = false → exec (.mgmtEciRequest e image) s = .next (State.final s.ok r .invalidOpcode 0 0 0)) ∧
      (knownOpc (opcOf e) = true → mgmtOpc (opcOf e) = false →
        exec (.mgmtEciRequest e image) s = .next (State.final s.ok r .notOnPort 0 0 0)) ∧
      (knownOpc (opcOf e) = true → mgmtOpc (opcOf e) = true → ∃ t, exec (.mgmtEciRequest e image) s = .next t ∧
        t = { s with
          out := .done, pwr := t.pwr
          eci := { s.eci with mgmtInbox := s.eci.mgmtInbox ++ [(e, image)], arrivals := s.eci.arrivals ++ [.mgmt] } })) ∧
    (4 ≤ s.mgmtOutstanding ∨ s.eci.devState = .uninit → exec (.mgmtEciRequest e image) s = .next { s with out := .nacked })

/-- The I3C target (R354, R433): a control message that sets an endpoint identifier takes it, every other leaves it; SETDASA and ENTDAA
give a dynamic address and RSTDAA takes it away, while input power is present (the codes are the standards', log 53). -/
def Claim.I3cTakesAddresses : Prop :=
  ∀ (s : State) (m : List Byte) (code : BitVec 8) (a : BitVec 7),
    (s.eci.devState ≠ .uninit →
      (m.getD 2 0 = 1 → (m.getD 3 0 &&& 3).toNat ≤ 1 → m.getD 4 0 ≠ 0 → m.getD 4 0 ≠ 0xFF →
        exec (.mctpControl m) s = .next { s with out := .acknowledged (m.getD 4 0).toNat, mgmt := { s.mgmt with mctpEid := m.getD 4 0 } }) ∧
      (m.getD 2 0 ≠ 1 → exec (.mctpControl m) s = .next { s with out := .acknowledged s.mgmt.mctpEid.toNat })) ∧
    (s.boot.supply.on = true →
      exec (.i3cCcc code a) s = .next { s with
        out := .acknowledged (0x30 + s.boot.strapAddr.toNat)
        mgmt := { s.mgmt with dynamicAddress :=
          if code = 0x87 ∨ code = 0x07 then some a else if code = 0x06 then none else s.mgmt.dynamicAddress } })

/-- ECI requests of the management port, MCTP control and I3C codes. Complete here: mgmtEciRequest, mctpControl, i3cCcc. -/
def Obligations.ManagementPortAnswers : Prop :=
  Claim.ManagementRequestsQueue ∧ Claim.I3cTakesAddresses

/-- The SPDM responder (R356): a connection is set up by GET_VERSION, GET_CAPABILITIES, NEGOTIATE_ALGORITHMS in that order, each
transport for itself; out of order it answers an error and changes nothing. -/
def Claim.SpdmConnectsInOrder : Prop :=
  ∀ (s : State) (p : Transport), s.eci.devState ≠ .uninit → (p = .doe → s.linkUp = true) →
    exec (.getVersion p) s = .next { State.updSpdm s p (fun _ => { versionDone := true, capsDone := false, algsDone := false }) with
      out := .spdm 0x04 [0x12, 0x13] } ∧
    ((s.spdmConn p).versionDone = true →
      exec (.getCapabilities p) s = .next { State.updSpdm s p (fun c => { c with capsDone := true }) with out := .spdm 0x61 [0x16, 0, 0, 0] }) ∧
    ((s.spdmConn p).capsDone = true →
      exec (.negotiateAlgorithms p) s = .next { State.updSpdm s p (fun c => { c with algsDone := true }) with
        out := .spdm 0x63 [0, 4, 0, 0, 4, 0, 0, 0] }) ∧
    ((s.spdmConn p).versionDone = false → exec (.getCapabilities p) s = .next { s with out := .spdm 0x7F [4] }) ∧
    ((s.spdmConn p).capsDone = false → exec (.negotiateAlgorithms p) s = .next { s with out := .spdm 0x7F [4] })

/-- What a connection that is set up answers (R356, R424, R425): the digest of the certificate chain of slot 0, parts of the chain, a
signature over a challenge, the nine measurements signed; before that, an error. No state changes but the nonces drawn. -/
def Claim.SpdmAttests : Prop :=
  ∀ (s : State) (p : Transport) (slot offset length index : Nat) (nonce : List Byte),
    s.eci.devState ≠ .uninit → (p = .doe → s.linkUp = true) →
    let chain := Config.certificate 0 ++ Config.certificate 1 ++ Config.certificate 2 ++ Config.certificate (3 + s.boot.aliasKey)
    let part := (chain.drop offset).take length
    ((s.spdmConn p).algsDone = true →
      exec (.getDigests p) s = .next { s with out := .spdm 0x01 ([0x01] ++ Config.sha512 chain) } ∧
      exec (.getCertificate p slot offset length) s = .next { s with
        out := if slot ≠ 0 ∨ chain.length < offset then .spdm 0x7F [1]
          else .spdm 0x02 (leBytes part.length 2 ++ leBytes (chain.length - offset - part.length) 2 ++ part) } ∧
      exec (.challenge p 0 nonce) s = .next { s with
        free := s.free + 1
        out := .spdm 0x03 (Config.sha512 chain ++ s.spdmNonce ++
          Config.aliasSign s.boot.aliasKey (nonce ++ (Config.sha512 chain ++ s.spdmNonce))) } ∧
      (index < 10 ∨ index = 0xFF → ∃ body, (body : List Byte).head? = some (if index = 0 ∨ index = 0xFF then 9 else 1) ∧
        exec (.getMeasurements p index nonce) s = .next { s with
          free := s.free + 1, out := .spdm 0x60 (body ++ Config.aliasSign s.boot.aliasKey (nonce ++ body)) }) ∧
      (slot ≠ 0 → exec (.challenge p slot nonce) s = .next { s with out := .spdm 0x7F [1] }) ∧
      (10 ≤ index → index ≠ 0xFF → exec (.getMeasurements p index nonce) s = .next { s with out := .spdm 0x7F [1] })) ∧
    ((s.spdmConn p).algsDone = false →
      ∀ c ∈ [Instr.getDigests p, .getCertificate p slot offset length, .challenge p slot nonce, .getMeasurements p index nonce],
        exec c s = .next { s with out := .spdm 0x7F [4] })

/-- The SPDM responder. Complete here: getVersion, getCapabilities, negotiateAlgorithms, getDigests, getCertificate, challenge,
getMeasurements. -/
def Obligations.SpdmConnectsAndAttests : Prop :=
  Claim.SpdmConnectsInOrder ∧ Claim.SpdmAttests

/-! ## Denbel -/

/-- The link layer (R345, R347): an undecodable flit is answered with a NAK; a sequenced flit with the number awaited is accepted and
spends the credits of its class, any other asks for a replay; a flit that error correction mended is counted; an acknowledgement
frees the replay buffer up to its flit and a NAK sends the rest again. -/
def Claim.FlitsAreAcceptedInOrder : Prop :=
  ∀ (s : State) (p : Fin 4) (f : Flit) (ack : BitVec 10), (s.port p).state.isUp = true → (s.port p).sendQ = [] →
    let q := s.port p
    (∀ fixed : Bool,
      exec (.dnbFlitReceive p f false fixed) s = .next { s with
        out := .done, dnb := { s.dnb with ports := upd s.dnb.ports p fun x => { x with nakOwed := true } } } ∧
      let u := if fixed then State.count s.ok (portCtr .dnbFecCorr0 .dnbFecCorr1 .dnbFecCorr2 .dnbFecCorr3 p) else s.ok
      let v := u.updPort p fun x => x.hear f
      let w := if f.nak then v.replayPort p else v
      exec (.dnbFlitReceive p f true fixed) s =
        .next ((if f.kind = 1 ∨ f.kind = 2 then w.updPort p fun x => x.accept f else w).drainPort p)) ∧
    (f.nak = false → f.kind = 1 →
      ∃ t, exec (.dnbFlitReceive p f true false) s = .next t ∧
        (f.seq = q.rxSeq → (t.port p).rxSeq = q.rxSeq + 1 ∧ (t.port p).nakOwed = q.nakOwed ∧
          pick (t.port p).granted (flitCost f).1 = pick q.granted (flitCost f).1 - (flitCost f).2) ∧
        (f.seq ≠ q.rxSeq → (t.port p).rxSeq = q.rxSeq ∧ (t.port p).nakOwed = true ∧ (t.port p).granted = q.granted) ∧
        (t.port p).replay = (if f.ackv then ackFlits q.replay f.ack else q.replay) ∧
        t = { s with out := .done, dnb := { s.dnb with ports := t.dnb.ports } } ∧ ∀ k, k ≠ p → t.port k = s.port k) ∧
    (∃ t, exec (.dnbNak p ack) s = .next t ∧ (t.port p).replay = ackFlits q.replay ack ∧ (t.port p).txSeq = q.txSeq ∧
      t.ctr (portCtr .dnbReplay0 .dnbReplay1 .dnbReplay2 .dnbReplay3 p) =
        s.ctr (portCtr .dnbReplay0 .dnbReplay1 .dnbReplay2 .dnbReplay3 p) + (ackFlits q.replay ack).length ∧
      t.mem = s.mem ∧ t.eci = s.eci ∧ ∀ k, k ≠ p → t.port k = s.port k)

/-- Training (R345, R349, R350): a port that trains again keeps its replay buffer and is counted; it comes UP at full or half width
where it was, a port that was DOWN anew, with the credits of Table 13.10 and the identity of its module to send; not UP after 100 ms
it goes DOWN and loses its neighbours; a neighbour is taken from its POD message. -/
def Claim.PortsTrain : Prop :=
  ∀ (s : State) (p : Fin 4) (lanes : Nat) (neighbour : BitVec 8),
    let q := s.port p
    (q.state.isUp = true → ∃ t, exec (.dnbRetrain p) s = .next t ∧
      t.port p = { q with state := .training, leftUp := some s.now, tState := s.now, retrains := q.retrains + 1, replays := [] } ∧
      (∀ k, k ≠ p → t.port k = s.port k) ∧ t.mem = s.mem ∧ t.eci = s.eci) ∧
    (q.state.isUp = false → q.heldDown = false → s.cxl.microcode = true → 8 ≤ lanes →
      ∃ t, exec (.dnbPortUp p lanes) s = .next t ∧
        (t.port p).state = (if 16 ≤ lanes then .up else .degraded) ∧ (t.port p).width = (if 16 ≤ lanes then 16 else 8) ∧
        (t.port p).leftUp = none ∧ t.mem = s.mem ∧ t.eci = s.eci ∧
        (q.leftUp = none → s.dnb.outbox = [] → (t.port p).rxSeq = 0 ∧ (t.port p).txSeq = 1 ∧ (t.port p).streams = [] ∧
          (t.port p).replay.map (·.payload) = [padFlit (msgBytes (s.podMsg p))])) ∧
    (∀ t0, q.leftUp = some t0 → t0 + 100000000 ≤ s.now → exec (.dnbPortDown p) s = .next (State.portLost s.ok p)) ∧
    (q.state.isUp = true → s.eci.pod = none → s.dnb.reqs = [] → s.dnb.switching = [] → s.srv.transfers = [] → s.tiers.lifts = [] →
      s.tiers.unreadable = [] → exec (.dnbPod p neighbour) s = .next { s with
        out := .done, dnb := { s.dnb with ports := upd s.dnb.ports p fun x => { x with neighbour := neighbour } } })

/-- A message for another module (R349) goes on by its route with one hop more, and at 7 hops or without a route is discarded and
counted. -/
def Claim.MessagesAreForwarded : Prop :=
  ∀ (s : State) (m : Msg), s.denbelUp = true → m.dst ≠ s.eci.moduleIndex →
    (∀ p : Fin 4, s.route m.dst = p.val → m.hops ≠ 7 → exec (.dnbForward m) s = .next (State.drainPort { s with
      out := .done
      dnb := { s.dnb with ports := upd s.dnb.ports p fun x => { x with sendQ := x.sendQ ++ [msgFlit { m with hops := m.hops + 1 }] } } } p)) ∧
    (m.hops = 7 ∨ s.route m.dst = 15 → exec (.dnbForward m) s = .next (State.count s.ok .dnbUnroutable))

/-- Denbel flits, ports and forwarding. Complete here: dnbFlitReceive, dnbNak, dnbRetrain, dnbPortUp, dnbPortDown, dnbPod, dnbForward. -/
def Obligations.DenbelLinkLayer : Prop :=
  Claim.FlitsAreAcceptedInOrder ∧ Claim.PortsTrain ∧ Claim.MessagesAreForwarded

/-- Peer writes and reads (R285, R335, R348) at an awake module: a write is performed chunk by chunk and acknowledged; a write under a
mask writes the bytes it enables; a read brings its chunks with their marks, or zeros marked unreadable where a chunk is refused. -/
def Claim.PeersReadAndWrite : Prop :=
  ∀ (s : State) (m : Msg) (ecc : Ecc), s.denbelUp = true → m.dst = s.eci.moduleIndex → s.boot.stage = 9 → s.pwr.sleep = .awake →
    let u : State := { s with out := .done, pwr := { s.pwr with lastRequest := s.now } }
    let x : Inlet := .peer m.src.toNat
    let a := m.addr.toNat / 64 * 64
    let n := 64 * m.aux.toNat
    let mask := leNat (m.data.take 8)
    exec (.dnbWr m) s = .next ((u.inWrite x (u.portOf m.src) m.addr.toNat (msgData m)).sendNow (wackMsg s.eci.moduleIndex m.src m.tag)) ∧
    (mask ≠ 0 → exec (.dnbWrp m) s = .next ((u.inWrite x (u.portOf m.src) a
      (u.maskedChunk a mask (m.data.drop 16) (msgMark m 0))).sendNow (wackMsg s.eci.moduleIndex m.src m.tag))) ∧
    (mask = 0 → exec (.dnbWrp m) s = .next (u.sendNow (wackMsg s.eci.moduleIndex m.src m.tag))) ∧
    (∀ i < 64, ((u.maskedChunk a mask (m.data.drop 16) (msgMark m 0)).map (·.1)).getD i 0 =
      if bitAt mask i then (m.data.drop 16).getD i 0 else s.byteAt (a + i)) ∧
    (s.coh.fresh = [] → (∀ c ∈ chunksOf a n, u.admitted x false (max c a) = some false) →
      let w := (u.dramRead 1 a n).dramCheck a ecc
      exec (.dnbRd m ecc) s = .next (w.sendNow (rdrMsg s.eci.moduleIndex m.src m.tag (w.load a n)))) ∧
    ((∃ c ∈ chunksOf a n, u.admitted x false (max c a) = none) →
      ∃ v, exec (.dnbRd m ecc) s = .next (State.sendNow v (rdrMsg s.eci.moduleIndex m.src m.tag
          ((List.replicate n (0 : Byte)).map fun b => (b, .unreadable)))) ∧ v.mem = s.mem ∧ v.ctr .inDenyRead = s.ctr .inDenyRead + 1)

/-- Answers of peers (R348, R351, R352): data reaches the request of its tag; acknowledgements end the oldest writes to their module; a
request without an answer for 200 ms is counted and fails by its kind. -/
def Claim.PeerAnswersEndRequests : Prop :=
  ∀ (s : State) (m : Msg) (r : PeerReq), s.dnb.switching = [] →
    (s.denbelUp = true → m.dst = s.eci.moduleIndex → s.boot.stage = 9 → s.pwr.sleep = .awake →
      let u : State := { s with out := .done, pwr := { s.pwr with lastRequest := s.now } }
      (s.dnb.reqs.find? (fun x => x.tag == m.tag && x.dst == m.src && x.chunks != 0 && x.open_) = some r → m.data.length = 64 * r.chunks →
        s.wanted r = true →
        exec (.dnbRdr m) s = .next { u with
          dnb := { s.dnb with reqs := updFirst s.dnb.reqs (· == r) fun x => { x with got := msgData m } } }) ∧
      exec (.dnbWack m) s = .next (u.acknowledge m.src m.aux.toNat) ∧
      ∀ n, u.acknowledge m.src (n + 1) = match s.dnb.reqs.find? (fun x => x.isWrite && x.dst == m.src) with
        | none => u
        | some w => State.acknowledge { u with dnb := { s.dnb with reqs := dropFirst s.dnb.reqs (· == w) } } m.src n) ∧
    (s.dnb.reqs.find? (fun x => x.tag == r.tag && x.open_) = some r → r.since + 200000000 ≤ s.now →
      ∃ t, exec (.peerTimeout r.tag) s = .next t ∧ (r.what = .write none ∨ r.what = .read none →
        t.dnb.reqs = dropFirst s.dnb.reqs (· == r) ∧ t.ctr .peerTimeout = s.ctr .peerTimeout + 1 ∧ t.mem = s.mem))

/-- Peer requests and answers. Complete here: dnbWr, dnbWrp, dnbRd, dnbRdr, dnbWack, peerTimeout. -/
def Obligations.DenbelPeersReadAndWrite : Prop :=
  Claim.PeersReadAndWrite ∧ Claim.PeerAnswersEndRequests

/-- Frames and streams (R251, R344, R346): a peer's lift of a frame that is PRESENT is answered with its bytes; of one in flash it
starts a lift; of one this module cannot bring it is answered unreadable. A stream's tag is taken at its opening, its bytes are
delivered in order and its end waits for all of them, unless it is cancelled; key-value words reach their transfer. -/
def Obligations.StreamsDeliverInOrder : Prop :=
  ∀ (s : State) (m : Msg) (p : Fin 4) (word : KvxWord), (s.port p).state.isUp = true → m.dst = s.eci.moduleIndex → s.boot.stage = 9 →
    s.pwr.sleep = .awake →
    let u : State := { s with out := .done, pwr := { s.pwr with lastRequest := s.now } }
    let fid : FrameId := { model := BitVec.ofNat 32 (leNat (m.data.take 4)), obj := leNat ((m.data.drop 4).take 4), f := m.addr.toNat }
    (∀ w f, s.wframe fid = some w → w.st = .present → w.frame = some f →
      exec (.dnbLift m) s = .next ((u.dramUse 2 false (frameAddr f) Config.frameBytes).answerLift m.src m.tag (u.frameOut f).1 (u.frameOut f).2)) ∧
    ((∀ w, s.wframe fid = some w → w.st ≠ .present) → s.usable fid 0xFE = true → exec (.dnbLift m) s = .next { u with
      tiers := { s.tiers with lifts := s.tiers.lifts ++
        [{ fid := fid, cls := 2, since := s.now, source := 0xFE, transit := some (m.src, m.tag) }] } }) ∧
    ((∀ w, s.wframe fid = some w → w.st ≠ .present) → s.usable fid 0xFE = false → exec (.dnbLift m) s = .next (u.answerLift m.src m.tag [] 1)) ∧
    exec (.dnbKvx m word) s = .next (u.kvx m word) ∧
    (exec (.dnbStreamOpen p m) s = .next { u with dnb := { s.dnb with ports := upd s.dnb.ports p fun x =>
      { x with streams := x.streams.filter (fun y => y.stag != (streamOf m).stag) ++ [streamOf m] } } }) ∧
    (∀ (x : Stream) (data : List Byte), (s.port p).streams.find? (·.stag == x.stag) = some x → x.dst = s.eci.moduleIndex →
      exec (.dnbStreamFlit p x.stag data) s = .next ((u.deliverStream x (data.take (x.length - x.got))).updPort p fun y => { y with
        streams := updFirst y.streams (· == x) fun z => { z with got := min z.length (z.got + 640) } })) ∧
    (∀ x : Stream, (s.port p).streams.find? (fun x => x.src == m.src && x.dst == m.dst && x.mtag == m.tag) = some x →
      (x.got < x.length → m.aux ≠ 2 → exec (.dnbStreamEnd p m) s = .next { s with out := .waits }) ∧
      (x.length ≤ x.got ∨ m.aux = 2 →
        let w := u.updPort p fun y => { y with streams := dropFirst y.streams (· == x) }
        exec (.dnbStreamEnd p m) s =
          .next (State.finishSwitch (if x.purpose = purposeLift then w.endLiftStream x m.aux.toNat else w.endKvStream x m.aux.toNat))))

/-! ## Steps -/

/-- stepDispatch completes (R146, R147, R184, R417): the oldest closed step of a chain, in SERVING or DEGRADED, awake, with no copies
that switch and no stream export of its items that waits for its destination: an index outside its dimension fails the step's items
with SELECT_RANGE, a unit out of service with UNIT_OFFLINE; on free Fronts, with its positions covered, the step's count rises, its
inputs are written and its first attempt starts with the variant its indices select. -/
def Claim.ClosedStepsDispatch : Prop :=
  ∀ (s : State) (i : BitVec 32) (ch : Fin 16) (m : Model) (c : Chain) (k : Closed) (l : List Closed) (f : Family),
    s.model i = some m → s.chain i ch = some c → c.closed = k :: l → m.image.familyOf ch = some f → c.run = none →
    (s.eci.devState = .serving ∨ s.eci.devState = .degraded) → s.pwr.sleep = .awake → m.switching = [] → s.exportAhead m k.items = false →
    let idx := s.indices m ch f k.items
    let vi := f.variantAt idx
    let v := m.image.variants.getD vi {}
    let p := m.image.attn.getD ch.val {}
    (f.idxOk idx = false → exec (.stepDispatch i ch) s = .next (State.endUndispatched s.ok i ch k .selectRange 0xFFFF)) ∧
    (f.idxOk idx = true → s.variantOffline m v = true →
      exec (.stepDispatch i ch) s = .next (State.endUndispatched s.ok i ch k .unitOffline vi)) ∧
    (f.idxOk idx = true → s.variantOffline m v = false → s.frontsFree (m.runFronts v) = false →
      exec (.stepDispatch i ch) s = .next { s with out := .waits }) ∧
    ∀ items u, f.idxOk idx = true → s.variantOffline m v = false → s.frontsFree (m.runFronts v) = true → k.poolSince = none →
      s.coverItems m false k.items = (some items, u) →
      let run : Run := { items := items, tOpen := k.tOpen, tClose := k.tClose, why := k.why, tDispatch := s.now, idx := idx, variant := vi,
                         stalls := Vector.replicate 4 0 }
      let w := State.updChain ((u.useBlocks m.id items).writeInputs m p items) m.id ch fun c =>
        { c with closed := c.closed.drop 1, seq := c.seq + 1, run := some run }
      let phases := ((m.runLists v).filter fun x => x.d.wave == 0).flatMap fun x => x.tasks.map fun t => (frontOf t.sq, t.rc.phase)
      exec (.stepDispatch i ch) s = .next { State.startAttempt (w.presetFronts m.id phases) m ch vi with out := .done }

/-- kvAllocate completes (R184): a sequence whose last block set has been begun by a write to its first position, below MAX_SEQ, takes
one more set at the end of its table, where the pool gives one; with no frame to take it waits. -/
def Claim.SequencesTakeBlocks : Prop :=
  ∀ (s : State) (i : BitVec 32) (h : Nat) (m : Model) (q : Seq), s.model i = some m → s.seqOf i h = some q →
    q.importing = false → q.closing = false → q.table.length < ((m.plan.map (·.maxSeq)).getD 0) / 64 → s.lastBegun q = true →
    (∀ sub t, s.allocBlock m q.tenant = (.got sub, t) →
      ∃ v, exec (.kvAllocate i h) s = .next v ∧ v.out = .done ∧
        v.srv.seqs = (t.updSeq i h fun x => { x with table := x.table ++ [sub] }).srv.seqs ∧ v.srv.blocks = t.srv.blocks) ∧
    (∀ t, s.allocBlock m q.tenant = (.full, t) → exec (.kvAllocate i h) s = .next { t with out := .waits }) ∧
    ∀ t, s.allocBlock m q.tenant = (.ceiling, t) → exec (.kvAllocate i h) s = .next { s with out := .waits }

/-- waveRelease completes (R401): 2w us after wave 0, wave w enters the Squalls of a Front, once the waves before it have. -/
def Claim.WavesReleaseInOrder : Prop :=
  ∀ (s : State) (f : Fin 8) (i : BitVec 32) (ch : Fin 16) (w : Fin 8) (m : Model) (c : Chain) (r : Run),
    s.model i = some m → s.chain i ch = some c → c.run = some r → r.phase = .running → r.ended = none → f ∈ r.fronts → w ≠ 0 →
    bitAt (pick r.waves f).toNat w.val = false →
    ((pick r.waves f).toNat % 2 ^ w.val = 2 ^ w.val - 1 → r.tWave + 2000 * w.val ≤ s.now →
      exec (.waveRelease f i ch w) s = .next (State.releaseWave s.ok m ch (m.image.variants.getD r.variant {}) f w)) ∧
    ((pick r.waves f).toNat % 2 ^ w.val ≠ 2 ^ w.val - 1 ∨ s.now < r.tWave + 2000 * w.val →
      exec (.waveRelease f i ch w) s = .next { s with out := .notDue })

/-- Dispatch of closed steps, block allocation and waves. Complete here: stepDispatch, kvAllocate, waveRelease. -/
def Obligations.StepsDispatchAndRun : Prop :=
  Claim.ClosedStepsDispatch ∧ Claim.SequencesTakeBlocks ∧ Claim.WavesReleaseInOrder

/-- taskFinal completes (R16, R18, R119): a task that has ended with none of its records open takes its final status, DONE or the reason
of its first failure, with its time counted, and leaves its Squall with its writes performed and its reads released. -/
def Claim.TasksBecomeFinal : Prop :=
  ∀ (s : State) (q : Fin 64) (t : SqTask) (c : Chain) (r : Run) (x : RunTask),
    (s.sq q).tasks.find? (fun t => t.ended && !(s.sq q).open_.any (·.2 == t.key)) = some t →
    s.chain t.model t.chain = some c → c.run = some r →
    r.tasks.find? (fun y => y.sq == q && y.status.isNone && y.list == t.list && y.pos == t.pos && y.member == t.member) = some x →
    let st := t.reason.getD .done
    let u := State.finalTask s.ok t.model t.chain x st
    exec (.taskFinal q) s =
      .next ((State.settleWrites (State.updSq u q fun y => { y with tasks := y.tasks.filter fun z => z.key != t.key })
        fun w => w.sq == q && w.key == t.key).endReads q t.key) ∧
    ∃ k y, u.chain t.model t.chain = some k ∧ k.run = some y ∧ ∃ z ∈ y.tasks, z.sq = q ∧ z.status = some st ∧ z.tEnd = s.now ∧ z.tStart = x.tStart

/-- tagStall completes (R109, R110): a request that has waited more than 50 ms for a slot of core memory, its Squall's own or another's,
that is not FILLING, or for an operand buffer slot, ends its step: it is counted, every item that has no reason yet fails with
TAG_STALL, every task is final, and nothing of it speculative is left. -/
def Claim.StallsEndTheirStep : Prop :=
  (∀ (s : State) (q : Fin 64) (c : Chain) (r : Run) (req k t0 : Nat), s.runOn (frontOf q) = some (c, r) → r.stallSince = none → r.ended = none →
    ((req, k), t0) ∈ (s.sq q).watch → t0 + 50000000 < s.now →
    ((k < 4096 ∧ ((s.sq q).tag k).st ≠ .filling) ∨
      (∃ o : Fin 64, ∃ j, j < 4096 ∧ o ≠ q ∧ k = watchKey q o j ∧ ((s.sq o).tag j).st ≠ .filling) ∨ ∃ e : Fin 4, ∃ j, j < 512 ∧ k = opKey e j) →
    exec (.tagStall q) s = .next (State.endStep (State.updSq s.ok q fun x => { x with tagStall := x.tagStall + 1 }) c.model c.chain .tagStall)) ∧
  ∀ (s : State) (m : BitVec 32) (ch : Fin 16) (c : Chain) (r : Run) (st : Status), s.chain m ch = some c → c.run = some r →
    ∃ k y, (s.endStep m ch st).chain m ch = some k ∧ k.run = some y ∧ y.ended = some st ∧
      (∀ x ∈ y.items, x.reason ≠ none) ∧ (∀ x ∈ y.tasks, x.status ≠ none) ∧
      ∀ n, (s.endStep m ch st).model m = some n → ∀ h ∈ n.shadow, h.chain ≠ ch

/-- stepEnd completes (R173 to R177, R228): with every task final, a first attempt that overflowed below the safe bucket is replayed
when the safe variant's Fronts are free of other steps; otherwise the tags of the commit vector are to be copied, and once they are
and no host or peer write is on its way the completion records leave; the step ends when they are written. -/
def Claim.StepsCommitAndEnd : Prop :=
  ∀ (s : State) (i : BitVec 32) (ch : Fin 16) (m : Model) (c : Chain) (r : Run) (f : Family),
    s.model i = some m → s.chain i ch = some c → c.run = some r → m.image.familyOf ch = some f →
    let e := m.image.expert
    let spilt := r.ended = none ∧ e.moeLayers ≠ 0 ∧ s.routeOverflow m ch = true
    let safe := e.buckets ≤ r.idx.getD e.fandim 0 + 1
    (r.phase = .running → (∀ t ∈ r.tasks, t.status ≠ none) → spilt → r.replay = false → ¬ safe →
      exec (.stepEnd i ch) s = .next (if s.replayFree m ch f r then State.replay s.ok m ch f r else { s with out := .waits })) ∧
    (r.phase = .running → (∀ t ∈ r.tasks, t.status ≠ none) → ¬ spilt → s.commitTags m ch r r.judge ≠ [] → r.ended = none →
      exec (.stepEnd i ch) s = .next { s.beginCommit m ch r r.judge with out := .done }) ∧
    (r.phase = .committing [] → s.drainEgress.fenceSysOpen r = false →
      exec (.stepEnd i ch) s = .next (State.closeStep { s.drainEgress with out := .done } m ch f r)) ∧
    (r.phase = .committing [] → s.drainEgress.fenceSysOpen r = true → exec (.stepEnd i ch) s = .next { s.drainEgress with out := .waits }) ∧
    (r.phase = .recording → exec (.stepEnd i ch) s = .next (if s.unrecorded m.id ch then { s with out := .waits } else s.ok.recorded m.id ch)) ∧
    ∀ (p : AttnPlan) (x : Item), s.itemStatus m p x = if x.cancelled then .cancelled else match x.reason with
      | some st => st
      | none => match s.itemMark m p x with
        | .unreadable => .weightUnreadable
        | .late => .weightLate
        | .none => .done

/-- commitCopyComplete completes (R174, R176, R178): the runs of the next tag are copied to their targets, the copy's time counts in its
task, and the tag is committed; where the copy fails the tag is discarded and its item fails with COMMIT_FAILED. Tags whose item
does not stand any more leave the list. -/
def Claim.CommitCopiesEnd : Prop :=
  ∀ (s : State) (i : BitVec 32) (ch : Fin 16) (m : Model) (c : Chain) (r : Run) (t : Nat) (rest : List Nat),
    s.model i = some m → s.chain i ch = some c → c.run = some r → r.phase = .committing (t :: rest) →
    let runs := m.shadow.filter fun h => h.chain == ch && h.tag == t
    exec (.commitCopyComplete i ch true) s = .next (State.trimCommit (State.updRun
      (State.addCopyTime (State.keepShadow (runs.foldl (fun u h => u.commitRun m r h) s.ok) i ch rest) i r t (s.now - r.tCopy))
      i ch fun x => { x with phase := .committing rest, tCopy := s.now, committed := x.committed ++ [t] }) i ch) ∧
    ∃ v y, exec (.commitCopyComplete i ch false) s = .next v ∧ (v.chain i ch).bind (·.run) = some y ∧
      (∃ l, y.phase = .committing l ∧ l.Sublist rest) ∧ y.committed = r.committed ∧ r.discarded < y.discarded ∧
      ∀ x k z, r.tasks.find? (fun x => x.rc.spec && x.rc.tag == t) = some x → x.rc.item = some k → y.items[k]? = some z → z.reason ≠ none

/-- prefixInsert completes (R208): after the records of a prefill step, each item's completed blocks enter the prefix directory once its
token identifiers can be read. -/
def Claim.PrefixesAreInserted : Prop :=
  ∀ (s : State) (i : BitVec 32) (ch : Fin 16) (m : Model) (c : Chain), s.model i = some m → s.chain i ch = some c → c.inserting ≠ [] →
    ((∀ x ∈ c.inserting, s.readable x.tokensPa = true) →
      exec (.prefixInsert i ch) s = .next (State.updChain (c.inserting.foldl (fun u x => u.insertItem m x) s.ok) i ch
        fun x => { x with inserting := [] })) ∧
    ((∃ x ∈ c.inserting, s.readable x.tokensPa = false) → exec (.prefixInsert i ch) s = .next { s with out := .waits })

/-- Tasks end, stalls end steps, speculative results commit, prefixes are inserted. Complete here: taskFinal, tagStall, stepEnd,
commitCopyComplete, prefixInsert. -/
def Obligations.StepsEndAndCommit : Prop :=
  Claim.TasksBecomeFinal ∧ Claim.StallsEndTheirStep ∧ Claim.StepsCommitAndEnd ∧ Claim.CommitCopiesEnd ∧ Claim.PrefixesAreInserted

/-! ## Schedule records -/

/-- task, endTask, loop and endLoop complete (R119, R152, R315, R391): the head record TASK opens a task of its list, which starts on
the Squall now and in whose phase the Front counts; END closes it, behind a fence only once the fence has retired; LOOP and ENDLOOP
move the list on. -/
def Claim.TasksOpenAndClose : Prop :=
  ∀ (s : State) (q : Fin 64),
    let x := s.sq q
    (∀ r l ls, x.next = some (.task r) → x.lists = l :: ls → x.current = none →
      ∃ t, exec (.task q none) s = .next t ∧ (t.sq q).current = some x.nextKey ∧ (t.sq q).lists = x.pass.lists ∧
        (t.sq q).tasks = x.tasks ++ [{ key := x.nextKey, model := l.model, chain := l.chain, rc := r, lunit := l.lunit, member := l.member,
                                       list := l.list, pos := l.pos, tStart := s.now }] ∧
        (t.front (frontOf q)).phaseNow = r.phase ∧ t.mem = s.mem ∧ ∀ k, k ≠ q → t.sq k = s.sq k) ∧
    (∀ k, x.next = some .endTask → x.current = some k →
      (x.fences = [] → ∃ t, exec (.endTask q none) s = .next t ∧ (t.sq q).current = none ∧ (t.sq q).lists = x.pass.lists ∧
        (t.sq q).tasks = updWhere x.tasks (·.key == k) (fun y => { y with ended := true }) ∧ t.mem = s.mem ∧ ∀ k, k ≠ q → t.sq k = s.sq k) ∧
      (x.fences ≠ [] → exec (.endTask q none) s = .next { s with out := .waits })) ∧
    (∀ a b c, x.next = some (.loop a b c) → x.fences = [] →
      exec (.loop q none) s = .next ((State.issueBeat s.ok q false).updSq q Squall.pass)) ∧
    (x.next = some .endLoop → x.fences = [] → exec (.endLoop q none) s = .next ((State.issueBeat s.ok q false).updSq q Squall.pass))

/-- passMac, passL1, passL2, passMaxplus, passMinplus, passCmpcount and passEwise complete (R43, R119, R440): with no fence ahead and
room in its engine's queue, the pass enters the queue with the next issue number, which is open until it retires; a LOAD pass has
its own tile still to stage; behind a fence, or with the queue full, it waits. -/
def Claim.PassesEnterTheirQueue : Prop :=
  ∀ (s : State) (q : Fin 64) (p : PassRec) (i : Issue),
    let x := s.sq q
    x.next = some (.pass p) → x.issuing = some i →
    ∀ c ∈ [(PassOp.mac, Instr.passMac q none), (.l1, .passL1 q none), (.l2, .passL2 q none), (.maxplus, .passMaxplus q none),
        (.minplus, .passMinplus q none), (.cmpcount, .passCmpcount q none), (.ewise, .passEwise q none)], p.op = c.1 →
      (x.fences = [] → (pick x.engines p.engine).queued < 8 →
        ∃ t y, exec c.2 s = .next t ∧ (pick (t.sq q).engines p.engine).passes = (pick x.engines p.engine).passes ++ [y] ∧
          y.seq = x.nextSeq ∧ y.task = i.task.key ∧ y.rc = p ∧ (p.keep = false → y.src = p ∧ y.tile = .none) ∧
          (t.sq q).open_ = x.open_ ++ [(x.nextSeq, i.task.key)] ∧ (t.sq q).nextSeq = x.nextSeq + 1 ∧ (t.sq q).lists = x.pass.lists ∧
          t.mem = s.mem ∧ ∀ k, k ≠ q → t.sq k = s.sq k) ∧
      (x.fences ≠ [] ∨ 8 ≤ (pick x.engines p.engine).queued → exec c.2 s = .next { s with out := .waits })

/-- dma, fenceCore, fenceChip, fenceSys and fenceRetire complete (R119, R204, R315, R440): a descriptor program enters its channel's
queue, a fence the fence queue, each with the next issue number; a fence retires when every earlier record of its task has and, at
scope SYS, no host or peer write of the task is on its way: then the task's Squall sees its writes, with a wider scope every
observer does, and later records go on. -/
def Claim.DmaAndFenceRecords : Prop :=
  ∀ (s : State) (q : Fin 64),
    let x := s.sq q
    (∀ i ch at_, x.issuing = some i → x.next = some (.dma ch at_) → x.fences = [] → (pick x.chans ch).queue.length < 4 →
      ∃ t, exec (.dma q none) s = .next t ∧ (pick (t.sq q).chans ch).queue = (pick x.chans ch).queue ++
          [{ seq := x.nextSeq, task := i.task.key, at_ := at_, member := i.list.member, model := i.list.model }] ∧
        (t.sq q).open_ = x.open_ ++ [(x.nextSeq, i.task.key)] ∧ (t.sq q).lists = x.pass.lists ∧ t.mem = s.mem) ∧
    (∀ i, x.issuing = some i → x.fences = [] →
      ∀ c ∈ [(Scope.core, Instr.fenceCore q none), (.chip, .fenceChip q none), (.sys, .fenceSys q none)], x.next = some (.fence c.1) →
        ∃ t, exec c.2 s = .next t ∧ (t.sq q).fences = [{ seq := x.nextSeq, task := i.task.key, scope := c.1 }] ∧
          (t.sq q).open_ = x.open_ ++ [(x.nextSeq, i.task.key)] ∧ (t.sq q).lists = x.pass.lists ∧ t.mem = s.mem) ∧
    (∀ f rest, x.fences = f :: rest →
      ((∀ r ∈ x.open_, r.2 = f.task → f.seq ≤ r.1) → s.sysWait q f = false →
        let u := State.updSq s.ok q fun y => { y with fences := rest, open_ := y.open_.filter fun r => r.1 != f.seq }
        exec (.fenceRetire q) s = .next (if f.scope = .core then u.coreScope q f.task
          else u.settleWrites fun w => w.sq == q && w.key == f.task)) ∧
      (s.sysWait q f = true → exec (.fenceRetire q) s = .next { s with out := .waits }))

/-- What a command meets that reads a word with bad parity (R129 to R131, R133): a line of the schedule engine's cache is invalidated
and fetched again before the command goes on, with no rerun; a bad word of another memory, where the command would be performed,
ends it with none of its work: a running step of fewer than three attempts starts again with its variant, at the third it ends with
SCRATCH_PARITY and the Squall leaves service. It holds of every schedule record, every command of an engine, every vector operation
and every descriptor, and of SLOT_READ. -/
def Claim.DetectionsRerunTheStep : Prop :=
  (∀ (s : State) (q : Fin 64) (e : Fin 4) (row : Fin 256) (col : Fin 128) (l : List Nat) (ch : Fin 8) (slot : Fin 4096) (kind : ReadKind),
    ∀ c ∈ [Instr.task q, .endTask q, .loop q, .endLoop q, .passMac q, .passL1 q, .passL2 q, .passMaxplus q, .passMinplus q, .passCmpcount q,
        .passEwise q, .tileStage q e, .tileLoad q e, .rowFetch q e, .rowEntry q e, .sumPromote q e row col, .passRepeat q e, .heldPassEject q e,
        .epilogueRead q e, .epilogueWrite q e, .vopAdd q, .vopMul q, .vopFma q, .vopMin q, .vopMax q, .vopCmp q, .vopSelect q, .vopExp2 q,
        .vopLog2 q, .vopRcp q, .vopRsqrt q, .vopSqrt q, .vopTanh q, .vopSigmoid q, .vopSum q, .vopRowMax q, .vopRowMin q, .vopNorm q,
        .vopSoftmax q, .vopRotary q, .vopTopk q, .vopGather q, .vopScatter q, .vopMerge q l, .vopMergeRoot q l, .dma q, .dmaProgramStart q ch,
        .dmaLoad q ch, .dmaStore q ch, .dmaXfer q ch, .dmaGather q ch, .dmaScatter q ch, .dmaMove q ch, .fenceCore q, .fenceChip q, .fenceSys q,
        .slotRead q slot kind],
      (∀ b, exec (c (some (.cache b))) s = exec (c none) (s.parityLine q b.toNat)) ∧
      ∀ w : BadWord, (∀ b, w ≠ .cache b) → (∀ a f, w ≠ .dram a f) → ∀ t, exec (c none) s = .next t →
        exec (c (some w)) s = .next (if t.out.performed then s.ok.parityInStep q w else t)) ∧
  (∀ (s : State) (q : Fin 64) (b : Nat), ((s.sq q).cache.find b).isSome → s.parityLine q b =
    (State.updSq s q fun x => { x with parityDetect := x.parityDetect + 1, cache := x.cache.drop (· == b) }).schedFetch q b) ∧
  ∀ (s : State) (q : Fin 64) (a : BitVec 48) (c : Chain) (r : Run) (m : Model), s.runOn (frontOf q) = some (c, r) → s.model c.model = some m →
    let u := s.updSq q fun x => { x with parityDetect := x.parityDetect + 1 }
    (3 ≤ r.attempts → s.parityInStep q (.mem a) = ((u.endStep c.model c.chain .scratchParity).reload a.toNat).failUnit (.squall q) 0) ∧
    (r.attempts < 3 → s.parityInStep q (.mem a) =
      (((u.updRun c.model c.chain fun x => { x with attempts := x.attempts + 1, reruns := x.reruns + 1 }).count .stepRerun).startAttempt
        m c.chain r.variant).reload a.toNat)

/-- Schedule records: tasks, loops, passes, descriptor programs and fences; words of bad parity. Complete here: task, endTask, loop,
endLoop, passMac, passL1, passL2, passMaxplus, passMinplus, passCmpcount, passEwise, dma, fenceCore, fenceChip, fenceSys,
fenceRetire. -/
def Obligations.ScheduleRecordsIssue : Prop :=
  Claim.TasksOpenAndClose ∧ Claim.PassesEnterTheirQueue ∧ Claim.DmaAndFenceRecords ∧ Claim.DetectionsRerunTheStep

/-! ## Vector operations -/

/-- vopAdd, vopMul, vopFma, vopMin, vopMax, vopCmp, vopSelect, vopExp2, vopLog2, vopRcp, vopRsqrt, vopSqrt, vopTanh, vopSigmoid, vopSum,
vopRowMax, vopRowMin, vopNorm, vopSoftmax, vopRotary, vopTopk, vopGather, vopScatter, vopMerge and vopMergeRoot complete (R105,
R106, R122 to R128, R440): an operation of one row alone in the vector queue, whose source slots may be read and whose destination
slots are EMPTY, stores the bytes of the operation's own function of its sources, each chunk marked at least as its bytes are; its
destination slots are FULL with the declared count, and its record retires. -/
def Claim.VectorOperationsStoreTheirResults : Prop :=
  ∀ (s : State) (q : Fin 64) (v : VopEntry) (arrival : List Nat),
    (s.sq q).vq = [v] → v.rc.rows = 1 → v.row = 0 → v.buf = [] → v.came = [] → v.writes = [] → v.mine = [] →
    (∀ r, (s.sq q).next = some (.vop r) → r.opc ≠ v.rc.opc) → arrivalOk v.rc.param arrival = true →
    (∀ p ∈ s.dram.retired, p.1 * Config.pageBytes < dramEnd) →
    let u := s.ok.unwatch q reqVector
    s.SlotsReady q (readSlots (u.rowReads q v.rc 0)) →
    ∀ c ∈ ([(0x01, Instr.vopAdd q none, fun y q v => y.vBinary q v f32Add), (0x02, Instr.vopMul q none, fun y q v => y.vBinary q v f32Mul),
        (0x03, Instr.vopFma q none, State.vFma), (0x04, Instr.vopMin q none, fun y q v => y.vBinary q v f32Min),
        (0x05, Instr.vopMax q none, fun y q v => y.vBinary q v f32Max), (0x06, Instr.vopCmp q none, State.vCmp),
        (0x07, Instr.vopSelect q none, State.vSelect), (0x10, Instr.vopExp2 q none, fun y q v => y.vUnary q v f32Exp2),
        (0x11, Instr.vopLog2 q none, fun y q v => y.vUnary q v f32Log2), (0x12, Instr.vopRcp q none, fun y q v => y.vUnary q v f32Rcp),
        (0x13, Instr.vopRsqrt q none, fun y q v => y.vUnary q v f32Rsqrt), (0x14, Instr.vopSqrt q none, fun y q v => y.vUnary q v f32Sqrt),
        (0x15, Instr.vopTanh q none, fun y q v => y.vUnary q v f32Tanh), (0x16, Instr.vopSigmoid q none, fun y q v => y.vUnary q v f32Sigmoid),
        (0x20, Instr.vopSum q none, fun y q v => y.vReduce q v f32Add), (0x21, Instr.vopRowMax q none, fun y q v => y.vReduce q v f32Max),
        (0x22, Instr.vopRowMin q none, fun y q v => y.vReduce q v f32Min), (0x28, Instr.vopNorm q none, State.vNorm),
        (0x29, Instr.vopSoftmax q none, State.vSoftmax), (0x30, Instr.vopRotary q none, State.vRotary), (0x38, Instr.vopTopk q none, State.vTopk),
        (0x40, Instr.vopGather q none, State.vGather), (0x41, Instr.vopScatter q none, State.vScatter),
        (0x48, Instr.vopMerge q arrival none, fun y q v => y.vMerge q v arrival),
        (0x49, Instr.vopMergeRoot q arrival none, fun y q v => y.vMergeRoot q v arrival)] : List (Nat × Instr × (State → Fin 64 → VopRec → Nat → List (Nat × List MByte)))),
      v.rc.opc = c.1 → let outs := c.2.2 u q v.rc 0
      (∀ o ∈ outs, o.2.length ≤ 0xFFF000 ∧ ∀ k ∈ slotsOf o.1 o.2.length, ((s.sq q).tag k).st = .empty) →
      (outs.Pairwise fun o p => ∀ k < o.2.length, ∀ j < p.2.length, (o.1 + k) % 2 ^ 24 ≠ (p.1 + j) % 2 ^ 24) →
      ∃ t, exec c.2.1 s = .next t ∧ t.out = .done ∧ (t.sq q).vq = [] ∧ (t.sq q).open_ = (s.sq q).open_.filter (fun r => r.1 != v.seq) ∧
        (∀ o ∈ outs, ∀ k, ∀ h : k < o.2.length, t.byteAt (coreAddr q ((o.1 + k) % 2 ^ 24)) = o.2[k].1 ∧
          joinMark o.2[k].2 (t.markAt (coreAddr q ((o.1 + k) % 2 ^ 24))) = t.markAt (coreAddr q ((o.1 + k) % 2 ^ 24))) ∧
        (∀ o ∈ outs, ∀ k ∈ slotsOf o.1 o.2.length, ((t.sq q).tag k).st = .full ∧ ((t.sq q).tag k).readers = v.rc.ocount) ∧
        ∀ j, j ≠ q → (t.sq j).tags = (s.sq j).tags

/-- Vector operations of any number of rows (R106, R122 to R128, R440): where the front of the vector queue is the command's operation
and the next record of the list is not, the command completes by carrying its rows out one after another; a row whose slots may all
be read enters the lanes: its results, the operation's function of core memory, queue to be written with the declared count, its
activities count, and the slots it was the last to read are given up; a row whose slots may not all be read waits. -/
def Claim.VectorRowsGoOneByOne : Prop :=
  ∀ (s : State) (q : Fin 64) (v : VopEntry) (arrival : List Nat), (s.sq q).vopFront = some v → (∀ y ∈ (s.sq q).vq, y.seq = v.seq → y = v) →
    arrivalOk v.rc.param arrival = true →
    (∀ r, (s.sq q).next = some (.vop r) → r.opc ≠ v.rc.opc) →
    ∀ c ∈ ([(Instr.vopAdd q none, { opc := 0x01, out := fun y q v => y.vBinary q v f32Add }),
        (Instr.vopMul q none, { opc := 0x02, out := fun y q v => y.vBinary q v f32Mul }), (Instr.vopFma q none, { opc := 0x03, out := State.vFma }),
        (Instr.vopMin q none, { opc := 0x04, out := fun y q v => y.vBinary q v f32Min }),
        (Instr.vopMax q none, { opc := 0x05, out := fun y q v => y.vBinary q v f32Max }), (Instr.vopCmp q none, { opc := 0x06, out := State.vCmp }),
        (Instr.vopSelect q none, { opc := 0x07, out := State.vSelect }),
        (Instr.vopExp2 q none, { opc := 0x10, out := fun y q v => y.vUnary q v f32Exp2, lanes := 0, transcendental := 1 }),
        (Instr.vopLog2 q none, { opc := 0x11, out := fun y q v => y.vUnary q v f32Log2, lanes := 0, transcendental := 1 }),
        (Instr.vopRcp q none, { opc := 0x12, out := fun y q v => y.vUnary q v f32Rcp, lanes := 0, transcendental := 1 }),
        (Instr.vopRsqrt q none, { opc := 0x13, out := fun y q v => y.vUnary q v f32Rsqrt, lanes := 0, transcendental := 1 }),
        (Instr.vopSqrt q none, { opc := 0x14, out := fun y q v => y.vUnary q v f32Sqrt, lanes := 0, transcendental := 1 }),
        (Instr.vopTanh q none, { opc := 0x15, out := fun y q v => y.vUnary q v f32Tanh, lanes := 0, transcendental := 1 }),
        (Instr.vopSigmoid q none, { opc := 0x16, out := fun y q v => y.vUnary q v f32Sigmoid, lanes := 0, transcendental := 1 }),
        (Instr.vopSum q none, { opc := 0x20, out := fun y q v => y.vReduce q v f32Add, lanes := 0 }),
        (Instr.vopRowMax q none, { opc := 0x21, out := fun y q v => y.vReduce q v f32Max, lanes := 0 }),
        (Instr.vopRowMin q none, { opc := 0x22, out := fun y q v => y.vReduce q v f32Min, lanes := 0 }),
        (Instr.vopNorm q none, { opc := 0x28, out := State.vNorm, lanes := 2 }),
        (Instr.vopSoftmax q none, { opc := 0x29, out := State.vSoftmax, lanes := 2, transcendental := 1 }),
        (Instr.vopRotary q none, { opc := 0x30, out := State.vRotary, lanes := 0 }),
        (Instr.vopTopk q none, { opc := 0x38, out := State.vTopk, lanes := 0 }),
        (Instr.vopGather q none, { opc := 0x40, out := State.vGather, lanes := 0 }),
        (Instr.vopScatter q none, { opc := 0x41, out := State.vScatter, lanes := 0 }),
        (Instr.vopMerge q arrival none, { opc := 0x48, out := fun y q v => y.vMerge q v arrival, arrival := some arrival }),
        (Instr.vopMergeRoot q arrival none, { opc := 0x49, out := fun y q v => y.vMergeRoot q v arrival, arrival := some arrival })] : List (Instr × VopDoes)),
      v.rc.opc = c.2.opc →
      exec c.1 s = .next (State.vopRows (s.ok.vopDrain q) q v.seq c.2 v.rc.rows) ∧
      (v.came = [] → v.buf = [] → s.SlotsReady q (readSlots (s.rowReads q v.rc v.row)) →
        let o := s.unwatch q reqVector
        ∃ t w ws, s.vopRow q v c.2 = (true, t) ∧ w ∈ (t.sq q).vq ∧ w.seq = v.seq ∧ w.rc = v.rc ∧ w.row = v.row + 1 ∧ w.writes = v.writes ++ ws ∧
          ws.map (fun x => (x.off, x.data)) = c.2.out o q v.rc v.row ∧ (∀ x ∈ ws, x.sq = q ∧ x.count = v.rc.ocount) ∧
          ∀ j, j ≠ q → (t.sq j).tags = (s.sq j).tags) ∧
      (v.came = [] → v.buf = [] → (∃ k ∈ readSlots (v.rc.reads v.row), ((s.sq q).tag k).st.readable = false ∧ ((s.sq q).tag k).again = false) →
        ∃ t, s.vopRow q v c.2 = (false, t))

/-- A VOP record enters the vector queue behind the operations that wait there, with the next issue number; with 32 operations that have
rows to issue it waits (R119, R440). -/
def Claim.VectorRecordsQueue : Prop :=
  ∀ (s : State) (q : Fin 64) (v : VopRec) (w : VopEntry) (i : Issue),
    let x := s.sq q
    x.next = some (.vop v) → x.issuing = some i → x.fences = [] → x.vopFront = some w → w.rc.opc ≠ v.opc →
    ∀ c ∈ [(0x01, Instr.vopAdd q none), (0x02, .vopMul q none), (0x03, .vopFma q none), (0x20, .vopSum q none), (0x29, .vopSoftmax q none),
        (0x38, .vopTopk q none)],
      v.opc = c.1 →
      ((x.vq.filter fun y => decide (y.row < y.rc.rows)).length < 32 →
        ∃ t, exec c.2 s = .next t ∧ (t.sq q).vq = x.vq ++ [{ seq := x.nextSeq, task := i.task.key, rc := v }] ∧
          (t.sq q).open_ = x.open_ ++ [(x.nextSeq, i.task.key)] ∧ (t.sq q).nextSeq = x.nextSeq + 1 ∧ (t.sq q).lists = x.pass.lists ∧ t.mem = s.mem) ∧
      (32 ≤ (x.vq.filter fun y => decide (y.row < y.rc.rows)).length → (∀ y ∈ x.vq, y.rc.opc ≠ v.opc) → exec c.2 s = .next { s with out := .waits })

/-- Vector operations store the results of their functions. Complete here: vopAdd, vopMul, vopFma, vopMin, vopMax, vopCmp, vopSelect,
vopExp2, vopLog2, vopRcp, vopRsqrt, vopSqrt, vopTanh, vopSigmoid, vopSum, vopRowMax, vopRowMin, vopNorm, vopSoftmax, vopRotary,
vopTopk, vopGather, vopScatter, vopMerge, vopMergeRoot. -/
def Obligations.VectorOperationsRun : Prop :=
  Claim.VectorOperationsStoreTheirResults ∧ Claim.VectorRowsGoOneByOne ∧ Claim.VectorRecordsQueue

/-! ## Matrix engines -/

/-- tileStage and tileLoad complete (R33, R43, R44, R46, R48, R60): the first tile that is not staged goes, as its image, into an empty
half of operand memory once its slots may be read, and the half's slots are FULL; staged tiles load in list order into the bank that
the pass before did not use, for their pass and the KEEP passes behind it, and their half is empty again; with no half empty, or the
bank still fed from, it waits. -/
def Claim.TilesStageAndLoad : Prop :=
  ∀ (s : State) (q : Fin 64) (e : Fin 4) (p : Pass),
    let x := s.eng q e
    (x.passes.find? (fun p => p.loads && p.tile == .none) = some p →
      (∀ h, (List.finRange 2).find? (fun h => (pick x.halves h).full.isNone) = some h →
        s.SlotsReady q (slotsOf p.rc.tsrc 64) → s.SlotsReady q (s.tileSlots q p.rc) →
        let tile := s.tileOf q p.rc
        ∃ t, exec (.tileStage q e none) s = .next t ∧ t.mem = (s.storeM (halfAt q e h) tile.2).mem ∧
          pick (t.eng q e).halves h = { full := some tile.1, owner := p.seq } ∧ (∀ k ∈ halfSlots h tile.2.length, (t.eng q e).opTag k = .full) ∧
          (t.eng q e).passes = updFirst x.passes (·.seq == p.seq) (fun y => { y with tile := .staged h }) ∧
          (t.sq q).tags = (s.sq q).tags ∧ ∀ k, k ≠ q → t.sq k = s.sq k) ∧
      ((pick x.halves 0).full ≠ none → (pick x.halves 1).full ≠ none → exec (.tileStage q e none) s =
        .next (s.waitSlot q (reqWrite (reqStage e)) (opKey e (if (pick x.halves 0).owner ≤ (pick x.halves 1).owner then 0 else 64))))) ∧
    (∀ h, x.passes.find? (fun p => p.loads && p.bank.isNone) = some p → p.tile = .staged h →
      let b := ((x.bankBefore p.seq).map otherBank).getD 0
      let tile := ((pick x.halves h).full).getD {}
      (x.bankFree b = true → ∃ t, exec (.tileLoad q e none) s = .next t ∧
        pick (t.eng q e).banks b = { tile := tile, image := (s.load (halfAt q e h) tile.bytes).map (·.1) } ∧
        (∀ k, k ≠ b → pick (t.eng q e).banks k = pick x.banks k) ∧ pick (t.eng q e).halves h = {} ∧
        (t.eng q e).passes = updWhere x.passes (fun z => (p.seq :: (x.keeps p.seq).map (·.seq)).contains z.seq) (fun z => { z with tile := .loaded b }) ∧
        t.mem = (s.undefine (inRange (halfAt q e h) 0x10000)).mem) ∧
      (x.bankFree b = false → exec (.tileLoad q e none) s = .next { s with out := .waits }))

/-- rowFetch completes (R33, R43, R52, R58, R60, R439): the first pass without its rows reads them whole into free activation slots once
their slots may be read, an EWISE pass its second stream too; a HELD pass takes the rows that an earlier one holds; without room it
waits. -/
def Claim.RowsAreFetched : Prop :=
  ∀ (s : State) (q : Fin 64) (e : Fin 4) (p : Pass), (s.eng q e).resolveHeld = s.eng q e →
    let x := s.eng q e
    let own := !p.rc.held
    let ew := p.rc.op == .ewise
    let size := p.rc.rowSize p.wfmtOf
    let aSlots := if own then rowSlots p.rc.aaddr p.rc.astride size p.rc.rows else []
    let bSlots := if ew then rowSlots p.rc.eaddr p.rc.estride p.rc.ewRow p.rc.rows else []
    let aRoom := if own then cdiv (p.rc.rows * size) 1024 else 0
    let bRoom := if ew then cdiv (p.rc.rows * p.rc.ewRow) 1024 else 0
    x.passes.find? (fun p => !p.fetched) = some p →
    (∀ room, x.freeSlots (aRoom + bRoom) = some room → s.SlotsReady q (aSlots ++ bSlots) →
      let held := if own then none else x.heldFor p
      let rows := (List.range (if own then p.rc.rows else 0)).map fun r => s.loadCore q (p.rc.aaddr + r * p.rc.astride) size
      let second := (List.range (if ew then p.rc.rows else 0)).map fun r => s.loadCore q (p.rc.eaddr + r * p.rc.estride) p.rc.ewRow
      let scans := rows.map fun l => rowScan p.rc.afmt p.rc.ablk (p.rc.rowElems p.wfmtOf) (l.map (·.1))
      let marks := (held.map (·.rowMark)).getD (rows.map fun l => joinMarks (l.map (·.2)))
      let exps := (held.map (·.rowExp)).getD (scans.map (·.1))
      let skips := (held.map (·.skips)).getD (scans.map (·.2))
      let both := if ew then marks.zipIdx.map fun (y : Mark × Nat) => joinMark y.1 (joinMarks ((second.getD y.2 []).map (·.2))) else marks
      let h : HeldRows := { task := p.task, aaddr := p.rc.aaddr, astride := p.rc.astride, rows := p.rc.rows, afmt := p.rc.afmt, ablk := p.rc.ablk,
                            size := size, slots := room.take aRoom, reader := p.seq, rowExp := exps, rowMark := marks, skips := skips }
      let fetched : Engine := { x with passes := updFirst x.passes (·.seq == p.seq) fun y => { y with
        fetched := true, rowsFrom := (held.map (·.reader)).getD p.seq, slots := room.take aRoom, ewSlots := room.drop aRoom
        rowExp := exps, rowMark := both, skips := skips } }
      let full := fetched.setOp .full (actSlots room)
      ∃ t, exec (.rowFetch q e none) s = .next t ∧
        t.mem = ((s.rowWrite q e (room.take aRoom) rows.flatten).rowWrite q e (room.drop aRoom) second.flatten).mem ∧
        t.eng q e = (if p.rc.ahold && own then { full with held := full.held ++ [h] } else full).resolveHeld ∧ (t.sq q).tags = (s.sq q).tags) ∧
    (x.freeSlots (aRoom + bRoom) = none →
      exec (.rowFetch q e none) s = .next (s.waitSlot q (reqWrite (reqFetch e)) (opKey e (128 + x.takenSlot))))

/-- rowEntry completes (R43, R44, R46, R82, R394): the next row in list order enters its loaded tile, the first of a pass fixing its
tile, its exponents and its place in a random stream, or a bubble goes by in its place; it waits while its rows or its tile are not
there or the array is held. -/
def Claim.RowsEnterOrBubble : Prop :=
  ∀ (s : State) (q : Fin 64) (e : Fin 4) (p : Pass), (s.eng q e).resolveHeld = s.eng q e →
    let x := s.eng q e
    let i := x.slotCount % 64
    let n := s.bubbleOf q
    x.passes.find? (fun p => decide (p.entered < p.rc.rows)) = some p →
    (p.fetched = true → (p.tiled = true → p.bank ≠ none) → x.holding = none → x.mayEnter p = true →
      (i * n / 64 < (i + 1) * n / 64 → ∃ t, exec (.rowEntry q e none) s = .next t ∧ (t.eng q e).passes = x.passes ∧
        (t.eng q e).slotCount = x.slotCount + 1 ∧ (t.front (frontOf q)).bubbleSlots = (s.front (frontOf q)).bubbleSlots + 1 ∧
        (t.front (frontOf q)).entrySlots = (s.front (frontOf q)).entrySlots + 1 ∧ t.mem = s.mem) ∧
      ((i + 1) * n / 64 = i * n / 64 → ∃ t, exec (.rowEntry q e none) s = .next t ∧
        (t.eng q e).passes = updFirst (if p.exps = none then ((s.firstRow q e p).eng q e).passes else x.passes) (·.seq == p.seq)
          (fun y => { y with entered := y.entered + 1 }) ∧
        (t.eng q e).slotCount = x.slotCount + 1 ∧ (t.front (frontOf q)).bubbleSlots = (s.front (frontOf q)).bubbleSlots ∧
        (t.front (frontOf q)).entrySlots = (s.front (frontOf q)).entrySlots + 1 ∧ t.mem = s.mem)) ∧
    (p.fetched = false ∨ x.holding ≠ none → ∃ t, exec (.rowEntry q e none) s = .next t ∧ t.out = .waits ∧ (t.eng q e).passes = x.passes)

/-- Tiles are staged and loaded, rows fetched and entered. Complete here: tileStage, tileLoad, rowFetch, rowEntry. -/
def Obligations.PassesAreFed : Prop :=
  Claim.TilesStageAndLoad ∧ Claim.RowsAreFetched ∧ Claim.RowsEnterOrBubble

/-- sumPromote completes (R44, R45, R47, R49, R90): a column's next sum, formed with the tile that the pass's rows met, is merged into
the accumulator of its row, or, with an overflowed field, its place is noted for the repeat; the first promotion of a pass into a
row that is still to be read holds the array, and what entered behind the held row waits. -/
def Claim.SumsArePromoted : Prop :=
  ∀ (s : State) (q : Fin 64) (e : Fin 4) (row : Fin 256) (col : Fin 128) (p : Pass),
    let x := s.eng q e
    let behind (h : Nat × Nat) : Prop := h.1 < p.seq ∨ h.1 = p.seq ∧ h.2 < row.val
    x.promoting row.val col = some p →
    ((∃ h, x.holding = some h ∧ behind h) → exec (.sumPromote q e row col none) s = .next { s with out := .waits }) ∧
    ((∀ h, x.holding = some h → ¬ behind h) → p.rc.next = true ∨ x.rowBusy p row.val = false →
      let t := (s.bankOf q e p).cells p.rc
      let ex := (p.exps.getD (0, 0)).1
      let sum := columnSum p.rc t ex (s.rowValues q e p t row.val) col.val
      let a := accAt q e row.val + 4 * col.val
      let old := if p.rc.next then BitVec.ofNat 32 (s.word a 4) else p.rc.op.identity
      ∃ v, exec (.sumPromote q e row col none) s = .next v ∧
        (v.eng q e).passes = updFirst x.passes (·.seq == p.seq) (fun y => { y with
          sums := upd y.sums col fun _ => row.val + 1
          ovf := if sum.ovf then y.ovf ++ [(row.val, col.val)] else y.ovf }) ∧
        (sum.ovf = false → v.mem = (s.putWord a 4 (p.rc.op.combine old (sum.value p.rc.op ex)).toNat).mem) ∧
        (sum.ovf = true →
          v.mem = if p.rc.next then s.mem else (s.putWord a 4 (p.rc.op.combine p.rc.op.identity p.rc.op.identity).toNat).mem)) ∧
    ((∀ h, x.holding = some h → ¬ behind h) → p.rc.next = false → x.rowBusy p row.val = true → exec (.sumPromote q e row col none) s =
      .next { s.updEng q e (fun y => { y with hold := some (p.seq, row.val) }) with out := .waits })

/-- passVerdict, passRepeat and heldPassEject complete (R50, R51, R53, R91, R92): the first settled pass without a verdict is clean, and
releases what nothing needs any more, or asks for a repeat behind the pass that feeds; the repeat comes at its place, is counted,
and its verdict is clean; where the array is held for a row that waits for that repeat, and the rows ahead of it have promoted, the
held pass's rows from there on leave the array and the repeat enters at once. -/
def Claim.VerdictsAndRepeats : Prop :=
  ∀ (s : State) (q : Fin 64) (e : Fin 4) (p : Pass),
    let x := s.eng q e
    (x.passes.find? (fun p => p.verdict == .none && p.settled) = some p →
      (p.ovf = [] → exec (.passVerdict q e) s =
        .next ((State.updPass s.ok q e p.seq fun y => { y with verdict := .clean }).cleanUp q e { p with verdict := .clean })) ∧
      (p.ovf ≠ [] → ∃ t after, exec (.passVerdict q e) s = .next t ∧ (t.eng q e).repeats = x.repeats ++ [(p.seq, after)] ∧
        (t.eng q e).passes = updFirst x.passes (·.seq == p.seq) (fun z => { z with verdict := .repeatWanted }) ∧ t.mem = s.mem)) ∧
    (∀ after rest, x.repeats = (p.seq, after) :: rest → x.passOf p.seq = some p →
      (s.repeatDue q e after = true → ∃ t, exec (.passRepeat q e none) s = .next t ∧ t = State.doRepeat s.ok q e p ∧
        (t.eng q e).passRepeat = x.passRepeat + 1 ∧ (p.seq, after) ∉ (t.eng q e).repeats) ∧
      (s.repeatDue q e after = false → exec (.passRepeat q e none) s = .next { s with out := .waits }) ∧
      ∀ h row, x.holding = some (h.seq, row) → x.passOf h.seq = some h → x.waitsForRepeat h row = true → s.repeatDue q e after = false →
        let ahead := (∀ y ∈ x.passes, y.seq < h.seq → y.tiled = true → y.settled = true) ∧ ∀ c, pick h.sums c = row
        (ahead → exec (.heldPassEject q e none) s = .next (State.doRepeat (State.updEng s.ok q e fun y => { y with
          hold := none, passes := updFirst y.passes (·.seq == h.seq) fun z => { z with entered := row } }) q e p)) ∧
        (¬ ahead → exec (.heldPassEject q e none) s = .next { s with out := .waits }))

/-- epilogueRead, epilogueWrite and passRetire complete (R45, R58, R92, R99, R105, R119): the lowest final row of the oldest FINAL pass
is read once its destination slots are EMPTY or its own, and its accumulator row is free; the oldest row read is written once its
operands may be read, and slots that no later row of the pass writes are FULL with the declared count; a pass that is clean and
written retires. -/
def Claim.EpiloguesWriteAndRetire : Prop :=
  ∀ (s : State) (q : Fin 64) (e : Fin 4) (p : Pass),
    let x := s.eng q e
    (∀ r, x.passes.findSome? (fun p => (p.unread.find? fun r => x.rowFinal p r).map fun r => (p, r)) = some (p, r) →
      ((s.sq q).firstTaken p.acq (p.destSlots r) = none → ∃ t, exec (.epilogueRead q e none) s = .next t ∧
        (t.eng q e).passes = updFirst x.passes (·.seq == p.seq) (fun y => { y with
          acq := y.acq ++ (p.destSlots r).filter fun k => !p.acq.contains k
          reads := y.reads ++ [(r, s.epiWords q e p r)] }) ∧
        t.mem = if p.tiled then (s.undefine (inRange (accAt q e r) 512)).mem else s.mem) ∧
      (∀ k, (s.sq q).firstTaken p.acq (p.destSlots r) = some k →
        exec (.epilogueRead q e none) s = .next (s.waitSlot q (reqWrite (reqEpilogue e)) k))) ∧
    (∀ r words rest, x.passes.find? (fun p => p.reads ≠ []) = some p → p.reads = (r, words) :: rest →
      s.SlotsReady q (p.rc.epi.peeks r ++ p.rc.epi.ewSlots r) →
      let left := (List.range p.rc.rows).filter fun k => k ≠ r ∧ !p.written.contains k
      let full := p.acq.filter fun k => !left.any fun y => (p.destSlots y).contains k
      ∃ t, exec (.epilogueWrite q e none) s = .next t ∧
        (t.eng q e).passes = updFirst x.passes (·.seq == p.seq) (fun y => { y with
          reads := rest, written := y.written ++ [r], acq := y.acq.filter fun k => !full.contains k }) ∧
        ((s.sq q).holds.all (fun h => h.1 != p.seq) = true →
          t.mem = (s.storeCore q (p.rc.daddr + r * p.rc.dstride) (p.rc.epi.encode (p.rounds r) (s.epiSteps q p.rc.epi r words))).mem ∧
          ∀ k ∈ full, ((t.sq q).tag k).st = .full ∧ ((t.sq q).tag k).readers = p.rc.ocount)) ∧
    (x.passes.find? (fun p => !p.retired && p.verdict == .clean && (!p.rc.final || p.written.length == p.rc.rows)) = some p →
      ∃ t, exec (.passRetire q e) s = .next t ∧ (t.eng q e).passes = updFirst x.passes (·.seq == p.seq) (fun y => { y with retired := true }) ∧
        (t.sq q).open_ = (s.sq q).open_.filter (fun r => r.1 != p.seq) ∧ t.mem = s.mem ∧ (t.sq q).tags = (s.sq q).tags)

/-- Sums are promoted, verdicts given, passes repeated, epilogues written. Complete here: sumPromote, passVerdict, passRepeat,
heldPassEject, epilogueRead, epilogueWrite, passRetire. -/
def Obligations.PassesGiveTheirResults : Prop :=
  Claim.SumsArePromoted ∧ Claim.VerdictsAndRepeats ∧ Claim.EpiloguesWriteAndRetire

/-! ## DMA and slots -/

/-- dmaProgramStart and dmaProgramComplete complete (R120, R159, R440): an idle channel takes its oldest program, whose first descriptor
is read; a program at its END, with no write under way and no slot left to release, retires and its channel is idle. -/
def Claim.ProgramsStartAndComplete : Prop :=
  ∀ (s : State) (q : Fin 64) (ch : Fin 8),
    (∀ p l, (pick (s.sq q).chans ch).run = none → (pick (s.sq q).chans ch).queue = p :: l →
      exec (.dmaProgramStart q ch none) s =
        .next ((State.updSq s.ok q fun x => { x with chans := upd x.chans ch fun _ => { queue := l, run := some p } }).readDesc q ch)) ∧
    (∀ n, s.dmaNow q ch = some n → n.d.kind = .stop →
      (n.prog.filling = [] → n.prog.late = [] → ∃ t, exec (.dmaProgramComplete q ch) s = .next t ∧ (pick (t.sq q).chans ch).run = none ∧
        (pick (t.sq q).chans ch).queue = (pick (s.sq q).chans ch).queue ∧
        (t.sq q).open_ = (s.sq q).open_.filter (fun r => r.1 != n.prog.seq) ∧ t.mem = s.mem) ∧
      (n.prog.filling ≠ [] → exec (.dmaProgramComplete q ch) s = .next { s.pushLate q ch with out := .waits }))

/-- dmaLoad, dmaStore, dmaXfer, dmaGather, dmaScatter and dmaMove complete (R105, R111, R157, R158, R159): one at the head of its
channel is carried out row by row as far as it can go, writes of earlier descriptors first, and with all its rows done the program
goes on with the next. A row of LOAD and GATHER reads memory and puts its bytes, in the destination's format, at the row's place in
core memory; a row of STORE and SCATTER reads core memory and writes memory; XFER writes another Squall's core memory; MOVE copies
memory to memory. -/
def Claim.DescriptorsRunTheirRows : Prop :=
  ∀ (s : State) (q : Fin 64) (ch : Fin 8) (n : DmaNow), s.dmaNow q ch = some n →
    let d := n.d
    let run (one : DmaNow → State → Bool × State) : Host.Outcome State Fault Refusal :=
      .next (State.dmaRows (s.ok.pushLate q ch) q ch one n.prog.pc (d.rowCount + 1))
    (d.kind = .load → exec (.dmaLoad q ch none) s = run loadOne) ∧ (d.kind = .store → exec (.dmaStore q ch none) s = run storeOne) ∧
    (d.kind = .xfer → exec (.dmaXfer q ch none) s = run xferOne) ∧ (d.kind = .gather → exec (.dmaGather q ch none) s = run gatherOne) ∧
    (d.kind = .scatter → exec (.dmaScatter q ch none) s = run scatterOne) ∧ (d.kind = .move → exec (.dmaMove q ch none) s = run moveOne) ∧
    (∀ one fuel, d.rowCount ≤ n.prog.row → State.dmaRows s q ch one n.prog.pc (fuel + 1) = s.dmaNext n) ∧
    (∀ one fuel, n.prog.row < d.rowCount →
      let y := match n.prog.write with
        | some w => s.dmaWrite n w
        | none => one n s
      State.dmaRows s q ch one n.prog.pc (fuel + 1) = if y.1 then y.2.dmaRows q ch one n.prog.pc fuel else y.2) ∧
    (∀ va l u, d.untag = false → n.prog.filling = [] → s.readRange n.port va d.srcBytes = (.got l, u) →
      let out := convertRow d.sfmt d.sblk d.dfmt d.dblk d.sat d.n0 d.chunk (rneAll d.n0) l
      let slots := slotsOf (d.coreRow n.prog.row) out.length
      out.length ≤ 0xFFF000 → (∀ k ∈ slots, ((u.sq n.q).tag k).st = .empty) → (∀ p ∈ u.dram.retired, p.1 * Config.pageBytes < dramEnd) →
      ∃ t, s.loadRow n va .none = (true, t) ∧
        (∀ k, ∀ h : k < out.length, t.byteAt (coreAddr n.q ((d.coreRow n.prog.row + k) % 2 ^ 24)) = out[k].1) ∧
        ∀ k ∈ slots, d.touchedLater d.coreRow out.length n.prog.row k = false →
          ((t.sq n.q).tag k).st = .full ∧ ((t.sq n.q).tag k).readers = d.count) ∧
    (∀ va l, s.writeStop n.port va l.length = none → s.storeRow n n.port va l d.converts true = (s.writeRange n.port va l).2.dmaRowDone n) ∧
    (∀ t, n.target = some t → d.untag = true →
      ∃ v, xferOne n s = (true, v) ∧
        v.mem = (s.untaggedCore t (d.farRow n.prog.row) (s.loadCore n.q (d.coreRow n.prog.row) d.srcBytes)).mem)

/-- A parity error in a word that a descriptor's rows read from core memory or chip memory ends the attempt of its step (R129, R131). -/
def Claim.ParityInRowsRerunsTheStep : Prop :=
  ∀ (s t : State) (q : Fin 64) (ch : Fin 8) (a : BitVec 48),
    ∀ c ∈ [Instr.dmaLoad q ch, .dmaStore q ch, .dmaXfer q ch, .dmaGather q ch, .dmaScatter q ch, .dmaMove q ch],
      exec (c none) s = .next t → t.out.performed = true → exec (c (some (.mem a))) s = .next (State.parityInStep s.ok q (.mem a))

/-- slotRelease and slotRead complete (R103 to R107): SLOT_RELEASE makes a FILLING slot that nothing still writes FULL with its count;
SLOT_READ answers the bytes of a FULL or RESIDENT slot, a peek changes no tag, a consuming read releases the slot, which after its
last reader is EMPTY; at any other slot it waits. -/
def Claim.SlotsAreReleasedAndRead : Prop :=
  ∀ (s : State) (q : Fin 64) (k : Fin 4096) (n : Fin 16),
    let tag := (s.sq q).tag k.val
    let l := s.loadCore q (4096 * k.val) 4096
    (tag.st = .filling → n ≠ 0 → s.writing q k.val = false → ∃ t, exec (.slotRelease q k n) s = .next t ∧
      ((t.sq q).tag k.val).st = .full ∧ ((t.sq q).tag k.val).readers = n.val ∧ t.mem = s.mem ∧
      ∀ j, j ≠ k.val → (t.sq q).tag j = (s.sq q).tag j) ∧
    (s.SlotsReady q [k.val] →
      (∃ t, exec (.slotRead q k .peek none) s = .next t ∧ t.out = .data (l.map (·.1)) (joinMarks (l.map (·.2))) ∧ (t.sq q).tags = (s.sq q).tags ∧
        t.mem = s.mem) ∧
      (tag.st = .full → tag.readers ≤ 1 → ∃ t, exec (.slotRead q k .consume none) s = .next t ∧
        t.out = .data (l.map (·.1)) (joinMarks (l.map (·.2))) ∧ ((t.sq q).tag k.val).st = .empty ∧ t.mem = (s.undefine (inSlot q k.val)).mem) ∧
      (tag.st = .full → 1 < tag.readers → ∃ t, exec (.slotRead q k .consume none) s = .next t ∧ ((t.sq q).tag k.val).st = .full ∧
        ((t.sq q).tag k.val).readers = tag.readers - 1 ∧ t.mem = s.mem) ∧
      (tag.st = .resident → ∃ t, exec (.slotRead q k .consume none) s = .next t ∧
        t.out = .data (l.map (·.1)) (joinMarks (l.map (·.2))) ∧ (t.sq q).tags = (s.sq q).tags ∧ t.mem = s.mem)) ∧
    (tag.st = .empty ∨ tag.st = .filling → tag.again = false → ∀ kind, ∃ t, exec (.slotRead q k kind none) s = .next t ∧ t.out = .waits ∧
      (t.sq q).tags = (s.sq q).tags ∧ t.mem = s.mem)

/-- Descriptor programs, their rows and parity, and slot tags. Complete here: dmaProgramStart, dmaProgramComplete, dmaLoad, dmaStore,
dmaXfer, dmaGather, dmaScatter, dmaMove, slotRelease, slotRead. -/
def Obligations.DescriptorsAndSlots : Prop :=
  Claim.ProgramsStartAndComplete ∧ Claim.DescriptorsRunTheirRows ∧ Claim.ParityInRowsRerunsTheStep ∧ Claim.SlotsAreReleasedAndRead

/-- The start of an attempt (R108, R118): on the Squalls of its Fronts the RESIDENT slots keep their tags and every other slot is EMPTY
with READERS 0 (it is listed no more), and nothing stands in the bytes of a slot that is not RESIDENT; the Squalls of other Fronts
keep theirs, and the engines stand without a pass and with empty halves. -/
def Claim.StepsStartWithEmptySlots : Prop :=
  ∀ (s : State) (fs far : List (Fin 8)) (q : Fin 64),
    let t := s.resetFronts fs far
    let others := far.filter fun f => (s.runOn f).isNone
    (frontOf q ∈ fs → (t.sq q).tags = (s.sq q).tags.filter (fun x => x.2.st == .resident) ∧
      ∀ e, (t.eng q e).passes = [] ∧ (t.eng q e).halves = Vector.replicate 2 {} ∧ (t.eng q e).opTags = []) ∧
    (frontOf q ∉ fs → t.sq q = { s.sq q with watch := (t.sq q).watch }) ∧ t.mem = (s.undefine (s.stepMemory fs others s.residentChip)).mem ∧
    (∀ k o, k < 4096 → o < 4096 → (s.stepMemory fs others s.residentChip (coreAddr q (4096 * k + o)) = true ↔
      frontOf q ∈ fs ∧ ((assoc (s.sq q).tags k).any fun x => x.st == .resident) = false)) ∧
    ∀ (f : Fin 8) (o : Nat), o < chipBytes → (s.stepMemory fs others s.residentChip (chipBase + f.val * chipBytes + o) = true ↔
      (f ∈ fs ∨ f ∈ others) ∧ ∀ r ∈ s.residentChip, inRange r.1 r.2 (chipBase + f.val * chipBytes + o) = false)

/-- An untagged write into a RESIDENT slot is discarded, and RESIDENT_WRITE_DROP rises by one on its Squall (R113); into any other slot
it is written, and no tag changes (R111). -/
def Claim.ResidentSlotsRefuseUntaggedWrites : Prop :=
  ∀ (s : State) (q : Fin 64) (off k : Nat) (l : List MByte), off + l.length ≤ 2 ^ 24 → slotsOf off l.length = [k] →
    (((s.sq q).tag k).st = .resident →
      s.untaggedCore q off l = s.updSq q fun x => { x with residentWriteDrop := x.residentWriteDrop + 1 }) ∧
    (((s.sq q).tag k).st ≠ .resident → s.untaggedCore q off l = s.storeCore q off l)

/-- Resident slots outlast the start of a step and refuse untagged writes. -/
def Obligations.ResidentSlotsAreKept : Prop :=
  Claim.StepsStartWithEmptySlots ∧ Claim.ResidentSlotsRefuseUntaggedWrites

/-! ## Numbers -/

/-- The value of an element in a block (R67): +0 under exponent code 0, NaN under 0xFF, and otherwise the element's value times 2^(c -
127); a NaN or infinity among the element's codes stays what it is. -/
def Claim.BlockElementsScale : Prop :=
  ∀ (f : Fmt) (c x : Nat), c < 256 →
    blockElem f c x = if c = 0 then .fin false 0 0 else if c = 255 then .nan else match f.elem x with
      | .fin neg m e => .fin neg m (e + ((c : Int) - 127))
      | v => v

/-- The sentinels of MAXPLUS and MINPLUS (R40): a sum that still holds -524,288 is promoted as minus infinity, one that still holds
524,287 as plus infinity, and a term that would equal or pass the sentinel overflows. -/
def Claim.SentinelsMeanNoValue : Prop :=
  ∀ (e : Int) (s : Sum) (a w : Val) (neg : Bool) (m : Nat) (x : Int),
    (s.nan = false → s.pinf = false → s.ninf = false →
      (s.field = -524288 → s.value .maxplus e = 0xFF800000) ∧ (s.field = 524287 → s.value .minplus e = 0x7F800000)) ∧
    (a.add w = .fin neg m x →
      (onGrid e neg m x ≤ -524288 → (s.cell .maxplus e [(a, w)]).ovf = true) ∧
      (524287 ≤ onGrid e neg m x → (s.cell .minplus e [(a, w)]).ovf = true) ∧
      (-524288 < onGrid e neg m x → onGrid e neg m x ≤ 524287 →
        (s.cell .maxplus e [(a, w)]).field = max s.field (onGrid e neg m x) ∧ (s.cell .maxplus e [(a, w)]).ovf = s.ovf))

/-- Elements of a block, and the sentinels of MAXPLUS and MINPLUS. -/
def Obligations.BlockElementsAndSentinels : Prop :=
  Claim.BlockElementsScale ∧ Claim.SentinelsMeanNoValue

/-- Plain floating codes (R70, R78): the code of a number of BF16, FP16 or binary32 that is no NaN is encoded to itself, every bit of
it. -/
def Claim.PlainCodesRoundTrip : Prop :=
  ∀ (f : Fmt) (sat : Bool) (x : Nat), f = .bf16 ∨ f = .fp16 ∨ f = .fp32 → x < 2 ^ f.width → f.elem x ≠ .nan →
    encodePlain f sat .rne (f.elem x) = x

/-- Binary32 addition and multiplication (R125): they do not depend on the order of their operands, and a NaN among these gives the
canonical NaN. -/
def Claim.Binary32IsCommutative : Prop :=
  ∀ a b : W32, f32Add a b = f32Add b a ∧ f32Mul a b = f32Mul b a ∧
    (valOf a = .nan → f32Add a b = 0x7FC00000 ∧ f32Mul a b = 0x7FC00000)

/-- Plain floating codes are encoded to themselves; binary32 sums and products commute. -/
def Obligations.NumbersRoundTrip : Prop :=
  Claim.PlainCodesRoundTrip ∧ Claim.Binary32IsCommutative
end

