-- ==== Sys2Proof/Laws/Memory.lean ====
section
/-!
SUPPORT. The laws of memory: every operation keeps the canonical form, a read after a write, and what a write leaves alone.
-/

namespace Sys2Proof.Machine

theorem Memory.above_mono {lo hi : Nat} (h : lo ≤ hi) {m : Memory} (hm : Memory.above hi m = true) :
    Memory.above lo m = true := by
  induction m with
  | nil => rfl
  | cons c m ih =>
    obtain ⟨k, b⟩ := c
    simp only [Memory.above, Bool.and_eq_true, decide_eq_true_eq] at hm ⊢
    exact ⟨by omega, ih hm.2⟩

theorem Memory.above_put {lo a : Nat} (ha : lo < a) (b : Byte) {m : Memory} (hm : Memory.above lo m = true) :
    Memory.above lo (Memory.put m a b) = true := by
  induction m with
  | nil =>
    simp only [Memory.put]
    split <;> simp [Memory.above, ha]
  | cons c m ih =>
    obtain ⟨k, e⟩ := c
    simp only [Memory.above, Bool.and_eq_true, decide_eq_true_eq] at hm
    simp only [Memory.put]
    repeat' split
    all_goals simp [Memory.above, ha, hm.1, hm.2, ih hm.2]

/-- A byte stored keeps the canonical form. -/
theorem Memory.wf_put {m : Memory} (hm : Memory.wf m = true) (a : Nat) (b : Byte) : Memory.wf (Memory.put m a b) = true := by
  induction m with
  | nil =>
    simp only [Memory.put]
    split
    · rfl
    · simp_all [Memory.wf, Memory.above]
  | cons c m ih =>
    obtain ⟨k, e⟩ := c
    simp only [Memory.wf, Bool.and_eq_true, decide_eq_true_eq] at hm
    obtain ⟨⟨h1, h2⟩, h3⟩ := hm
    simp only [Memory.put]
    split
    · rename_i hlt
      split
      · simp [Memory.wf, h1, h2, h3]
      · rename_i hu
        simp [Memory.wf, Memory.above, hu, h1, h2, h3, hlt, Memory.above_mono (Nat.le_of_lt hlt) h2]
    · split
      · rename_i heq
        subst heq
        split
        · exact h3
        · rename_i hu
          simp [Memory.wf, hu, h2, h3]
      · have hk : k < a := by omega
        simp [Memory.wf, h1, ih h3, Memory.above_put hk b h2]

theorem Memory.wf_putList {m : Memory} (hm : Memory.wf m = true) (a : Nat) (l : List Byte) :
    Memory.wf (Memory.putList m a l) = true := by
  induction l generalizing m a with
  | nil => exact hm
  | cons b l ih => exact ih (Memory.wf_put hm a b) (a + 1)

theorem Memory.above_filter {lo : Nat} {m : Memory} (hm : Memory.above lo m = true) (p : Host.Cell → Bool) :
    Memory.above lo (m.filter p) = true := by
  induction m with
  | nil => rfl
  | cons c m ih =>
    obtain ⟨k, b⟩ := c
    simp only [Memory.above, Bool.and_eq_true, decide_eq_true_eq] at hm
    rw [List.filter_cons]
    split
    · simp [Memory.above, hm.1, ih hm.2]
    · exact ih hm.2

/-- Any part of a memory in canonical form is in canonical form. -/
theorem Memory.wf_filter {m : Memory} (hm : Memory.wf m = true) (p : Host.Cell → Bool) : Memory.wf (m.filter p) = true := by
  induction m with
  | nil => rfl
  | cons c m ih =>
    obtain ⟨k, b⟩ := c
    simp only [Memory.wf, Bool.and_eq_true, decide_eq_true_eq] at hm
    rw [List.filter_cons]
    split
    · simp [Memory.wf, hm.1.1, Memory.above_filter hm.1.2, ih hm.2]
    · exact ih hm.2

theorem Memory.wf_drop {m : Memory} (hm : Memory.wf m = true) (p : Nat → Bool) : Memory.wf (m.drop p) = true :=
  Memory.wf_filter hm _

theorem Memory.lookup_above {lo a : Nat} (ha : a ≤ lo) {m : Memory} (hm : Memory.above lo m = true) : m.lookup a = none := by
  induction m with
  | nil => rfl
  | cons c m ih =>
    obtain ⟨k, b⟩ := c
    simp only [Memory.above, Bool.and_eq_true, decide_eq_true_eq] at hm
    have : k ≠ a := by omega
    simp [Memory.lookup, this, ih hm.2]

/-- A byte stored reads back: it is listed, or it is what an unlisted address reads as. -/
theorem Memory.lookup_put_same {m : Memory} (hm : Memory.wf m = true) (a : Nat) (b : Byte) :
    (Memory.put m a b).lookup a = if unlisted a = some b then none else some b := by
  induction m with
  | nil =>
    simp only [Memory.put]
    split <;> simp [Memory.lookup]
  | cons c m ih =>
    obtain ⟨k, e⟩ := c
    simp only [Memory.wf, Bool.and_eq_true, decide_eq_true_eq] at hm
    obtain ⟨⟨h1, h2⟩, h3⟩ := hm
    simp only [Memory.put]
    split
    · rename_i hlt
      have hka : k ≠ a := by omega
      split
      · simp [Memory.lookup, hka, Memory.lookup_above (Nat.le_of_lt hlt) h2]
      · simp [Memory.lookup]
    · split
      · rename_i heq
        subst heq
        split
        · exact Memory.lookup_above (Nat.le_refl _) h2
        · simp [Memory.lookup]
      · rename_i h4 h5
        have hka : k ≠ a := fun h => h5 h.symm
        simp [Memory.lookup, hka, ih h3]

/-- A byte stored leaves every other address alone. -/
theorem Memory.lookup_put_other (m : Memory) {a c : Nat} (hc : c ≠ a) (b : Byte) :
    (Memory.put m a b).lookup c = m.lookup c := by
  induction m with
  | nil =>
    simp only [Memory.put]
    split <;> simp [Memory.lookup, Ne.symm hc]
  | cons x m ih =>
    obtain ⟨k, e⟩ := x
    simp only [Memory.put]
    split
    · split <;> simp [Memory.lookup, Ne.symm hc]
    · split
      · rename_i heq
        subst heq
        split <;> simp [Memory.lookup, Ne.symm hc]
      · simp only [Memory.lookup, ih]

end Sys2Proof.Machine
end

