-- ==== Sys2Proof/Laws/Follows.lean ====
section
/-!
SUPPORT. What the updates of State do to a legal state: the lemmas that every law of a command rests on.
-/

namespace Sys2Proof.Machine

theorem Follows.refl (s : State) : Follows s s := ⟨rfl, rfl, Fin.le_refl _, id⟩

theorem Follows.trans {s t u : State} (h : Follows s t) (g : Follows t u) : Follows s u :=
  ⟨g.queue.trans h.queue, g.clock.trans h.clock, Fin.le_trans h.fuses g.fuses, fun l => g.legal (h.legal l)⟩

theorem Follows.ident {s t : State} (h : Follows s t) : Follows s (id t) := h

/-- A change that leaves the queue, the clock, the fuses, the memories and the settings alone. -/
theorem Follows.same {s t u : State} (h : Follows s t) (hq : u.pending = t.pending) (hn : u.now = t.now)
    (hf : u.boot.fuses = t.boot.fuses) (hm : u.mem = t.mem) (hl : u.tiers.flash = t.tiers.flash)
    (hs : u.settings = t.settings) : Follows s u :=
  ⟨hq.trans h.queue, hn.trans h.clock, hf ▸ h.fuses, fun l =>
    let k := h.legal l
    ⟨hm ▸ k.mem, hl ▸ k.flash, hs ▸ k.settings⟩⟩

/-- The same for a state written out. -/
theorem Follows.lit {s t : State} {now free out pending mem marks gens eci srv tiers squalls cores coh dram pwr cxl dnb mgmt boot logs ctrs}
    (hq : pending = t.pending) (h : Follows s t) (hn : now = t.now) (hf : boot.fuses = t.boot.fuses) (hm : mem = t.mem)
    (hl : tiers.flash = t.tiers.flash) (hc : coh.devTimeout = t.coh.devTimeout) (ho : eci.ops.length = t.eci.ops.length)
    (h1 : pwr.cap = t.pwr.cap) (h2 : pwr.capWanted = t.pwr.capWanted) (h3 : pwr.mode = t.pwr.mode)
    (h4 : pwr.capModeDue = t.pwr.capModeDue) :
    Follows s (State.mk now free out pending mem marks gens eci srv tiers squalls cores coh dram pwr cxl dnb mgmt boot logs ctrs) :=
  h.same hq hn hf hm hl (by simp only [State.settings, hc, ho, h1, h2, h3, h4])

/-- A change of memory that keeps its canonical form. -/
theorem Follows.memory {s t u : State} (h : Follows s t) (hm : Memory.wf t.mem = true → Memory.wf u.mem = true)
    (hq : u.pending = t.pending) (hn : u.now = t.now) (hf : u.boot.fuses = t.boot.fuses)
    (hl : u.tiers.flash = t.tiers.flash) (hs : u.settings = t.settings) : Follows s u :=
  ⟨hq.trans h.queue, hn.trans h.clock, hf ▸ h.fuses, fun l =>
    let k := h.legal l
    ⟨hm k.mem, hl ▸ k.flash, hs ▸ k.settings⟩⟩

/-- A change of flash that keeps its canonical form. -/
theorem Follows.inFlash {s t u : State} (h : Follows s t) (hl : Memory.wf t.tiers.flash = true → Memory.wf u.tiers.flash = true)
    (hq : u.pending = t.pending) (hn : u.now = t.now) (hf : u.boot.fuses = t.boot.fuses)
    (hm : u.mem = t.mem) (hs : u.settings = t.settings) : Follows s u :=
  ⟨hq.trans h.queue, hn.trans h.clock, hf ▸ h.fuses, fun l =>
    let k := h.legal l
    ⟨hm ▸ k.mem, hl k.flash, hs ▸ k.settings⟩⟩

/-- A change of settings to legal ones. -/
theorem Follows.setting {s t u : State} (h : Follows s t) (hs : LegalSettings t.settings → LegalSettings u.settings)
    (hq : u.pending = t.pending) (hn : u.now = t.now) (hf : u.boot.fuses = t.boot.fuses)
    (hm : u.mem = t.mem) (hl : u.tiers.flash = t.tiers.flash) : Follows s u :=
  ⟨hq.trans h.queue, hn.trans h.clock, hf ▸ h.fuses, fun l =>
    let k := h.legal l
    ⟨hm ▸ k.mem, hl ▸ k.flash, hs k.settings⟩⟩

/-- A fold whose steps all keep the relation. -/
theorem Follows.foldl {α : Type} {s t : State} (h : Follows s t) (l : List α) (f : State → α → State)
    (hf : ∀ u a, Follows s u → Follows s (f u a)) : Follows s (l.foldl f t) :=
  List.foldlRecOn l f h fun u k a _ => hf u a k

/-- A fold over a pair whose second part is the state. -/
theorem Follows.foldlSnd {α β : Type} {s : State} (p : β × State) (h : Follows s p.2) (l : List α)
    (f : β × State → α → β × State) (hf : ∀ q a, Follows s q.2 → Follows s (f q a).2) : Follows s (l.foldl f p).2 :=
  List.foldlRecOn (motive := fun q => Follows s q.2) l f h fun q k a _ => hf q a k

/-- What a partial meaning answers. -/
def FollowsSome (s : State) (o : Option State) : Prop := ∀ u, o = some u → Follows s u

theorem FollowsSome.none (s : State) : FollowsSome s none := fun _ h => by cases h
theorem FollowsSome.some {s t : State} (h : Follows s t) : FollowsSome s (some t) := fun _ e => by cases e; exact h

/-- What the meaning of a command answers: every next state follows the state met. -/
def FollowsNext (s : State) (r : Res) : Prop := ∀ u, r = .next u → Follows s u

theorem FollowsNext.next {s t : State} (h : Follows s t) : FollowsNext s (.next t) := fun _ e => by cases e; exact h

section updates

variable {s t : State} (h : Follows s t)
include h

theorem State.answer_follows (a) : Follows s (t.answer a) := h.same rfl rfl rfl rfl rfl rfl
theorem State.updPair_follows (q) (f) : Follows s (t.updPair q f) := h.same rfl rfl rfl rfl rfl rfl
theorem State.updSq_follows (q) (f) : Follows s (t.updSq q f) := h.same rfl rfl rfl rfl rfl rfl
theorem State.updCore_follows (q) (f) : Follows s (t.updCore q f) := h.same rfl rfl rfl rfl rfl rfl
theorem State.updFront_follows (q) (f) : Follows s (t.updFront q f) := h.same rfl rfl rfl rfl rfl rfl
theorem State.updPort_follows (q) (f) : Follows s (t.updPort q f) := h.same rfl rfl rfl rfl rfl rfl
theorem State.updSrv_follows (f) : Follows s (t.updSrv f) := h.same rfl rfl rfl rfl rfl rfl
theorem State.updCxl_follows (f) : Follows s (t.updCxl f) := h.same rfl rfl rfl rfl rfl rfl
theorem State.updDnb_follows (f) : Follows s (t.updDnb f) := h.same rfl rfl rfl rfl rfl rfl
theorem State.updDram_follows (f) : Follows s (t.updDram f) := h.same rfl rfl rfl rfl rfl rfl
theorem State.updLogs_follows (f) : Follows s (t.updLogs f) := h.same rfl rfl rfl rfl rfl rfl
theorem State.draw_follows : Follows s t.draw := h.same rfl rfl rfl rfl rfl rfl

/-- A change of the control processor's state that leaves the number of long operations alone. -/
theorem State.updEci_follows (f : Eci → Eci) (hf : (f t.eci).ops.length = t.eci.ops.length) : Follows s (t.updEci f) :=
  h.same rfl rfl rfl rfl rfl (by simp only [State.settings, State.updEci, hf])

/-- A change of the tiers that leaves flash alone. -/
theorem State.updTiers_follows (f : Tiers → Tiers) (hf : (f t.tiers).flash = t.tiers.flash) : Follows s (t.updTiers f) :=
  h.same rfl rfl rfl rfl hf rfl

/-- A change of the power controller's state that leaves its settings alone. -/
theorem State.updPwr_follows (f : Power → Power) (h1 : (f t.pwr).cap = t.pwr.cap) (h2 : (f t.pwr).capWanted = t.pwr.capWanted)
    (h3 : (f t.pwr).mode = t.pwr.mode) (h4 : (f t.pwr).capModeDue = t.pwr.capModeDue) : Follows s (t.updPwr f) :=
  h.same rfl rfl rfl rfl rfl (by simp only [State.settings, State.updPwr, h1, h2, h3, h4])

/-- A change of the coherence state that leaves COH_DEV_TIMEOUT alone. -/
theorem State.updCoh_follows (f : Coherence → Coherence) (hf : (f t.coh).devTimeout = t.coh.devTimeout) : Follows s (t.updCoh f) :=
  h.same rfl rfl rfl rfl rfl (by simp only [State.settings, State.updCoh, hf])

/-- A change of the boot state that leaves the fuses alone. -/
theorem State.updBoot_follows (f : Boot → Boot) (hf : (f t.boot).fuses = t.boot.fuses) : Follows s (t.updBoot f) :=
  h.same rfl rfl hf rfl rfl rfl

theorem State.putByte_follows (a) (b) : Follows s (t.putByte a b) :=
  h.memory (fun k => Memory.wf_put k _ _) rfl rfl rfl rfl rfl

theorem State.clear_follows (a) (n) : Follows s (t.clear a n) :=
  h.memory (fun k => by unfold State.clear; dsimp only; exact Memory.wf_drop k _) rfl rfl rfl rfl rfl

theorem State.undefine_follows (p) : Follows s (t.undefine p) :=
  h.memory (fun k => Memory.wf_drop k _) rfl rfl rfl rfl rfl

end updates

theorem updWhere_length {α : Type} (l : List α) (p : α → Bool) (f : α → α) : (updWhere l p f).length = l.length := by
  simp [updWhere]

end Sys2Proof.Machine
end

