-- ==== Sys2Proof/Laws/DramMap.lean ====
section
/-!
SUPPORT. What the operations of Machine/DramMap.lean do to a legal state.
-/

namespace Sys2Proof.Machine

theorem State.ask_follows {s t : State} (h : Follows s t) (a1) : Follows s (State.ask t a1) := by
  unfold State.ask
  repeat' first
    | with_reducible exact h | with_reducible apply State.updDram_follows | intro _ | with_reducible apply Follows.lit
    | (dsimp only <;> with_reducible rfl) | rfl

theorem State.dramAsk_follows {s t : State} (h : Follows s t) (a1 a2) (a3 a4 a5) : Follows s (State.dramAsk t a1 a2 a3 a4 a5) := by
  unfold State.dramAsk
  try dsimp only
  repeat' first
    | with_reducible exact h | with_reducible assumption | with_reducible apply State.ask_follows
    | with_reducible apply Follows.foldl | with_reducible apply Follows.foldlSnd | intro _ | with_reducible rfl
    | split | with_reducible apply Follows.ident | with_reducible apply Follows.lit
    | (dsimp only <;> with_reducible rfl) | rfl

theorem State.dramUse_follows {s t : State} (h : Follows s t) (a1 a2) (a3 a4) : Follows s (State.dramUse t a1 a2 a3 a4) := by
  unfold State.dramUse
  repeat' first
    | with_reducible exact h | with_reducible apply State.dramAsk_follows

theorem State.dramRead_follows {s t : State} (h : Follows s t) (a1 a2 a3) : Follows s (State.dramRead t a1 a2 a3) := by
  unfold State.dramRead
  repeat' first
    | with_reducible exact h | with_reducible apply State.dramAsk_follows

end Sys2Proof.Machine
end

