-- ==== Sys2Proof/Laws/Flags.lean ====
section
/-!
SUPPORT. What the operations of Machine/Flags.lean do to a legal state.
-/

namespace Sys2Proof.Machine

theorem State.add_follows {s t : State} (h : Follows s t) (a1 a2) : Follows s (State.add t a1 a2) := by
  unfold State.add
  try dsimp only
  repeat' first
    | with_reducible exact h | with_reducible assumption | with_reducible apply Follows.foldl
    | with_reducible apply Follows.foldlSnd | intro _ | with_reducible rfl | split
    | with_reducible apply Follows.ident | with_reducible apply Follows.lit

theorem State.count_follows {s t : State} (h : Follows s t) (a1) : Follows s (State.count t a1) := by
  unfold State.count
  repeat' first
    | with_reducible exact h | with_reducible apply State.add_follows

theorem State.lifeAdd_follows {s t : State} (h : Follows s t) (a1 a2 a3) : Follows s (State.lifeAdd t a1 a2 a3) := by
  unfold State.lifeAdd
  repeat' first
    | with_reducible exact h | with_reducible apply State.updLogs_follows

theorem State.sendMsix_follows {s t : State} (h : Follows s t) (a1) : Follows s (State.sendMsix t a1) := by
  unfold State.sendMsix
  repeat' first
    | with_reducible exact h | with_reducible apply State.updEci_follows | intro _ | with_reducible apply Follows.lit
    | (dsimp only <;> with_reducible rfl)

theorem State.vector64_follows {s t : State} (h : Follows s t) : Follows s (State.vector64 t) := by
  unfold State.vector64
  try dsimp only
  repeat' first
    | with_reducible exact h | with_reducible assumption | with_reducible apply State.updEci_follows
    | with_reducible apply State.sendMsix_follows | with_reducible apply Follows.foldl
    | with_reducible apply Follows.foldlSnd | intro _ | with_reducible rfl | split

theorem State.event_follows {s t : State} (h : Follows s t) (a1 a2 a3 a4 a5) : Follows s (State.event t a1 a2 a3 a4 a5) := by
  unfold State.event
  extract_lets e r was s1 s2 m s3
  have h1 : Follows s s1 := State.updLogs_follows h _
  have h2 : Follows s s2 := by
    show Follows s (if r.2 then _ else _)
    split
    · exact State.lifeAdd_follows (State.count_follows h1 _) _ _ _
    · exact h1
  have h3 : Follows s s3 := by
    show Follows s (if _ then _ else _)
    split
    · exact h2.same rfl rfl rfl rfl rfl rfl
    · exact h2
  split
  · exact State.vector64_follows h3
  · exact h3

theorem State.setDev_follows {s t : State} (h : Follows s t) (a1) : Follows s (State.setDev t a1) := by
  unfold State.setDev
  repeat' first
    | with_reducible exact h | with_reducible apply State.updEci_follows | (dsimp only <;> with_reducible rfl)

theorem State.rouse_follows {s t : State} (h : Follows s t) : Follows s (State.rouse t) := by
  unfold State.rouse
  repeat' first
    | with_reducible exact h | with_reducible apply State.updPwr_follows | split | (dsimp only <;> with_reducible rfl)

theorem State.requested_follows {s t : State} (h : Follows s t) : Follows s (State.requested t) := by
  unfold State.requested
  repeat' first
    | with_reducible exact h | with_reducible apply State.updPwr_follows | with_reducible apply State.rouse_follows
    | (dsimp only <;> with_reducible rfl)

end Sys2Proof.Machine
end

