-- ==== Sys2Proof/Laws/Ops.lean ====
section
/-!
SUPPORT. What the operations of Machine/Ops.lean do to a legal state.
-/

namespace Sys2Proof.Machine

theorem State.updChain_follows {s t : State} (h : Follows s t) (a1 a2 a3) : Follows s (State.updChain t a1 a2 a3) := by
  unfold State.updChain
  repeat' first
    | with_reducible exact h | with_reducible apply State.updSrv_follows

theorem State.updRun_follows {s t : State} (h : Follows s t) (a1 a2 a3) : Follows s (State.updRun t a1 a2 a3) := by
  unfold State.updRun
  repeat' first
    | with_reducible exact h | with_reducible apply State.updChain_follows

theorem State.notDue_follows {s t : State} (h : Follows s t) : Follows s (State.notDue t) := by
  unfold State.notDue
  repeat' first
    | with_reducible exact h | with_reducible apply State.answer_follows

theorem State.waits_follows {s t : State} (h : Follows s t) : Follows s (State.waits t) := by
  unfold State.waits
  repeat' first
    | with_reducible exact h | with_reducible apply State.answer_follows

theorem State.ok_follows {s t : State} (h : Follows s t) : Follows s (State.ok t) := by
  unfold State.ok
  repeat' first
    | with_reducible exact h | with_reducible apply State.answer_follows

theorem State.updEng_follows {s t : State} (h : Follows s t) (a1 a2 a3) : Follows s (State.updEng t a1 a2 a3) := by
  unfold State.updEng
  repeat' first
    | with_reducible exact h | with_reducible apply State.updSq_follows

theorem State.putBytes_follows {s t : State} (h : Follows s t) (a) (l : List Byte) : Follows s (State.putBytes t a l) := by
  induction l generalizing t a with
  | nil => exact h
  | cons b l ih => exact ih (State.putByte_follows h a b) (a + 1)

theorem State.putWord_follows {s t : State} (h : Follows s t) (a1 a2 a3) : Follows s (State.putWord t a1 a2 a3) := by
  unfold State.putWord
  repeat' first
    | with_reducible exact h | with_reducible apply State.putBytes_follows

theorem State.copy_follows {s t : State} (h : Follows s t) (a1 a2 a3) : Follows s (State.copy t a1 a2 a3) := by
  unfold State.copy
  repeat' first
    | with_reducible exact h | with_reducible apply State.putBytes_follows

theorem State.setMark_follows {s t : State} (h : Follows s t) (a1 a2) : Follows s (State.setMark t a1 a2) := by
  unfold State.setMark
  repeat' first
    | with_reducible exact h | split | with_reducible apply Follows.lit | (dsimp only <;> with_reducible rfl)

theorem State.markRange_follows {s t : State} (h : Follows s t) (a1 a2 a3) : Follows s (State.markRange t a1 a2 a3) := by
  unfold State.markRange
  try dsimp only
  repeat' first
    | with_reducible exact h | with_reducible assumption | with_reducible apply State.setMark_follows
    | with_reducible apply Follows.foldl | with_reducible apply Follows.foldlSnd | intro _

theorem State.bumpGen_follows {s t : State} (h : Follows s t) (a1) : Follows s (State.bumpGen t a1) := by
  unfold State.bumpGen
  try dsimp only
  repeat' first
    | with_reducible exact h | with_reducible assumption | with_reducible apply Follows.foldl
    | with_reducible apply Follows.foldlSnd | intro _ | with_reducible rfl | split
    | with_reducible apply Follows.ident | with_reducible apply Follows.lit

theorem State.store_follows {s t : State} (h : Follows s t) (a1 a2 a3) : Follows s (State.store t a1 a2 a3) := by
  unfold State.store
  try dsimp only
  repeat' first
    | with_reducible exact h | with_reducible assumption | with_reducible apply State.markRange_follows
    | with_reducible apply State.putBytes_follows | with_reducible apply State.bumpGen_follows
    | with_reducible apply Follows.foldl | with_reducible apply Follows.foldlSnd | intro _ | with_reducible rfl
    | split

theorem State.updModel_follows {s t : State} (h : Follows s t) (a1 a2) : Follows s (State.updModel t a1 a2) := by
  unfold State.updModel
  repeat' first
    | with_reducible exact h | with_reducible apply State.updSrv_follows

theorem State.updSession_follows {s t : State} (h : Follows s t) (a1 a2) : Follows s (State.updSession t a1 a2) := by
  unfold State.updSession
  repeat' first
    | with_reducible exact h | with_reducible apply State.updEci_follows | intro _
    | with_reducible apply Follows.ident | with_reducible apply Follows.lit | (dsimp only <;> with_reducible rfl)

theorem State.updSeq_follows {s t : State} (h : Follows s t) (a1 a2 a3) : Follows s (State.updSeq t a1 a2 a3) := by
  unfold State.updSeq
  repeat' first
    | with_reducible exact h | with_reducible apply State.updSrv_follows

theorem State.updOp_follows {s t : State} (h : Follows s t) (a) (f) : Follows s (t.updOp a f) :=
  State.updEci_follows h _ (updWhere_length _ _ _)

end Sys2Proof.Machine
end

