-- ==== Sys2Proof/Laws/Retire.lean ====
section
/-!
SUPPORT. What the operations of Machine/Retire.lean do to a legal state.
-/

namespace Sys2Proof.Machine

theorem State.redirect_follows {s t : State} (h : Follows s t) (a1 a2) : Follows s (State.redirect t a1 a2) := by
  unfold State.redirect
  try dsimp only
  repeat' first
    | with_reducible exact h | with_reducible assumption | with_reducible apply State.putBytes_follows
    | with_reducible apply State.setMark_follows | with_reducible apply State.updDram_follows
    | with_reducible apply Follows.foldl | with_reducible apply Follows.foldlSnd | intro _

theorem State.retirePage_some {s t : State} (h : Follows s t) (a1) : FollowsSome s (State.retirePage t a1) := by
  unfold State.retirePage
  try dsimp only
  repeat' first
    | exact FollowsSome.none _ | with_reducible apply FollowsSome.some | with_reducible exact h
    | with_reducible assumption | with_reducible apply State.dramUse_follows
    | with_reducible apply State.updDram_follows | with_reducible apply State.redirect_follows
    | with_reducible apply Follows.foldl | with_reducible apply Follows.foldlSnd | split

theorem State.retirePage_follows {s t u : State} {a1} (e : (State.retirePage t a1) = some u) (h : Follows s t) : Follows s u :=
  State.retirePage_some h a1 u e

theorem State.reapply_follows {s t : State} (h : Follows s t) (a) : Follows s (t.reapply a) := by
  unfold State.reapply
  refine Follows.foldl h _ _ fun u r k => ?_
  split
  · exact k
  · rename_i page _
    split
    · exact k
    · cases e : u.retirePage page with
      | none => exact k
      | some v => exact State.retirePage_follows e k

theorem State.giveBack_follows {s t : State} (h : Follows s t) : Follows s (State.giveBack t) := by
  unfold State.giveBack
  try dsimp only
  repeat' first
    | with_reducible exact h | with_reducible assumption | with_reducible apply State.updDram_follows
    | with_reducible apply State.setMark_follows | with_reducible apply State.putBytes_follows
    | with_reducible apply Follows.foldl | with_reducible apply Follows.foldlSnd | intro _ | with_reducible rfl
    | split | with_reducible apply Follows.ident | with_reducible apply Follows.lit
    | (dsimp only <;> with_reducible rfl) | rfl

end Sys2Proof.Machine
end

