-- ==== Sys2Proof/Laws/DramErr.lean ====
section
/-!
SUPPORT. What the operations of Machine/DramErr.lean do to a legal state.
-/

namespace Sys2Proof.Machine

theorem State.adviseRetire_follows {s t : State} (h : Follows s t) (a1) : Follows s (State.adviseRetire t a1) := by
  unfold State.adviseRetire
  try dsimp only
  repeat' first
    | with_reducible exact h | with_reducible assumption | with_reducible apply State.event_follows
    | with_reducible apply Follows.foldl | with_reducible apply Follows.foldlSnd | intro _

theorem State.fixBack_follows {s t : State} (h : Follows s t) (a1) : Follows s (State.fixBack t a1) := by
  unfold State.fixBack
  dsimp only
  split
  · exact h
  · exact State.dramUse_follows h ..

theorem State.dramFixed_follows {s t : State} (h : Follows s t) (a1) : Follows s (State.dramFixed t a1) := by
  unfold State.dramFixed
  try dsimp only
  repeat' first
    | with_reducible exact h | with_reducible assumption | with_reducible apply State.updDram_follows
    | with_reducible apply State.lifeAdd_follows | with_reducible apply State.count_follows
    | with_reducible apply State.fixBack_follows | with_reducible apply State.adviseRetire_follows
    | with_reducible apply Follows.foldl | with_reducible apply Follows.foldlSnd | intro _ | with_reducible rfl
    | split

theorem State.dramBad_follows {s t : State} (h : Follows s t) (a1) : Follows s (State.dramBad t a1) := by
  unfold State.dramBad
  try dsimp only
  repeat' first
    | with_reducible exact h | with_reducible assumption | with_reducible apply State.event_follows
    | with_reducible apply State.count_follows | with_reducible apply State.setMark_follows
    | with_reducible apply State.updTiers_follows | with_reducible apply State.retirePage_follows (e := by assumption)
    | with_reducible apply State.updLogs_follows | with_reducible apply Follows.foldl
    | with_reducible apply Follows.foldlSnd | intro _ | with_reducible rfl | split

theorem State.dramCheck_follows {s t : State} (h : Follows s t) (a1 a2) : Follows s (State.dramCheck t a1 a2) := by
  unfold State.dramCheck
  try dsimp only
  repeat' first
    | with_reducible exact h | with_reducible assumption | with_reducible apply State.dramFixed_follows
    | with_reducible apply State.draw_follows | with_reducible apply State.putBytes_follows
    | with_reducible apply State.dramBad_follows | with_reducible apply Follows.foldl
    | with_reducible apply Follows.foldlSnd | intro _ | with_reducible rfl | split
    | with_reducible apply Follows.ident | with_reducible apply Follows.lit | (dsimp only <;> with_reducible rfl)
    | rfl

end Sys2Proof.Machine
end

