-- ==== Sys2Proof/Laws/Lines.lean ====
section
/-!
SUPPORT. What the operations of Machine/Lines.lean do to a legal state.
-/

namespace Sys2Proof.Machine

theorem State.schedFetch_follows {s t : State} (h : Follows s t) (a1 a2) : Follows s (State.schedFetch t a1 a2) := by
  unfold State.schedFetch
  try dsimp only
  repeat' first
    | with_reducible exact h | with_reducible assumption | with_reducible apply State.updSq_follows
    | with_reducible apply State.dramRead_follows | with_reducible apply Follows.foldl
    | with_reducible apply Follows.foldlSnd | intro _ | with_reducible rfl | split
    | with_reducible apply Follows.ident | with_reducible apply Follows.lit | (dsimp only <;> with_reducible rfl)
    | rfl

theorem State.schedRead_follows {s t : State} (h : Follows s t) (a1 a2 a3) : Follows s (State.schedRead t a1 a2 a3) := by
  unfold State.schedRead
  try dsimp only
  repeat' first
    | with_reducible exact h | with_reducible assumption | with_reducible apply State.schedFetch_follows
    | with_reducible apply Follows.foldl | with_reducible apply Follows.foldlSnd | intro _ | with_reducible rfl
    | split | with_reducible apply Follows.ident | with_reducible apply Follows.lit
    | (dsimp only <;> with_reducible rfl) | rfl

end Sys2Proof.Machine
end

