-- ==== Sys2Proof/Laws/Pool.lean ====
section
/-!
SUPPORT. What the operations of Machine/Pool.lean do to a legal state.
-/

namespace Sys2Proof.Machine

theorem State.updTenant_follows {s t : State} (h : Follows s t) (a1 a2) : Follows s (State.updTenant t a1 a2) := by
  unfold State.updTenant
  repeat' first
    | with_reducible exact h | with_reducible apply State.updEci_follows | intro _ | split
    | with_reducible apply Follows.ident | with_reducible apply Follows.lit | (dsimp only <;> with_reducible rfl)

theorem State.moveBlock_follows {s t : State} (h : Follows s t) (a1 a2) : Follows s (State.moveBlock t a1 a2) := by
  unfold State.moveBlock
  try dsimp only
  repeat' first
    | with_reducible exact h | with_reducible assumption | with_reducible apply State.dramUse_follows
    | with_reducible apply State.bumpGen_follows | with_reducible apply State.copy_follows
    | with_reducible apply State.setMark_follows | with_reducible apply Follows.foldl
    | with_reducible apply Follows.foldlSnd | intro _

theorem State.freeSubs_follows {s t : State} (h : Follows s t) (a1) : Follows s (State.freeSubs t a1) := by
  unfold State.freeSubs
  repeat' first
    | with_reducible exact h | with_reducible apply State.updTiers_follows | (dsimp only <;> with_reducible rfl)

theorem State.setBlock_follows {s t : State} (h : Follows s t) (a1 a2) : Follows s (State.setBlock t a1 a2) := by
  unfold State.setBlock
  repeat' first
    | with_reducible exact h | with_reducible apply State.updSrv_follows

theorem State.dropEntry_follows {s t : State} (h : Follows s t) (a1) : Follows s (State.dropEntry t a1) := by
  unfold State.dropEntry
  repeat' first
    | with_reducible exact h | with_reducible apply State.updSrv_follows

theorem State.freeBlock_follows {s t : State} (h : Follows s t) (a1 a2) : Follows s (State.freeBlock t a1 a2) := by
  unfold State.freeBlock
  try dsimp only
  repeat' first
    | with_reducible exact h | with_reducible assumption | with_reducible apply State.updSrv_follows
    | with_reducible apply State.freeSubs_follows | with_reducible apply State.updTiers_follows
    | with_reducible apply Follows.foldl | with_reducible apply Follows.foldlSnd | intro _ | with_reducible rfl
    | split

theorem State.evictFrame_follows {s t : State} (h : Follows s t) (a1) : Follows s (State.evictFrame t a1) := by
  unfold State.evictFrame
  try dsimp only
  repeat' first
    | with_reducible exact h | with_reducible assumption | with_reducible apply State.updTenant_follows
    | with_reducible apply State.count_follows | with_reducible apply State.updTiers_follows
    | with_reducible apply State.dropEntry_follows | with_reducible apply State.freeBlock_follows
    | with_reducible apply State.updSrv_follows | with_reducible apply Follows.foldl
    | with_reducible apply Follows.foldlSnd | intro _ | with_reducible rfl | split

theorem State.takeFrom_follows {s t : State} (h : Follows s t) (a1 a2 a3) : Follows s (State.takeFrom t a1 a2 a3).2 := by
  unfold State.takeFrom
  try dsimp only
  repeat' first
    | with_reducible exact h | with_reducible assumption | with_reducible apply State.evictFrame_follows
    | with_reducible apply Follows.foldl | with_reducible apply Follows.foldlSnd | intro _ | with_reducible rfl
    | split | with_reducible apply Follows.ident | with_reducible apply Follows.lit
    | (dsimp only <;> with_reducible rfl) | rfl

theorem State.takeFrom_after {s t u : State} {x} {a1} {a2} {a3} (e : (State.takeFrom t a1 a2 a3) = (x, u)) (h : Follows s t) : Follows s u := by
  have k := State.takeFrom_follows h a1 a2 a3
  rwa [e] at k

theorem State.takeFrame_follows {s t : State} (h : Follows s t) (a1 a2) : Follows s (State.takeFrame t a1 a2).2 := by
  unfold State.takeFrame
  try dsimp only
  repeat' first
    | with_reducible exact h | with_reducible assumption | with_reducible apply State.takeFrom_follows
    | with_reducible apply State.takeFrom_after (e := by assumption) | with_reducible apply Follows.foldl
    | with_reducible apply Follows.foldlSnd | intro _ | with_reducible rfl | split
    | with_reducible apply Follows.ident | with_reducible apply Follows.lit | (dsimp only <;> with_reducible rfl)
    | rfl

theorem State.takeFrame_after {s t u : State} {x} {a1} {a2} (e : (State.takeFrame t a1 a2) = (x, u)) (h : Follows s t) : Follows s u := by
  have k := State.takeFrame_follows h a1 a2
  rwa [e] at k

theorem State.addFrame_follows {s t : State} (h : Follows s t) (a1) : Follows s (State.addFrame t a1) := by
  unfold State.addFrame
  repeat' first
    | with_reducible exact h | with_reducible apply State.updTiers_follows | intro _
    | with_reducible apply Follows.lit | (dsimp only <;> with_reducible rfl)

theorem State.takeWeight_follows {s t : State} (h : Follows s t) (a1 a2 a3) : Follows s (State.takeWeight t a1 a2 a3).2 := by
  unfold State.takeWeight
  try dsimp only
  repeat' first
    | with_reducible exact h | with_reducible assumption | with_reducible apply State.takeFrom_follows
    | with_reducible apply State.takeFrom_after (e := by assumption) | with_reducible apply State.takeFrame_follows
    | with_reducible apply State.takeFrame_after (e := by assumption) | with_reducible apply Follows.foldl
    | with_reducible apply Follows.foldlSnd | intro _ | with_reducible rfl | split
    | with_reducible apply Follows.ident | with_reducible apply Follows.lit | (dsimp only <;> with_reducible rfl)
    | rfl

theorem State.takeWeight_after {s t u : State} {x} {a1} {a2} {a3} (e : (State.takeWeight t a1 a2 a3) = (x, u)) (h : Follows s t) : Follows s u := by
  have k := State.takeWeight_follows h a1 a2 a3
  rwa [e] at k

theorem State.usePlaces_follows {s t : State} (h : Follows s t) (a1) : Follows s (State.usePlaces t a1) := by
  unfold State.usePlaces
  repeat' first
    | with_reducible exact h | with_reducible apply State.updTiers_follows | (dsimp only <;> with_reducible rfl)

theorem State.takeSubs_follows {s t : State} (h : Follows s t) (a1 a2 a3 a4) (n : Nat) :
    Follows s (State.takeSubs t a1 a2 a3 a4 n).2 := by
  induction n generalizing t with
  | zero => exact h
  | succ n ih =>
    unfold State.takeSubs
    dsimp only
    split
    · exact State.usePlaces_follows h _
    · split
      all_goals
        rename_i u e
        have key : Follows s u := by
          split at e
          · split at e <;> exact (Prod.mk.inj e).2 ▸ h
          · exact State.takeFrame_after e h
      · exact key
      · exact key
      · exact ih (State.addFrame_follows key _)

theorem State.takeSubs_after {s t u : State} {x} {a1 a2 a3 a4 n} (e : t.takeSubs a1 a2 a3 a4 n = (x, u)) (h : Follows s t) :
    Follows s u := by
  have k := State.takeSubs_follows h a1 a2 a3 a4 n
  rwa [e] at k

theorem State.trimKv_follows {s t : State} (h : Follows s t) : Follows s (State.trimKv t) := by
  unfold State.trimKv
  repeat' first
    | with_reducible exact h | with_reducible apply State.updTiers_follows | (dsimp only <;> with_reducible rfl)

theorem State.zeroSubs_follows {s t : State} (h : Follows s t) (a1) : Follows s (State.zeroSubs t a1) := by
  unfold State.zeroSubs
  try dsimp only
  repeat' first
    | with_reducible exact h | with_reducible assumption | with_reducible apply State.bumpGen_follows
    | with_reducible apply State.clear_follows | with_reducible apply Follows.foldl
    | with_reducible apply Follows.foldlSnd | intro _ | with_reducible rfl | split
    | with_reducible apply Follows.ident | with_reducible apply Follows.lit

theorem State.allocBlock_follows {s t : State} (h : Follows s t) (a1 a2) : Follows s (t.allocBlock a1 a2).2 := by
  unfold State.allocBlock
  split
  · exact h
  · dsimp only
    split
    · exact h
    · split
      all_goals
        rename_i e
        dsimp only
      · exact State.trimKv_follows (State.takeSubs_after e h)
      · exact State.updSrv_follows (State.zeroSubs_follows (State.takeSubs_after e h) _) _

theorem State.allocBlock_after {s t u : State} {x} {a1 a2} (e : t.allocBlock a1 a2 = (x, u)) (h : Follows s t) : Follows s u := by
  have k := State.allocBlock_follows h a1 a2
  rwa [e] at k

theorem State.putPinned_follows {s t : State} (h : Follows s t) (a1 a2) (a3 a4) : Follows s (State.putPinned t a1 a2 a3 a4) := by
  unfold State.putPinned
  try dsimp only
  repeat' first
    | with_reducible exact h | with_reducible assumption | with_reducible apply State.putWord_follows
    | with_reducible apply Follows.foldl | with_reducible apply Follows.foldlSnd | intro _ | with_reducible rfl
    | split

theorem State.writeTable_follows {s t : State} (h : Follows s t) (a1 a2) : Follows s (State.writeTable t a1 a2) := by
  unfold State.writeTable
  try dsimp only
  repeat' first
    | with_reducible exact h | with_reducible assumption | with_reducible apply State.putPinned_follows
    | with_reducible apply Follows.foldl | with_reducible apply Follows.foldlSnd | intro _ | with_reducible rfl
    | split

theorem State.demoteBlock_follows {s t : State} (h : Follows s t) (a1 a2) : Follows s (State.demoteBlock t a1 a2) := by
  unfold State.demoteBlock
  repeat' first
    | with_reducible exact h | with_reducible apply State.moveBlock_follows
    | with_reducible apply State.freeSubs_follows | with_reducible apply State.setBlock_follows
    | with_reducible apply State.count_follows | with_reducible apply State.updTiers_follows
    | with_reducible apply State.updTenant_follows | (dsimp only <;> with_reducible rfl) | rfl

theorem State.vacate_follows {s t : State} (h : Follows s t) (a1) : Follows s (State.vacate t a1) := by
  unfold State.vacate
  try dsimp only
  repeat' first
    | with_reducible exact h | with_reducible assumption | with_reducible apply State.demoteBlock_follows
    | with_reducible apply Follows.foldl | with_reducible apply Follows.foldlSnd | intro _ | with_reducible rfl
    | split | with_reducible apply Follows.ident | with_reducible apply Follows.lit
    | (dsimp only <;> with_reducible rfl) | rfl

theorem State.takeAtOnce_follows {s t : State} (h : Follows s t) (a1) : Follows s (State.takeAtOnce t a1).2 := by
  unfold State.takeAtOnce
  try dsimp only
  repeat' first
    | with_reducible exact h | with_reducible assumption | with_reducible apply State.vacate_follows
    | with_reducible apply State.evictFrame_follows | with_reducible apply Follows.foldl
    | with_reducible apply Follows.foldlSnd | intro _ | with_reducible rfl | split
    | with_reducible apply Follows.ident | with_reducible apply Follows.lit | (dsimp only <;> with_reducible rfl)
    | rfl

theorem State.takeAtOnce_after {s t u : State} {x} {a1} (e : (State.takeAtOnce t a1) = (x, u)) (h : Follows s t) : Follows s u := by
  have k := State.takeAtOnce_follows h a1
  rwa [e] at k

end Sys2Proof.Machine
end

