-- ==== Sys2Proof/Laws/Stalls.lean ====
section
/-!
SUPPORT. What the operations of Machine/Stalls.lean do to a legal state.
-/

namespace Sys2Proof.Machine

theorem State.updLift_follows {s t : State} (h : Follows s t) (a1 a2) : Follows s (State.updLift t a1 a2) := by
  unfold State.updLift
  repeat' first
    | with_reducible exact h | with_reducible apply State.updTiers_follows | intro _
    | with_reducible apply Follows.lit | (dsimp only <;> with_reducible rfl)

theorem State.updWframe_follows {s t : State} (h : Follows s t) (a1 a2) : Follows s (State.updWframe t a1 a2) := by
  unfold State.updWframe
  repeat' first
    | with_reducible exact h | with_reducible apply State.updTiers_follows | intro _
    | with_reducible apply Follows.lit | (dsimp only <;> with_reducible rfl)

theorem State.stallStep_follows {s t : State} (h : Follows s t) (a1 a2 a3) : Follows s (State.stallStep t a1 a2 a3) := by
  unfold State.stallStep
  try dsimp only
  repeat' first
    | with_reducible exact h | with_reducible assumption | with_reducible apply State.updRun_follows
    | with_reducible apply Follows.foldl | with_reducible apply Follows.foldlSnd | intro _ | with_reducible rfl
    | split | with_reducible apply Follows.ident | with_reducible apply Follows.lit

theorem State.settleStalls_follows {s t : State} (h : Follows s t) : Follows s (State.settleStalls t) := by
  unfold State.settleStalls
  repeat' first
    | with_reducible exact h | with_reducible assumption | with_reducible apply State.stallStep_follows
    | with_reducible apply Follows.foldl | with_reducible apply Follows.foldlSnd | intro _

theorem State.dropWaits_follows {s t : State} (h : Follows s t) (a1) : Follows s (State.dropWaits t a1) := by
  unfold State.dropWaits
  try dsimp only
  repeat' first
    | with_reducible exact h | with_reducible assumption | with_reducible apply State.settleStalls_follows
    | with_reducible apply State.updTiers_follows | with_reducible apply Follows.foldl
    | with_reducible apply Follows.foldlSnd | intro _ | with_reducible rfl | split
    | with_reducible apply Follows.ident | with_reducible apply Follows.lit | (dsimp only <;> with_reducible rfl)
    | rfl

end Sys2Proof.Machine
end

