-- ==== Sys2Proof/Laws/Attempt.lean ====
section
/-!
SUPPORT. What the operations of Machine/Attempt.lean do to a legal state.
-/

namespace Sys2Proof.Machine

theorem State.resetFronts_follows {s t : State} (h : Follows s t) (a1 a2) : Follows s (State.resetFronts t a1 a2) := by
  unfold State.resetFronts
  try dsimp only
  repeat' first
    | with_reducible exact h | with_reducible assumption | with_reducible apply State.dropWaits_follows
    | with_reducible apply State.undefine_follows | with_reducible apply Follows.foldl
    | with_reducible apply Follows.foldlSnd | intro _ | with_reducible rfl | split
    | with_reducible apply Follows.ident | with_reducible apply Follows.lit | (dsimp only <;> with_reducible rfl)
    | rfl

theorem State.discardShadow_follows {s t : State} (h : Follows s t) (a1 a2) : Follows s (State.discardShadow t a1 a2) := by
  unfold State.discardShadow
  repeat' first
    | with_reducible exact h | with_reducible apply State.updModel_follows

theorem State.giveList_follows {s t : State} (h : Follows s t) (a1 a2) : Follows s (State.giveList t a1 a2) := by
  unfold State.giveList
  repeat' first
    | with_reducible exact h | with_reducible apply State.updSq_follows | with_reducible apply State.schedRead_follows

theorem State.releaseWave_follows {s t : State} (h : Follows s t) (a1 a2) (a3 a4 a5) : Follows s (State.releaseWave t a1 a2 a3 a4 a5) := by
  unfold State.releaseWave
  try dsimp only
  repeat' first
    | with_reducible exact h | with_reducible assumption | with_reducible apply State.giveList_follows
    | with_reducible apply State.updRun_follows | with_reducible apply Follows.foldl
    | with_reducible apply Follows.foldlSnd | intro _ | with_reducible rfl | split
    | with_reducible apply Follows.ident | with_reducible apply Follows.lit | (dsimp only <;> with_reducible rfl)
    | rfl

theorem State.zeroPinned_follows {s t : State} (h : Follows s t) (a1 a2 a3) : Follows s (State.zeroPinned t a1 a2 a3) := by
  unfold State.zeroPinned
  try dsimp only
  repeat' first
    | with_reducible exact h | with_reducible assumption | with_reducible apply State.putPinned_follows
    | with_reducible apply Follows.foldl | with_reducible apply Follows.foldlSnd | intro _

theorem State.startAttempt_follows {s t : State} (h : Follows s t) (a1 a2 a3) : Follows s (State.startAttempt t a1 a2 a3) := by
  unfold State.startAttempt
  try dsimp only
  repeat' first
    | with_reducible exact h | with_reducible assumption | with_reducible apply State.resetFronts_follows
    | with_reducible apply State.discardShadow_follows | with_reducible apply State.zeroPinned_follows
    | with_reducible apply State.updRun_follows | with_reducible apply State.releaseWave_follows
    | with_reducible apply Follows.foldl | with_reducible apply Follows.foldlSnd | intro _ | with_reducible rfl
    | split | with_reducible apply Follows.ident | with_reducible apply Follows.lit
    | (dsimp only <;> with_reducible rfl) | rfl

theorem execWaveRelease_follows {s t : State} (h : Follows s t) (a1 a2) (a3 a4) : FollowsNext s (execWaveRelease a1 a2 a3 a4 t) := by
  unfold execWaveRelease
  try dsimp only
  apply FollowsNext.next
  repeat' first
    | with_reducible exact h | with_reducible assumption | with_reducible apply State.notDue_follows
    | with_reducible apply State.releaseWave_follows | with_reducible apply State.ok_follows
    | with_reducible apply Follows.foldl | with_reducible apply Follows.foldlSnd | intro _ | with_reducible rfl
    | split

theorem State.addGroupTime_follows {s t : State} (h : Follows s t) (a1 a2 a3) : Follows s (State.addGroupTime t a1 a2 a3) := by
  unfold State.addGroupTime
  try dsimp only
  repeat' first
    | with_reducible exact h | with_reducible assumption | with_reducible apply State.updSrv_follows
    | with_reducible apply Follows.foldl | with_reducible apply Follows.foldlSnd | intro _ | with_reducible rfl
    | split | with_reducible apply Follows.ident | with_reducible apply Follows.lit
    | (dsimp only <;> with_reducible rfl) | rfl

theorem State.addFrontTime_follows {s t : State} (h : Follows s t) (a1 a2) : Follows s (State.addFrontTime t a1 a2) := by
  unfold State.addFrontTime
  repeat' first
    | with_reducible exact h | with_reducible apply State.updFront_follows | intro _
    | with_reducible apply Follows.lit | (dsimp only <;> with_reducible rfl) | rfl

theorem State.finalTask_follows {s t : State} (h : Follows s t) (a1 a2) (a3 a4) : Follows s (State.finalTask t a1 a2 a3 a4) := by
  unfold State.finalTask
  try dsimp only
  repeat' first
    | with_reducible exact h | with_reducible assumption | with_reducible apply State.updSq_follows
    | with_reducible apply State.updRun_follows | with_reducible apply State.updEng_follows
    | with_reducible apply State.addFrontTime_follows | with_reducible apply State.addGroupTime_follows
    | with_reducible apply State.add_follows | with_reducible apply Follows.foldl
    | with_reducible apply Follows.foldlSnd | intro _ | with_reducible rfl | split
    | with_reducible apply Follows.ident | with_reducible apply Follows.lit | (dsimp only <;> with_reducible rfl)
    | rfl

theorem State.failTasks_follows {s t : State} (h : Follows s t) (a1 a2 a3) : Follows s (State.failTasks t a1 a2 a3) := by
  unfold State.failTasks
  try dsimp only
  repeat' first
    | with_reducible exact h | with_reducible assumption | with_reducible apply State.finalTask_follows
    | with_reducible apply Follows.foldl | with_reducible apply Follows.foldlSnd | intro _ | with_reducible rfl
    | split | with_reducible apply Follows.ident | with_reducible apply Follows.lit
    | (dsimp only <;> with_reducible rfl) | rfl

theorem State.endStep_follows {s t : State} (h : Follows s t) (a1 a2 a3) : Follows s (State.endStep t a1 a2 a3) := by
  unfold State.endStep
  try dsimp only
  repeat' first
    | with_reducible exact h | with_reducible assumption | with_reducible apply State.resetFronts_follows
    | with_reducible apply State.discardShadow_follows | with_reducible apply State.updRun_follows
    | with_reducible apply State.failTasks_follows | with_reducible apply Follows.foldl
    | with_reducible apply Follows.foldlSnd | intro _ | with_reducible rfl | split
    | with_reducible apply Follows.ident | with_reducible apply Follows.lit | (dsimp only <;> with_reducible rfl)
    | rfl

theorem State.failTasksOn_follows {s t : State} (h : Follows s t) (a1 a2) : Follows s (State.failTasksOn t a1 a2) := by
  unfold State.failTasksOn
  try dsimp only
  repeat' first
    | with_reducible exact h | with_reducible assumption | with_reducible apply State.updSq_follows
    | with_reducible apply State.failTasks_follows | with_reducible apply State.dropWaits_follows
    | with_reducible apply Follows.foldl | with_reducible apply Follows.foldlSnd | intro _ | with_reducible rfl
    | split | with_reducible apply Follows.ident | with_reducible apply Follows.lit
    | (dsimp only <;> with_reducible rfl) | rfl

theorem State.failUnit_follows {s t : State} (h : Follows s t) (a1 a2) : Follows s (State.failUnit t a1 a2) := by
  unfold State.failUnit
  try dsimp only
  repeat' first
    | with_reducible exact h | with_reducible assumption | with_reducible apply State.event_follows
    | with_reducible apply State.updSq_follows | with_reducible apply State.failTasksOn_follows
    | with_reducible apply State.updCore_follows | with_reducible apply State.setDev_follows
    | with_reducible apply State.updEci_follows | with_reducible apply Follows.foldl
    | with_reducible apply Follows.foldlSnd | intro _ | with_reducible rfl | split

theorem State.reload_follows {s t : State} (h : Follows s t) (a1) : Follows s (State.reload t a1) := by
  unfold State.reload
  try dsimp only
  repeat' first
    | with_reducible exact h | with_reducible assumption | with_reducible apply State.markRange_follows
    | with_reducible apply State.copy_follows | with_reducible apply Follows.foldl
    | with_reducible apply Follows.foldlSnd | intro _ | with_reducible rfl | split

theorem State.parityCount_follows {s t : State} (h : Follows s t) (a1) : Follows s (State.parityCount t a1) := by
  unfold State.parityCount
  repeat' first
    | with_reducible exact h | with_reducible apply State.updSq_follows

theorem State.reloadWord_follows {s t : State} (h : Follows s t) (a1) : Follows s (State.reloadWord t a1) := by
  unfold State.reloadWord
  repeat' first
    | with_reducible exact h | with_reducible apply State.reload_follows | split

theorem State.parityInStep_follows {s t : State} (h : Follows s t) (a1 a2) : Follows s (State.parityInStep t a1 a2) := by
  unfold State.parityInStep
  try dsimp only
  repeat' first
    | with_reducible exact h | with_reducible assumption | with_reducible apply State.parityCount_follows
    | with_reducible apply State.reloadWord_follows | with_reducible apply State.failUnit_follows
    | with_reducible apply State.endStep_follows | with_reducible apply State.updRun_follows
    | with_reducible apply State.startAttempt_follows | with_reducible apply State.count_follows
    | with_reducible apply Follows.foldl | with_reducible apply Follows.foldlSnd | intro _ | with_reducible rfl
    | split | with_reducible apply Follows.ident | with_reducible apply Follows.lit
    | (dsimp only <;> with_reducible rfl) | rfl

theorem State.reloadBad_follows {s t : State} (h : Follows s t) (a1) : Follows s (State.reloadBad t a1) := by
  unfold State.reloadBad
  repeat' first
    | with_reducible exact h | with_reducible apply State.reloadWord_follows | split

theorem State.parityLine_follows {s t : State} (h : Follows s t) (a1 a2) : Follows s (State.parityLine t a1 a2) := by
  unfold State.parityLine
  try dsimp only
  repeat' first
    | with_reducible exact h | with_reducible assumption | with_reducible apply State.schedFetch_follows
    | with_reducible apply State.updSq_follows | with_reducible apply State.parityCount_follows
    | with_reducible apply Follows.foldl | with_reducible apply Follows.foldlSnd | intro _ | with_reducible rfl
    | split | with_reducible apply Follows.ident | with_reducible apply Follows.lit
    | (dsimp only <;> with_reducible rfl) | rfl

theorem State.parity_follows {s t : State} (h : Follows s t) (a1 a2) (a3 : State → State) (k3 : ∀ u, Follows s u → Follows s (a3 u)) : Follows s (State.parity t a1 a2 a3) := by
  unfold State.parity
  try dsimp only
  repeat' first
    | with_reducible exact h | with_reducible assumption | with_reducible apply k3
    | with_reducible apply State.parityLine_follows | with_reducible apply State.dramCheck_follows
    | with_reducible apply State.parityInStep_follows | with_reducible apply State.ok_follows
    | with_reducible apply Follows.foldl | with_reducible apply Follows.foldlSnd | intro _ | with_reducible rfl
    | split | with_reducible apply Follows.ident | with_reducible apply Follows.lit
    | (dsimp only <;> with_reducible rfl) | rfl

end Sys2Proof.Machine
end

