-- ==== Sys2Proof/Laws/Flash.lean ====
section
/-!
SUPPORT. What the operations of Machine/Flash.lean do to a legal state.
-/

namespace Sys2Proof.Machine

theorem Memory.wf_fill (f : Nat → Nat) (g : Nat → Byte) (l : List Nat) {m : Memory} (hm : Memory.wf m = true) :
    Memory.wf (l.foldl (fun m k => Memory.put m (f k) (g k)) m) = true := by
  induction l generalizing m with
  | nil => exact hm
  | cons a l ih => exact ih (Memory.wf_put hm _ _)

theorem Follows.flashFill {s t : State} (h : Follows s t) (clean : Memory)
    (hc : Memory.wf t.tiers.flash = true → Memory.wf clean = true) (f : Nat → Nat) (g : Nat → Byte) (l : List Nat) :
    Follows s (t.updTiers fun x => { x with flash := l.foldl (fun m k => Memory.put m (f k) (g k)) clean }) :=
  h.inFlash (fun k => Memory.wf_fill f g l (hc k)) rfl rfl rfl rfl rfl

theorem State.updBlock_follows {s t : State} (h : Follows s t) (a1 a2) : Follows s (State.updBlock t a1 a2) := by
  unfold State.updBlock
  repeat' first
    | with_reducible exact h | with_reducible apply State.updTiers_follows | (dsimp only <;> with_reducible rfl)

theorem State.eraseBlock_follows {s t : State} (h : Follows s t) (a1) : Follows s (State.eraseBlock t a1) := by
  unfold State.eraseBlock
  repeat' first
    | with_reducible exact h | with_reducible apply State.updBlock_follows
    | with_reducible apply State.updTiers_follows | (dsimp only <;> with_reducible rfl) | rfl

theorem State.movePage_follows {s t : State} (h : Follows s t) (a1 a2) : Follows s (State.movePage t a1 a2) := by
  unfold State.movePage
  try dsimp only
  repeat' first
    | with_reducible exact h | with_reducible assumption | with_reducible apply State.updTiers_follows
    | with_reducible apply Follows.foldl | with_reducible apply Follows.foldlSnd | intro _ | with_reducible rfl
    | split | with_reducible apply Follows.ident | with_reducible apply Follows.lit
    | (dsimp only <;> with_reducible rfl) | rfl

theorem State.relocateBlock_follows {s t : State} (h : Follows s t) (a1) : Follows s (State.relocateBlock t a1) := by
  unfold State.relocateBlock
  try dsimp only
  repeat' first
    | with_reducible exact h | with_reducible assumption | with_reducible apply State.movePage_follows
    | with_reducible apply State.updBlock_follows | with_reducible apply State.eraseBlock_follows
    | with_reducible apply Follows.foldl | with_reducible apply Follows.foldlSnd | intro _ | with_reducible rfl
    | split | with_reducible apply Follows.ident | with_reducible apply Follows.lit
    | (dsimp only <;> with_reducible rfl) | rfl

theorem Follows.frameFill {s t : State} (h : Follows s t) (a b) (l : List Nat) : Follows s (t.updTiers fun x => { x with
    flash := l.foldl (fun m k => Memory.put m (b * Config.frameBytes + k) (t.byteAt (a + k))) x.flash }) :=
  h.inFlash (fun k => Memory.wf_fill _ _ _ k) rfl rfl rfl rfl rfl

theorem State.writeFrame_follows {s t : State} (h : Follows s t) (a b) : Follows s (t.writeFrame a b) := by
  unfold State.writeFrame
  extract_lets fresh s1
  have h1 : Follows s s1 := Follows.frameFill h a b (List.range Config.frameBytes)
  clear_value s1
  exact State.updBlock_follows (State.updTiers_follows h1 _ rfl) _ _

theorem State.writeFlash_follows {s t : State} (h : Follows s t) (a b n) : Follows s (t.writeFlash a b n) := by
  induction n generalizing t a b with
  | zero => exact h
  | succ n ih =>
    unfold State.writeFlash
    exact ih (State.writeFrame_follows h a b) _ _

theorem State.renewObject_follows {s t : State} (h : Follows s t) (a1 a2 a3) : Follows s (State.renewObject t a1 a2 a3) := by
  unfold State.renewObject
  repeat' first
    | with_reducible exact h | with_reducible apply State.updTiers_follows | (dsimp only <;> with_reducible rfl)

theorem State.dropCopy_follows {s t : State} (h : Follows s t) (a1 a2) : Follows s (State.dropCopy t a1 a2) := by
  unfold State.dropCopy
  dsimp only
  apply Follows.foldl
  · exact h.inFlash (fun k => by dsimp only [State.updTiers]; exact Memory.wf_drop k _) rfl rfl rfl rfl rfl
  · intro u b k
    split
    · exact k
    · exact State.eraseBlock_follows k b

theorem State.nowInstalled_follows {s t : State} (h : Follows s t) (a1 a2) (a3 a4) : Follows s (State.nowInstalled t a1 a2 a3 a4) := by
  unfold State.nowInstalled
  try dsimp only
  repeat' first
    | with_reducible exact h | with_reducible assumption | with_reducible apply State.updTiers_follows
    | with_reducible apply State.dropCopy_follows | with_reducible apply Follows.foldl
    | with_reducible apply Follows.foldlSnd | intro _ | with_reducible rfl | split
    | with_reducible apply Follows.ident | with_reducible apply Follows.lit | (dsimp only <;> with_reducible rfl)
    | rfl

theorem State.readFlash_follows {s t : State} (h : Follows s t) (a1 a2) : Follows s (State.readFlash t a1 a2) := by
  unfold State.readFlash
  try dsimp only
  repeat' first
    | with_reducible exact h | with_reducible assumption | with_reducible apply State.updBlock_follows
    | with_reducible apply Follows.foldl | with_reducible apply Follows.foldlSnd | intro _ | with_reducible rfl
    | split | with_reducible apply Follows.ident | with_reducible apply Follows.lit
    | (dsimp only <;> with_reducible rfl) | rfl

theorem State.scanBlock_follows {s t : State} (h : Follows s t) (a1 a2) : Follows s (State.scanBlock t a1 a2) := by
  unfold State.scanBlock
  repeat' first
    | with_reducible exact h | with_reducible apply State.count_follows | with_reducible apply State.updBlock_follows

theorem State.scanDue_follows {s t : State} (h : Follows s t) : Follows s (State.scanDue t) := by
  unfold State.scanDue
  try dsimp only
  repeat' first
    | with_reducible exact h | with_reducible assumption | with_reducible apply State.scanBlock_follows
    | with_reducible apply Follows.foldl | with_reducible apply Follows.foldlSnd | intro _ | with_reducible rfl
    | split | with_reducible apply Follows.ident | with_reducible apply Follows.lit
    | (dsimp only <;> with_reducible rfl) | rfl

theorem State.switchCopies_follows {s t : State} (h : Follows s t) (a1) : Follows s (State.switchCopies t a1) := by
  unfold State.switchCopies
  try dsimp only
  repeat' first
    | with_reducible exact h | with_reducible assumption | with_reducible apply State.updModel_follows
    | with_reducible apply State.renewObject_follows | with_reducible apply State.nowInstalled_follows
    | with_reducible apply Follows.foldl | with_reducible apply Follows.foldlSnd | intro _ | with_reducible rfl
    | split | with_reducible apply Follows.ident | with_reducible apply Follows.lit
    | (dsimp only <;> with_reducible rfl) | rfl

end Sys2Proof.Machine
end

