-- ==== Sys2Proof/Laws/Link.lean ====
section
/-!
SUPPORT. What the operations of Machine/Link.lean do to a legal state.
-/

namespace Sys2Proof.Machine

theorem State.drainPort_follows {s t : State} (h : Follows s t) (a1) : Follows s (State.drainPort t a1) := by
  unfold State.drainPort
  repeat' first
    | with_reducible exact h | with_reducible apply State.updPort_follows

theorem State.flushOutbox_follows {s t : State} (h : Follows s t) : Follows s (State.flushOutbox t) := by
  unfold State.flushOutbox
  try dsimp only
  repeat' first
    | with_reducible exact h | with_reducible assumption | with_reducible apply State.updDnb_follows
    | with_reducible apply State.updPort_follows | with_reducible apply State.count_follows
    | with_reducible apply Follows.foldl | with_reducible apply Follows.foldlSnd | intro _ | with_reducible rfl
    | split

theorem State.pump_follows {s t : State} (h : Follows s t) : Follows s (State.pump t) := by
  unfold State.pump
  try dsimp only
  repeat' first
    | with_reducible exact h | with_reducible assumption | with_reducible apply State.drainPort_follows
    | with_reducible apply State.flushOutbox_follows | with_reducible apply Follows.foldl
    | with_reducible apply Follows.foldlSnd | intro _

theorem State.send_follows {s t : State} (h : Follows s t) (a1) : Follows s (State.send t a1) := by
  unfold State.send
  repeat' first
    | with_reducible exact h | with_reducible apply State.updDnb_follows

theorem State.sendNow_follows {s t : State} (h : Follows s t) (a1) : Follows s (State.sendNow t a1) := by
  unfold State.sendNow
  repeat' first
    | with_reducible exact h | with_reducible apply State.pump_follows | with_reducible apply State.send_follows

theorem State.sendStream_follows {s t : State} (h : Follows s t) (a1 a2) (a3 a4) : Follows s (State.sendStream t a1 a2 a3 a4) := by
  unfold State.sendStream
  try dsimp only
  repeat' first
    | with_reducible exact h | with_reducible assumption | with_reducible apply State.flushOutbox_follows
    | with_reducible apply State.pump_follows | with_reducible apply State.updPort_follows
    | with_reducible apply Follows.foldl | with_reducible apply Follows.foldlSnd | intro _ | with_reducible rfl
    | split | with_reducible apply Follows.ident | with_reducible apply Follows.lit
    | (dsimp only <;> with_reducible rfl) | rfl

theorem State.peerAsk_follows {s t : State} (h : Follows s t) (a1 a2) (a3 a4) : Follows s (State.peerAsk t a1 a2 a3 a4) := by
  unfold State.peerAsk
  repeat' first
    | with_reducible exact h | with_reducible apply State.sendNow_follows | with_reducible apply State.updDnb_follows

theorem State.peerRequest_follows {s t : State} (h : Follows s t) (a1 a2 a3) : Follows s (State.peerRequest t a1 a2 a3) := by
  unfold State.peerRequest
  repeat' first
    | with_reducible exact h | with_reducible apply State.peerAsk_follows

theorem State.peerWrite_follows {s t : State} (h : Follows s t) (a1 a2) (a3 a4 a5) : Follows s (State.peerWrite t a1 a2 a3 a4 a5) := by
  unfold State.peerWrite
  try dsimp only
  repeat' first
    | with_reducible exact h | with_reducible assumption | with_reducible apply State.peerRequest_follows
    | with_reducible apply Follows.foldl | with_reducible apply Follows.foldlSnd | intro _

theorem State.takeTag_follows {s t : State} (h : Follows s t) (a1 a2 a3) : Follows s (State.takeTag t a1 a2 a3).2 := by
  unfold State.takeTag
  try dsimp only
  repeat' first
    | with_reducible exact h | with_reducible assumption | with_reducible apply State.updPort_follows
    | with_reducible apply Follows.foldl | with_reducible apply Follows.foldlSnd | intro _ | with_reducible rfl
    | split | with_reducible apply Follows.ident | with_reducible apply Follows.lit
    | (dsimp only <;> with_reducible rfl) | rfl

theorem State.takeTag_after {s t u : State} {x} {a1} {a2} {a3} (e : (State.takeTag t a1 a2 a3) = (x, u)) (h : Follows s t) : Follows s u := by
  have k := State.takeTag_follows h a1 a2 a3
  rwa [e] at k

theorem State.dropTag_follows {s t : State} (h : Follows s t) (a1 a2 a3) : Follows s (State.dropTag t a1 a2 a3) := by
  unfold State.dropTag
  try dsimp only
  repeat' first
    | with_reducible exact h | with_reducible assumption | with_reducible apply State.updPort_follows
    | with_reducible apply Follows.foldl | with_reducible apply Follows.foldlSnd | intro _ | with_reducible rfl
    | split | with_reducible apply Follows.ident | with_reducible apply Follows.lit
    | (dsimp only <;> with_reducible rfl) | rfl

theorem State.endStream_follows {s t : State} (h : Follows s t) (a1 a2) : Follows s (State.endStream t a1 a2) := by
  unfold State.endStream
  try dsimp only
  repeat' first
    | with_reducible exact h | with_reducible assumption | with_reducible apply State.updDnb_follows
    | with_reducible apply State.dropTag_follows | with_reducible apply State.sendNow_follows
    | with_reducible apply Follows.foldl | with_reducible apply Follows.foldlSnd | intro _ | with_reducible rfl
    | split | with_reducible apply Follows.ident | with_reducible apply Follows.lit
    | (dsimp only <;> with_reducible rfl) | rfl

end Sys2Proof.Machine
end

