-- ==== Sys2Proof/Laws/Operands.lean ====
section
/-!
SUPPORT. What the operations of Machine/Operands.lean do to a legal state.
-/

namespace Sys2Proof.Machine

theorem State.cqPut_follows {s t : State} (h : Follows s t) (a1 a2) : Follows s (State.cqPut t a1 a2) := by
  unfold State.cqPut
  extract_lets p e n wraps s1 s2 cxl
  have h1 : Follows s s1 := State.putBytes_follows h _ _
  have h2 : Follows s s2 := State.updPair_follows h1 _ _
  split
  · exact State.sendMsix_follows h2 _
  · exact h2

theorem State.record_follows {s t : State} (h : Follows s t) (r a st d hn x) : Follows s (State.record t r a st d hn x) := by
  unfold State.record
  split
  · dsimp only
    split
    · exact State.updEci_follows h _ rfl
    · exact State.cqPut_follows h _ _
  · extract_lets e s1
    have h1 : Follows s s1 := State.updEci_follows h _ rfl
    repeat' split
    all_goals first | exact h1 | exact State.sendMsix_follows h1 _
  · exact h.same rfl rfl rfl rfl rfl rfl

theorem State.final_follows {s t : State} (h : Follows s t) (a1 a2) (a3 a4 a5) : Follows s (State.final t a1 a2 a3 a4 a5) := by
  unfold State.final
  repeat' first
    | with_reducible exact h | with_reducible apply State.record_follows

theorem State.unreserve_follows {s t : State} (h : Follows s t) (a1) : Follows s (State.unreserve t a1) := by
  unfold State.unreserve
  try dsimp only
  repeat' first
    | with_reducible exact h | with_reducible assumption | with_reducible apply State.updPair_follows
    | with_reducible apply Follows.foldl | with_reducible apply Follows.foldlSnd | intro _ | with_reducible rfl
    | split

theorem State.flushBad_follows {s t : State} (h : Follows s t) (a1) (n : Nat) : Follows s (State.flushBad t a1 n) := by
  induction n generalizing t with
  | zero => exact h
  | succ n ih =>
    unfold State.flushBad
    repeat' split
    all_goals first | exact h | exact ih (State.final_follows (State.updPair_follows h _ _) _ _ _ _ _)

theorem State.popEntry_follows {s t : State} (h : Follows s t) (a1) : Follows s (State.popEntry t a1) := by
  unfold State.popEntry
  try dsimp only
  repeat' first
    | with_reducible exact h | with_reducible assumption | with_reducible apply State.updPair_follows
    | with_reducible apply State.updEci_follows | with_reducible apply Follows.foldl
    | with_reducible apply Follows.foldlSnd | intro _ | with_reducible rfl | split

theorem State.nextBad_follows {s t : State} (h : Follows s t) (a1) : Follows s (State.nextBad t a1) := by
  unfold State.nextBad
  try dsimp only
  repeat' first
    | with_reducible exact h | with_reducible assumption | with_reducible apply State.flushBad_follows
    | with_reducible apply Follows.foldl | with_reducible apply Follows.foldlSnd | intro _ | with_reducible rfl
    | split

theorem State.endCmd_follows {s t : State} (h : Follows s t) (a1 a2) (a3 a4 a5) : Follows s (State.endCmd t a1 a2 a3 a4 a5) := by
  unfold State.endCmd
  repeat' first
    | with_reducible exact h | with_reducible apply State.nextBad_follows | with_reducible apply State.final_follows
    | with_reducible apply State.popEntry_follows

theorem State.done_follows {s t : State} (h : Follows s t) (a1 a2 a3) : Follows s (State.done t a1 a2 a3) := by
  unfold State.done
  repeat' first
    | with_reducible exact h | with_reducible apply State.endCmd_follows

theorem State.refuse_follows {s t : State} (h : Follows s t) (a1 a2 a3) : Follows s (State.refuse t a1 a2 a3) := by
  unfold State.refuse
  try dsimp only
  repeat' first
    | with_reducible exact h | with_reducible assumption | with_reducible apply State.unreserve_follows
    | with_reducible apply State.endCmd_follows | with_reducible apply Follows.foldl
    | with_reducible apply Follows.foldlSnd | intro _ | with_reducible rfl | split

theorem State.begin_follows {s t : State} (h : Follows s t) (a1) : Follows s (State.begin t a1) := by
  unfold State.begin
  repeat' first
    | with_reducible exact h | with_reducible apply State.updEci_follows | with_reducible apply State.popEntry_follows
    | (dsimp only <;> with_reducible rfl)

theorem State.finish_follows {s t : State} (h : Follows s t) (a1 a2) (a3 a4 a5) : Follows s (State.finish t a1 a2 a3 a4 a5) := by
  unfold State.finish
  repeat' first
    | with_reducible exact h | with_reducible apply State.updEci_follows | with_reducible apply State.nextBad_follows
    | with_reducible apply State.final_follows | (dsimp only <;> with_reducible rfl)

theorem State.command_follows {s t : State} (h : Follows s t) (o src fields) (body : Cmd → State → State)
    (hb : ∀ c u, Follows s u → Follows s (body c u)) : Follows s (State.command t o src fields body) := by
  have hok : Follows s t.ok := State.ok_follows h
  unfold State.command
  split
  · exact State.notDue_follows h
  · split
    · exact State.notDue_follows h
    · extract_lets u nobody onPath who
      clear_value who
      repeat' split
      all_goals first | exact hb _ _ hok | exact State.refuse_follows hok _ _ _

end Sys2Proof.Machine
end

