-- ==== Sys2Proof/Laws/Eci.lean ====
section
/-!
SUPPORT. What the operations of Machine/Eci.lean do to a legal state.
-/

namespace Sys2Proof.Machine

theorem State.writeSqTail_follows {s t : State} (h : Follows s t) (a1 a2 a3) : Follows s (State.writeSqTail t a1 a2 a3) := by
  unfold State.writeSqTail
  try dsimp only
  repeat' first
    | with_reducible exact h | with_reducible assumption | with_reducible apply State.updPair_follows
    | with_reducible apply State.rouse_follows | with_reducible apply Follows.foldl
    | with_reducible apply Follows.foldlSnd | intro _ | with_reducible rfl | split

theorem State.deliver_follows {s t : State} (h : Follows s t) (d : Deliver) (n : Nat) : Follows s (State.deliver t d n) := by
  induction n generalizing t d with
  | zero => exact h
  | succ n ih =>
    unfold State.deliver
    split
    · exact h
    · split
      · exact State.finish_follows (State.updEci_follows h _ rfl) _ _ _ _ _
      · split
        · refine ih ?_ _
          split
          · exact State.updEci_follows (State.updEci_follows (State.updPair_follows h _ _) _ rfl) _ rfl
          · exact State.cqPut_follows (State.updEci_follows (State.updPair_follows h _ _) _ rfl) _ _
        · exact h

theorem State.deliverPair_follows {s t : State} (h : Follows s t) (a1) : Follows s (State.deliverPair t a1) := by
  unfold State.deliverPair
  try dsimp only
  repeat' first
    | with_reducible exact h | with_reducible assumption | with_reducible apply State.deliver_follows
    | with_reducible apply Follows.foldl | with_reducible apply Follows.foldlSnd | intro _ | with_reducible rfl
    | split

theorem State.writeCqHead_follows {s t : State} (h : Follows s t) (a1 a2) : Follows s (State.writeCqHead t a1 a2) := by
  unfold State.writeCqHead
  try dsimp only
  repeat' first
    | with_reducible exact h | with_reducible assumption | with_reducible apply State.deliverPair_follows
    | with_reducible apply State.updPair_follows | with_reducible apply Follows.foldl
    | with_reducible apply Follows.foldlSnd | intro _ | with_reducible rfl | split

theorem State.urgRefuse_follows {s t : State} (h : Follows s t) (a1 a2) : Follows s (State.urgRefuse t a1 a2) := by
  unfold State.urgRefuse
  repeat' first
    | with_reducible exact h | with_reducible apply State.final_follows

theorem State.writeUrgDoorbell_follows {s t : State} (h : Follows s t) (a1) : Follows s (State.writeUrgDoorbell t a1) := by
  unfold State.writeUrgDoorbell
  try dsimp only
  repeat' first
    | with_reducible exact h | with_reducible assumption | with_reducible apply State.updEci_follows
    | with_reducible apply State.urgRefuse_follows | with_reducible apply State.rouse_follows
    | with_reducible apply Follows.foldl | with_reducible apply Follows.foldlSnd | intro _ | with_reducible rfl
    | split

theorem State.writeBeat_follows {s t : State} (h : Follows s t) (a1) : Follows s (State.writeBeat t a1) := by
  unfold State.writeBeat
  repeat' first
    | with_reducible exact h | with_reducible apply State.updSession_follows

theorem State.writeGust_follows {s t : State} (h : Follows s t) (a1) : Follows s (State.writeGust t a1) := by
  unfold State.writeGust
  try dsimp only
  repeat' first
    | with_reducible exact h | with_reducible assumption | with_reducible apply State.updEci_follows
    | with_reducible apply Follows.foldl | with_reducible apply Follows.foldlSnd | intro _ | with_reducible rfl
    | split

theorem State.writeImbWindow_follows {s t : State} (h : Follows s t) (a1) : Follows s (State.writeImbWindow t a1) := by
  unfold State.writeImbWindow
  try dsimp only
  repeat' first
    | with_reducible exact h | with_reducible assumption | with_reducible apply State.updDram_follows
    | with_reducible apply Follows.foldl | with_reducible apply Follows.foldlSnd | intro _ | with_reducible rfl
    | split

theorem State.writeOrderMode_follows {s t : State} (h : Follows s t) (a1 a2) : Follows s (State.writeOrderMode t a1 a2) := by
  unfold State.writeOrderMode
  try dsimp only
  repeat' first
    | with_reducible exact h | with_reducible assumption | with_reducible apply State.updCoh_follows
    | with_reducible apply Follows.foldl | with_reducible apply Follows.foldlSnd | intro _ | with_reducible rfl
    | split

theorem State.writeLock_follows {s t : State} (h : Follows s t) (a1) : Follows s (State.writeLock t a1) := by
  unfold State.writeLock
  try dsimp only
  repeat' first
    | with_reducible exact h | with_reducible assumption | with_reducible apply State.updCoh_follows
    | with_reducible apply Follows.foldl | with_reducible apply Follows.foldlSnd | intro _ | with_reducible rfl
    | split

theorem State.writeDevTimeout_follows {s t : State} (h : Follows s t) (v) : Follows s (t.writeDevTimeout v) := by
  unfold State.writeDevTimeout
  dsimp only
  split
  · rename_i k
    refine h.setting (fun l => ⟨l.cap, l.capWanted, l.mode, l.modeDue, ?_, l.longOps⟩) rfl rfl rfl rfl rfl
    simp only [State.settings, State.updCoh, BitVec.toNat_ofNat]
    omega
  · exact h

theorem State.writeCapMode_follows {s t : State} (h : Follows s t) (v) : Follows s (t.writeCapMode v) := by
  unfold State.writeCapMode
  split
  · exact h
  · rename_i k
    refine h.setting (fun l => ⟨l.cap, l.capWanted, l.mode, fun w e => ?_, l.devTimeout, l.longOps⟩) rfl rfl rfl rfl rfl
    simp only [State.settings, State.updPwr, Option.some.injEq] at e
    subst e
    simp only [BitVec.toNat_ofNat, bitsAt, Nat.shiftLeft_eq] at k ⊢
    split <;> omega

theorem State.regStore_follows {s t : State} (h : Follows s t) (a1 a2) (a3 a4) : Follows s (State.regStore t a1 a2 a3 a4) := by
  unfold State.regStore
  try dsimp only
  repeat' first
    | with_reducible exact h | with_reducible assumption | with_reducible apply State.writeUrgDoorbell_follows
    | with_reducible apply State.updEci_follows | with_reducible apply State.writeBeat_follows
    | with_reducible apply State.updPair_follows | with_reducible apply State.writeSqTail_follows
    | with_reducible apply State.writeCqHead_follows | with_reducible apply State.writeGust_follows
    | with_reducible apply State.writeImbWindow_follows | with_reducible apply State.writeOrderMode_follows
    | with_reducible apply State.writeDevTimeout_follows | with_reducible apply State.writeLock_follows
    | with_reducible apply State.writeCapMode_follows | with_reducible apply Follows.foldl
    | with_reducible apply Follows.foldlSnd | intro _ | with_reducible rfl | split

theorem State.regWrite_follows {s t : State} (h : Follows s t) (a1 a2) (a3 a4) : Follows s (State.regWrite t a1 a2 a3 a4) := by
  unfold State.regWrite
  try dsimp only
  repeat' first
    | with_reducible exact h | with_reducible assumption | with_reducible apply State.answer_follows
    | with_reducible apply State.ok_follows | with_reducible apply State.regStore_follows
    | with_reducible apply Follows.foldl | with_reducible apply Follows.foldlSnd | intro _ | with_reducible rfl
    | split

theorem State.served_follows {s t : State} (h : Follows s t) (f : State → State)
    (hf : ∀ u, Follows s u → Follows s (f u)) : Follows s (State.served t f) := by
  unfold State.served
  split
  · exact State.ok_follows h
  · exact hf _ (State.ok_follows h)

theorem execEciSqTail_follows {s t : State} (h : Follows s t) (a1 a2 a3) : FollowsNext s (execEciSqTail a1 a2 a3 t) := by
  unfold execEciSqTail
  try dsimp only
  apply FollowsNext.next
  repeat' first
    | with_reducible exact h | with_reducible assumption | with_reducible apply State.served_follows
    | with_reducible apply State.writeSqTail_follows | with_reducible apply Follows.foldl
    | with_reducible apply Follows.foldlSnd | intro _

theorem execEciCqHead_follows {s t : State} (h : Follows s t) (a1 a2) : FollowsNext s (execEciCqHead a1 a2 t) := by
  unfold execEciCqHead
  try dsimp only
  apply FollowsNext.next
  repeat' first
    | with_reducible exact h | with_reducible assumption | with_reducible apply State.served_follows
    | with_reducible apply State.writeCqHead_follows | with_reducible apply Follows.foldl
    | with_reducible apply Follows.foldlSnd | intro _

theorem execEciQCfg_follows {s t : State} (h : Follows s t) (a1 a2) : FollowsNext s (execEciQCfg a1 a2 t) := by
  unfold execEciQCfg
  try dsimp only
  apply FollowsNext.next
  repeat' first
    | with_reducible exact h | with_reducible assumption | with_reducible apply State.served_follows
    | with_reducible apply State.updPair_follows | with_reducible apply Follows.foldl
    | with_reducible apply Follows.foldlSnd | intro _

theorem execEciUrgDoorbell_follows {s t : State} (h : Follows s t) (a1) : FollowsNext s (execEciUrgDoorbell a1 t) := by
  unfold execEciUrgDoorbell
  try dsimp only
  apply FollowsNext.next
  repeat' first
    | with_reducible exact h | with_reducible assumption | with_reducible apply State.served_follows
    | with_reducible apply State.writeUrgDoorbell_follows | with_reducible apply Follows.foldl
    | with_reducible apply Follows.foldlSnd | intro _

theorem execEciBeat_follows {s t : State} (h : Follows s t) (a1) : FollowsNext s (execEciBeat a1 t) := by
  unfold execEciBeat
  try dsimp only
  apply FollowsNext.next
  repeat' first
    | with_reducible exact h | with_reducible assumption | with_reducible apply State.served_follows
    | with_reducible apply State.writeBeat_follows | with_reducible apply Follows.foldl
    | with_reducible apply Follows.foldlSnd | intro _

theorem execEciGustDefault_follows {s t : State} (h : Follows s t) (a1) : FollowsNext s (execEciGustDefault a1 t) := by
  unfold execEciGustDefault
  try dsimp only
  apply FollowsNext.next
  repeat' first
    | with_reducible exact h | with_reducible assumption | with_reducible apply State.served_follows
    | with_reducible apply State.writeGust_follows | with_reducible apply Follows.foldl
    | with_reducible apply Follows.foldlSnd | intro _

theorem execMemImbWindow_follows {s t : State} (h : Follows s t) (a1) : FollowsNext s (execMemImbWindow a1 t) := by
  unfold execMemImbWindow
  try dsimp only
  apply FollowsNext.next
  repeat' first
    | with_reducible exact h | with_reducible assumption | with_reducible apply State.served_follows
    | with_reducible apply State.writeImbWindow_follows | with_reducible apply Follows.foldl
    | with_reducible apply Follows.foldlSnd | intro _

theorem execCohOrderMode_follows {s t : State} (h : Follows s t) (a1 a2) : FollowsNext s (execCohOrderMode a1 a2 t) := by
  unfold execCohOrderMode
  try dsimp only
  apply FollowsNext.next
  repeat' first
    | with_reducible exact h | with_reducible assumption | with_reducible apply State.served_follows
    | with_reducible apply State.writeOrderMode_follows | with_reducible apply Follows.foldl
    | with_reducible apply Follows.foldlSnd | intro _

theorem execCohCfgLock_follows {s t : State} (h : Follows s t) (a1) : FollowsNext s (execCohCfgLock a1 t) := by
  unfold execCohCfgLock
  try dsimp only
  apply FollowsNext.next
  repeat' first
    | with_reducible exact h | with_reducible assumption | with_reducible apply State.served_follows
    | with_reducible apply State.writeLock_follows | with_reducible apply Follows.foldl
    | with_reducible apply Follows.foldlSnd | intro _

theorem execCohDevTimeout_follows {s t : State} (h : Follows s t) (a1) : FollowsNext s (execCohDevTimeout a1 t) := by
  unfold execCohDevTimeout
  try dsimp only
  apply FollowsNext.next
  repeat' first
    | with_reducible exact h | with_reducible assumption | with_reducible apply State.served_follows
    | with_reducible apply State.writeDevTimeout_follows | with_reducible apply Follows.foldl
    | with_reducible apply Follows.foldlSnd | intro _

theorem execCapModeSet_follows {s t : State} (h : Follows s t) (a1) : FollowsNext s (execCapModeSet a1 t) := by
  unfold execCapModeSet
  try dsimp only
  apply FollowsNext.next
  repeat' first
    | with_reducible exact h | with_reducible assumption | with_reducible apply State.served_follows
    | with_reducible apply State.writeCapMode_follows | with_reducible apply Follows.foldl
    | with_reducible apply Follows.foldlSnd | intro _

theorem execLearnClear_follows {s t : State} (h : Follows s t) (a1) : FollowsNext s (execLearnClear a1 t) := by
  unfold execLearnClear
  try dsimp only
  apply FollowsNext.next
  repeat' first
    | with_reducible exact h | with_reducible assumption | with_reducible apply State.served_follows
    | with_reducible apply State.writeCapMode_follows | with_reducible apply Follows.foldl
    | with_reducible apply Follows.foldlSnd | intro _

theorem execHdmDecoderCommit_follows {s t : State} (h : Follows s t) (a1 a2 a3) : FollowsNext s (execHdmDecoderCommit a1 a2 a3 t) := by
  unfold execHdmDecoderCommit
  apply FollowsNext.next
  repeat' first
    | with_reducible exact h | with_reducible apply State.updCxl_follows | with_reducible apply State.ok_follows

theorem execRegisterWrite_follows {s t : State} (h : Follows s t) (a1 a2) (a3 a4) : FollowsNext s (execRegisterWrite a1 a2 a3 a4 t) := by
  unfold execRegisterWrite
  apply FollowsNext.next
  repeat' first
    | with_reducible exact h | with_reducible apply State.regWrite_follows

theorem State.egressOut_follows {s t : State} (h : Follows s t) (a1) : Follows s (State.egressOut t a1) := by
  unfold State.egressOut
  repeat' first
    | with_reducible exact h | with_reducible apply State.markRange_follows
    | with_reducible apply State.putBytes_follows

theorem State.drainEgress_follows {s t : State} (h : Follows s t) : Follows s (State.drainEgress t) := by
  unfold State.drainEgress
  try dsimp only
  repeat' first
    | with_reducible exact h | with_reducible assumption | with_reducible apply State.egressOut_follows
    | with_reducible apply State.updCxl_follows | with_reducible apply Follows.foldl
    | with_reducible apply Follows.foldlSnd | intro _ | with_reducible rfl | split

theorem State.hostWrite_follows {s t : State} (h : Follows s t) (a1 a2) (a3 a4 a5) : Follows s (State.hostWrite t a1 a2 a3 a4 a5) := by
  unfold State.hostWrite
  try dsimp only
  repeat' first
    | with_reducible exact h | with_reducible assumption | with_reducible apply State.updCxl_follows
    | with_reducible apply Follows.foldl | with_reducible apply Follows.foldlSnd | intro _ | with_reducible rfl
    | split | with_reducible apply Follows.ident | with_reducible apply Follows.lit
    | (dsimp only <;> with_reducible rfl) | rfl

theorem State.fetch_follows {s t : State} (h : Follows s t) (a1) : Follows s (State.fetch t a1) := by
  unfold State.fetch
  repeat' first
    | with_reducible exact h | with_reducible apply State.updPair_follows | with_reducible apply State.nextBad_follows
    | with_reducible apply State.updEci_follows | (dsimp only <;> with_reducible rfl)

theorem execSqFetch_follows {s t : State} (h : Follows s t) : FollowsNext s (execSqFetch t) := by
  unfold execSqFetch
  try dsimp only
  apply FollowsNext.next
  repeat' first
    | with_reducible exact h | with_reducible apply State.notDue_follows | with_reducible apply State.waits_follows
    | with_reducible apply State.fetch_follows | with_reducible apply State.ok_follows | split

end Sys2Proof.Machine
end

