-- ==== Sys2Proof/Laws/Order.lean ====
section
/-!
SUPPORT. What the operations of Machine/Order.lean do to a legal state.
-/

namespace Sys2Proof.Machine

theorem State.freshWrite_follows {s t : State} (h : Follows s t) (a1 a2) (a3 a4) : Follows s (State.freshWrite t a1 a2 a3 a4) := by
  unfold State.freshWrite
  repeat' first
    | with_reducible exact h | with_reducible apply State.updCoh_follows | (dsimp only <;> with_reducible rfl) | rfl

theorem State.settleWrites_follows {s t : State} (h : Follows s t) (a1) : Follows s (State.settleWrites t a1) := by
  unfold State.settleWrites
  repeat' first
    | with_reducible exact h | with_reducible apply State.updCoh_follows | intro _ | with_reducible apply Follows.lit
    | (dsimp only <;> with_reducible rfl) | rfl

theorem State.chunkAs_follows {s t : State} (h : Follows s t) (a1 a2) : Follows s (State.chunkAs t a1 a2).2 := by
  unfold State.chunkAs
  try dsimp only
  repeat' first
    | with_reducible exact h | with_reducible assumption | with_reducible apply State.updCoh_follows
    | with_reducible apply State.draw_follows | with_reducible apply Follows.foldl
    | with_reducible apply Follows.foldlSnd | intro _ | with_reducible rfl | split
    | with_reducible apply Follows.ident | with_reducible apply Follows.lit | (dsimp only <;> with_reducible rfl)
    | rfl

theorem State.chunkAs_after {s t u : State} {x} {a1} {a2} (e : (State.chunkAs t a1 a2) = (x, u)) (h : Follows s t) : Follows s u := by
  have k := State.chunkAs_follows h a1 a2
  rwa [e] at k

theorem State.readAs_follows {s t : State} (h : Follows s t) (a1 a2 a3) : Follows s (State.readAs t a1 a2 a3).2 := by
  unfold State.readAs
  try dsimp only
  repeat' first
    | with_reducible exact h | with_reducible assumption | with_reducible apply State.chunkAs_follows
    | with_reducible apply State.chunkAs_after (e := by assumption) | with_reducible apply Follows.foldl
    | with_reducible apply Follows.foldlSnd | intro _ | with_reducible rfl | split
    | with_reducible apply Follows.ident | with_reducible apply Follows.lit | (dsimp only <;> with_reducible rfl)
    | rfl

theorem State.readAs_after {s t u : State} {x} {a1} {a2} {a3} (e : (State.readAs t a1 a2 a3) = (x, u)) (h : Follows s t) : Follows s u := by
  have k := State.readAs_follows h a1 a2 a3
  rwa [e] at k

theorem State.coreScope_follows {s t : State} (h : Follows s t) (a1 a2) : Follows s (State.coreScope t a1 a2) := by
  unfold State.coreScope
  repeat' first
    | with_reducible exact h | with_reducible apply State.updCoh_follows | (dsimp only <;> with_reducible rfl) | rfl

end Sys2Proof.Machine
end

