-- ==== Sys2Proof/Laws/Share.lean ====
section
/-!
SUPPORT. What the operations of Machine/Share.lean do to a legal state.
-/

namespace Sys2Proof.Machine

theorem State.addSample_follows {s t : State} (h : Follows s t) (a1 a2) (a3 a4) : Follows s (State.addSample t a1 a2 a3 a4) := by
  unfold State.addSample
  try dsimp only
  repeat' first
    | with_reducible exact h | with_reducible assumption | with_reducible apply State.updPwr_follows
    | with_reducible apply Follows.foldl | with_reducible apply Follows.foldlSnd | intro _ | with_reducible rfl
    | split

theorem State.setShares_follows {s t : State} (h : Follows s t) : Follows s (State.setShares t) := by
  unfold State.setShares
  repeat' first
    | with_reducible exact h | with_reducible apply State.updPwr_follows | (dsimp only <;> with_reducible rfl)

theorem State.presetFronts_follows {s t : State} (h : Follows s t) (a1 a2) : Follows s (State.presetFronts t a1 a2) := by
  unfold State.presetFronts
  try dsimp only
  repeat' first
    | with_reducible exact h | with_reducible assumption | with_reducible apply State.updFront_follows
    | with_reducible apply State.setShares_follows | with_reducible apply Follows.foldl
    | with_reducible apply Follows.foldlSnd | intro _ | with_reducible rfl | split

end Sys2Proof.Machine
end

