-- ==== Sys2Proof/Laws/Tags.lean ====
section
/-!
SUPPORT. What the operations of Machine/Tags.lean do to a legal state.
-/

namespace Sys2Proof.Machine

theorem State.letIn_follows {s t : State} (h : Follows s t) (a1 a2 a3) : Follows s (State.letIn t a1 a2 a3) := by
  unfold State.letIn
  try dsimp only
  repeat' first
    | with_reducible exact h | with_reducible assumption | with_reducible apply Follows.foldl
    | with_reducible apply Follows.foldlSnd | intro _ | with_reducible rfl | split
    | with_reducible apply Follows.ident | with_reducible apply Follows.lit | (dsimp only <;> with_reducible rfl)
    | rfl

theorem State.emptySlot_follows {s t : State} (h : Follows s t) (a1 a2) : Follows s (State.emptySlot t a1 a2) := by
  unfold State.emptySlot
  repeat' first
    | with_reducible exact h | with_reducible apply State.letIn_follows | with_reducible apply State.undefine_follows
    | with_reducible apply State.updSq_follows

theorem State.consume_follows {s t : State} (h : Follows s t) (a1 a2) : Follows s (State.consume t a1 a2) := by
  unfold State.consume
  try dsimp only
  repeat' first
    | with_reducible exact h | with_reducible assumption | with_reducible apply State.emptySlot_follows
    | with_reducible apply State.updSq_follows | with_reducible apply Follows.foldl
    | with_reducible apply Follows.foldlSnd | intro _ | with_reducible rfl | split

theorem State.acquire_follows {s t : State} (h : Follows s t) (a1 a2) : Follows s (State.acquire t a1 a2) := by
  unfold State.acquire
  repeat' first
    | with_reducible exact h | with_reducible apply State.updSq_follows

theorem State.release_follows {s t : State} (h : Follows s t) (a1 a2) (a3 a4) : Follows s (State.release t a1 a2 a3 a4) := by
  unfold State.release
  try dsimp only
  repeat' first
    | with_reducible exact h | with_reducible assumption | with_reducible apply State.updSq_follows
    | with_reducible apply State.letIn_follows | with_reducible apply Follows.foldl
    | with_reducible apply Follows.foldlSnd | intro _ | with_reducible rfl | split
    | with_reducible apply Follows.ident | with_reducible apply Follows.lit | (dsimp only <;> with_reducible rfl)
    | rfl

theorem State.waitSlot_follows {s t : State} (h : Follows s t) (a1 a2 a3) : Follows s (State.waitSlot t a1 a2 a3) := by
  unfold State.waitSlot
  repeat' first
    | with_reducible exact h | with_reducible apply State.waits_follows | with_reducible apply State.updSq_follows

theorem State.unwatch_follows {s t : State} (h : Follows s t) (a1 a2) : Follows s (State.unwatch t a1 a2) := by
  unfold State.unwatch
  repeat' first
    | with_reducible exact h | with_reducible apply State.updSq_follows

theorem State.doneReading_follows {s t : State} (h : Follows s t) (a1 a2) (a3 a4) : Follows s (State.doneReading t a1 a2 a3 a4) := by
  unfold State.doneReading
  try dsimp only
  repeat' first
    | with_reducible exact h | with_reducible assumption | with_reducible apply State.updSq_follows
    | with_reducible apply State.consume_follows | with_reducible apply Follows.foldl
    | with_reducible apply Follows.foldlSnd | intro _

theorem State.endReads_follows {s t : State} (h : Follows s t) (a1 a2) : Follows s (State.endReads t a1 a2) := by
  unfold State.endReads
  try dsimp only
  repeat' first
    | with_reducible exact h | with_reducible assumption | with_reducible apply State.doneReading_follows
    | with_reducible apply State.updSq_follows | with_reducible apply Follows.foldl
    | with_reducible apply Follows.foldlSnd | intro _

theorem State.activity_follows {s t : State} (h : Follows s t) (a1 a2) (a3 a4) : Follows s (State.activity t a1 a2 a3 a4) := by
  unfold State.activity
  try dsimp only
  repeat' first
    | with_reducible exact h | with_reducible assumption | with_reducible apply State.updFront_follows
    | with_reducible apply Follows.foldl | with_reducible apply Follows.foldlSnd | intro _ | with_reducible rfl
    | split

theorem State.coreAccess_follows {s t : State} (h : Follows s t) (a1 a2 a3) : Follows s (State.coreAccess t a1 a2 a3) := by
  unfold State.coreAccess
  repeat' first
    | with_reducible exact h | with_reducible apply State.activity_follows

theorem execSlotRelease_follows {s t : State} (h : Follows s t) (a1 a2 a3) : FollowsNext s (execSlotRelease a1 a2 a3 t) := by
  unfold execSlotRelease
  try dsimp only
  apply FollowsNext.next
  repeat' first
    | with_reducible exact h | with_reducible assumption | with_reducible apply State.notDue_follows
    | with_reducible apply State.release_follows | with_reducible apply State.ok_follows
    | with_reducible apply Follows.foldl | with_reducible apply Follows.foldlSnd | intro _ | with_reducible rfl
    | split

end Sys2Proof.Machine
end

