-- ==== Sys2Proof/Laws/Work.lean ====
section
/-!
SUPPORT. What the operations of Machine/Work.lean do to a legal state.
-/

namespace Sys2Proof.Machine

theorem State.failItem_follows {s t : State} (h : Follows s t) (a1 a2) (a3 a4 a5) : Follows s (State.failItem t a1 a2 a3 a4 a5) := by
  unfold State.failItem
  repeat' first
    | with_reducible exact h | with_reducible apply State.final_follows

theorem State.keepShadow_follows {s t : State} (h : Follows s t) (a1 a2 a3) : Follows s (State.keepShadow t a1 a2 a3) := by
  unfold State.keepShadow
  repeat' first
    | with_reducible exact h | with_reducible apply State.updModel_follows

theorem State.trimCommit_follows {s t : State} (h : Follows s t) (a1 a2) : Follows s (State.trimCommit t a1 a2) := by
  unfold State.trimCommit
  try dsimp only
  repeat' first
    | with_reducible exact h | with_reducible assumption | with_reducible apply State.updRun_follows
    | with_reducible apply State.keepShadow_follows | with_reducible apply Follows.foldl
    | with_reducible apply Follows.foldlSnd | intro _ | with_reducible rfl | split
    | with_reducible apply Follows.ident | with_reducible apply Follows.lit | (dsimp only <;> with_reducible rfl)
    | rfl

theorem State.cancelItem_follows {s t : State} (h : Follows s t) (a1 a2 a3) : Follows s (State.cancelItem t a1 a2 a3) := by
  unfold State.cancelItem
  try dsimp only
  repeat' first
    | with_reducible exact h | with_reducible assumption | with_reducible apply State.updChain_follows
    | with_reducible apply State.failItem_follows | with_reducible apply State.trimCommit_follows
    | with_reducible apply Follows.foldl | with_reducible apply Follows.foldlSnd | intro _ | with_reducible rfl
    | split | with_reducible apply Follows.ident | with_reducible apply Follows.lit
    | (dsimp only <;> with_reducible rfl) | rfl

theorem State.cancelWhere_follows {s t : State} (h : Follows s t) (a1) : Follows s (State.cancelWhere t a1) := by
  unfold State.cancelWhere
  repeat' first
    | with_reducible exact h | with_reducible assumption | with_reducible apply State.cancelItem_follows
    | with_reducible apply Follows.foldl | with_reducible apply Follows.foldlSnd | intro _

theorem State.failAll_follows {s t : State} (h : Follows s t) (a1) : Follows s (State.failAll t a1) := by
  unfold State.failAll
  try dsimp only
  repeat' first
    | with_reducible exact h | with_reducible assumption | with_reducible apply State.failItem_follows
    | with_reducible apply State.updSrv_follows | with_reducible apply Follows.foldl
    | with_reducible apply Follows.foldlSnd | intro _

theorem State.unshare_follows {s t : State} (h : Follows s t) (a1) : Follows s (State.unshare t a1) := by
  unfold State.unshare
  repeat' first
    | with_reducible exact h | with_reducible apply State.updSrv_follows

theorem State.dropSeq_follows {s t : State} (h : Follows s t) (a1) : Follows s (State.dropSeq t a1) := by
  unfold State.dropSeq
  try dsimp only
  repeat' first
    | with_reducible exact h | with_reducible assumption | with_reducible apply State.unshare_follows
    | with_reducible apply State.updSrv_follows | with_reducible apply State.freeBlock_follows
    | with_reducible apply Follows.foldl | with_reducible apply Follows.foldlSnd | intro _ | with_reducible rfl
    | split

theorem State.closeSeq_follows {s t : State} (h : Follows s t) (a1 a2) : Follows s (State.closeSeq t a1 a2) := by
  unfold State.closeSeq
  try dsimp only
  repeat' first
    | with_reducible exact h | with_reducible assumption | with_reducible apply State.updSeq_follows
    | with_reducible apply State.dropSeq_follows | with_reducible apply Follows.foldl
    | with_reducible apply Follows.foldlSnd | intro _ | with_reducible rfl | split

theorem State.reapSeqs_follows {s t : State} (h : Follows s t) : Follows s (State.reapSeqs t) := by
  unfold State.reapSeqs
  try dsimp only
  repeat' first
    | with_reducible exact h | with_reducible assumption | with_reducible apply State.dropSeq_follows
    | with_reducible apply Follows.foldl | with_reducible apply Follows.foldlSnd | intro _

theorem State.unpinSlots_follows {s t : State} (h : Follows s t) (a1) : Follows s (State.unpinSlots t a1) := by
  unfold State.unpinSlots
  try dsimp only
  repeat' first
    | with_reducible exact h | with_reducible assumption | with_reducible apply Follows.foldl
    | with_reducible apply Follows.foldlSnd | intro _ | with_reducible rfl | split
    | with_reducible apply Follows.ident | with_reducible apply Follows.lit

theorem State.evictModel_follows {s t : State} (h : Follows s t) (a1) : Follows s (State.evictModel t a1) := by
  unfold State.evictModel
  try dsimp only
  repeat' first
    | with_reducible exact h | with_reducible assumption | with_reducible apply State.switchCopies_follows
    | with_reducible apply State.dropSeq_follows | with_reducible apply State.updTiers_follows
    | with_reducible apply State.unpinSlots_follows | with_reducible apply State.updSrv_follows
    | with_reducible apply State.updPwr_follows | with_reducible apply State.setDev_follows
    | with_reducible apply State.updEci_follows | with_reducible apply Follows.foldl
    | with_reducible apply Follows.foldlSnd | intro _ | with_reducible rfl | split
    | with_reducible apply Follows.ident | with_reducible apply Follows.lit | (dsimp only <;> with_reducible rfl)
    | rfl

theorem State.tryDrain_follows {s t : State} (h : Follows s t) : Follows s (State.tryDrain t) := by
  unfold State.tryDrain
  try dsimp only
  repeat' first
    | with_reducible exact h | with_reducible assumption | with_reducible apply State.finish_follows
    | with_reducible apply State.updEci_follows | with_reducible apply State.setDev_follows
    | with_reducible apply State.failAll_follows | with_reducible apply Follows.foldl
    | with_reducible apply Follows.foldlSnd | intro _ | with_reducible rfl | split

theorem State.unpattern_follows {s t : State} (h : Follows s t) (a1) : Follows s (State.unpattern t a1) := by
  unfold State.unpattern
  repeat' first
    | with_reducible exact h | with_reducible apply State.updSrv_follows

theorem State.dropSession_follows {s t : State} (h : Follows s t) (a1) : Follows s (State.dropSession t a1) := by
  unfold State.dropSession
  try dsimp only
  repeat' first
    | with_reducible exact h | with_reducible assumption | with_reducible apply State.unpattern_follows
    | with_reducible apply State.closeSeq_follows | with_reducible apply State.updEci_follows
    | with_reducible apply State.evictModel_follows | with_reducible apply State.updDnb_follows
    | with_reducible apply State.updSrv_follows | with_reducible apply Follows.foldl
    | with_reducible apply Follows.foldlSnd | intro _ | with_reducible rfl | split
    | with_reducible apply Follows.ident | with_reducible apply Follows.lit | (dsimp only <;> with_reducible rfl)
    | rfl

theorem State.tryDetach_follows {s t : State} (h : Follows s t) : Follows s (State.tryDetach t) := by
  unfold State.tryDetach
  try dsimp only
  repeat' first
    | with_reducible exact h | with_reducible assumption | with_reducible apply State.updEci_follows
    | with_reducible apply State.dropSession_follows | with_reducible apply State.finish_follows
    | with_reducible apply Follows.foldl | with_reducible apply Follows.foldlSnd | intro _ | with_reducible rfl
    | split

theorem State.settle_follows {s t : State} (h : Follows s t) : Follows s (State.settle t) := by
  unfold State.settle
  repeat' first
    | with_reducible exact h | with_reducible apply State.tryDetach_follows
    | with_reducible apply State.tryDrain_follows | with_reducible apply State.reapSeqs_follows

theorem State.dropImport_follows {s t : State} (h : Follows s t) (a1) : Follows s (State.dropImport t a1) := by
  unfold State.dropImport
  try dsimp only
  repeat' first
    | with_reducible exact h | with_reducible assumption | with_reducible apply State.dropSeq_follows
    | with_reducible apply State.freeBlock_follows | with_reducible apply State.updSeq_follows
    | with_reducible apply State.writeTable_follows | with_reducible apply Follows.foldl
    | with_reducible apply Follows.foldlSnd | intro _ | with_reducible rfl | split
    | with_reducible apply Follows.ident | with_reducible apply Follows.lit | (dsimp only <;> with_reducible rfl)
    | rfl

theorem State.abortOp_follows {s t : State} (h : Follows s t) (a1) : Follows s (State.abortOp t a1) := by
  unfold State.abortOp
  try dsimp only
  repeat' first
    | with_reducible exact h | with_reducible assumption | with_reducible apply State.updTiers_follows
    | with_reducible apply State.updSrv_follows | with_reducible apply State.dropImport_follows
    | with_reducible apply State.updBoot_follows | with_reducible apply Follows.foldl
    | with_reducible apply Follows.foldlSnd | intro _ | with_reducible rfl | split

theorem State.endOp_follows {s t : State} (h : Follows s t) (o st d x) : Follows s (t.endOp o st d x) := by
  have h1 : Follows s (t.updEci fun e => { e with ops := e.ops.filter fun x => x.handle != o.handle }) :=
    h.setting (fun l => ⟨l.cap, l.capWanted, l.mode, l.modeDue, l.devTimeout,
      Nat.le_trans (List.length_filter_le _ _) l.longOps⟩) rfl rfl rfl rfl rfl
  unfold State.endOp
  exact State.settle_follows (Follows.foldl (Follows.foldl (State.final_follows h1 _ _ _ _ _) _ _
    fun u a k => State.finish_follows k _ _ _ _ _) _ _ fun u a k => State.finish_follows k _ _ _ _ _)

theorem State.failOp_follows {s t : State} (h : Follows s t) (a1 a2) (a3 a4) : Follows s (State.failOp t a1 a2 a3 a4) := by
  unfold State.failOp
  try dsimp only
  repeat' first
    | with_reducible exact h | with_reducible assumption | with_reducible apply State.sendNow_follows
    | with_reducible apply State.endOp_follows | with_reducible apply State.abortOp_follows
    | with_reducible apply State.endStream_follows | with_reducible apply Follows.foldl
    | with_reducible apply Follows.foldlSnd | intro _ | with_reducible rfl | split
    | with_reducible apply Follows.ident | with_reducible apply Follows.lit | (dsimp only <;> with_reducible rfl)
    | rfl

theorem State.startOp_follows {s t : State} (h : Follows s t) (c k m n) (f : Nat → State → State)
    (hf : ∀ x u, Follows s u → Follows s (f x u)) : Follows s (t.startOp c k m n f) := by
  unfold State.startOp
  split
  · exact State.refuse_follows h _ _ _
  · rename_i hlim
    refine hf _ _ (State.nextBad_follows (State.record_follows ?_ _ _ _ _ _ _) _)
    have h0 : Follows s (t.popEntry c.src) := State.popEntry_follows h _
    have he : (t.popEntry c.src).eci.ops = t.eci.ops := by
      unfold State.popEntry
      split <;> rfl
    refine h0.setting (fun l => ⟨l.cap, l.capWanted, l.mode, l.modeDue, l.devTimeout, ?_⟩) rfl rfl rfl rfl rfl
    simp only [State.settings, State.updEci, List.length_append, List.length_singleton, he]
    omega

theorem State.failOps_follows {s t : State} (h : Follows s t) (a1) : Follows s (State.failOps t a1) := by
  unfold State.failOps
  try dsimp only
  repeat' first
    | with_reducible exact h | with_reducible assumption | with_reducible apply State.failOp_follows
    | with_reducible apply Follows.foldl | with_reducible apply Follows.foldlSnd | intro _

theorem State.cancelSession_follows {s t : State} (h : Follows s t) (a1) : Follows s (State.cancelSession t a1) := by
  unfold State.cancelSession
  try dsimp only
  repeat' first
    | with_reducible exact h | with_reducible assumption | with_reducible apply State.cancelWhere_follows
    | with_reducible apply State.failOp_follows | with_reducible apply State.updOp_follows
    | with_reducible apply Follows.foldl | with_reducible apply Follows.foldlSnd | intro _ | with_reducible rfl
    | split

theorem State.tellHeld_follows {s t : State} (h : Follows s t) (a1 a2) : Follows s (State.tellHeld t a1 a2) := by
  unfold State.tellHeld
  try dsimp only
  repeat' first
    | with_reducible exact h | with_reducible assumption | with_reducible apply State.sendNow_follows
    | with_reducible apply Follows.foldl | with_reducible apply Follows.foldlSnd | intro _ | with_reducible rfl
    | split | with_reducible apply Follows.ident | with_reducible apply Follows.lit
    | (dsimp only <;> with_reducible rfl) | rfl

end Sys2Proof.Machine
end

