-- ==== Sys2Proof/Laws/Xlate.lean ====
section
/-!
SUPPORT. What the operations of Machine/Xlate.lean do to a legal state.
-/

namespace Sys2Proof.Machine

theorem State.noteKv_follows {s t : State} (h : Follows s t) (a1 a2) (a3 a4) : Follows s (State.noteKv t a1 a2 a3 a4) := by
  unfold State.noteKv
  try dsimp only
  repeat' first
    | with_reducible exact h | with_reducible assumption | with_reducible apply State.updSrv_follows
    | with_reducible apply Follows.foldl | with_reducible apply Follows.foldlSnd | intro _ | with_reducible rfl
    | split | with_reducible apply Follows.ident | with_reducible apply Follows.lit
    | (dsimp only <;> with_reducible rfl) | rfl

end Sys2Proof.Machine
end

