-- ==== Sys2Proof/Laws/Steps.lean ====
section
/-!
SUPPORT. What the operations of Machine/Steps.lean do to a legal state.
-/

namespace Sys2Proof.Machine

theorem State.zeroPositions_follows {s t : State} (h : Follows s t) (a1 a2) (a3 a4) : Follows s (State.zeroPositions t a1 a2 a3 a4) := by
  unfold State.zeroPositions
  try dsimp only
  repeat' first
    | with_reducible exact h | with_reducible assumption | with_reducible apply State.bumpGen_follows
    | with_reducible apply State.markRange_follows | with_reducible apply State.clear_follows
    | with_reducible apply Follows.foldl | with_reducible apply Follows.foldlSnd | intro _

theorem State.stepEvent_follows {s t : State} (h : Follows s t) (a1 a2) (a3 a4) : Follows s (State.stepEvent t a1 a2 a3 a4) := by
  unfold State.stepEvent
  try dsimp only
  repeat' first
    | with_reducible exact h | with_reducible assumption | with_reducible apply State.event_follows
    | with_reducible apply Follows.foldl | with_reducible apply Follows.foldlSnd | intro _ | with_reducible rfl
    | split

theorem State.markPosts_follows {s t : State} (h : Follows s t) (a1 a2 a3) : Follows s (State.markPosts t a1 a2 a3) := by
  unfold State.markPosts
  repeat' first
    | with_reducible exact h | with_reducible apply State.updEci_follows | (dsimp only <;> with_reducible rfl) | rfl

theorem State.addStepTime_follows {s t : State} (h : Follows s t) (a1 a2) : Follows s (State.addStepTime t a1 a2) := by
  unfold State.addStepTime
  try dsimp only
  repeat' first
    | with_reducible exact h | with_reducible assumption | with_reducible apply State.updSq_follows
    | with_reducible apply State.updFront_follows | with_reducible apply State.updSrv_follows
    | with_reducible apply State.add_follows | with_reducible apply Follows.foldl
    | with_reducible apply Follows.foldlSnd | intro _ | with_reducible rfl | split
    | with_reducible apply Follows.ident | with_reducible apply Follows.lit | (dsimp only <;> with_reducible rfl)
    | rfl

theorem State.recorded_follows {s t : State} (h : Follows s t) (a1 a2) : Follows s (State.recorded t a1 a2) := by
  unfold State.recorded
  try dsimp only
  repeat' first
    | with_reducible exact h | with_reducible assumption | with_reducible apply State.settle_follows
    | with_reducible apply State.updChain_follows | with_reducible apply State.addStepTime_follows
    | with_reducible apply Follows.foldl | with_reducible apply Follows.foldlSnd | intro _ | with_reducible rfl
    | split | with_reducible apply Follows.ident | with_reducible apply Follows.lit
    | (dsimp only <;> with_reducible rfl) | rfl

theorem State.endUndispatched_follows {s t : State} (h : Follows s t) (a1 a2) (a3 a4 a5) : Follows s (State.endUndispatched t a1 a2 a3 a4 a5) := by
  unfold State.endUndispatched
  try dsimp only
  repeat' first
    | with_reducible exact h | with_reducible assumption | with_reducible apply State.updChain_follows
    | with_reducible apply State.markPosts_follows | with_reducible apply State.failItem_follows
    | with_reducible apply State.recorded_follows | with_reducible apply State.stepEvent_follows
    | with_reducible apply Follows.foldl | with_reducible apply Follows.foldlSnd | intro _ | with_reducible rfl
    | split | with_reducible apply Follows.ident | with_reducible apply Follows.lit
    | (dsimp only <;> with_reducible rfl) | rfl

theorem State.coverSeq_follows {s t : State} (h : Follows s t) (a1 a2 a3) (n : Nat) : Follows s (t.coverSeq a1 a2 a3 n).2 := by
  induction n generalizing t with
  | zero => exact h
  | succ n ih =>
    unfold State.coverSeq
    split
    · exact h
    · split
      · exact h
      · split
        all_goals rename_i e
        · exact ih (State.updSeq_follows (State.allocBlock_after e h) _ _ _)
        · exact State.allocBlock_after e h
        · exact State.allocBlock_after e h

theorem State.coverSeq_after {s t u : State} {x} {a1 a2 a3 n} (e : State.coverSeq t a1 a2 a3 n = (x, u)) (h : Follows s t) : Follows s u := by
  have k := State.coverSeq_follows h a1 a2 a3 n
  rwa [e] at k

theorem State.coverItems_follows {s t : State} (h : Follows s t) (m e) (l : List Item) : Follows s (t.coverItems m e l).2 := by
  induction l generalizing t with
  | nil => exact h
  | cons i l ih =>
    unfold State.coverItems
    extract_lets n r rest
    have hr : Follows s r.2 := by
      show Follows s (match i.seq, m.plan with | some _, some _ => _ | _, _ => _ : Option Bool × State).2
      split
      · exact State.coverSeq_follows h _ _ _ _
      · exact h
    clear_value r
    split
    · exact ih hr
    · exact ih hr
    · split
      · exact ih hr
      · exact hr

theorem State.coverItems_after {s t u : State} {x} {a1 a2 n} (e : State.coverItems t a1 a2 n = (x, u)) (h : Follows s t) : Follows s u := by
  have k := State.coverItems_follows h a1 a2 n
  rwa [e] at k

theorem State.pinWords_follows {s t : State} (h : Follows s t) (m a) (l : List Nat) : Follows s (t.pinWords m a l) := by
  induction l generalizing t a with
  | nil => exact h
  | cons b l ih => exact ih (State.putPinned_follows h _ _ _ _) _

theorem State.writePattern_follows {s t : State} (h : Follows s t) (a1 a2 a3) : Follows s (State.writePattern t a1 a2 a3) := by
  unfold State.writePattern
  try dsimp only
  repeat' first
    | with_reducible exact h | with_reducible assumption | with_reducible apply State.markRange_follows
    | with_reducible apply State.putBytes_follows | with_reducible apply State.updModel_follows
    | with_reducible apply Follows.foldl | with_reducible apply Follows.foldlSnd | intro _ | with_reducible rfl
    | split

theorem State.writeItem_follows {s t : State} (h : Follows s t) (a1 a2) (a3 a4) : Follows s (State.writeItem t a1 a2 a3 a4) := by
  unfold State.writeItem
  try dsimp only
  repeat' first
    | with_reducible exact h | with_reducible assumption | with_reducible apply State.pinWords_follows
    | with_reducible apply Follows.foldl | with_reducible apply Follows.foldlSnd | intro _ | with_reducible rfl
    | split

theorem State.writeInputs_follows {s t : State} (h : Follows s t) (a1 a2 a3) : Follows s (State.writeInputs t a1 a2 a3) := by
  unfold State.writeInputs
  try dsimp only
  repeat' first
    | with_reducible exact h | with_reducible assumption | with_reducible apply State.updSeq_follows
    | with_reducible apply State.zeroPositions_follows | with_reducible apply State.writeTable_follows
    | with_reducible apply State.writePattern_follows | with_reducible apply State.writeItem_follows
    | with_reducible apply State.draw_follows | with_reducible apply Follows.foldl
    | with_reducible apply Follows.foldlSnd | intro _ | with_reducible rfl | split

theorem State.useBlocks_follows {s t : State} (h : Follows s t) (a1 a2) : Follows s (State.useBlocks t a1 a2) := by
  unfold State.useBlocks
  repeat' first
    | with_reducible exact h | with_reducible apply State.updSrv_follows

theorem State.dispatch_follows {s t : State} (h : Follows s t) (a1 a2) (a3 a4 a5) : Follows s (State.dispatch t a1 a2 a3 a4 a5) := by
  unfold State.dispatch
  try dsimp only
  repeat' first
    | with_reducible exact h | with_reducible assumption | with_reducible apply State.coverItems_follows
    | with_reducible apply State.coverItems_after (e := by assumption) | with_reducible apply State.waits_follows
    | with_reducible apply State.updChain_follows | with_reducible apply State.writeInputs_follows
    | with_reducible apply State.useBlocks_follows | with_reducible apply State.ok_follows
    | with_reducible apply State.startAttempt_follows | with_reducible apply State.presetFronts_follows
    | with_reducible apply Follows.foldl | with_reducible apply Follows.foldlSnd | intro _ | with_reducible rfl
    | split

theorem execStepDispatch_follows {s t : State} (h : Follows s t) (a1 a2) : FollowsNext s (execStepDispatch a1 a2 t) := by
  unfold execStepDispatch
  try dsimp only
  apply FollowsNext.next
  repeat' first
    | with_reducible exact h | with_reducible apply State.notDue_follows | with_reducible apply State.waits_follows
    | with_reducible apply State.endUndispatched_follows | with_reducible apply State.ok_follows
    | with_reducible apply State.dispatch_follows | split

theorem execKvAllocate_follows {s t : State} (h : Follows s t) (a1 a2) : FollowsNext s (execKvAllocate a1 a2 t) := by
  unfold execKvAllocate
  try dsimp only
  apply FollowsNext.next
  repeat' first
    | with_reducible exact h | with_reducible assumption | with_reducible apply State.notDue_follows
    | with_reducible apply State.allocBlock_follows | with_reducible apply State.allocBlock_after (e := by assumption)
    | with_reducible apply State.updSeq_follows | with_reducible apply State.writeTable_follows
    | with_reducible apply State.ok_follows | with_reducible apply State.waits_follows | intro _ | split

theorem execTaskFinal_follows {s t : State} (h : Follows s t) (a1) : FollowsNext s (execTaskFinal a1 t) := by
  unfold execTaskFinal
  apply FollowsNext.next
  repeat' first
    | with_reducible exact h | with_reducible apply State.notDue_follows | with_reducible apply State.ok_follows
    | with_reducible apply State.finalTask_follows | with_reducible apply State.endReads_follows
    | with_reducible apply State.settleWrites_follows | with_reducible apply State.updSq_follows | intro _ | split
    | with_reducible apply Follows.lit | (dsimp only <;> with_reducible rfl) | rfl

theorem execTagStall_follows {s t : State} (h : Follows s t) (a1) : FollowsNext s (execTagStall a1 t) := by
  unfold execTagStall
  try dsimp only
  apply FollowsNext.next
  repeat' first
    | with_reducible exact h | with_reducible apply State.notDue_follows | with_reducible apply State.endStep_follows
    | with_reducible apply State.updSq_follows | with_reducible apply State.ok_follows | intro _ | split

theorem State.replay_follows {s t : State} (h : Follows s t) (a1 a2) (a3 a4) : Follows s (State.replay t a1 a2 a3 a4) := by
  unfold State.replay
  repeat' first
    | with_reducible exact h | with_reducible apply State.updRun_follows
    | with_reducible apply State.startAttempt_follows | with_reducible apply State.count_follows

theorem State.advance_follows {s t : State} (h : Follows s t) (a1 a2) (a3 a4) : Follows s (State.advance t a1 a2 a3 a4) := by
  unfold State.advance
  try dsimp only
  repeat' first
    | with_reducible exact h | with_reducible assumption | with_reducible apply State.updSeq_follows
    | with_reducible apply Follows.foldl | with_reducible apply Follows.foldlSnd | intro _ | with_reducible rfl
    | split

theorem State.learn_follows {s t : State} (h : Follows s t) (a1 a2) : Follows s (State.learn t a1 a2) := by
  unfold State.learn
  try dsimp only
  repeat' first
    | with_reducible exact h | with_reducible assumption | with_reducible apply State.addSample_follows
    | with_reducible apply State.updFront_follows | with_reducible apply Follows.foldl
    | with_reducible apply Follows.foldlSnd | intro _ | with_reducible rfl | split

theorem State.closeStep_follows {s t : State} (h : Follows s t) (a1 a2) (a3 a4) : Follows s (State.closeStep t a1 a2 a3 a4) := by
  unfold State.closeStep
  try dsimp only
  repeat' first
    | with_reducible exact h | with_reducible assumption | with_reducible apply State.advance_follows
    | with_reducible apply State.markPosts_follows | with_reducible apply State.final_follows
    | with_reducible apply State.updRun_follows | with_reducible apply State.updChain_follows
    | with_reducible apply State.learn_follows | with_reducible apply State.updTiers_follows
    | with_reducible apply State.updSrv_follows | with_reducible apply State.settleWrites_follows
    | with_reducible apply State.recorded_follows | with_reducible apply State.stepEvent_follows
    | with_reducible apply Follows.foldl | with_reducible apply Follows.foldlSnd | intro _ | with_reducible rfl
    | split | with_reducible apply Follows.ident | with_reducible apply Follows.lit
    | (dsimp only <;> with_reducible rfl) | rfl

theorem State.beginCommit_follows {s t : State} (h : Follows s t) (a1 a2) (a3 a4) : Follows s (State.beginCommit t a1 a2 a3 a4) := by
  unfold State.beginCommit
  repeat' first
    | with_reducible exact h | with_reducible apply State.updRun_follows
    | with_reducible apply State.keepShadow_follows

theorem State.endPhase_follows {s t : State} (h : Follows s t) (a1 a2) (a3 a4) : Follows s (State.endPhase t a1 a2 a3 a4) := by
  unfold State.endPhase
  try dsimp only
  repeat' first
    | with_reducible exact h | with_reducible assumption | with_reducible apply State.ok_follows
    | with_reducible apply State.drainEgress_follows | with_reducible apply State.waits_follows
    | with_reducible apply State.closeStep_follows | with_reducible apply State.notDue_follows
    | with_reducible apply State.recorded_follows | with_reducible apply State.replay_follows
    | with_reducible apply State.beginCommit_follows | with_reducible apply Follows.foldl
    | with_reducible apply Follows.foldlSnd | intro _ | with_reducible rfl | split
    | with_reducible apply Follows.ident | with_reducible apply Follows.lit | (dsimp only <;> with_reducible rfl)
    | rfl

theorem execStepEnd_follows {s t : State} (h : Follows s t) (a1 a2) : FollowsNext s (execStepEnd a1 a2 t) := by
  unfold execStepEnd
  try dsimp only
  apply FollowsNext.next
  repeat' first
    | with_reducible exact h | with_reducible assumption | with_reducible apply State.notDue_follows
    | with_reducible apply State.endPhase_follows | with_reducible apply Follows.foldl
    | with_reducible apply Follows.foldlSnd | intro _ | with_reducible rfl | split
    | with_reducible apply Follows.ident | with_reducible apply Follows.lit | (dsimp only <;> with_reducible rfl)
    | rfl

theorem State.commitRun_follows {s t : State} (h : Follows s t) (a1 a2 a3) : Follows s (State.commitRun t a1 a2 a3) := by
  unfold State.commitRun
  try dsimp only
  repeat' first
    | with_reducible exact h | with_reducible assumption | with_reducible apply State.dramUse_follows
    | with_reducible apply State.noteKv_follows | with_reducible apply State.bumpGen_follows
    | with_reducible apply State.putBytes_follows | with_reducible apply State.setMark_follows
    | with_reducible apply Follows.foldl | with_reducible apply Follows.foldlSnd | intro _ | with_reducible rfl
    | split | with_reducible apply Follows.ident | with_reducible apply Follows.lit
    | (dsimp only <;> with_reducible rfl) | rfl

theorem State.addCopyTime_follows {s t : State} (h : Follows s t) (a1 a2) (a3 a4) : Follows s (State.addCopyTime t a1 a2 a3 a4) := by
  unfold State.addCopyTime
  try dsimp only
  repeat' first
    | with_reducible exact h | with_reducible assumption | with_reducible apply State.updSq_follows
    | with_reducible apply State.addFrontTime_follows | with_reducible apply State.addGroupTime_follows
    | with_reducible apply State.add_follows | with_reducible apply Follows.foldl
    | with_reducible apply Follows.foldlSnd | intro _ | with_reducible rfl | split
    | with_reducible apply Follows.ident | with_reducible apply Follows.lit | (dsimp only <;> with_reducible rfl)
    | rfl

theorem State.commitNext_follows {s t : State} (h : Follows s t) (a1 a2 a3) : Follows s (State.commitNext t a1 a2 a3) := by
  unfold State.commitNext
  try dsimp only
  repeat' first
    | with_reducible exact h | with_reducible assumption | with_reducible apply State.notDue_follows
    | with_reducible apply State.commitRun_follows | with_reducible apply State.ok_follows
    | with_reducible apply State.draw_follows | with_reducible apply State.addCopyTime_follows
    | with_reducible apply State.keepShadow_follows | with_reducible apply State.updRun_follows
    | with_reducible apply State.trimCommit_follows | with_reducible apply Follows.foldl
    | with_reducible apply Follows.foldlSnd | intro _ | with_reducible rfl | split
    | with_reducible apply Follows.ident | with_reducible apply Follows.lit | (dsimp only <;> with_reducible rfl)
    | rfl

theorem execCommitCopyComplete_follows {s t : State} (h : Follows s t) (a1 a2 a3) : FollowsNext s (execCommitCopyComplete a1 a2 a3 t) := by
  unfold execCommitCopyComplete
  apply FollowsNext.next
  repeat' first
    | with_reducible exact h | with_reducible apply State.commitNext_follows
    | with_reducible apply State.notDue_follows | split

theorem State.dirRoom_some {s t : State} (h : Follows s t) : FollowsSome s (State.dirRoom t) := by
  unfold State.dirRoom
  repeat' first
    | exact FollowsSome.none _ | with_reducible apply FollowsSome.some | with_reducible exact h
    | with_reducible apply State.freeBlock_follows | with_reducible apply State.dropEntry_follows | split

theorem State.dirRoom_follows {s t u : State} (e : (State.dirRoom t) = some u) (h : Follows s t) : Follows s u :=
  State.dirRoom_some h u e

theorem State.insertBlocks_follows {s t : State} (h : Follows s t) (m q ids base parent x b) (n : Nat) :
    Follows s (t.insertBlocks m q ids base parent x b n) := by
  induction n generalizing t parent x b with
  | zero => unfold State.insertBlocks; exact h
  | succ n ih =>
    unfold State.insertBlocks
    dsimp only
    split
    · exact h
    · exact h
    · rename_i e
      exact ih (State.updSeq_follows (State.updSrv_follows (State.dirRoom_follows e h) _) _ _ _) _ _ _

theorem State.insertItem_follows {s t : State} (h : Follows s t) (a1 a2) : Follows s (State.insertItem t a1 a2) := by
  unfold State.insertItem
  try dsimp only
  repeat' first
    | with_reducible exact h | with_reducible assumption | with_reducible apply State.insertBlocks_follows
    | with_reducible apply Follows.foldl | with_reducible apply Follows.foldlSnd | intro _ | with_reducible rfl
    | split

theorem execPrefixInsert_follows {s t : State} (h : Follows s t) (a1 a2) : FollowsNext s (execPrefixInsert a1 a2 t) := by
  unfold execPrefixInsert
  try dsimp only
  apply FollowsNext.next
  repeat' first
    | with_reducible exact h | with_reducible assumption | with_reducible apply State.notDue_follows
    | with_reducible apply State.waits_follows | with_reducible apply State.updChain_follows
    | with_reducible apply State.insertItem_follows | with_reducible apply State.ok_follows
    | with_reducible apply Follows.foldl | with_reducible apply Follows.foldlSnd | intro _ | with_reducible rfl
    | split

end Sys2Proof.Machine
end

