-- ==== Sys2Proof/Laws/Kv.lean ====
section
/-!
SUPPORT. What the operations of Machine/Kv.lean do to a legal state.
-/

namespace Sys2Proof.Machine

theorem State.updTransfer_follows {s t : State} (h : Follows s t) (a1 a2) : Follows s (State.updTransfer t a1 a2) := by
  unfold State.updTransfer
  repeat' first
    | with_reducible exact h | with_reducible apply State.updSrv_follows

theorem kvExportBody_follows {s t : State} (h : Follows s t) (a1) : Follows s (kvExportBody a1 t) := by
  unfold kvExportBody
  try dsimp only
  repeat' first
    | with_reducible exact h | with_reducible assumption | with_reducible apply State.refuse_follows
    | with_reducible apply State.startOp_follows | with_reducible apply State.updSrv_follows
    | with_reducible apply State.failOp_follows | with_reducible apply State.sendNow_follows
    | with_reducible apply Follows.foldl | with_reducible apply Follows.foldlSnd | intro _ | with_reducible rfl
    | split

theorem execKvExport_follows {s t : State} (h : Follows s t) (a1) : FollowsNext s (execKvExport a1 t) := by
  unfold execKvExport
  try dsimp only
  apply FollowsNext.next
  repeat' first
    | with_reducible exact h | with_reducible assumption | with_reducible apply State.command_follows
    | with_reducible apply kvExportBody_follows | with_reducible apply Follows.foldl
    | with_reducible apply Follows.foldlSnd | intro _

theorem State.failByHandle_follows {s t : State} (h : Follows s t) (a1 a2) : Follows s (State.failByHandle t a1 a2) := by
  unfold State.failByHandle
  try dsimp only
  repeat' first
    | with_reducible exact h | with_reducible assumption | with_reducible apply State.failOp_follows
    | with_reducible apply Follows.foldl | with_reducible apply Follows.foldlSnd | intro _ | with_reducible rfl
    | split

theorem State.reserveBlocks_follows {s t : State} (h : Follows s t) (a1 a2 a3) (n : Nat) :
    Follows s (t.reserveBlocks a1 a2 a3 n).2 := by
  induction n generalizing t with
  | zero => exact h
  | succ n ih =>
    unfold State.reserveBlocks
    split
    all_goals rename_i e
    · exact ih (State.updSeq_follows (State.allocBlock_after e h) _ _ _)
    · exact State.allocBlock_after e h
    · exact State.allocBlock_after e h

theorem State.reserveBlocks_after {s t u : State} {x} {a1 a2 a3 n} (e : State.reserveBlocks t a1 a2 a3 n = (x, u)) (h : Follows s t) : Follows s u := by
  have k := State.reserveBlocks_follows h a1 a2 a3 n
  rwa [e] at k

theorem State.sendPlaces_follows {s t : State} (h : Follows s t) (a1 a2) : Follows s (State.sendPlaces t a1 a2) := by
  unfold State.sendPlaces
  try dsimp only
  repeat' first
    | with_reducible exact h | with_reducible assumption | with_reducible apply State.sendNow_follows
    | with_reducible apply Follows.foldl | with_reducible apply Follows.foldlSnd | intro _ | with_reducible rfl
    | split | with_reducible apply Follows.ident | with_reducible apply Follows.lit
    | (dsimp only <;> with_reducible rfl) | rfl

theorem State.tryReserve_follows {s t : State} (h : Follows s t) (a1) : Follows s (State.tryReserve t a1) := by
  unfold State.tryReserve
  try dsimp only
  repeat' first
    | with_reducible exact h | with_reducible assumption | with_reducible apply State.updSeq_follows
    | with_reducible apply State.failByHandle_follows | with_reducible apply State.reserveBlocks_follows
    | with_reducible apply State.reserveBlocks_after (e := by assumption)
    | with_reducible apply State.writeTable_follows | with_reducible apply State.sendPlaces_follows
    | with_reducible apply State.sendNow_follows | with_reducible apply State.updTransfer_follows
    | with_reducible apply Follows.foldl | with_reducible apply Follows.foldlSnd | intro _ | with_reducible rfl
    | split | with_reducible apply Follows.ident | with_reducible apply Follows.lit
    | (dsimp only <;> with_reducible rfl) | rfl

theorem State.learnExport_follows {s t : State} (h : Follows s t) (a1 a2) : Follows s (State.learnExport t a1 a2) := by
  unfold State.learnExport
  try dsimp only
  repeat' first
    | with_reducible exact h | with_reducible assumption | with_reducible apply State.failByHandle_follows
    | with_reducible apply State.tryReserve_follows | with_reducible apply State.updTransfer_follows
    | with_reducible apply Follows.foldl | with_reducible apply Follows.foldlSnd | intro _ | with_reducible rfl
    | split

theorem kvImportBody_follows {s t : State} (h : Follows s t) (a1) : Follows s (kvImportBody a1 t) := by
  unfold kvImportBody
  try dsimp only
  repeat' first
    | with_reducible exact h | with_reducible assumption | with_reducible apply State.refuse_follows
    | with_reducible apply State.startOp_follows | with_reducible apply State.updSrv_follows
    | with_reducible apply State.updSeq_follows | with_reducible apply State.failByHandle_follows
    | with_reducible apply State.learnExport_follows | with_reducible apply Follows.foldl
    | with_reducible apply Follows.foldlSnd | intro _ | with_reducible rfl | split

theorem execKvImport_follows {s t : State} (h : Follows s t) (a1) : FollowsNext s (execKvImport a1 t) := by
  unfold execKvImport
  try dsimp only
  apply FollowsNext.next
  repeat' first
    | with_reducible exact h | with_reducible assumption | with_reducible apply State.command_follows
    | with_reducible apply kvImportBody_follows | with_reducible apply Follows.foldl
    | with_reducible apply Follows.foldlSnd | intro _

theorem State.startData_follows {s t : State} (h : Follows s t) (a1 a2 a3) : Follows s (State.startData t a1 a2 a3) := by
  unfold State.startData
  repeat' first
    | with_reducible exact h | with_reducible assumption | with_reducible apply State.updTransfer_follows
    | with_reducible apply State.takeTag_follows | with_reducible apply State.takeTag_after (e := by assumption)
    | with_reducible apply State.peerRequest_follows

theorem State.sendSet_follows {s t : State} (h : Follows s t) (a1 a2) (a3 a4) : Follows s (State.sendSet t a1 a2 a3 a4) := by
  unfold State.sendSet
  repeat' first
    | with_reducible exact h | with_reducible apply State.sendStream_follows
    | with_reducible apply State.updTransfer_follows

theorem State.exportOne_follows {s t : State} (h : Follows s t) (a1) : Follows s (State.exportOne t a1) := by
  unfold State.exportOne
  try dsimp only
  repeat' first
    | with_reducible exact h | with_reducible assumption | with_reducible apply State.startData_follows
    | with_reducible apply State.sendSet_follows | with_reducible apply Follows.foldl
    | with_reducible apply Follows.foldlSnd | intro _ | with_reducible rfl | split

theorem State.exportAll_follows {s t : State} (h : Follows s t) (a) (n : Nat) : Follows s (t.exportAll a n) := by
  induction n generalizing t with
  | zero => exact h
  | succ n ih => exact ih (State.exportOne_follows h _)

theorem State.importBytes_follows {s t : State} (h : Follows s t) (a1 a2) (a3 a4) : Follows s (State.importBytes t a1 a2 a3 a4) := by
  unfold State.importBytes
  try dsimp only
  repeat' first
    | with_reducible exact h | with_reducible assumption | with_reducible apply State.dramUse_follows
    | with_reducible apply State.bumpGen_follows | with_reducible apply State.markRange_follows
    | with_reducible apply State.putBytes_follows | with_reducible apply Follows.foldl
    | with_reducible apply Follows.foldlSnd | intro _ | with_reducible rfl | split
    | with_reducible apply Follows.ident | with_reducible apply Follows.lit | (dsimp only <;> with_reducible rfl)
    | rfl

theorem State.dropTransfer_follows {s t : State} (h : Follows s t) (a1) : Follows s (State.dropTransfer t a1) := by
  unfold State.dropTransfer
  repeat' first
    | with_reducible exact h | with_reducible apply State.updDnb_follows | with_reducible apply State.updSrv_follows

theorem State.finishExport_follows {s t : State} (h : Follows s t) (a1 a2) : Follows s (State.finishExport t a1 a2) := by
  unfold State.finishExport
  try dsimp only
  repeat' first
    | with_reducible exact h | with_reducible assumption | with_reducible apply State.exportAll_follows
    | with_reducible apply State.endStream_follows | with_reducible apply State.failOp_follows
    | with_reducible apply State.updTransfer_follows | with_reducible apply State.endOp_follows
    | with_reducible apply State.dropTransfer_follows | with_reducible apply State.sendNow_follows
    | with_reducible apply Follows.foldl | with_reducible apply Follows.foldlSnd | intro _ | with_reducible rfl
    | split | with_reducible apply Follows.ident | with_reducible apply Follows.lit
    | (dsimp only <;> with_reducible rfl) | rfl

theorem State.finishImport_follows {s t : State} (h : Follows s t) (a1 a2 a3) : Follows s (State.finishImport t a1 a2 a3) := by
  unfold State.finishImport
  try dsimp only
  repeat' first
    | with_reducible exact h | with_reducible assumption | with_reducible apply State.zeroPositions_follows
    | with_reducible apply State.updSeq_follows | with_reducible apply State.endOp_follows
    | with_reducible apply State.dropTransfer_follows | with_reducible apply State.failOp_follows
    | with_reducible apply Follows.foldl | with_reducible apply Follows.foldlSnd | intro _ | with_reducible rfl
    | split

theorem execKvTransferComplete_follows {s t : State} (h : Follows s t) (a1) : FollowsNext s (execKvTransferComplete a1 t) := by
  unfold execKvTransferComplete
  try dsimp only
  apply FollowsNext.next
  repeat' first
    | with_reducible exact h | with_reducible assumption | with_reducible apply State.notDue_follows
    | with_reducible apply State.finishExport_follows | with_reducible apply State.updTransfer_follows | with_reducible apply State.ok_follows
    | with_reducible apply State.finishImport_follows | with_reducible apply Follows.foldl
    | with_reducible apply Follows.foldlSnd | intro _ | with_reducible rfl | split

theorem State.endTogether_follows {s t : State} (h : Follows s t) (a1 a2 a3) : Follows s (State.endTogether t a1 a2 a3) := by
  unfold State.endTogether
  try dsimp only
  repeat' first
    | with_reducible exact h | with_reducible assumption | with_reducible apply State.failByHandle_follows
    | with_reducible apply State.updTransfer_follows | with_reducible apply Follows.foldl
    | with_reducible apply Follows.foldlSnd | intro _

theorem State.kvx_follows {s t : State} (h : Follows s t) (a1 a2) : Follows s (State.kvx t a1 a2) := by
  unfold State.kvx
  try dsimp only
  repeat' first
    | with_reducible exact h | with_reducible apply State.learnExport_follows
    | with_reducible apply State.updSrv_follows | with_reducible apply State.failByHandle_follows
    | with_reducible apply State.updTransfer_follows | with_reducible apply State.endTogether_follows | intro _
    | split

end Sys2Proof.Machine
end

