-- ==== Sys2Proof/Laws/Models.lean ====
section
/-!
SUPPORT. What the operations of Machine/Models.lean do to a legal state.
-/

namespace Sys2Proof.Machine

theorem State.complete_follows {s t : State} (h : Follows s t) (a k l) (body : LongOp → State → State)
    (hb : ∀ o u, Follows s u → Follows s (body o u)) : Follows s (t.complete a k l body) := by
  unfold State.complete
  repeat' split
  all_goals first
    | exact State.notDue_follows h
    | exact hb _ _ (State.ok_follows h)
    | exact State.waits_follows h

theorem State.rekey_follows {s t : State} (h : Follows s t) : Follows s t.rekey := by
  unfold State.rekey
  split
  · exact h
  · dsimp only
    refine State.count_follows (State.reapply_follows (State.updEci_follows (State.updDram_follows
      (State.draw_follows (State.giveBack_follows ?_)) _) _ rfl) _) _
    exact h.memory (fun k => by dsimp only; exact Memory.wf_drop k _) rfl rfl rfl rfl rfl

theorem modelLoadBody_follows {s t : State} (h : Follows s t) (a1) : Follows s (modelLoadBody a1 t) := by
  unfold modelLoadBody
  try dsimp only
  repeat' first
    | with_reducible exact h | with_reducible apply State.waits_follows | with_reducible apply State.refuse_follows
    | with_reducible apply State.startOp_follows | with_reducible apply State.rekey_follows | intro _ | split

theorem execModelLoad_follows {s t : State} (h : Follows s t) (a1) : FollowsNext s (execModelLoad a1 t) := by
  unfold execModelLoad
  try dsimp only
  apply FollowsNext.next
  repeat' first
    | with_reducible exact h | with_reducible assumption | with_reducible apply State.command_follows
    | with_reducible apply modelLoadBody_follows | with_reducible apply Follows.foldl
    | with_reducible apply Follows.foldlSnd | intro _

theorem State.formGroups_follows {s t : State} (h : Follows s t) (a1 a2) : Follows s (State.formGroups t a1 a2).2 := by
  unfold State.formGroups
  try dsimp only
  repeat' first
    | with_reducible exact h | with_reducible assumption | with_reducible apply State.updSrv_follows
    | with_reducible apply Follows.foldl | with_reducible apply Follows.foldlSnd | intro _ | with_reducible rfl
    | split

theorem State.formGroups_after {s t u : State} {x} {a1} {a2} (e : (State.formGroups t a1 a2) = (x, u)) (h : Follows s t) : Follows s u := by
  have k := State.formGroups_follows h a1 a2
  rwa [e] at k

theorem State.takeWished_follows {s t : State} (h : Follows s t) (w) : Follows s (t.takeWished w).2 := by
  unfold State.takeWished
  split
  · rename_i e
    cases w with
    | none => cases e
    | some p => exact State.takeAtOnce_after (Option.some.inj e) h
  · exact State.takeAtOnce_follows h _

theorem State.takeWished_after {s t u : State} {x w} (e : t.takeWished w = (x, u)) (h : Follows s t) : Follows s u := by
  have k := State.takeWished_follows h w
  rwa [e] at k

theorem State.takePinned_follows {s t : State} (h : Follows s t) (a1 a2) (l) : Follows s (t.takePinned a1 a2 l).2 := by
  induction l generalizing t with
  | nil => exact h
  | cons w l ih =>
    unfold State.takePinned
    split
    · exact h
    · rename_i e
      extract_lets s2 s3
      have h2 : Follows s s2 := State.clear_follows (State.addFrame_follows (State.takeWished_after e h) _) _ _
      have h3 : Follows s s3 := h2.same rfl rfl rfl rfl rfl rfl
      clear_value s3
      split
      all_goals
        rename_i g
        have k := ih h3
        rw [g] at k
        exact k

theorem State.takePinned_after {s t u : State} {x} {a1 a2 l} (e : State.takePinned t a1 a2 l = (x, u)) (h : Follows s t) : Follows s u := by
  have k := State.takePinned_follows h a1 a2 l
  rwa [e] at k

theorem State.pinSlots_follows {s t : State} (h : Follows s t) (a1 a2) (a3 a4) : Follows s (State.pinSlots t a1 a2 a3 a4) := by
  unfold State.pinSlots
  repeat' first
    | with_reducible exact h | with_reducible apply State.updSq_follows

theorem State.placeResident_follows {s t : State} (h : Follows s t) (a1 a2) : Follows s (State.placeResident t a1 a2) := by
  unfold State.placeResident
  try dsimp only
  repeat' first
    | with_reducible exact h | with_reducible assumption | with_reducible apply State.markRange_follows
    | with_reducible apply State.copy_follows | with_reducible apply State.pinSlots_follows
    | with_reducible apply Follows.foldl | with_reducible apply Follows.foldlSnd | intro _ | with_reducible rfl
    | split

theorem State.fillCopies_follows {s t : State} (h : Follows s t) (a1) : Follows s (State.fillCopies t a1) := by
  unfold State.fillCopies
  try dsimp only
  repeat' first
    | with_reducible exact h | with_reducible assumption | with_reducible apply State.putByte_follows
    | with_reducible apply Follows.foldl | with_reducible apply Follows.foldlSnd | intro _ | with_reducible rfl
    | split

theorem State.placeModel_follows {s t : State} (h : Follows s t) (a1 a2) (a3 a4 a5) : Follows s (State.placeModel t a1 a2 a3 a4 a5) := by
  unfold State.placeModel
  try dsimp only
  repeat' first
    | with_reducible exact h | with_reducible assumption | with_reducible apply State.formGroups_follows
    | with_reducible apply State.formGroups_after (e := by assumption) | with_reducible apply State.fillCopies_follows
    | with_reducible apply State.updSrv_follows | with_reducible apply State.placeResident_follows
    | with_reducible apply State.setDev_follows | with_reducible apply State.endOp_follows
    | with_reducible apply Follows.foldl | with_reducible apply Follows.foldlSnd | intro _ | with_reducible rfl
    | split

theorem State.loadModel_follows {s t : State} (h : Follows s t) (o mf img) : Follows s (t.loadModel o mf img) := by
  unfold State.loadModel
  split
  · repeat' split
    all_goals exact State.failOp_follows h _ _ _ _
  · split
    · exact State.failOp_follows h _ _ _ _
    · split
      · rename_i e
        exact State.failOp_follows (State.updTiers_follows (State.takePinned_after e h) _ rfl) _ _ _ _
      · rename_i e
        exact State.placeModel_follows (State.takePinned_after e h) _ _ _ _ _

theorem State.finishLoad_follows {s t : State} (h : Follows s t) (a1) : Follows s (State.finishLoad t a1) := by
  unfold State.finishLoad
  try dsimp only
  repeat' first
    | with_reducible exact h | with_reducible assumption | with_reducible apply State.failOp_follows
    | with_reducible apply State.loadModel_follows | with_reducible apply Follows.foldl
    | with_reducible apply Follows.foldlSnd | intro _ | with_reducible rfl | split

theorem execModelLoadComplete_follows {s t : State} (h : Follows s t) (a1) : FollowsNext s (execModelLoadComplete a1 t) := by
  unfold execModelLoadComplete
  try dsimp only
  apply FollowsNext.next
  repeat' first
    | with_reducible exact h | with_reducible assumption | with_reducible apply State.complete_follows
    | with_reducible apply State.finishLoad_follows | with_reducible apply Follows.foldl
    | with_reducible apply Follows.foldlSnd | intro _

theorem modelInstallBody_follows {s t : State} (h : Follows s t) (a1) : Follows s (modelInstallBody a1 t) := by
  unfold modelInstallBody
  try dsimp only
  repeat' first
    | with_reducible exact h | with_reducible assumption | with_reducible apply State.waits_follows
    | with_reducible apply State.startOp_follows | with_reducible apply State.updTiers_follows
    | with_reducible apply Follows.foldl | intro _ | split | with_reducible apply Follows.lit
    | (dsimp only <;> with_reducible rfl)

theorem execModelInstall_follows {s t : State} (h : Follows s t) (a1) : FollowsNext s (execModelInstall a1 t) := by
  unfold execModelInstall
  try dsimp only
  apply FollowsNext.next
  repeat' first
    | with_reducible exact h | with_reducible assumption | with_reducible apply State.command_follows
    | with_reducible apply modelInstallBody_follows | with_reducible apply Follows.foldl
    | with_reducible apply Follows.foldlSnd | intro _

theorem State.installObjects_follows {s t : State} (h : Follows s t) (a b) (l : List (WObject × Nat)) :
    Follows s (t.installObjects a b l).1 := by
  induction l generalizing t a b with
  | nil => exact h
  | cons x l ih => exact ih (State.writeFlash_follows h _ _ _) _ _

theorem State.installObjects_after {s t u : State} {x} {a b l} (e : State.installObjects t a b l = (u, x)) (h : Follows s t) : Follows s u := by
  have k := State.installObjects_follows h a b l
  rwa [e] at k

theorem State.finishInstall_follows {s t : State} (h : Follows s t) (a1) : Follows s (State.finishInstall t a1) := by
  unfold State.finishInstall
  try dsimp only
  repeat' first
    | with_reducible exact h | with_reducible assumption | with_reducible apply State.failOp_follows
    | with_reducible apply State.installObjects_follows
    | with_reducible apply State.installObjects_after (e := by assumption)
    | with_reducible apply State.updTiers_follows | with_reducible apply State.updModel_follows
    | with_reducible apply State.renewObject_follows | with_reducible apply State.nowInstalled_follows
    | with_reducible apply State.endOp_follows | with_reducible apply Follows.foldl
    | with_reducible apply Follows.foldlSnd | intro _ | split | with_reducible apply Follows.lit
    | (dsimp only <;> with_reducible rfl)

theorem execModelInstallComplete_follows {s t : State} (h : Follows s t) (a1) : FollowsNext s (execModelInstallComplete a1 t) := by
  unfold execModelInstallComplete
  try dsimp only
  apply FollowsNext.next
  repeat' first
    | with_reducible exact h | with_reducible assumption | with_reducible apply State.complete_follows
    | with_reducible apply State.finishInstall_follows | with_reducible apply Follows.foldl
    | with_reducible apply Follows.foldlSnd | intro _

theorem execInstallSwitch_follows {s t : State} (h : Follows s t) (a1) : FollowsNext s (execInstallSwitch a1 t) := by
  unfold execInstallSwitch
  try dsimp only
  apply FollowsNext.next
  repeat' first
    | with_reducible exact h | with_reducible assumption | with_reducible apply State.notDue_follows
    | with_reducible apply State.switchCopies_follows | with_reducible apply State.ok_follows
    | with_reducible apply Follows.foldl | with_reducible apply Follows.foldlSnd | intro _ | with_reducible rfl
    | split | with_reducible apply Follows.ident | with_reducible apply Follows.lit
    | (dsimp only <;> with_reducible rfl) | rfl

theorem modelEvictBody_follows {s t : State} (h : Follows s t) (a1) : Follows s (modelEvictBody a1 t) := by
  unfold modelEvictBody
  try dsimp only
  repeat' first
    | with_reducible exact h | with_reducible apply State.refuse_follows | with_reducible apply State.settle_follows
    | with_reducible apply State.done_follows | with_reducible apply State.evictModel_follows | split

theorem execModelEvict_follows {s t : State} (h : Follows s t) (a1) : FollowsNext s (execModelEvict a1 t) := by
  unfold execModelEvict
  try dsimp only
  apply FollowsNext.next
  repeat' first
    | with_reducible exact h | with_reducible assumption | with_reducible apply State.command_follows
    | with_reducible apply modelEvictBody_follows | with_reducible apply Follows.foldl
    | with_reducible apply Follows.foldlSnd | intro _

end Sys2Proof.Machine
end

