-- ==== Sys2Proof/Laws/LongOps.lean ====
section
/-!
SUPPORT. What the operations of Machine/LongOps.lean do to a legal state.
-/

namespace Sys2Proof.Machine

theorem State.scrubPart_follows {s t : State} (h : Follows s t) (a1 a2) : Follows s (State.scrubPart t a1 a2) := by
  unfold State.scrubPart
  try dsimp only
  repeat' first
    | with_reducible exact h | with_reducible assumption | with_reducible apply State.scanBlock_follows
    | with_reducible apply State.count_follows | with_reducible apply State.dramUse_follows
    | with_reducible apply Follows.foldl | with_reducible apply Follows.foldlSnd | intro _ | with_reducible rfl
    | split | with_reducible apply Follows.ident | with_reducible apply Follows.lit
    | (dsimp only <;> with_reducible rfl) | rfl

theorem State.opWork_follows {s t : State} (h : Follows s t) (a1) : Follows s (State.opWork t a1) := by
  unfold State.opWork
  try dsimp only
  repeat' first
    | with_reducible exact h | with_reducible assumption | with_reducible apply State.exportOne_follows
    | with_reducible apply State.tryReserve_follows | with_reducible apply State.updTiers_follows
    | with_reducible apply State.scrubPart_follows | with_reducible apply Follows.foldl
    | with_reducible apply Follows.foldlSnd | intro _ | with_reducible rfl | split
    | with_reducible apply Follows.ident | with_reducible apply Follows.lit | (dsimp only <;> with_reducible rfl)
    | rfl

theorem State.suspendOp_follows {s t : State} (h : Follows s t) (a1) : Follows s (State.suspendOp t a1) := by
  unfold State.suspendOp
  try dsimp only
  repeat' first
    | with_reducible exact h | with_reducible assumption | with_reducible apply State.tellHeld_follows
    | with_reducible apply State.updOp_follows | with_reducible apply State.tryDrain_follows
    | with_reducible apply State.finish_follows | with_reducible apply Follows.foldl
    | with_reducible apply Follows.foldlSnd | intro _ | with_reducible rfl | split
    | with_reducible apply Follows.ident | with_reducible apply Follows.lit | (dsimp only <;> with_reducible rfl)
    | rfl

theorem execLongOpSafePoint_follows {s t : State} (h : Follows s t) (a1) : FollowsNext s (execLongOpSafePoint a1 t) := by
  unfold execLongOpSafePoint
  try dsimp only
  apply FollowsNext.next
  repeat' first
    | with_reducible exact h | with_reducible apply State.notDue_follows | with_reducible apply State.updOp_follows
    | with_reducible apply State.opWork_follows | with_reducible apply State.ok_follows
    | with_reducible apply State.failOp_follows | with_reducible apply State.suspendOp_follows | intro _ | split

theorem scrubBody_follows {s t : State} (h : Follows s t) (a1) : Follows s (scrubBody a1 t) := by
  unfold scrubBody
  try dsimp only
  repeat' first
    | with_reducible exact h | with_reducible assumption | with_reducible apply State.startOp_follows
    | with_reducible apply Follows.foldl | with_reducible apply Follows.foldlSnd | intro _

theorem execScrub_follows {s t : State} (h : Follows s t) (a1) : FollowsNext s (execScrub a1 t) := by
  unfold execScrub
  try dsimp only
  apply FollowsNext.next
  repeat' first
    | with_reducible exact h | with_reducible assumption | with_reducible apply State.command_follows
    | with_reducible apply scrubBody_follows | with_reducible apply Follows.foldl
    | with_reducible apply Follows.foldlSnd | intro _

theorem execScrubComplete_follows {s t : State} (h : Follows s t) (a1) : FollowsNext s (execScrubComplete a1 t) := by
  unfold execScrubComplete
  try dsimp only
  apply FollowsNext.next
  repeat' first
    | with_reducible exact h | with_reducible assumption | with_reducible apply State.complete_follows
    | with_reducible apply State.scrubPart_follows | with_reducible apply State.endOp_follows
    | with_reducible apply Follows.foldl | with_reducible apply Follows.foldlSnd | intro _ | with_reducible rfl
    | split | with_reducible apply Follows.ident | with_reducible apply Follows.lit
    | (dsimp only <;> with_reducible rfl) | rfl

theorem fwStageBody_follows {s t : State} (h : Follows s t) (a1) : Follows s (fwStageBody a1 t) := by
  unfold fwStageBody
  try dsimp only
  repeat' first
    | with_reducible exact h | with_reducible assumption | with_reducible apply State.startOp_follows
    | with_reducible apply State.updBoot_follows | with_reducible apply Follows.foldl
    | with_reducible apply Follows.foldlSnd | intro _ | with_reducible rfl

theorem execFwStage_follows {s t : State} (h : Follows s t) (a1) : FollowsNext s (execFwStage a1 t) := by
  unfold execFwStage
  try dsimp only
  apply FollowsNext.next
  repeat' first
    | with_reducible exact h | with_reducible assumption | with_reducible apply State.command_follows
    | with_reducible apply fwStageBody_follows | with_reducible apply Follows.foldl
    | with_reducible apply Follows.foldlSnd | intro _

theorem State.finishStage_follows {s t : State} (h : Follows s t) (a1) : Follows s (State.finishStage t a1) := by
  unfold State.finishStage
  try dsimp only
  repeat' first
    | with_reducible exact h | with_reducible assumption | with_reducible apply State.updBoot_follows
    | with_reducible apply State.failOp_follows | with_reducible apply State.endOp_follows
    | with_reducible apply Follows.foldl | with_reducible apply Follows.foldlSnd | intro _ | with_reducible rfl
    | split

theorem execFwStageComplete_follows {s t : State} (h : Follows s t) (a1) : FollowsNext s (execFwStageComplete a1 t) := by
  unfold execFwStageComplete
  try dsimp only
  apply FollowsNext.next
  repeat' first
    | with_reducible exact h | with_reducible assumption | with_reducible apply State.complete_follows
    | with_reducible apply State.finishStage_follows | with_reducible apply Follows.foldl
    | with_reducible apply Follows.foldlSnd | intro _

theorem State.writeLifetime_follows {s t : State} (h : Follows s t) : Follows s (State.writeLifetime t) := by
  unfold State.writeLifetime
  repeat' first
    | with_reducible exact h | with_reducible apply State.updLogs_follows

theorem fwCommitBody_follows {s t : State} (h : Follows s t) (a1) : Follows s (fwCommitBody a1 t) := by
  unfold fwCommitBody
  try dsimp only
  repeat' first
    | with_reducible exact h | with_reducible apply State.refuse_follows | with_reducible apply State.endCmd_follows
    | with_reducible apply State.writeLifetime_follows | with_reducible apply State.updBoot_follows
    | with_reducible apply State.tryDrain_follows | with_reducible apply State.updEci_follows
    | with_reducible apply State.begin_follows | with_reducible apply State.done_follows
    | with_reducible apply State.setDev_follows | with_reducible apply State.failAll_follows | intro _ | split
    | with_reducible apply Follows.lit | (dsimp only <;> with_reducible rfl)

theorem execFwCommit_follows {s t : State} (h : Follows s t) (a1) : FollowsNext s (execFwCommit a1 t) := by
  unfold execFwCommit
  try dsimp only
  apply FollowsNext.next
  repeat' first
    | with_reducible exact h | with_reducible assumption | with_reducible apply State.command_follows
    | with_reducible apply fwCommitBody_follows | with_reducible apply Follows.foldl
    | with_reducible apply Follows.foldlSnd | intro _

end Sys2Proof.Machine
end

