-- ==== Sys2Proof/Laws/Cache.lean ====
section
/-!
SUPPORT. What the operations of Machine/Cache.lean do to a legal state.
-/

namespace Sys2Proof.Machine

theorem State.writeBack_follows {s t : State} (h : Follows s t) (a1) : Follows s (State.writeBack t a1) := by
  unfold State.writeBack
  try dsimp only
  repeat' first
    | with_reducible exact h | with_reducible assumption | with_reducible apply State.hostWrite_follows
    | with_reducible apply State.dramUse_follows | with_reducible apply State.store_follows
    | with_reducible apply Follows.foldl | with_reducible apply Follows.foldlSnd | intro _ | with_reducible rfl
    | split

theorem State.evictL2_follows {s t : State} (h : Follows s t) (a1 a2) : Follows s (State.evictL2 t a1 a2) := by
  unfold State.evictL2
  try dsimp only
  repeat' first
    | with_reducible exact h | with_reducible assumption | with_reducible apply State.updCore_follows
    | with_reducible apply State.writeBack_follows | with_reducible apply Follows.foldl
    | with_reducible apply Follows.foldlSnd | intro _ | with_reducible rfl | split

theorem State.fillCore_follows {s t : State} (h : Follows s t) (a1 a2) : Follows s (State.fillCore t a1 a2) := by
  unfold State.fillCore
  repeat' first
    | with_reducible exact h | with_reducible apply State.updCore_follows | with_reducible apply State.evictL2_follows

theorem State.fillHost_follows {s t : State} (h : Follows s t) (a1 a2) : Follows s (State.fillHost t a1 a2) := by
  unfold State.fillHost
  repeat' first
    | with_reducible exact h | with_reducible apply State.fillCore_follows

theorem State.drainOne_some {s t : State} (h : Follows s t) (c) (peer : State → BufStore → State)
    (hp : ∀ v b, Follows s v → Follows s (peer v b)) : FollowsSome s (t.drainOne c peer) := by
  unfold State.drainOne
  split
  · exact FollowsSome.none _
  · rename_i b rest _
    extract_lets line s1 s2
    have h1 : Follows s s1 := State.updCore_follows h _ _
    split
    · skip
      have h2 : Follows s s2 := by
        show Follows s (if _ then _ else _)
        split
        · exact State.fillHost_follows h1 _ _
        · exact h1
      split
      · exact FollowsSome.some (State.updCore_follows h2 _ _)
      · exact FollowsSome.none _
    · split
      · exact FollowsSome.some (hp _ _ h1)
      · split
        · exact FollowsSome.some (State.hostWrite_follows h1 _ _ _ _ _)
        · exact FollowsSome.some (State.dramUse_follows (State.store_follows h1 _ _ _) _ _ _ _)

theorem State.drainOne_follows {s t u : State} {c} {peer : State → BufStore → State} (e : t.drainOne c peer = some u)
    (h : Follows s t) (hp : ∀ v b, Follows s v → Follows s (peer v b)) : Follows s u :=
  State.drainOne_some h c peer hp u e

theorem State.drainStores_follows {s t : State} (h : Follows s t) (c) (peer : State → BufStore → State) (keep) (n : Nat)
    (hp : ∀ u b, Follows s u → Follows s (peer u b)) : Follows s (State.drainStores t c peer keep n) := by
  induction n generalizing t with
  | zero => exact h
  | succ n ih =>
    unfold State.drainStores
    split
    · exact h
    · split
      · rename_i e
        exact ih (State.drainOne_follows e h hp)
      · exact h

end Sys2Proof.Machine
end

