-- ==== Sys2Proof/Laws/HostLoss.lean ====
section
/-!
SUPPORT. What the operations of Machine/HostLoss.lean do to a legal state.
-/

namespace Sys2Proof.Machine

theorem State.failTask_follows {s t : State} (h : Follows s t) (a1 a2 a3) : Follows s (State.failTask t a1 a2 a3) := by
  unfold State.failTask
  repeat' first
    | with_reducible exact h | with_reducible apply State.updSq_follows

theorem State.endTaskNow_follows {s t : State} (h : Follows s t) (a1 a2 a3) : Follows s (State.endTaskNow t a1 a2 a3) := by
  unfold State.endTaskNow
  try dsimp only
  repeat' first
    | with_reducible exact h | with_reducible assumption | with_reducible apply State.failTasks_follows
    | with_reducible apply State.updSq_follows | with_reducible apply Follows.foldl
    | with_reducible apply Follows.foldlSnd | intro _ | with_reducible rfl | split
    | with_reducible apply Follows.ident | with_reducible apply Follows.lit | (dsimp only <;> with_reducible rfl)
    | rfl

theorem State.putPost_follows {s t : State} (h : Follows s t) (a1) : Follows s (State.putPost t a1) := by
  unfold State.putPost
  try dsimp only
  repeat' first
    | with_reducible exact h | with_reducible assumption | with_reducible apply State.cqPut_follows
    | with_reducible apply State.updRun_follows | with_reducible apply Follows.foldl
    | with_reducible apply Follows.foldlSnd | intro _ | with_reducible rfl | split
    | with_reducible apply Follows.ident | with_reducible apply Follows.lit | (dsimp only <;> with_reducible rfl)
    | rfl

theorem State.postsToShadow_follows {s t : State} (h : Follows s t) (a1) : Follows s (State.postsToShadow t a1) := by
  unfold State.postsToShadow
  try dsimp only
  repeat' first
    | with_reducible exact h | with_reducible assumption | with_reducible apply State.updEci_follows
    | with_reducible apply State.putPost_follows | with_reducible apply Follows.foldl
    | with_reducible apply Follows.foldlSnd | intro _ | with_reducible rfl | split
    | with_reducible apply Follows.ident | with_reducible apply Follows.lit | (dsimp only <;> with_reducible rfl)
    | rfl

theorem State.loseHost_follows {s t : State} (h : Follows s t) (a1 a2) (a3 a4) : Follows s (State.loseHost t a1 a2 a3 a4) := by
  unfold State.loseHost
  try dsimp only
  repeat' first
    | with_reducible exact h | with_reducible assumption | with_reducible apply State.updCxl_follows
    | with_reducible apply State.failTask_follows | with_reducible apply State.updEci_follows
    | with_reducible apply State.postsToShadow_follows | with_reducible apply State.tryDetach_follows
    | with_reducible apply State.event_follows | with_reducible apply State.count_follows
    | with_reducible apply Follows.foldl | with_reducible apply Follows.foldlSnd | intro _ | with_reducible rfl
    | split

theorem State.portLoss_follows {s t : State} (h : Follows s t) (a1) : Follows s (State.portLoss t a1) := by
  unfold State.portLoss
  repeat' first
    | with_reducible exact h | with_reducible apply State.loseHost_follows

theorem execSessionBeatLapse_follows {s t : State} (h : Follows s t) (a1) : FollowsNext s (execSessionBeatLapse a1 t) := by
  unfold execSessionBeatLapse
  try dsimp only
  apply FollowsNext.next
  repeat' first
    | with_reducible exact h | with_reducible assumption | with_reducible apply State.notDue_follows
    | with_reducible apply State.loseHost_follows | with_reducible apply State.ok_follows
    | with_reducible apply Follows.foldl | with_reducible apply Follows.foldlSnd | intro _ | with_reducible rfl
    | split

theorem execHostPushComplete_follows {s t : State} (h : Follows s t) (a1) : FollowsNext s (execHostPushComplete a1 t) := by
  unfold execHostPushComplete
  try dsimp only
  apply FollowsNext.next
  repeat' first
    | with_reducible exact h | with_reducible assumption | with_reducible apply State.notDue_follows
    | with_reducible apply State.waits_follows | with_reducible apply State.tryDetach_follows
    | with_reducible apply State.putPost_follows | with_reducible apply State.updEci_follows
    | with_reducible apply State.drainEgress_follows | with_reducible apply State.ok_follows
    | with_reducible apply Follows.foldl | with_reducible apply Follows.foldlSnd | intro _ | with_reducible rfl
    | split | with_reducible apply Follows.ident | with_reducible apply Follows.lit
    | (dsimp only <;> with_reducible rfl) | rfl

end Sys2Proof.Machine
end

