-- ==== Sys2Proof/Laws/Reset.lean ====
section
/-!
SUPPORT. What the operations of Machine/Reset.lean do to a legal state.
-/

namespace Sys2Proof.Machine

theorem pageRetireBody_follows {s t : State} (h : Follows s t) (a1) : Follows s (pageRetireBody a1 t) := by
  unfold pageRetireBody
  try dsimp only
  repeat' first
    | with_reducible exact h | with_reducible assumption | with_reducible apply State.refuse_follows
    | with_reducible apply State.done_follows | with_reducible apply State.retirePage_follows (e := by assumption)
    | with_reducible apply State.endCmd_follows | with_reducible apply State.updLogs_follows | intro _ | split

theorem execPageRetire_follows {s t : State} (h : Follows s t) (a1) : FollowsNext s (execPageRetire a1 t) := by
  unfold execPageRetire
  try dsimp only
  apply FollowsNext.next
  repeat' first
    | with_reducible exact h | with_reducible assumption | with_reducible apply State.command_follows
    | with_reducible apply pageRetireBody_follows | with_reducible apply Follows.foldl
    | with_reducible apply Follows.foldlSnd | intro _

theorem LegalSettings.afterReset {x y : Settings} (l : LegalSettings x) (h1 : y.cap = x.cap) (h2 : y.capWanted = x.capWanted)
    (h3 : y.mode = 0) (h4 : y.modeDue = none) (h5 : y.devTimeout = 0x64) (h6 : y.longOps = 0) : LegalSettings y :=
  ⟨h1 ▸ l.cap, h2 ▸ l.capWanted, by simp [h3], fun v e => by simp [h4] at e, by simp [h5], by simp [h6]⟩

theorem State.warmReset_follows {s t : State} (h : Follows s t) : Follows s t.warmReset := by
  unfold State.warmReset
  extract_lets z pairOf u eci
  have k : Follows s u := State.postsToShadow_follows (State.updEci_follows h _ rfl) _
  clear_value u
  exact ⟨k.queue, k.clock, k.fuses, fun l =>
    ⟨Memory.wf_filter (k.legal l).mem _, (k.legal l).flash, (k.legal l).settings.afterReset rfl rfl rfl rfl rfl rfl⟩⟩

theorem LegalSettings.initial : LegalSettings State.reset.settings :=
  ⟨⟨by decide, by decide⟩, fun _ e => by simp [State.settings, State.reset] at e, by decide,
    fun _ e => by simp [State.settings, State.reset] at e, by decide, by decide⟩

theorem State.coldReset_settings (t : State) : t.coldReset.settings = State.reset.settings := rfl

theorem State.coldReset_follows {s t : State} (h : Follows s t) : Follows s t.coldReset := by
  have k : Follows s t.warmReset := State.warmReset_follows h
  refine ⟨k.queue, k.clock, h.fuses, fun l => ⟨Memory.wf_filter (h.legal l).mem _, (k.legal l).flash, ?_⟩⟩
  rw [State.coldReset_settings]
  exact LegalSettings.initial

theorem State.countLostStores_follows {s t : State} (h : Follows s t) : Follows s (State.countLostStores t) := by
  unfold State.countLostStores
  repeat' first
    | with_reducible exact h | with_reducible apply State.lifeAdd_follows

theorem State.powerLoss_follows {s t : State} (h : Follows s t) (a1) : Follows s (State.powerLoss t a1) := by
  unfold State.powerLoss
  try dsimp only
  repeat' first
    | with_reducible exact h | with_reducible assumption | with_reducible apply State.writeLifetime_follows
    | with_reducible apply State.countLostStores_follows | with_reducible apply State.updEci_follows
    | with_reducible apply State.coldReset_follows | with_reducible apply Follows.foldl
    | with_reducible apply Follows.foldlSnd | intro _ | with_reducible rfl | split

theorem State.startBoot_follows {s t : State} (h : Follows s t) (a1) : Follows s (State.startBoot t a1) := by
  unfold State.startBoot
  try dsimp only
  repeat' first
    | with_reducible exact h | with_reducible assumption | with_reducible apply State.updBoot_follows
    | with_reducible apply State.lifeAdd_follows | with_reducible apply State.setDev_follows
    | with_reducible apply Follows.foldl | with_reducible apply Follows.foldlSnd | intro _ | with_reducible rfl
    | split

theorem State.warmBoot_follows {s t : State} (h : Follows s t) : Follows s (State.warmBoot t) := by
  unfold State.warmBoot
  repeat' first
    | with_reducible exact h | with_reducible apply State.startBoot_follows
    | with_reducible apply State.warmReset_follows

theorem State.failEverything_follows {s t : State} (h : Follows s t) (a1) : Follows s (State.failEverything t a1) := by
  unfold State.failEverything
  try dsimp only
  repeat' first
    | with_reducible exact h | with_reducible assumption | with_reducible apply State.finish_follows
    | with_reducible apply State.updEci_follows | with_reducible apply State.tryDetach_follows
    | with_reducible apply State.failOps_follows | with_reducible apply State.failAll_follows
    | with_reducible apply Follows.foldl | with_reducible apply Follows.foldlSnd | intro _ | with_reducible rfl
    | split

theorem State.resetEngine_follows {s t : State} (h : Follows s t) (a1 a2) : Follows s (State.resetEngine t a1 a2) := by
  unfold State.resetEngine
  try dsimp only
  repeat' first
    | with_reducible exact h | with_reducible assumption | with_reducible apply State.endTaskNow_follows
    | with_reducible apply State.undefine_follows | with_reducible apply State.updEng_follows
    | with_reducible apply Follows.foldl | with_reducible apply Follows.foldlSnd | intro _

theorem State.reloadSquall_follows {s t : State} (h : Follows s t) (a1) : Follows s (State.reloadSquall t a1) := by
  unfold State.reloadSquall
  try dsimp only
  repeat' first
    | with_reducible exact h | with_reducible assumption | with_reducible apply State.reload_follows
    | with_reducible apply Follows.foldl | with_reducible apply Follows.foldlSnd | intro _

theorem State.resetSquall_follows {s t : State} (h : Follows s t) (a1) : Follows s (State.resetSquall t a1) := by
  unfold State.resetSquall
  repeat' first
    | with_reducible exact h | with_reducible apply State.failTasksOn_follows
    | with_reducible apply State.undefine_follows | with_reducible apply State.reloadSquall_follows
    | with_reducible apply State.updSq_follows

theorem State.dropCommits_follows {s t : State} (h : Follows s t) (a1 a2) : Follows s (State.dropCommits t a1 a2) := by
  unfold State.dropCommits
  try dsimp only
  repeat' first
    | with_reducible exact h | with_reducible assumption | with_reducible apply State.updModel_follows
    | with_reducible apply State.trimCommit_follows | with_reducible apply State.updRun_follows
    | with_reducible apply Follows.foldl | with_reducible apply Follows.foldlSnd | intro _ | with_reducible rfl
    | split | with_reducible apply Follows.ident | with_reducible apply Follows.lit
    | (dsimp only <;> with_reducible rfl) | rfl

theorem State.dropQueue_follows {s t : State} (h : Follows s t) (a1) : Follows s (State.dropQueue t a1) := by
  unfold State.dropQueue
  repeat' first
    | with_reducible exact h | with_reducible apply State.updDram_follows

theorem State.resetFront_follows {s t : State} (h : Follows s t) (a1) : Follows s (State.resetFront t a1) := by
  unfold State.resetFront
  try dsimp only
  repeat' first
    | with_reducible exact h | with_reducible assumption | with_reducible apply State.dropCommits_follows
    | with_reducible apply State.resetSquall_follows | with_reducible apply State.dropQueue_follows
    | with_reducible apply State.updFront_follows | with_reducible apply State.undefine_follows
    | with_reducible apply Follows.foldl | with_reducible apply Follows.foldlSnd | intro _

theorem State.writeBackCore_follows {s t : State} (h : Follows s t) (a1) : Follows s (State.writeBackCore t a1) := by
  unfold State.writeBackCore
  try dsimp only
  repeat' first
    | with_reducible exact h | with_reducible assumption | with_reducible apply State.writeBack_follows
    | with_reducible apply State.updCore_follows | with_reducible apply Follows.foldl
    | with_reducible apply Follows.foldlSnd | intro _

theorem State.afterDrain_follows {s t : State} (h : Follows s t) (a1) : Follows s (State.afterDrain t a1) := by
  unfold State.afterDrain
  try dsimp only
  repeat' first
    | with_reducible exact h | with_reducible assumption | with_reducible apply State.updCore_follows
    | with_reducible apply State.writeBackCore_follows | with_reducible apply Follows.foldl
    | with_reducible apply Follows.foldlSnd | intro _ | with_reducible rfl | split

theorem State.failOffload_follows {s t : State} (h : Follows s t) (a1 a2) : Follows s (State.failOffload t a1 a2) := by
  unfold State.failOffload
  try dsimp only
  repeat' first
    | with_reducible exact h | with_reducible assumption | with_reducible apply State.updCore_follows
    | with_reducible apply State.final_follows | with_reducible apply Follows.foldl
    | with_reducible apply Follows.foldlSnd | intro _

theorem State.resetCore_follows {s t : State} (h : Follows s t) (a1 a2) : Follows s (State.resetCore t a1 a2) := by
  unfold State.resetCore
  repeat' first
    | with_reducible exact h | with_reducible apply State.failOffload_follows
    | with_reducible apply State.updCore_follows | with_reducible apply State.lifeAdd_follows
    | with_reducible apply State.afterDrain_follows | intro _ | split

theorem State.resetModule_follows {s t : State} (h : Follows s t) : Follows s (State.resetModule t) := by
  unfold State.resetModule
  try dsimp only
  repeat' first
    | with_reducible exact h | with_reducible assumption | with_reducible apply State.writeLifetime_follows
    | with_reducible apply State.failEverything_follows | with_reducible apply State.updPwr_follows
    | with_reducible apply State.warmBoot_follows | with_reducible apply Follows.foldl
    | with_reducible apply Follows.foldlSnd | intro _ | with_reducible rfl | split

theorem State.resetUnit_follows {s t : State} (h : Follows s t) (a1 a2) : Follows s (State.resetUnit t a1 a2) := by
  unfold State.resetUnit
  repeat' first
    | with_reducible exact h | with_reducible apply State.resetEngine_follows
    | with_reducible apply State.resetSquall_follows | with_reducible apply State.resetFront_follows
    | with_reducible apply State.resetCore_follows | with_reducible apply State.resetModule_follows | split

theorem resetScopeBody_follows {s t : State} (h : Follows s t) (a1) : Follows s (resetScopeBody a1 t) := by
  unfold resetScopeBody
  try dsimp only
  repeat' first
    | with_reducible exact h | with_reducible apply State.refuse_follows | with_reducible apply State.updLogs_follows
    | with_reducible apply State.begin_follows | with_reducible apply State.settle_follows
    | with_reducible apply State.resetUnit_follows | intro _ | split

theorem execResetScope_follows {s t : State} (h : Follows s t) (a1) : FollowsNext s (execResetScope a1 t) := by
  unfold execResetScope
  try dsimp only
  apply FollowsNext.next
  repeat' first
    | with_reducible exact h | with_reducible assumption | with_reducible apply State.command_follows
    | with_reducible apply resetScopeBody_follows | with_reducible apply Follows.foldl
    | with_reducible apply Follows.foldlSnd | intro _

theorem State.endReset_follows {s t : State} (h : Follows s t) (a1 a2) : Follows s (State.endReset t a1 a2) := by
  unfold State.endReset
  try dsimp only
  repeat' first
    | with_reducible exact h | with_reducible assumption | with_reducible apply State.updLogs_follows
    | with_reducible apply State.finish_follows | with_reducible apply Follows.foldl
    | with_reducible apply Follows.foldlSnd | intro _

theorem State.unitBack_follows {s t : State} (h : Follows s t) (a1) : Follows s (State.unitBack t a1) := by
  unfold State.unitBack
  repeat' first
    | with_reducible exact h | with_reducible apply State.updSq_follows | with_reducible apply State.updCore_follows
    | intro _ | split

theorem State.tryHeal_follows {s t : State} (h : Follows s t) : Follows s (State.tryHeal t) := by
  unfold State.tryHeal
  try dsimp only
  repeat' first
    | with_reducible exact h | with_reducible assumption | with_reducible apply State.setDev_follows
    | with_reducible apply Follows.foldl | with_reducible apply Follows.foldlSnd | intro _ | with_reducible rfl
    | split

theorem execSelfTestComplete_follows {s t : State} (h : Follows s t) (a1) : FollowsNext s (execSelfTestComplete a1 t) := by
  unfold execSelfTestComplete
  apply FollowsNext.next
  repeat' first
    | with_reducible exact h | with_reducible assumption | with_reducible apply State.notDue_follows
    | with_reducible apply State.tryHeal_follows | with_reducible apply State.endReset_follows
    | with_reducible apply State.unitBack_follows | with_reducible apply State.ok_follows
    | with_reducible apply State.settle_follows | with_reducible apply State.failUnit_follows
    | with_reducible apply Follows.foldl | intro _ | split

theorem execUnitFailed_follows {s t : State} (h : Follows s t) (a1 a2) : FollowsNext s (execUnitFailed a1 a2 t) := by
  unfold execUnitFailed
  try dsimp only
  apply FollowsNext.next
  repeat' first
    | with_reducible exact h | with_reducible assumption | with_reducible apply State.notDue_follows
    | with_reducible apply State.failOffload_follows | with_reducible apply State.ok_follows
    | with_reducible apply State.settle_follows | with_reducible apply State.failUnit_follows
    | with_reducible apply Follows.foldl | with_reducible apply Follows.foldlSnd | intro _ | with_reducible rfl
    | split

theorem State.fault_follows {s t : State} (h : Follows s t) : Follows s (State.fault t) := by
  unfold State.fault
  repeat' first
    | with_reducible exact h | with_reducible apply State.updCxl_follows | with_reducible apply State.setDev_follows
    | with_reducible apply State.failEverything_follows

theorem execModuleFailed_follows {s t : State} (h : Follows s t) (a1) : FollowsNext s (execModuleFailed a1 t) := by
  unfold execModuleFailed
  try dsimp only
  apply FollowsNext.next
  repeat' first
    | with_reducible exact h | with_reducible assumption | with_reducible apply State.notDue_follows
    | with_reducible apply State.fault_follows | with_reducible apply State.event_follows
    | with_reducible apply State.ok_follows | with_reducible apply Follows.foldl
    | with_reducible apply Follows.foldlSnd | intro _ | with_reducible rfl | split

end Sys2Proof.Machine
end

