-- ==== Sys2Proof/Laws/Boot.lean ====
section
/-!
SUPPORT. What the operations of Machine/Boot.lean do to a legal state.
-/

namespace Sys2Proof.Machine

theorem State.supplyGone_follows {s t : State} (h : Follows s t) (a1) : Follows s (State.supplyGone t a1) := by
  unfold State.supplyGone
  repeat' first
    | with_reducible exact h | with_reducible apply State.updBoot_follows
    | with_reducible apply State.powerLoss_follows | (dsimp only <;> with_reducible rfl)

theorem State.causeInput_follows {s t : State} (h : Follows s t) : Follows s (State.causeInput t) := by
  unfold State.causeInput
  try dsimp only
  repeat' first
    | with_reducible exact h | with_reducible assumption | with_reducible apply State.updEci_follows
    | with_reducible apply Follows.foldl | with_reducible apply Follows.foldlSnd | intro _ | with_reducible rfl
    | split

theorem execInputLoss_follows {s t : State} (h : Follows s t) : FollowsNext s (execInputLoss t) := by
  unfold execInputLoss
  try dsimp only
  apply FollowsNext.next
  repeat' first
    | with_reducible exact h | with_reducible assumption | with_reducible apply State.supplyGone_follows
    | with_reducible apply State.causeInput_follows | with_reducible apply State.ok_follows
    | with_reducible apply State.notDue_follows | with_reducible apply Follows.foldl
    | with_reducible apply Follows.foldlSnd | intro _ | with_reducible rfl | split

theorem execInputLow_follows {s t : State} (h : Follows s t) : FollowsNext s (execInputLow t) := by
  unfold execInputLow
  try dsimp only
  apply FollowsNext.next
  repeat' first
    | with_reducible exact h | with_reducible assumption | with_reducible apply State.updPwr_follows
    | with_reducible apply State.updBoot_follows | with_reducible apply State.ok_follows
    | with_reducible apply State.notDue_follows | with_reducible apply Follows.foldl
    | with_reducible apply Follows.foldlSnd | intro _ | with_reducible rfl | split

theorem execInputOvervoltage_follows {s t : State} (h : Follows s t) : FollowsNext s (execInputOvervoltage t) := by
  unfold execInputOvervoltage
  try dsimp only
  apply FollowsNext.next
  repeat' first
    | with_reducible exact h | with_reducible assumption | with_reducible apply State.supplyGone_follows
    | with_reducible apply State.causeInput_follows | with_reducible apply State.ok_follows
    | with_reducible apply State.notDue_follows | with_reducible apply Follows.foldl
    | with_reducible apply Follows.foldlSnd | intro _ | with_reducible rfl | split

theorem State.supplyBack_follows {s t : State} (h : Follows s t) : Follows s (State.supplyBack t) := by
  unfold State.supplyBack
  repeat' first
    | with_reducible exact h | with_reducible apply State.updPwr_follows | with_reducible apply State.updBoot_follows
    | (dsimp only <;> with_reducible rfl)

theorem execInputRestore_follows {s t : State} (h : Follows s t) : FollowsNext s (execInputRestore t) := by
  unfold execInputRestore
  try dsimp only
  apply FollowsNext.next
  repeat' first
    | with_reducible exact h | with_reducible assumption | with_reducible apply State.supplyBack_follows
    | with_reducible apply State.ok_follows | with_reducible apply State.notDue_follows
    | with_reducible apply Follows.foldl | with_reducible apply Follows.foldlSnd | intro _ | with_reducible rfl
    | split

theorem execPowerUp_follows {s t : State} (h : Follows s t) : FollowsNext s (execPowerUp t) := by
  unfold execPowerUp
  try dsimp only
  apply FollowsNext.next
  repeat' first
    | with_reducible exact h | with_reducible assumption | with_reducible apply State.supplyBack_follows
    | with_reducible apply State.ok_follows | with_reducible apply State.notDue_follows
    | with_reducible apply Follows.foldl | with_reducible apply Follows.foldlSnd | intro _ | with_reducible rfl
    | split

theorem execInputInRange_follows {s t : State} (h : Follows s t) : FollowsNext s (execInputInRange t) := by
  unfold execInputInRange
  try dsimp only
  apply FollowsNext.next
  repeat' first
    | with_reducible exact h | with_reducible assumption | with_reducible apply State.updPwr_follows
    | with_reducible apply State.updBoot_follows | with_reducible apply State.ok_follows
    | with_reducible apply State.notDue_follows | with_reducible apply Follows.foldl
    | with_reducible apply Follows.foldlSnd | intro _ | with_reducible rfl | split

theorem State.resetN_follows {s t : State} (h : Follows s t) : Follows s (State.resetN t) := by
  unfold State.resetN
  try dsimp only
  repeat' first
    | with_reducible exact h | with_reducible assumption | with_reducible apply State.powerLoss_follows
    | with_reducible apply State.updBoot_follows | with_reducible apply Follows.foldl
    | with_reducible apply Follows.foldlSnd | intro _ | with_reducible rfl | split

theorem execResetNAssert_follows {s t : State} (h : Follows s t) (a1) : FollowsNext s (execResetNAssert a1 t) := by
  unfold execResetNAssert
  try dsimp only
  apply FollowsNext.next
  repeat' first
    | with_reducible exact h | with_reducible assumption | with_reducible apply State.notDue_follows
    | with_reducible apply State.resetN_follows | with_reducible apply State.ok_follows
    | with_reducible apply State.draw_follows | with_reducible apply Follows.foldl
    | with_reducible apply Follows.foldlSnd | intro _ | with_reducible rfl | split

theorem execResetNDeassert_follows {s t : State} (h : Follows s t) (a1 a2) : FollowsNext s (execResetNDeassert a1 a2 t) := by
  unfold execResetNDeassert
  try dsimp only
  apply FollowsNext.next
  repeat' first
    | with_reducible exact h | with_reducible assumption | with_reducible apply State.notDue_follows
    | with_reducible apply State.updBoot_follows | with_reducible apply State.ok_follows
    | with_reducible apply Follows.foldl | with_reducible apply Follows.foldlSnd | intro _ | with_reducible rfl
    | split

theorem execBootStart_follows {s t : State} (h : Follows s t) : FollowsNext s (execBootStart t) := by
  unfold execBootStart
  try dsimp only
  apply FollowsNext.next
  repeat' first
    | with_reducible exact h | with_reducible assumption | with_reducible apply State.startBoot_follows
    | with_reducible apply State.ok_follows | with_reducible apply State.notDue_follows
    | with_reducible apply State.warmBoot_follows | with_reducible apply Follows.foldl
    | with_reducible apply Follows.foldlSnd | intro _ | with_reducible rfl | split

theorem State.fallBack_follows {s t : State} (h : Follows s t) : Follows s (State.fallBack t) := by
  unfold State.fallBack
  repeat' first
    | with_reducible exact h | with_reducible apply State.lifeAdd_follows | with_reducible apply State.updBoot_follows
    | with_reducible apply State.event_follows | (dsimp only <;> with_reducible rfl)

theorem State.romFault_follows {s t : State} (h : Follows s t) : Follows s (State.romFault t) := by
  unfold State.romFault
  try dsimp only
  repeat' first
    | with_reducible exact h | with_reducible assumption | with_reducible apply State.updBoot_follows
    | with_reducible apply State.setDev_follows | with_reducible apply State.endReset_follows
    | with_reducible apply Follows.foldl | with_reducible apply Follows.foldlSnd | intro _ | with_reducible rfl

theorem State.runImage_follows {s t : State} (h : Follows s t) : Follows s (State.runImage t) := by
  unfold State.runImage
  repeat' first
    | with_reducible exact h | with_reducible apply State.updBoot_follows | with_reducible apply State.updEci_follows
    | (dsimp only <;> with_reducible rfl)

theorem State.verifyBoot_follows {s t : State} (h : Follows s t) : Follows s (State.verifyBoot t) := by
  unfold State.verifyBoot
  repeat' first
    | with_reducible exact h | with_reducible apply State.runImage_follows
    | with_reducible apply State.fallBack_follows | with_reducible apply State.romFault_follows | split

theorem State.trained_follows {s t : State} (h : Follows s t) (a1 a2) : Follows s (State.trained t a1 a2) := by
  unfold State.trained
  try dsimp only
  repeat' first
    | with_reducible exact h | with_reducible assumption | with_reducible apply State.updBoot_follows
    | with_reducible apply State.updDram_follows | with_reducible apply State.updTiers_follows
    | with_reducible apply State.updCxl_follows | with_reducible apply State.updDnb_follows
    | with_reducible apply Follows.foldl | with_reducible apply Follows.foldlSnd | intro _ | with_reducible rfl
    | split

theorem State.zeroWhere_follows {s t : State} (h : Follows s t) (p) : Follows s (t.zeroWhere p) :=
  h.memory (fun k => Memory.wf_drop k _) rfl rfl rfl rfl rfl

theorem State.bootKeys_follows {s t : State} (h : Follows s t) : Follows s (State.bootKeys t) := by
  unfold State.bootKeys
  try dsimp only
  repeat' first
    | with_reducible exact h | with_reducible assumption | with_reducible apply State.updDram_follows
    | with_reducible apply State.draw_follows | with_reducible apply State.updSrv_follows
    | with_reducible apply State.reapply_follows | with_reducible apply State.updCoh_follows
    | with_reducible apply Follows.foldl | with_reducible apply Follows.foldlSnd | intro _ | with_reducible rfl
    | split

theorem execBootStageComplete_follows {s t : State} (h : Follows s t) (a1 a2 a3) : FollowsNext s (execBootStageComplete a1 a2 a3 t) := by
  unfold execBootStageComplete
  try dsimp only
  apply FollowsNext.next
  repeat' first
    | with_reducible exact h | with_reducible assumption | with_reducible apply State.notDue_follows
    | with_reducible apply State.updBoot_follows | with_reducible apply State.ok_follows
    | with_reducible apply State.verifyBoot_follows | with_reducible apply State.trained_follows
    | with_reducible apply State.zeroWhere_follows | with_reducible apply State.bootKeys_follows
    | with_reducible apply Follows.foldl | with_reducible apply Follows.foldlSnd | intro _ | with_reducible rfl
    | split

theorem State.advanceFuses_follows {s t : State} (h : Follows s t) : Follows s t.advanceFuses := by
  refine ⟨h.queue, h.clock, Fin.le_trans h.fuses ?_, fun l => ⟨(h.legal l).mem, (h.legal l).flash, (h.legal l).settings⟩⟩
  simp only [State.advanceFuses, State.updBoot, Fin.le_def]
  split <;> omega

theorem State.restoreSessions_follows {s t : State} (h : Follows s t) : Follows s (State.restoreSessions t) := by
  unfold State.restoreSessions
  repeat' first
    | with_reducible exact h | with_reducible apply State.updEci_follows | (dsimp only <;> with_reducible rfl)

theorem execBootReady_follows {s t : State} (h : Follows s t) : FollowsNext s (execBootReady t) := by
  unfold execBootReady
  try dsimp only
  apply FollowsNext.next
  repeat' first
    | with_reducible exact h | with_reducible assumption | with_reducible apply State.notDue_follows
    | with_reducible apply State.updEci_follows | with_reducible apply State.setDev_follows
    | with_reducible apply State.restoreSessions_follows | with_reducible apply State.advanceFuses_follows
    | with_reducible apply State.ok_follows | with_reducible apply State.failUnit_follows
    | with_reducible apply State.settle_follows | with_reducible apply State.endReset_follows
    | with_reducible apply Follows.foldl | with_reducible apply Follows.foldlSnd | intro _ | with_reducible rfl
    | split

theorem execBootWatchdog_follows {s t : State} (h : Follows s t) : FollowsNext s (execBootWatchdog t) := by
  unfold execBootWatchdog
  try dsimp only
  apply FollowsNext.next
  repeat' first
    | with_reducible exact h | with_reducible assumption | with_reducible apply State.notDue_follows
    | with_reducible apply State.updBoot_follows | with_reducible apply State.coldReset_follows
    | with_reducible apply State.ok_follows | with_reducible apply State.warmReset_follows
    | with_reducible apply State.startBoot_follows | with_reducible apply State.romFault_follows
    | with_reducible apply State.fallBack_follows | with_reducible apply Follows.foldl
    | with_reducible apply Follows.foldlSnd | intro _ | with_reducible rfl | split
    | with_reducible apply Follows.ident | with_reducible apply Follows.lit

theorem execHeartbeatTick_follows {s t : State} (h : Follows s t) : FollowsNext s (execHeartbeatTick t) := by
  unfold execHeartbeatTick
  try dsimp only
  apply FollowsNext.next
  repeat' first
    | with_reducible exact h | with_reducible assumption | with_reducible apply State.updEci_follows
    | with_reducible apply State.ok_follows | with_reducible apply State.notDue_follows
    | with_reducible apply Follows.foldl | with_reducible apply Follows.foldlSnd | intro _ | with_reducible rfl
    | split

theorem execHeartbeatWatchdog_follows {s t : State} (h : Follows s t) : FollowsNext s (execHeartbeatWatchdog t) := by
  unfold execHeartbeatWatchdog
  try dsimp only
  apply FollowsNext.next
  repeat' first
    | with_reducible exact h | with_reducible assumption | with_reducible apply State.updBoot_follows
    | with_reducible apply State.powerLoss_follows | with_reducible apply State.ok_follows
    | with_reducible apply State.notDue_follows | with_reducible apply Follows.foldl
    | with_reducible apply Follows.foldlSnd | intro _ | with_reducible rfl | split

theorem execLifetimeRecordWrite_follows {s t : State} (h : Follows s t) : FollowsNext s (execLifetimeRecordWrite t) := by
  unfold execLifetimeRecordWrite
  try dsimp only
  apply FollowsNext.next
  repeat' first
    | with_reducible exact h | with_reducible assumption | with_reducible apply State.writeLifetime_follows
    | with_reducible apply State.ok_follows | with_reducible apply State.notDue_follows
    | with_reducible apply Follows.foldl | with_reducible apply Follows.foldlSnd | intro _ | with_reducible rfl
    | split

end Sys2Proof.Machine
end

