-- ==== Sys2Proof/Laws/Cores.lean ====
section
/-!
SUPPORT. What the operations of Machine/Cores.lean do to a legal state.
-/

namespace Sys2Proof.Machine

theorem State.coreFault_follows {s t : State} (h : Follows s t) (a1 a2) : Follows s (State.coreFault t a1 a2) := by
  unfold State.coreFault
  repeat' first
    | with_reducible exact h | with_reducible apply State.answer_follows

theorem State.coreWorks_follows {s t : State} (h : Follows s t) (a1) : Follows s (State.coreWorks t a1) := by
  unfold State.coreWorks
  repeat' first
    | with_reducible exact h | with_reducible apply State.updCore_follows | with_reducible apply State.ok_follows

theorem peerStore_follows {s t : State} (h : Follows s t) (a1 a2) : Follows s (peerStore a1 t a2) := by
  unfold peerStore
  try dsimp only
  repeat' first
    | with_reducible exact h | with_reducible assumption | with_reducible apply State.peerRequest_follows
    | with_reducible apply Follows.foldl | with_reducible apply Follows.foldlSnd | intro _ | with_reducible rfl
    | split

theorem State.drainAll_follows {s t : State} (h : Follows s t) (a1) : Follows s (State.drainAll t a1) := by
  unfold State.drainAll
  try dsimp only
  repeat' first
    | with_reducible exact h | with_reducible assumption | with_reducible apply State.drainStores_follows
    | with_reducible apply peerStore_follows | with_reducible apply Follows.foldl
    | with_reducible apply Follows.foldlSnd | intro _

theorem State.drainSome_follows {s t : State} (h : Follows s t) (a1) : Follows s (State.drainSome t a1) := by
  unfold State.drainSome
  try dsimp only
  repeat' first
    | with_reducible exact h | with_reducible assumption | with_reducible apply State.drainStores_follows
    | with_reducible apply peerStore_follows | with_reducible apply Follows.foldl
    | with_reducible apply Follows.foldlSnd | intro _

theorem State.debugRefuse_follows {s t : State} (h : Follows s t) (a1 a2 a3) : Follows s (State.debugRefuse t a1 a2 a3) := by
  unfold State.debugRefuse
  try dsimp only
  repeat' first
    | with_reducible exact h | with_reducible assumption | with_reducible apply State.answer_follows
    | with_reducible apply State.coreFault_follows | with_reducible apply Follows.foldl
    | with_reducible apply Follows.foldlSnd | intro _ | with_reducible rfl | split

theorem State.debugRead_follows {s t : State} (h : Follows s t) (a1 a2) (a3 a4) : Follows s (State.debugRead t a1 a2 a3 a4) := by
  unfold State.debugRead
  try dsimp only
  repeat' first
    | with_reducible exact h | with_reducible assumption | with_reducible apply State.debugRefuse_follows
    | with_reducible apply State.reloadBad_follows | with_reducible apply State.parityCount_follows
    | with_reducible apply State.answer_follows | with_reducible apply State.coreFault_follows
    | with_reducible apply Follows.foldl | with_reducible apply Follows.foldlSnd | intro _ | with_reducible rfl
    | split | with_reducible apply Follows.ident | with_reducible apply Follows.lit
    | (dsimp only <;> with_reducible rfl) | rfl

theorem State.untaggedWrite_follows {s t : State} (h : Follows s t) (a1 a2) : Follows s (State.untaggedWrite t a1 a2) := by
  unfold State.untaggedWrite
  try dsimp only
  repeat' first
    | with_reducible exact h | with_reducible assumption | with_reducible apply State.markRange_follows
    | with_reducible apply State.putBytes_follows | with_reducible apply Follows.foldl
    | with_reducible apply Follows.foldlSnd | intro _ | with_reducible rfl | split

theorem State.countDrops_follows {s t : State} (h : Follows s t) (a1 a2) : Follows s (State.countDrops t a1 a2) := by
  unfold State.countDrops
  try dsimp only
  repeat' first
    | with_reducible exact h | with_reducible assumption | with_reducible apply State.updSq_follows
    | with_reducible apply Follows.foldl | with_reducible apply Follows.foldlSnd | intro _ | with_reducible rfl
    | split

theorem State.debugWrite_follows {s t : State} (h : Follows s t) (a1 a2 a3) : Follows s (State.debugWrite t a1 a2 a3) := by
  unfold State.debugWrite
  repeat' first
    | with_reducible exact h | with_reducible apply State.debugRefuse_follows
    | with_reducible apply State.untaggedWrite_follows | with_reducible apply State.countDrops_follows
    | with_reducible apply State.ok_follows | split

theorem execDebugLoad_follows {s t : State} (h : Follows s t) (a1 a2) (a3 a4) : FollowsNext s (execDebugLoad a1 a2 a3 a4 t) := by
  unfold execDebugLoad
  apply FollowsNext.next
  repeat' first
    | with_reducible exact h | with_reducible apply State.notDue_follows
    | with_reducible apply State.debugRead_follows | split

theorem execDebugStore_follows {s t : State} (h : Follows s t) (a1 a2 a3) : FollowsNext s (execDebugStore a1 a2 a3 t) := by
  unfold execDebugStore
  apply FollowsNext.next
  repeat' first
    | with_reducible exact h | with_reducible apply State.notDue_follows
    | with_reducible apply State.debugWrite_follows | split

theorem State.fetchHost_follows {s t : State} (h : Follows s t) (a1 a2 a3) : Follows s (State.fetchHost t a1 a2 a3) := by
  unfold State.fetchHost
  try dsimp only
  repeat' first
    | with_reducible exact h | with_reducible assumption | with_reducible apply State.fillHost_follows
    | with_reducible apply Follows.foldl | with_reducible apply Follows.foldlSnd | intro _ | with_reducible rfl
    | split

theorem State.peerLoad_follows {s t : State} (h : Follows s t) (a1 a2 a3) : Follows s (State.peerLoad t a1 a2 a3) := by
  unfold State.peerLoad
  try dsimp only
  repeat' first
    | with_reducible exact h | with_reducible assumption | with_reducible apply State.waits_follows
    | with_reducible apply State.updDnb_follows | with_reducible apply State.coreFault_follows
    | with_reducible apply State.answer_follows | with_reducible apply State.peerAsk_follows
    | with_reducible apply Follows.foldl | with_reducible apply Follows.foldlSnd | intro _ | with_reducible rfl
    | split

theorem State.memoryLoad_follows {s t : State} (h : Follows s t) (a1 a2) (a3 a4 a5) : Follows s (State.memoryLoad t a1 a2 a3 a4 a5) := by
  unfold State.memoryLoad
  try dsimp only
  repeat' first
    | with_reducible exact h | with_reducible assumption | with_reducible apply State.waits_follows
    | with_reducible apply State.coreFault_follows | with_reducible apply State.dramCheck_follows
    | with_reducible apply State.dramRead_follows | with_reducible apply State.readAs_follows
    | with_reducible apply State.readAs_after (e := by assumption) | with_reducible apply State.answer_follows
    | with_reducible apply Follows.foldl | with_reducible apply Follows.foldlSnd | intro _ | with_reducible rfl
    | split | with_reducible apply Follows.ident | with_reducible apply Follows.lit
    | (dsimp only <;> with_reducible rfl) | rfl

theorem State.chipLoad_follows {s t : State} (h : Follows s t) (a1 a2 a3) : Follows s (State.chipLoad t a1 a2 a3) := by
  unfold State.chipLoad
  repeat' first
    | with_reducible exact h | with_reducible assumption | with_reducible apply State.readAs_follows
    | with_reducible apply State.readAs_after (e := by assumption) | with_reducible apply State.answer_follows

theorem State.cacheBad_follows {s t : State} (h : Follows s t) (a1 a2 a3) (a4) : Follows s (State.cacheBad t a1 a2 a3 a4) := by
  unfold State.cacheBad
  repeat' first
    | with_reducible exact h | with_reducible apply State.updCore_follows | split

theorem execCoreLoad_follows {s t : State} (h : Follows s t) (a1 a2) (a3 a4) (a5 a6) : FollowsNext s (execCoreLoad a1 a2 a3 a4 a5 a6 t) := by
  unfold execCoreLoad
  try dsimp only
  apply FollowsNext.next
  repeat' first
    | with_reducible exact h | with_reducible assumption | with_reducible apply State.notDue_follows
    | with_reducible apply State.coreWorks_follows | with_reducible apply State.coreFault_follows
    | with_reducible apply State.memoryLoad_follows | with_reducible apply State.debugRead_follows
    | with_reducible apply State.peerLoad_follows | with_reducible apply State.reloadBad_follows
    | with_reducible apply State.chipLoad_follows | with_reducible apply State.cacheBad_follows | with_reducible apply State.fetchHost_follows
    | with_reducible apply State.waits_follows | with_reducible apply State.updCore_follows
    | with_reducible apply State.answer_follows | with_reducible apply Follows.foldl
    | with_reducible apply Follows.foldlSnd | intro _ | with_reducible rfl | split
    | with_reducible apply Follows.ident | with_reducible apply Follows.lit | (dsimp only <;> with_reducible rfl)
    | rfl

theorem State.enterStore_follows {s t : State} (h : Follows s t) (a1 a2) : Follows s (State.enterStore t a1 a2) := by
  unfold State.enterStore
  try dsimp only
  repeat' first
    | with_reducible exact h | with_reducible assumption | with_reducible apply State.drainSome_follows
    | with_reducible apply State.updCore_follows | with_reducible apply State.drainAll_follows
    | with_reducible apply State.waits_follows | with_reducible apply Follows.foldl
    | with_reducible apply Follows.foldlSnd | intro _ | with_reducible rfl | split

theorem execCoreStore_follows {s t : State} (h : Follows s t) (a1 a2) (a3 a4) (a5 a6) : FollowsNext s (execCoreStore a1 a2 a3 a4 a5 a6 t) := by
  unfold execCoreStore
  try dsimp only
  apply FollowsNext.next
  repeat' first
    | with_reducible exact h | with_reducible assumption | with_reducible apply State.notDue_follows
    | with_reducible apply State.coreWorks_follows | with_reducible apply State.enterStore_follows
    | with_reducible apply State.coreFault_follows | with_reducible apply State.debugWrite_follows
    | with_reducible apply State.drainAll_follows | with_reducible apply State.fetchHost_follows
    | with_reducible apply State.answer_follows | with_reducible apply State.updCore_follows
    | with_reducible apply State.waits_follows | with_reducible apply Follows.foldl
    | with_reducible apply Follows.foldlSnd | intro _ | with_reducible rfl | split
    | with_reducible apply Follows.ident | with_reducible apply Follows.lit | (dsimp only <;> with_reducible rfl)
    | rfl

theorem State.cbo_follows {s t : State} (h : Follows s t) (a1 a2 a3) (a4 : State → State) (a5 : State → State) (k4 : ∀ u, Follows s u → Follows s (a4 u)) (k5 : ∀ u, Follows s u → Follows s (a5 u)) : Follows s (State.cbo t a1 a2 a3 a4 a5) := by
  unfold State.cbo
  try dsimp only
  repeat' first
    | with_reducible exact h | with_reducible assumption | with_reducible apply k4 | with_reducible apply k5
    | with_reducible apply State.notDue_follows | with_reducible apply State.drainAll_follows
    | with_reducible apply State.coreWorks_follows | with_reducible apply State.coreFault_follows
    | with_reducible apply State.waits_follows | with_reducible apply Follows.foldl
    | with_reducible apply Follows.foldlSnd | intro _ | with_reducible rfl | split
    | with_reducible apply Follows.ident | with_reducible apply Follows.lit | (dsimp only <;> with_reducible rfl)
    | rfl

theorem State.cleanLine_follows {s t : State} (h : Follows s t) (a1 a2) : Follows s (State.cleanLine t a1 a2) := by
  unfold State.cleanLine
  repeat' first
    | with_reducible exact h | with_reducible apply State.updCore_follows
    | with_reducible apply State.writeBack_follows | intro _ | split

theorem State.flushLine_follows {s t : State} (h : Follows s t) (a1 a2) : Follows s (State.flushLine t a1 a2) := by
  unfold State.flushLine
  repeat' first
    | with_reducible exact h | with_reducible apply State.updCore_follows
    | with_reducible apply State.cleanLine_follows

theorem execCboClean_follows {s t : State} (h : Follows s t) (a1 a2 a3) : FollowsNext s (execCboClean a1 a2 a3 t) :=
  .next (State.cbo_follows h _ _ _ _ _ (fun _ k => State.cleanLine_follows k _ _) fun _ k => k)

theorem execCboFlush_follows {s t : State} (h : Follows s t) (a1 a2 a3) : FollowsNext s (execCboFlush a1 a2 a3 t) :=
  .next (State.cbo_follows h _ _ _ _ _ (fun _ k => State.flushLine_follows k _ _) fun _ k => k)

theorem execCboInval_follows {s t : State} (h : Follows s t) (a1 a2 a3 a4) : FollowsNext s (execCboInval a1 a2 a3 a4 t) := by
  unfold execCboInval
  apply FollowsNext.next
  dsimp only
  split
  · exact State.cbo_follows h _ _ _ _ _ (fun _ k => State.updCore_follows k _ _) fun _ k => k
  · split
    · exact State.cbo_follows h _ _ _ _ _ (fun _ k => State.flushLine_follows k _ _) fun _ k => k
    · exact State.notDue_follows h

theorem execCboZero_follows {s t : State} (h : Follows s t) (a1 a2 a3) : FollowsNext s (execCboZero a1 a2 a3 t) := by
  unfold execCboZero
  try dsimp only
  apply FollowsNext.next
  repeat' first
    | with_reducible exact h | with_reducible assumption | with_reducible apply State.cbo_follows
    | with_reducible apply State.fillCore_follows | with_reducible apply State.updCore_follows
    | with_reducible apply State.waits_follows | with_reducible apply State.markRange_follows
    | with_reducible apply State.putBytes_follows | with_reducible apply State.debugWrite_follows
    | with_reducible apply peerStore_follows | with_reducible apply State.regWrite_follows
    | with_reducible apply State.hostWrite_follows | with_reducible apply State.dramUse_follows
    | with_reducible apply State.store_follows | with_reducible apply Follows.foldl
    | with_reducible apply Follows.foldlSnd | intro _ | with_reducible rfl | split
    | with_reducible apply Follows.ident | with_reducible apply Follows.lit | (dsimp only <;> with_reducible rfl)
    | rfl

theorem State.raisePending_follows {s t : State} (h : Follows s t) (a1 a2) : Follows s (State.raisePending t a1 a2) := by
  unfold State.raisePending
  repeat' first
    | with_reducible exact h | with_reducible apply State.coreFault_follows
    | with_reducible apply State.updCore_follows

theorem execCoreFence_follows {s t : State} (h : Follows s t) (a1 a2) : FollowsNext s (execCoreFence a1 a2 t) := by
  unfold execCoreFence
  try dsimp only
  apply FollowsNext.next
  repeat' first
    | with_reducible exact h | with_reducible assumption | with_reducible apply State.notDue_follows
    | with_reducible apply State.coreWorks_follows | with_reducible apply State.raisePending_follows
    | with_reducible apply State.drainEgress_follows | with_reducible apply State.drainAll_follows
    | with_reducible apply State.waits_follows | with_reducible apply Follows.foldl
    | with_reducible apply Follows.foldlSnd | intro _ | with_reducible rfl | split
    | with_reducible apply Follows.ident | with_reducible apply Follows.lit | (dsimp only <;> with_reducible rfl)
    | rfl

theorem execTrapEntry_follows {s t : State} (h : Follows s t) (a1) : FollowsNext s (execTrapEntry a1 t) := by
  unfold execTrapEntry
  try dsimp only
  apply FollowsNext.next
  repeat' first
    | with_reducible exact h | with_reducible assumption | with_reducible apply State.notDue_follows
    | with_reducible apply State.drainAll_follows | with_reducible apply State.coreWorks_follows
    | with_reducible apply State.waits_follows | with_reducible apply State.updCore_follows
    | with_reducible apply Follows.foldl | with_reducible apply Follows.foldlSnd | intro _ | with_reducible rfl
    | split

theorem State.deviceAccess_follows {s t : State} (h : Follows s t) (a1 a2) (a3 a4 a5) (a6 : State → State) (k6 : ∀ u, Follows s u → Follows s (a6 u)) : Follows s (State.deviceAccess t a1 a2 a3 a4 a5 a6) := by
  unfold State.deviceAccess
  try dsimp only
  repeat' first
    | with_reducible exact h | with_reducible assumption | with_reducible apply k6
    | with_reducible apply State.notDue_follows | with_reducible apply State.coreWorks_follows
    | with_reducible apply State.raisePending_follows | with_reducible apply State.coreFault_follows
    | with_reducible apply State.drainAll_follows | with_reducible apply State.waits_follows
    | with_reducible apply Follows.foldl | with_reducible apply Follows.foldlSnd | intro _ | with_reducible rfl
    | split

theorem execDeviceLoad_follows {s t : State} (h : Follows s t) (a1 a2) (a3 a4 a5) : FollowsNext s (execDeviceLoad a1 a2 a3 a4 a5 t) := by
  unfold execDeviceLoad
  try dsimp only
  apply FollowsNext.next
  repeat' first
    | with_reducible exact h | with_reducible assumption | with_reducible apply State.deviceAccess_follows
    | with_reducible apply State.waits_follows | with_reducible apply State.updCore_follows
    | with_reducible apply State.answer_follows | with_reducible apply State.debugRead_follows
    | with_reducible apply State.chipLoad_follows | with_reducible apply State.memoryLoad_follows
    | with_reducible apply State.draw_follows | with_reducible apply Follows.foldl
    | with_reducible apply Follows.foldlSnd | intro _ | with_reducible rfl | split
    | with_reducible apply Follows.ident | with_reducible apply Follows.lit | (dsimp only <;> with_reducible rfl)
    | rfl

theorem State.deviceWrite_follows {s t : State} (h : Follows s t) (a1 a2 a3) (a4) : Follows s (State.deviceWrite t a1 a2 a3 a4) := by
  unfold State.deviceWrite
  try dsimp only
  repeat' first
    | with_reducible exact h | with_reducible apply State.regWrite_follows
    | with_reducible apply State.debugWrite_follows | with_reducible apply State.dramUse_follows
    | with_reducible apply State.store_follows | with_reducible apply State.hostWrite_follows | split

theorem execDeviceStore_follows {s t : State} (h : Follows s t) (a1 a2) (a3 a4) (a5 a6 a7) : FollowsNext s (execDeviceStore a1 a2 a3 a4 a5 a6 a7 t) := by
  unfold execDeviceStore
  try dsimp only
  apply FollowsNext.next
  repeat' first
    | with_reducible exact h | with_reducible assumption | with_reducible apply State.deviceAccess_follows
    | with_reducible apply State.updCore_follows | with_reducible apply State.deviceWrite_follows
    | with_reducible apply Follows.foldl | with_reducible apply Follows.foldlSnd | intro _ | with_reducible rfl | split
    | with_reducible apply Follows.ident | with_reducible apply Follows.lit | (dsimp only <;> with_reducible rfl) | rfl

theorem State.lateStore_follows {s t : State} (h : Follows s t) (a1 a2) : Follows s (State.lateStore t a1 a2) := by
  unfold State.lateStore
  repeat' first
    | with_reducible exact h | with_reducible apply State.answer_follows | with_reducible apply State.deviceWrite_follows
    | with_reducible apply State.draw_follows | split

theorem execDevTimeout_follows {s t : State} (h : Follows s t) (a1) : FollowsNext s (execDevTimeout a1 t) := by
  unfold execDevTimeout
  try dsimp only
  apply FollowsNext.next
  repeat' first
    | with_reducible exact h | with_reducible assumption | with_reducible apply State.notDue_follows
    | with_reducible apply State.lateStore_follows | with_reducible apply State.event_follows | with_reducible apply State.updCore_follows
    | with_reducible apply State.ok_follows | with_reducible apply State.coreFault_follows
    | with_reducible apply Follows.foldl | with_reducible apply Follows.foldlSnd | intro _ | with_reducible rfl
    | split

theorem State.maybeStored_follows {s t : State} (h : Follows s t) (a1 a2 a3) : Follows s (State.maybeStored t a1 a2 a3) := by
  unfold State.maybeStored
  try dsimp only
  repeat' first
    | with_reducible exact h | with_reducible assumption | with_reducible apply peerStore_follows
    | with_reducible apply State.store_follows | with_reducible apply Follows.foldl
    | with_reducible apply Follows.foldlSnd | intro _ | with_reducible rfl | split
    | with_reducible apply Follows.ident | with_reducible apply Follows.lit | (dsimp only <;> with_reducible rfl)
    | rfl

theorem execStoreDrainTimeout_follows {s t : State} (h : Follows s t) (a1) : FollowsNext s (execStoreDrainTimeout a1 t) := by
  unfold execStoreDrainTimeout
  try dsimp only
  apply FollowsNext.next
  repeat' first
    | with_reducible exact h | with_reducible assumption | with_reducible apply State.drainAll_follows
    | with_reducible apply State.ok_follows | with_reducible apply State.afterDrain_follows
    | with_reducible apply State.notDue_follows | with_reducible apply State.maybeStored_follows
    | with_reducible apply State.updCore_follows | with_reducible apply State.add_follows
    | with_reducible apply State.draw_follows | with_reducible apply Follows.foldl
    | with_reducible apply Follows.foldlSnd | intro _ | with_reducible rfl | split
    | with_reducible apply Follows.ident | with_reducible apply Follows.lit | (dsimp only <;> with_reducible rfl)
    | rfl

theorem execCoreInvalidateDone_follows {s t : State} (h : Follows s t) (a1) : FollowsNext s (execCoreInvalidateDone a1 t) := by
  unfold execCoreInvalidateDone
  try dsimp only
  apply FollowsNext.next
  repeat' first
    | with_reducible exact h | with_reducible assumption | with_reducible apply State.updCore_follows
    | with_reducible apply State.ok_follows | with_reducible apply State.notDue_follows
    | with_reducible apply Follows.foldl | with_reducible apply Follows.foldlSnd | intro _ | with_reducible rfl
    | split

end Sys2Proof.Machine
end

