-- ==== Sys2Proof/Laws/Coherence.lean ====
section
/-!
SUPPORT. What the operations of Machine/Coherence.lean do to a legal state.
-/

namespace Sys2Proof.Machine

theorem State.dropHeld_follows {s t : State} (h : Follows s t) (a1 a2) : Follows s (State.dropHeld t a1 a2) := by
  unfold State.dropHeld
  repeat' first
    | with_reducible exact h | with_reducible apply State.updCore_follows | with_reducible apply State.updSq_follows
    | with_reducible apply State.updCoh_follows | intro _ | split | with_reducible apply Follows.lit
    | (dsimp only <;> with_reducible rfl)

theorem State.shareHeld_follows {s t : State} (h : Follows s t) (a1 a2) : Follows s (State.shareHeld t a1 a2) := by
  unfold State.shareHeld
  try dsimp only
  repeat' first
    | with_reducible exact h | with_reducible assumption | with_reducible apply State.updCore_follows
    | with_reducible apply State.updCoh_follows | with_reducible apply Follows.foldl
    | with_reducible apply Follows.foldlSnd | intro _ | with_reducible rfl | split

theorem State.updReq_follows {s t : State} (h : Follows s t) (a1 a2) : Follows s (State.updReq t a1 a2) := by
  unfold State.updReq
  repeat' first
    | with_reducible exact h | with_reducible apply State.updCoh_follows | intro _
    | with_reducible apply Follows.ident | with_reducible apply Follows.lit | (dsimp only <;> with_reducible rfl)

theorem State.arrive_follows {s t : State} (h : Follows s t) (a1) : Follows s (State.arrive t a1) := by
  unfold State.arrive
  try dsimp only
  repeat' first
    | with_reducible exact h | with_reducible assumption | with_reducible apply State.updReq_follows
    | with_reducible apply Follows.foldl | with_reducible apply Follows.foldlSnd | intro _ | with_reducible rfl
    | split

theorem execCohRequest_follows {s t : State} (h : Follows s t) (a1 a2 a3) : FollowsNext s (execCohRequest a1 a2 a3 t) := by
  unfold execCohRequest
  try dsimp only
  apply FollowsNext.next
  repeat' first
    | with_reducible exact h | with_reducible assumption | with_reducible apply State.notDue_follows
    | with_reducible apply State.waits_follows | with_reducible apply State.arrive_follows
    | with_reducible apply State.updCoh_follows | with_reducible apply State.ok_follows
    | with_reducible apply Follows.foldl | with_reducible apply Follows.foldlSnd | intro _ | with_reducible rfl
    | split

theorem execCohSnoop_follows {s t : State} (h : Follows s t) (a1 a2) : FollowsNext s (execCohSnoop a1 a2 t) := by
  unfold execCohSnoop
  try dsimp only
  apply FollowsNext.next
  repeat' first
    | with_reducible exact h | with_reducible assumption | with_reducible apply State.notDue_follows
    | with_reducible apply State.updReq_follows | with_reducible apply State.ok_follows
    | with_reducible apply State.updCoh_follows | with_reducible apply State.shareHeld_follows
    | with_reducible apply State.dropHeld_follows | with_reducible apply Follows.foldl
    | with_reducible apply Follows.foldlSnd | intro _ | with_reducible rfl | split

theorem State.trySend_follows {s t : State} (h : Follows s t) (a1) : Follows s (State.trySend t a1) := by
  unfold State.trySend
  try dsimp only
  repeat' first
    | with_reducible exact h | with_reducible assumption | with_reducible apply State.updReq_follows
    | with_reducible apply Follows.foldl | with_reducible apply Follows.foldlSnd | intro _ | with_reducible rfl
    | split

theorem execCohSnoopAnswer_follows {s t : State} (h : Follows s t) (a1 a2) : FollowsNext s (execCohSnoopAnswer a1 a2 t) := by
  unfold execCohSnoopAnswer
  try dsimp only
  apply FollowsNext.next
  repeat' first
    | with_reducible exact h | with_reducible assumption | with_reducible apply State.notDue_follows
    | with_reducible apply State.updReq_follows | with_reducible apply State.ok_follows
    | with_reducible apply State.trySend_follows | with_reducible apply Follows.foldl
    | with_reducible apply Follows.foldlSnd | intro _ | with_reducible rfl | split

theorem State.backLands_follows {s t : State} (h : Follows s t) (a1 a2) : Follows s (State.backLands t a1 a2) := by
  unfold State.backLands
  try dsimp only
  repeat' first
    | with_reducible exact h | with_reducible assumption | with_reducible apply State.updReq_follows
    | with_reducible apply State.dramUse_follows | with_reducible apply State.store_follows
    | with_reducible apply State.trySend_follows | with_reducible apply Follows.foldl
    | with_reducible apply Follows.foldlSnd | intro _ | with_reducible rfl | split
    | with_reducible apply Follows.ident | with_reducible apply Follows.lit | (dsimp only <;> with_reducible rfl)
    | rfl

theorem execCohWriteback_follows {s t : State} (h : Follows s t) (a1 a2) : FollowsNext s (execCohWriteback a1 a2 t) := by
  unfold execCohWriteback
  apply FollowsNext.next
  repeat' first
    | with_reducible exact h | with_reducible apply State.notDue_follows
    | with_reducible apply State.backLands_follows | with_reducible apply State.ok_follows | split

theorem State.endReq_follows {s t : State} (h : Follows s t) (a1) : Follows s (State.endReq t a1) := by
  unfold State.endReq
  repeat' first
    | with_reducible exact h | with_reducible apply State.updCoh_follows | (dsimp only <;> with_reducible rfl)

theorem execCohGrant_follows {s t : State} (h : Follows s t) (a1 a2) : FollowsNext s (execCohGrant a1 a2 t) := by
  unfold execCohGrant
  try dsimp only
  apply FollowsNext.next
  repeat' first
    | with_reducible exact h | with_reducible assumption | with_reducible apply State.notDue_follows
    | with_reducible apply State.ok_follows | with_reducible apply State.dramRead_follows
    | with_reducible apply State.dramCheck_follows | with_reducible apply State.endReq_follows
    | with_reducible apply State.afterDrain_follows | with_reducible apply State.drainSome_follows
    | with_reducible apply State.fillCore_follows | with_reducible apply State.updSq_follows
    | with_reducible apply State.updCoh_follows | with_reducible apply State.answer_follows
    | with_reducible apply Follows.foldl | with_reducible apply Follows.foldlSnd | intro _ | with_reducible rfl
    | split | with_reducible apply Follows.ident | with_reducible apply Follows.lit
    | (dsimp only <;> with_reducible rfl) | rfl

theorem execCohNack_follows {s t : State} (h : Follows s t) (a1) : FollowsNext s (execCohNack a1 t) := by
  unfold execCohNack
  try dsimp only
  apply FollowsNext.next
  repeat' first
    | with_reducible exact h | with_reducible assumption | with_reducible apply State.notDue_follows
    | with_reducible apply State.updReq_follows | with_reducible apply State.ok_follows
    | with_reducible apply Follows.foldl | with_reducible apply Follows.foldlSnd | intro _ | with_reducible rfl
    | split

theorem execNackRetry_follows {s t : State} (h : Follows s t) (a1) : FollowsNext s (execNackRetry a1 t) := by
  unfold execNackRetry
  try dsimp only
  apply FollowsNext.next
  repeat' first
    | with_reducible exact h | with_reducible assumption | with_reducible apply State.notDue_follows
    | with_reducible apply State.waits_follows | with_reducible apply State.updCore_follows
    | with_reducible apply State.updReq_follows | with_reducible apply State.ok_follows
    | with_reducible apply State.arrive_follows | with_reducible apply State.updCoh_follows
    | with_reducible apply Follows.foldl | with_reducible apply Follows.foldlSnd | intro _ | with_reducible rfl
    | split

theorem execEscalationServe_follows {s t : State} (h : Follows s t) (a1) : FollowsNext s (execEscalationServe a1 t) := by
  unfold execEscalationServe
  try dsimp only
  apply FollowsNext.next
  repeat' first
    | with_reducible exact h | with_reducible assumption | with_reducible apply State.notDue_follows
    | with_reducible apply State.waits_follows | with_reducible apply State.updReq_follows
    | with_reducible apply State.ok_follows | with_reducible apply Follows.foldl
    | with_reducible apply Follows.foldlSnd | intro _ | with_reducible rfl | split

theorem execReservationExpire_follows {s t : State} (h : Follows s t) (a1) : FollowsNext s (execReservationExpire a1 t) := by
  unfold execReservationExpire
  try dsimp only
  apply FollowsNext.next
  repeat' first
    | with_reducible exact h | with_reducible assumption | with_reducible apply State.updCoh_follows
    | with_reducible apply State.ok_follows | with_reducible apply State.notDue_follows
    | with_reducible apply Follows.foldl | with_reducible apply Follows.foldlSnd | intro _ | with_reducible rfl
    | split

theorem State.landBacks_follows {s t : State} (h : Follows s t) (a1) : Follows s (State.landBacks t a1) := by
  unfold State.landBacks
  try dsimp only
  repeat' first
    | with_reducible exact h | with_reducible assumption | with_reducible apply State.backLands_follows
    | with_reducible apply Follows.foldl | with_reducible apply Follows.foldlSnd | intro _ | with_reducible rfl
    | split | with_reducible apply Follows.ident | with_reducible apply Follows.lit
    | (dsimp only <;> with_reducible rfl) | rfl

theorem State.snoop_follows {s t : State} (h : Follows s t) (a1 a2 a3) : Follows s (State.snoop t a1 a2 a3) := by
  unfold State.snoop
  try dsimp only
  repeat' first
    | with_reducible exact h | with_reducible assumption | with_reducible apply State.landBacks_follows
    | with_reducible apply State.dramUse_follows | with_reducible apply State.store_follows
    | with_reducible apply State.dropHeld_follows | with_reducible apply State.shareHeld_follows
    | with_reducible apply Follows.foldl | with_reducible apply Follows.foldlSnd | intro _ | with_reducible rfl
    | split | with_reducible apply Follows.ident | with_reducible apply Follows.lit
    | (dsimp only <;> with_reducible rfl) | rfl

end Sys2Proof.Machine
end

