-- ==== Sys2Proof/Laws/Data.lean ====
section
/-!
SUPPORT. What the operations of Machine/Data.lean do to a legal state.
-/

namespace Sys2Proof.Machine

theorem State.storeM_follows {s t : State} (h : Follows s t) (a1 a2) : Follows s (State.storeM t a1 a2) := by
  unfold State.storeM
  try dsimp only
  repeat' first
    | with_reducible exact h | with_reducible assumption | with_reducible apply State.putBytes_follows
    | with_reducible apply State.setMark_follows | with_reducible apply State.bumpGen_follows
    | with_reducible apply Follows.foldl | with_reducible apply Follows.foldlSnd | intro _ | with_reducible rfl
    | split

end Sys2Proof.Machine
end

