-- ==== Sys2Proof/Laws/Inbound.lean ====
section
/-!
SUPPORT. What the operations of Machine/Inbound.lean do to a legal state.
-/

namespace Sys2Proof.Machine

theorem State.denied_follows {s t : State} (h : Follows s t) (a1 a2) : Follows s (State.denied t a1 a2) := by
  unfold State.denied
  try dsimp only
  repeat' first
    | with_reducible exact h | with_reducible assumption | with_reducible apply State.event_follows
    | with_reducible apply State.updCxl_follows | with_reducible apply Follows.foldl
    | with_reducible apply Follows.foldlSnd | intro _ | with_reducible rfl | split

theorem State.inChunk_follows {s t : State} (h : Follows s t) (a1 a2) (a3 a4) : Follows s (State.inChunk t a1 a2 a3 a4) := by
  unfold State.inChunk
  try dsimp only
  repeat' first
    | with_reducible exact h | with_reducible assumption | with_reducible apply State.snoop_follows
    | with_reducible apply State.dramUse_follows | with_reducible apply State.storeM_follows
    | with_reducible apply State.denied_follows | with_reducible apply State.count_follows
    | with_reducible apply Follows.foldl | with_reducible apply Follows.foldlSnd | intro _ | with_reducible rfl
    | split

theorem State.inWrite_follows {s t : State} (h : Follows s t) (a1 a2) (a3 a4) : Follows s (State.inWrite t a1 a2 a3 a4) := by
  unfold State.inWrite
  try dsimp only
  repeat' first
    | with_reducible exact h | with_reducible assumption | with_reducible apply State.inChunk_follows
    | with_reducible apply Follows.foldl | with_reducible apply Follows.foldlSnd | intro _

theorem State.inRead_follows {s t : State} (h : Follows s t) (a1 a2) (a3 a4 a5) : Follows s (State.inRead t a1 a2 a3 a4 a5).2 := by
  unfold State.inRead
  try dsimp only
  repeat' first
    | with_reducible exact h | with_reducible assumption | with_reducible apply State.denied_follows
    | with_reducible apply State.count_follows | with_reducible apply State.snoop_follows
    | with_reducible apply State.dramCheck_follows | with_reducible apply State.dramRead_follows
    | with_reducible apply State.readAs_follows | with_reducible apply State.readAs_after (e := by assumption)
    | with_reducible apply Follows.foldl | with_reducible apply Follows.foldlSnd | intro _ | with_reducible rfl
    | split | with_reducible apply Follows.ident | with_reducible apply Follows.lit
    | (dsimp only <;> with_reducible rfl) | rfl

theorem State.inRead_after {s t u : State} {x} {a1} {a2} {a3} {a4} {a5} (e : (State.inRead t a1 a2 a3 a4 a5) = (x, u)) (h : Follows s t) : Follows s u := by
  have k := State.inRead_follows h a1 a2 a3 a4 a5
  rwa [e] at k

end Sys2Proof.Machine
end

