-- ==== Sys2Proof/Laws/Cxl.lean ====
section
/-!
SUPPORT. What the operations of Machine/Cxl.lean do to a legal state.
-/

namespace Sys2Proof.Machine

theorem State.whenAwake_follows {s t : State} (h : Follows s t) (a1 : State → State) (k1 : ∀ u, Follows s u → Follows s (a1 u)) : Follows s (State.whenAwake t a1) := by
  unfold State.whenAwake
  try dsimp only
  repeat' first
    | with_reducible exact h | with_reducible assumption | with_reducible apply k1
    | with_reducible apply State.waits_follows | with_reducible apply State.requested_follows
    | with_reducible apply State.ok_follows | with_reducible apply Follows.foldl
    | with_reducible apply Follows.foldlSnd | intro _ | with_reducible rfl | split

theorem State.answerRead_follows {s t : State} (h : Follows s t) (a1) : Follows s (State.answerRead t a1) := by
  unfold State.answerRead
  repeat' first
    | with_reducible exact h | with_reducible apply State.answer_follows

theorem execCxlMemRead_follows {s t : State} (h : Follows s t) (a1 a2 a3) : FollowsNext s (execCxlMemRead a1 a2 a3 t) := by
  unfold execCxlMemRead
  try dsimp only
  apply FollowsNext.next
  repeat' first
    | with_reducible exact h | with_reducible assumption | with_reducible apply State.notDue_follows
    | with_reducible apply State.whenAwake_follows | with_reducible apply State.inRead_follows
    | with_reducible apply State.inRead_after (e := by assumption) | with_reducible apply State.answerRead_follows
    | with_reducible apply State.answer_follows | with_reducible apply Follows.foldl
    | with_reducible apply Follows.foldlSnd | intro _ | with_reducible rfl | split

theorem execCxlMemWrite_follows {s t : State} (h : Follows s t) (a1 a2 a3) : FollowsNext s (execCxlMemWrite a1 a2 a3 t) := by
  unfold execCxlMemWrite
  try dsimp only
  apply FollowsNext.next
  repeat' first
    | with_reducible exact h | with_reducible assumption | with_reducible apply State.notDue_follows
    | with_reducible apply State.whenAwake_follows | with_reducible apply State.inWrite_follows
    | with_reducible apply Follows.foldl | with_reducible apply Follows.foldlSnd | intro _ | with_reducible rfl
    | split

theorem execBar4Read_follows {s t : State} (h : Follows s t) (a1 a2) (a3 a4) : FollowsNext s (execBar4Read a1 a2 a3 a4 t) := by
  unfold execBar4Read
  try dsimp only
  apply FollowsNext.next
  repeat' first
    | with_reducible exact h | with_reducible assumption | with_reducible apply State.notDue_follows
    | with_reducible apply State.answer_follows | with_reducible apply State.whenAwake_follows
    | with_reducible apply State.inRead_follows | with_reducible apply State.inRead_after (e := by assumption)
    | with_reducible apply State.answerRead_follows | with_reducible apply Follows.foldl
    | with_reducible apply Follows.foldlSnd | intro _ | with_reducible rfl | split

theorem execBar4Write_follows {s t : State} (h : Follows s t) (a1 a2) (a3 a4) : FollowsNext s (execBar4Write a1 a2 a3 a4 t) := by
  unfold execBar4Write
  try dsimp only
  apply FollowsNext.next
  repeat' first
    | with_reducible exact h | with_reducible assumption | with_reducible apply State.notDue_follows
    | with_reducible apply State.ok_follows | with_reducible apply State.whenAwake_follows
    | with_reducible apply State.inWrite_follows | with_reducible apply Follows.foldl
    | with_reducible apply Follows.foldlSnd | intro _ | with_reducible rfl | split

theorem execCxlConfigRequest_follows {s t : State} (h : Follows s t) : FollowsNext s (execCxlConfigRequest t) := by
  unfold execCxlConfigRequest
  try dsimp only
  apply FollowsNext.next
  repeat' first
    | with_reducible exact h | with_reducible assumption | with_reducible apply State.ok_follows
    | with_reducible apply State.answer_follows | with_reducible apply Follows.foldl
    | with_reducible apply Follows.foldlSnd | intro _ | with_reducible rfl | split

theorem State.cxlState_follows {s t : State} (h : Follows s t) (a1) : Follows s (State.cxlState t a1) := by
  unfold State.cxlState
  try dsimp only
  repeat' first
    | with_reducible exact h | with_reducible assumption | with_reducible apply State.updCxl_follows
    | with_reducible apply Follows.foldl | with_reducible apply Follows.foldlSnd | intro _ | with_reducible rfl
    | split

theorem execCxlLinkUp_follows {s t : State} (h : Follows s t) (a1 a2) : FollowsNext s (execCxlLinkUp a1 a2 t) := by
  unfold execCxlLinkUp
  try dsimp only
  apply FollowsNext.next
  repeat' first
    | with_reducible exact h | with_reducible assumption | with_reducible apply State.notDue_follows
    | with_reducible apply State.cxlState_follows | with_reducible apply State.ok_follows
    | with_reducible apply State.updCxl_follows | with_reducible apply Follows.foldl
    | with_reducible apply Follows.foldlSnd | intro _ | with_reducible rfl | split

theorem State.countExit_follows {s t : State} (h : Follows s t) : Follows s (State.countExit t) := by
  unfold State.countExit
  repeat' first
    | with_reducible exact h | with_reducible apply State.updCxl_follows | with_reducible apply State.lifeAdd_follows
    | with_reducible apply State.count_follows

theorem State.leaveL0_follows {s t : State} (h : Follows s t) : Follows s (State.leaveL0 t) := by
  unfold State.leaveL0
  try dsimp only
  repeat' first
    | with_reducible apply State.countExit_follows | with_reducible exact h | with_reducible assumption | with_reducible apply State.cxlState_follows
    | with_reducible apply State.updCxl_follows | with_reducible apply State.lifeAdd_follows
    | with_reducible apply State.count_follows | with_reducible apply Follows.foldl
    | with_reducible apply Follows.foldlSnd | intro _ | with_reducible rfl | split

theorem execCxlLinkRecovery_follows {s t : State} (h : Follows s t) : FollowsNext s (execCxlLinkRecovery t) := by
  unfold execCxlLinkRecovery
  try dsimp only
  apply FollowsNext.next
  repeat' first
    | with_reducible exact h | with_reducible assumption | with_reducible apply State.leaveL0_follows
    | with_reducible apply State.ok_follows | with_reducible apply State.notDue_follows
    | with_reducible apply Follows.foldl | with_reducible apply Follows.foldlSnd | intro _ | with_reducible rfl
    | split

theorem execCxlLinkL0_follows {s t : State} (h : Follows s t) : FollowsNext s (execCxlLinkL0 t) := by
  unfold execCxlLinkL0
  try dsimp only
  apply FollowsNext.next
  repeat' first
    | with_reducible exact h | with_reducible assumption | with_reducible apply State.drainEgress_follows
    | with_reducible apply State.cxlState_follows | with_reducible apply State.updCxl_follows
    | with_reducible apply State.ok_follows | with_reducible apply State.notDue_follows
    | with_reducible apply Follows.foldl | with_reducible apply Follows.foldlSnd | intro _ | with_reducible rfl
    | split

theorem State.linkLost_follows {s t : State} (h : Follows s t) (a1 a2) : Follows s (State.linkLost t a1 a2) := by
  unfold State.linkLost
  try dsimp only
  repeat' first
    | with_reducible exact h | with_reducible apply State.countExit_follows | with_reducible apply State.cxlState_follows
    | with_reducible apply State.updCxl_follows | with_reducible apply State.portLoss_follows | split

theorem execCxlLinkTimeout_follows {s t : State} (h : Follows s t) : FollowsNext s (execCxlLinkTimeout t) := by
  unfold execCxlLinkTimeout
  try dsimp only
  apply FollowsNext.next
  repeat' first
    | with_reducible exact h | with_reducible assumption | with_reducible apply State.linkLost_follows
    | with_reducible apply State.ok_follows | with_reducible apply State.notDue_follows
    | with_reducible apply Follows.foldl | with_reducible apply Follows.foldlSnd | intro _ | with_reducible rfl
    | split

theorem State.decoderReset_follows {s t : State} (h : Follows s t) : Follows s (State.decoderReset t) := by
  unfold State.decoderReset
  repeat' first
    | with_reducible exact h | with_reducible apply State.updCxl_follows

theorem execCxlHotReset_follows {s t : State} (h : Follows s t) : FollowsNext s (execCxlHotReset t) := by
  unfold execCxlHotReset
  try dsimp only
  apply FollowsNext.next
  repeat' first
    | with_reducible exact h | with_reducible assumption | with_reducible apply State.decoderReset_follows
    | with_reducible apply State.linkLost_follows | with_reducible apply State.ok_follows
    | with_reducible apply State.notDue_follows | with_reducible apply Follows.foldl
    | with_reducible apply Follows.foldlSnd | intro _ | with_reducible rfl | split

theorem execCxlLinkDisable_follows {s t : State} (h : Follows s t) : FollowsNext s (execCxlLinkDisable t) := by
  unfold execCxlLinkDisable
  try dsimp only
  apply FollowsNext.next
  repeat' first
    | with_reducible exact h | with_reducible assumption | with_reducible apply State.decoderReset_follows
    | with_reducible apply State.linkLost_follows | with_reducible apply State.ok_follows
    | with_reducible apply State.notDue_follows | with_reducible apply Follows.foldl
    | with_reducible apply Follows.foldlSnd | intro _ | with_reducible rfl | split

theorem execCxlFlr_follows {s t : State} (h : Follows s t) : FollowsNext s (execCxlFlr t) := by
  unfold execCxlFlr
  try dsimp only
  apply FollowsNext.next
  repeat' first
    | with_reducible exact h | with_reducible assumption | with_reducible apply State.portLoss_follows
    | with_reducible apply State.ok_follows | with_reducible apply State.notDue_follows
    | with_reducible apply Follows.foldl | with_reducible apply Follows.foldlSnd | intro _ | with_reducible rfl
    | split

theorem execPerstNAssert_follows {s t : State} (h : Follows s t) : FollowsNext s (execPerstNAssert t) := by
  unfold execPerstNAssert
  try dsimp only
  apply FollowsNext.next
  repeat' first
    | with_reducible exact h | with_reducible assumption | with_reducible apply State.notDue_follows
    | with_reducible apply State.updBoot_follows | with_reducible apply State.ok_follows
    | with_reducible apply State.decoderReset_follows | with_reducible apply State.linkLost_follows
    | with_reducible apply Follows.foldl | with_reducible apply Follows.foldlSnd | intro _ | with_reducible rfl
    | split

theorem execPerstNDeassert_follows {s t : State} (h : Follows s t) : FollowsNext s (execPerstNDeassert t) := by
  unfold execPerstNDeassert
  try dsimp only
  apply FollowsNext.next
  repeat' first
    | with_reducible exact h | with_reducible assumption | with_reducible apply State.notDue_follows
    | with_reducible apply State.updBoot_follows | with_reducible apply State.ok_follows
    | with_reducible apply State.cxlState_follows | with_reducible apply Follows.foldl
    | with_reducible apply Follows.foldlSnd | intro _ | with_reducible rfl | split

theorem State.mailboxed_follows {s t : State} (h : Follows s t) (a1 : State → State) (k1 : ∀ u, Follows s u → Follows s (a1 u)) : Follows s (State.mailboxed t a1) := by
  unfold State.mailboxed
  try dsimp only
  repeat' first
    | with_reducible exact h | with_reducible assumption | with_reducible apply k1
    | with_reducible apply State.notDue_follows | with_reducible apply Follows.foldl
    | with_reducible apply Follows.foldlSnd | intro _ | with_reducible rfl | split

theorem execIdentifyMemoryDevice_follows {s t : State} (h : Follows s t) : FollowsNext s (execIdentifyMemoryDevice t) := by
  unfold execIdentifyMemoryDevice
  try dsimp only
  apply FollowsNext.next
  repeat' first
    | with_reducible exact h | with_reducible assumption | with_reducible apply State.mailboxed_follows
    | with_reducible apply State.answer_follows | with_reducible apply Follows.foldl
    | with_reducible apply Follows.foldlSnd | intro _

theorem execGetSupportedLogs_follows {s t : State} (h : Follows s t) : FollowsNext s (execGetSupportedLogs t) := by
  unfold execGetSupportedLogs
  try dsimp only
  apply FollowsNext.next
  repeat' first
    | with_reducible exact h | with_reducible assumption | with_reducible apply State.mailboxed_follows
    | with_reducible apply State.answer_follows | with_reducible apply Follows.foldl
    | with_reducible apply Follows.foldlSnd | intro _

theorem execGetLog_follows {s t : State} (h : Follows s t) (a1 a2) : FollowsNext s (execGetLog a1 a2 t) := by
  unfold execGetLog
  try dsimp only
  apply FollowsNext.next
  repeat' first
    | with_reducible exact h | with_reducible assumption | with_reducible apply State.mailboxed_follows
    | with_reducible apply State.answer_follows | with_reducible apply Follows.foldl
    | with_reducible apply Follows.foldlSnd | intro _ | with_reducible rfl | split

theorem execGetEventRecords_follows {s t : State} (h : Follows s t) (a1) : FollowsNext s (execGetEventRecords a1 t) := by
  unfold execGetEventRecords
  try dsimp only
  apply FollowsNext.next
  repeat' first
    | with_reducible exact h | with_reducible assumption | with_reducible apply State.mailboxed_follows
    | with_reducible apply State.answer_follows | with_reducible apply Follows.foldl
    | with_reducible apply Follows.foldlSnd | intro _

theorem execClearEventRecords_follows {s t : State} (h : Follows s t) (a1 a2) : FollowsNext s (execClearEventRecords a1 a2 t) := by
  unfold execClearEventRecords
  try dsimp only
  apply FollowsNext.next
  repeat' first
    | with_reducible exact h | with_reducible assumption | with_reducible apply State.mailboxed_follows
    | with_reducible apply State.answer_follows | with_reducible apply State.updLogs_follows
    | with_reducible apply Follows.foldl | with_reducible apply Follows.foldlSnd | intro _

theorem execMailboxUnsupported_follows {s t : State} (h : Follows s t) (a1) : FollowsNext s (execMailboxUnsupported a1 t) := by
  unfold execMailboxUnsupported
  try dsimp only
  apply FollowsNext.next
  repeat' first
    | with_reducible exact h | with_reducible assumption | with_reducible apply State.mailboxed_follows
    | with_reducible apply State.notDue_follows | with_reducible apply State.answer_follows
    | with_reducible apply Follows.foldl | with_reducible apply Follows.foldlSnd | intro _ | with_reducible rfl
    | split

end Sys2Proof.Machine
end

