-- ==== Sys2Proof/Laws/Session.lean ====
section
/-!
SUPPORT. What the operations of Machine/Session.lean do to a legal state.
-/

namespace Sys2Proof.Machine

theorem State.switchRoute_follows {s t : State} (h : Follows s t) (a1 a2) : Follows s (State.switchRoute t a1 a2) := by
  unfold State.switchRoute
  try dsimp only
  repeat' first
    | with_reducible exact h | with_reducible assumption | with_reducible apply State.updDnb_follows
    | with_reducible apply Follows.foldl | with_reducible apply Follows.foldlSnd | intro _ | with_reducible rfl
    | split

theorem State.portGone_follows {s t : State} (h : Follows s t) (a1) : Follows s (State.portGone t a1) := by
  unfold State.portGone
  try dsimp only
  repeat' first
    | with_reducible exact h | with_reducible assumption | with_reducible apply State.updPort_follows
    | with_reducible apply State.count_follows | with_reducible apply State.switchRoute_follows
    | with_reducible apply Follows.foldl | with_reducible apply Follows.foldlSnd | intro _

theorem State.checkNeighbour_follows {s t : State} (h : Follows s t) (a1) : Follows s (State.checkNeighbour t a1) := by
  unfold State.checkNeighbour
  try dsimp only
  repeat' first
    | with_reducible exact h | with_reducible assumption | with_reducible apply State.portGone_follows
    | with_reducible apply State.updPort_follows | with_reducible apply State.event_follows
    | with_reducible apply Follows.foldl | with_reducible apply Follows.foldlSnd | intro _ | with_reducible rfl
    | split

theorem State.enterPod_follows {s t : State} (h : Follows s t) (a1) : Follows s (State.enterPod t a1) := by
  unfold State.enterPod
  try dsimp only
  repeat' first
    | with_reducible exact h | with_reducible assumption | with_reducible apply State.updEci_follows
    | with_reducible apply State.updDnb_follows | with_reducible apply State.updSrv_follows
    | with_reducible apply State.checkNeighbour_follows | with_reducible apply Follows.foldl
    | with_reducible apply Follows.foldlSnd | intro _ | with_reducible rfl

theorem State.bindPairs_follows {s t : State} (h : Follows s t) (a1 a2) : Follows s (State.bindPairs t a1 a2) := by
  unfold State.bindPairs
  repeat' first
    | with_reducible exact h | with_reducible assumption | with_reducible apply State.updPair_follows
    | with_reducible apply Follows.foldl | intro _ | split

theorem attachBody_follows {s t : State} (h : Follows s t) (a1) : Follows s (attachBody a1 t) := by
  unfold attachBody
  try dsimp only
  repeat' first
    | with_reducible exact h | with_reducible apply State.refuse_follows | with_reducible apply State.waits_follows
    | with_reducible apply State.updEci_follows | with_reducible apply State.draw_follows
    | with_reducible apply State.bindPairs_follows | with_reducible apply State.enterPod_follows
    | with_reducible apply State.done_follows | intro _ | split | with_reducible apply Follows.ident
    | with_reducible apply Follows.lit | (dsimp only <;> with_reducible rfl)

theorem execAttach_follows {s t : State} (h : Follows s t) (a1) : FollowsNext s (execAttach a1 t) := by
  unfold execAttach
  try dsimp only
  apply FollowsNext.next
  repeat' first
    | with_reducible exact h | with_reducible assumption | with_reducible apply State.command_follows
    | with_reducible apply attachBody_follows | with_reducible apply Follows.foldl
    | with_reducible apply Follows.foldlSnd | intro _

theorem detachBody_follows {s t : State} (h : Follows s t) (a1) : Follows s (detachBody a1 t) := by
  unfold detachBody
  try dsimp only
  repeat' first
    | with_reducible exact h | with_reducible apply State.refuse_follows | with_reducible apply State.updEci_follows
    | with_reducible apply State.begin_follows | with_reducible apply State.tryDetach_follows
    | with_reducible apply State.cancelSession_follows | intro _ | split | with_reducible apply Follows.ident
    | with_reducible apply Follows.lit | (dsimp only <;> with_reducible rfl)

theorem execDetach_follows {s t : State} (h : Follows s t) (a1) : FollowsNext s (execDetach a1 t) := by
  unfold execDetach
  try dsimp only
  apply FollowsNext.next
  repeat' first
    | with_reducible exact h | with_reducible assumption | with_reducible apply State.command_follows
    | with_reducible apply detachBody_follows | with_reducible apply Follows.foldl
    | with_reducible apply Follows.foldlSnd | intro _

theorem State.badToken_follows {s t : State} (h : Follows s t) : Follows s (State.badToken t) := by
  unfold State.badToken
  try dsimp only
  repeat' first
    | with_reducible exact h | with_reducible assumption | with_reducible apply State.updEci_follows
    | with_reducible apply Follows.foldl | with_reducible apply Follows.foldlSnd | intro _ | with_reducible rfl
    | split

theorem State.moveQueue_follows {s t : State} (h : Follows s t) (a1) : Follows s (State.moveQueue t a1) := by
  unfold State.moveQueue
  try dsimp only
  repeat' first
    | with_reducible exact h | with_reducible assumption | with_reducible apply State.putBytes_follows
    | with_reducible apply State.updPair_follows | with_reducible apply Follows.foldl
    | with_reducible apply Follows.foldlSnd | intro _ | with_reducible rfl | split

theorem reattachBody_follows {s t : State} (h : Follows s t) (a1) : Follows s (reattachBody a1 t) := by
  unfold reattachBody
  try dsimp only
  repeat' first
    | with_reducible exact h | with_reducible assumption | with_reducible apply State.refuse_follows
    | with_reducible apply State.badToken_follows | with_reducible apply State.updEci_follows
    | with_reducible apply State.updSession_follows | with_reducible apply State.updPair_follows
    | with_reducible apply State.moveQueue_follows | with_reducible apply State.done_follows
    | with_reducible apply State.begin_follows | with_reducible apply State.deliver_follows
    | with_reducible apply Follows.foldl | intro _ | split | with_reducible apply Follows.ident
    | with_reducible apply Follows.lit | (dsimp only <;> with_reducible rfl)

theorem execReattach_follows {s t : State} (h : Follows s t) (a1) : FollowsNext s (execReattach a1 t) := by
  unfold execReattach
  try dsimp only
  apply FollowsNext.next
  repeat' first
    | with_reducible exact h | with_reducible assumption | with_reducible apply State.command_follows
    | with_reducible apply reattachBody_follows | with_reducible apply Follows.foldl
    | with_reducible apply Follows.foldlSnd | intro _

theorem execReattachLockEnd_follows {s t : State} (h : Follows s t) : FollowsNext s (execReattachLockEnd t) := by
  unfold execReattachLockEnd
  try dsimp only
  apply FollowsNext.next
  repeat' first
    | with_reducible exact h | with_reducible assumption | with_reducible apply State.updEci_follows
    | with_reducible apply State.ok_follows | with_reducible apply State.notDue_follows
    | with_reducible apply Follows.foldl | with_reducible apply Follows.foldlSnd | intro _ | with_reducible rfl
    | split

theorem roleSetBody_follows {s t : State} (h : Follows s t) (a1) : Follows s (roleSetBody a1 t) := by
  unfold roleSetBody
  repeat' first
    | with_reducible exact h | with_reducible apply State.refuse_follows | with_reducible apply State.done_follows
    | with_reducible apply State.updEci_follows | intro _ | split | with_reducible apply Follows.lit
    | (dsimp only <;> with_reducible rfl)

theorem execRoleSet_follows {s t : State} (h : Follows s t) (a1) : FollowsNext s (execRoleSet a1 t) := by
  unfold execRoleSet
  try dsimp only
  apply FollowsNext.next
  repeat' first
    | with_reducible exact h | with_reducible assumption | with_reducible apply State.command_follows
    | with_reducible apply roleSetBody_follows | with_reducible apply Follows.foldl
    | with_reducible apply Follows.foldlSnd | intro _

theorem State.policySet_follows {s t : State} (h : Follows s t) (a1 a2) (a3 a4) : Follows s (State.policySet t a1 a2 a3 a4).2 := by
  unfold State.policySet
  try dsimp only
  repeat' first
    | with_reducible exact h | with_reducible assumption | with_reducible apply State.updEci_follows
    | with_reducible apply State.updTenant_follows | with_reducible apply State.updModel_follows
    | with_reducible apply Follows.foldl | with_reducible apply Follows.foldlSnd | intro _ | with_reducible rfl
    | split

theorem State.policySet_after {s t u : State} {x} {a1} {a2} {a3} {a4} (e : (State.policySet t a1 a2 a3 a4) = (x, u)) (h : Follows s t) : Follows s u := by
  have k := State.policySet_follows h a1 a2 a3 a4
  rwa [e] at k

theorem policyBody_follows {s t : State} (h : Follows s t) (a1) : Follows s (policyBody a1 t) := by
  unfold policyBody
  try dsimp only
  repeat' first
    | with_reducible exact h | with_reducible assumption | with_reducible apply State.refuse_follows
    | with_reducible apply State.policySet_follows | with_reducible apply State.policySet_after (e := by assumption)
    | with_reducible apply State.done_follows | intro _ | split

theorem execPolicySet_follows {s t : State} (h : Follows s t) (a1) : FollowsNext s (execPolicySet a1 t) := by
  unfold execPolicySet
  try dsimp only
  apply FollowsNext.next
  repeat' first
    | with_reducible exact h | with_reducible assumption | with_reducible apply State.command_follows
    | with_reducible apply policyBody_follows | with_reducible apply Follows.foldl
    | with_reducible apply Follows.foldlSnd | intro _

theorem capBody_follows {s t : State} (h : Follows s t) (c) : Follows s (capBody c t) := by
  unfold capBody
  dsimp only
  split
  · exact State.refuse_follows h _ _ _
  · rename_i k
    apply State.done_follows
    refine h.setting (fun l => ⟨l.cap, fun w e => ?_, l.mode, l.modeDue, l.devTimeout, l.longOps⟩) rfl rfl rfl rfl rfl
    simp only [State.settings, State.updPwr, Option.some.injEq] at e
    subst e
    simp only [capLegal]
    omega

theorem execPowerCapSet_follows {s t : State} (h : Follows s t) (a1) : FollowsNext s (execPowerCapSet a1 t) := by
  unfold execPowerCapSet
  try dsimp only
  apply FollowsNext.next
  repeat' first
    | with_reducible exact h | with_reducible assumption | with_reducible apply State.command_follows
    | with_reducible apply capBody_follows | with_reducible apply Follows.foldl
    | with_reducible apply Follows.foldlSnd | intro _

theorem regionBody_follows {s t : State} (h : Follows s t) (a1) : Follows s (regionBody a1 t) := by
  unfold regionBody
  try dsimp only
  repeat' first
    | with_reducible exact h | with_reducible apply State.refuse_follows | with_reducible apply State.done_follows
    | with_reducible apply State.updEci_follows | intro _ | split | with_reducible apply Follows.lit
    | (dsimp only <;> with_reducible rfl)

theorem execRegionRegister_follows {s t : State} (h : Follows s t) (a1) : FollowsNext s (execRegionRegister a1 t) := by
  unfold execRegionRegister
  try dsimp only
  apply FollowsNext.next
  repeat' first
    | with_reducible exact h | with_reducible assumption | with_reducible apply State.command_follows
    | with_reducible apply regionBody_follows | with_reducible apply Follows.foldl
    | with_reducible apply Follows.foldlSnd | intro _

theorem regionReleaseBody_follows {s t : State} (h : Follows s t) (a1) : Follows s (regionReleaseBody a1 t) := by
  unfold regionReleaseBody
  try dsimp only
  repeat' first
    | with_reducible exact h | with_reducible apply State.refuse_follows | with_reducible apply State.done_follows
    | with_reducible apply State.unpattern_follows | with_reducible apply State.updEci_follows | intro _ | split
    | with_reducible apply Follows.lit | (dsimp only <;> with_reducible rfl)

theorem execRegionRelease_follows {s t : State} (h : Follows s t) (a1) : FollowsNext s (execRegionRelease a1 t) := by
  unfold execRegionRelease
  try dsimp only
  apply FollowsNext.next
  repeat' first
    | with_reducible exact h | with_reducible assumption | with_reducible apply State.command_follows
    | with_reducible apply regionReleaseBody_follows | with_reducible apply Follows.foldl
    | with_reducible apply Follows.foldlSnd | intro _

theorem State.shareEntries_follows {s t : State} (h : Follows s t) (a1) : Follows s (State.shareEntries t a1) := by
  unfold State.shareEntries
  repeat' first
    | with_reducible exact h | with_reducible apply State.updSrv_follows

theorem seqOpenBody_follows {s t : State} (h : Follows s t) (a1) : Follows s (seqOpenBody a1 t) := by
  unfold seqOpenBody
  try dsimp only
  repeat' first
    | with_reducible exact h | with_reducible apply State.refuse_follows | with_reducible apply State.waits_follows
    | with_reducible apply State.updSrv_follows | with_reducible apply State.shareEntries_follows
    | with_reducible apply State.done_follows | with_reducible apply State.writeTable_follows | intro _ | split

theorem execSeqOpen_follows {s t : State} (h : Follows s t) (a1) : FollowsNext s (execSeqOpen a1 t) := by
  unfold execSeqOpen
  try dsimp only
  apply FollowsNext.next
  repeat' first
    | with_reducible exact h | with_reducible assumption | with_reducible apply State.command_follows
    | with_reducible apply seqOpenBody_follows | with_reducible apply Follows.foldl
    | with_reducible apply Follows.foldlSnd | intro _

theorem seqCloseBody_follows {s t : State} (h : Follows s t) (a1) : Follows s (seqCloseBody a1 t) := by
  unfold seqCloseBody
  try dsimp only
  repeat' first
    | with_reducible exact h | with_reducible apply State.refuse_follows | with_reducible apply State.done_follows
    | with_reducible apply State.closeSeq_follows | split

theorem execSeqClose_follows {s t : State} (h : Follows s t) (a1) : FollowsNext s (execSeqClose a1 t) := by
  unfold execSeqClose
  try dsimp only
  apply FollowsNext.next
  repeat' first
    | with_reducible exact h | with_reducible assumption | with_reducible apply State.command_follows
    | with_reducible apply seqCloseBody_follows | with_reducible apply Follows.foldl
    | with_reducible apply Follows.foldlSnd | intro _

theorem suspendBody_follows {s t : State} (h : Follows s t) (a1) : Follows s (suspendBody a1 t) := by
  unfold suspendBody
  dsimp only
  repeat' split
  all_goals first
    | with_reducible exact State.refuse_follows h _ _ _
    | with_reducible exact State.done_follows h _ _ _
    | with_reducible exact State.endCmd_follows h _ _ _ _ _
    | with_reducible exact State.updOp_follows (State.begin_follows h _) _ _
    | exact State.tryDrain_follows (State.updEci_follows (State.begin_follows h _) _ (updWhere_length _ _ _))

theorem execSuspend_follows {s t : State} (h : Follows s t) (a1) : FollowsNext s (execSuspend a1 t) := by
  unfold execSuspend
  try dsimp only
  apply FollowsNext.next
  repeat' first
    | with_reducible exact h | with_reducible assumption | with_reducible apply State.command_follows
    | with_reducible apply suspendBody_follows | with_reducible apply Follows.foldl
    | with_reducible apply Follows.foldlSnd | intro _

theorem resumeBody_follows {s t : State} (h : Follows s t) (a1) : Follows s (resumeBody a1 t) := by
  unfold resumeBody
  extract_lets g s1
  have h1 : Follows s s1 := State.updEci_follows (State.setDev_follows h _) _ (updWhere_length _ _ _)
  clear_value s1
  repeat' split
  all_goals first
    | with_reducible exact State.refuse_follows h _ _ _
    | with_reducible exact State.done_follows h _ _ _
    | with_reducible exact State.endCmd_follows h _ _ _ _ _
    | with_reducible exact State.done_follows (State.tellHeld_follows (State.updOp_follows h _ _) _ _) _ _ _
    | exact State.done_follows (Follows.foldl h1 _ _ fun u o k => State.tellHeld_follows k o false) _ _ _

theorem execResume_follows {s t : State} (h : Follows s t) (a1) : FollowsNext s (execResume a1 t) := by
  unfold execResume
  try dsimp only
  apply FollowsNext.next
  repeat' first
    | with_reducible exact h | with_reducible assumption | with_reducible apply State.command_follows
    | with_reducible apply resumeBody_follows | with_reducible apply Follows.foldl
    | with_reducible apply Follows.foldlSnd | intro _

theorem cancelBody_follows {s t : State} (h : Follows s t) (a1) : Follows s (cancelBody a1 t) := by
  unfold cancelBody
  try dsimp only
  repeat' first
    | with_reducible exact h | with_reducible apply State.refuse_follows | with_reducible apply State.endCmd_follows
    | with_reducible apply State.failOp_follows | with_reducible apply State.updOp_follows
    | with_reducible apply State.begin_follows | with_reducible apply State.settle_follows
    | with_reducible apply State.done_follows | with_reducible apply State.cancelWhere_follows | intro _ | split

theorem execCancel_follows {s t : State} (h : Follows s t) (a1) : FollowsNext s (execCancel a1 t) := by
  unfold execCancel
  try dsimp only
  apply FollowsNext.next
  repeat' first
    | with_reducible exact h | with_reducible assumption | with_reducible apply State.command_follows
    | with_reducible apply cancelBody_follows | with_reducible apply Follows.foldl
    | with_reducible apply Follows.foldlSnd | intro _

end Sys2Proof.Machine
end

