-- ==== Sys2Proof/Laws/Updraft.lean ====
section
/-!
SUPPORT. What the operations of Machine/Updraft.lean do to a legal state.
-/

namespace Sys2Proof.Machine

theorem State.goLift_follows {s t : State} (h : Follows s t) (a1) : Follows s (State.goLift t a1) := by
  unfold State.goLift
  try dsimp only
  repeat' first
    | with_reducible exact h | with_reducible assumption | with_reducible apply State.peerRequest_follows
    | with_reducible apply State.updLift_follows | with_reducible apply Follows.foldl
    | with_reducible apply Follows.foldlSnd | intro _ | with_reducible rfl | split

theorem State.giveFrame_follows {s t : State} (h : Follows s t) (a1 a2 a3) : Follows s (State.giveFrame t a1 a2 a3) := by
  unfold State.giveFrame
  repeat' first
    | with_reducible exact h | with_reducible apply State.addFrame_follows | with_reducible apply State.goLift_follows
    | with_reducible apply State.updWframe_follows | with_reducible apply State.updLift_follows

theorem State.feedLift_follows {s t : State} (h : Follows s t) (a1 a2) : Follows s (State.feedLift t a1 a2).1 := by
  unfold State.feedLift
  try dsimp only
  repeat' first
    | with_reducible exact h | with_reducible assumption | with_reducible apply State.takeWeight_follows
    | with_reducible apply State.takeWeight_after (e := by assumption) | with_reducible apply State.giveFrame_follows
    | with_reducible apply Follows.foldl | with_reducible apply Follows.foldlSnd | intro _ | with_reducible rfl
    | split | with_reducible apply Follows.ident | with_reducible apply Follows.lit
    | (dsimp only <;> with_reducible rfl) | rfl

theorem State.feedLifts_follows {s t : State} (h : Follows s t) : Follows s t.feedLifts := by
  unfold State.feedLifts
  generalize t.tiers.lifts = l
  generalize 0 = k
  induction l generalizing t k with
  | nil => exact h
  | cons a l ih =>
    rw [List.foldl_cons]
    split
    · exact ih h _
    · exact ih (State.feedLift_follows h a k) _

theorem State.dropFrame_follows {s t : State} (h : Follows s t) (a1) : Follows s (State.dropFrame t a1) := by
  unfold State.dropFrame
  try dsimp only
  repeat' first
    | with_reducible exact h | with_reducible assumption | with_reducible apply State.feedLifts_follows
    | with_reducible apply State.updTiers_follows | with_reducible apply Follows.foldl
    | with_reducible apply Follows.foldlSnd | intro _ | with_reducible rfl | split

theorem State.queueLift_follows {s t : State} (h : Follows s t) (a1 a2) (a3 a4) : Follows s (State.queueLift t a1 a2 a3 a4) := by
  unfold State.queueLift
  repeat' first
    | with_reducible exact h | with_reducible apply State.updTiers_follows | with_reducible apply State.goLift_follows
    | (dsimp only <;> with_reducible rfl)

theorem State.prefetch_some {s t : State} (h : Follows s t) (a1 a2 a3) : FollowsSome s (State.prefetch t a1 a2 a3) := by
  unfold State.prefetch
  try dsimp only
  repeat' first
    | exact FollowsSome.none _ | with_reducible apply FollowsSome.some | with_reducible exact h
    | with_reducible assumption | with_reducible apply State.takeWeight_follows
    | with_reducible apply State.takeWeight_after (e := by assumption) | with_reducible apply State.giveFrame_follows
    | with_reducible apply State.queueLift_follows | with_reducible apply Follows.foldl
    | with_reducible apply Follows.foldlSnd | split

theorem State.prefetch_follows {s t u : State} {a1} {a2} {a3} (e : (State.prefetch t a1 a2 a3) = some u) (h : Follows s t) : Follows s u :=
  State.prefetch_some h a1 a2 a3 u e

theorem State.readAhead_follows {s t : State} (h : Follows s t) (x fid) (n k : Nat) : Follows s (t.readAhead x fid n k) := by
  induction n generalizing t k with
  | zero => unfold State.readAhead; exact h
  | succ n ih =>
    unfold State.readAhead
    dsimp only
    split
    · exact h
    · split
      · exact h
      · split
        · exact State.count_follows h _
        · split
          · rename_i e
            exact ih (State.count_follows (State.prefetch_follows e h) _) _
          · exact ih h _

theorem State.endWait_follows {s t : State} (h : Follows s t) (a1 a2) : Follows s (State.endWait t a1 a2) := by
  unfold State.endWait
  repeat' first
    | with_reducible exact h | with_reducible apply State.settleStalls_follows
    | with_reducible apply State.updTiers_follows | (dsimp only <;> with_reducible rfl)

theorem State.doneWaits_follows {s t : State} (h : Follows s t) (a1) : Follows s (State.doneWaits t a1) := by
  unfold State.doneWaits
  try dsimp only
  repeat' first
    | with_reducible exact h | with_reducible assumption | with_reducible apply State.settleStalls_follows
    | with_reducible apply State.updTiers_follows | with_reducible apply Follows.foldl
    | with_reducible apply Follows.foldlSnd | intro _ | with_reducible rfl | split

theorem State.countUse_follows {s t : State} (h : Follows s t) (a1) : Follows s (State.countUse t a1) := by
  unfold State.countUse
  try dsimp only
  repeat' first
    | with_reducible exact h | with_reducible assumption | with_reducible apply State.updWframe_follows
    | with_reducible apply State.count_follows | with_reducible apply Follows.foldl
    | with_reducible apply Follows.foldlSnd | intro _ | with_reducible rfl | split

theorem State.badWaits_follows {s t : State} (h : Follows s t) (a1) : Follows s (State.badWaits t a1) := by
  unfold State.badWaits
  repeat' first
    | with_reducible exact h | with_reducible apply State.settleStalls_follows
    | with_reducible apply State.updTiers_follows | (dsimp only <;> with_reducible rfl) | rfl

theorem State.poisonFrame_follows {s t : State} (h : Follows s t) (a1) : Follows s (State.poisonFrame t a1) := by
  unfold State.poisonFrame
  repeat' first
    | with_reducible exact h | with_reducible apply State.badWaits_follows
    | with_reducible apply State.updTiers_follows | with_reducible apply State.event_follows
    | with_reducible apply State.lifeAdd_follows | with_reducible apply State.count_follows
    | (dsimp only <;> with_reducible rfl) | rfl

theorem State.sameMicrosecond_follows {s t : State} (h : Follows s t) (a1 a2) : Follows s (State.sameMicrosecond t a1 a2) := by
  unfold State.sameMicrosecond
  try dsimp only
  repeat' first
    | with_reducible exact h | with_reducible assumption | with_reducible apply State.readAhead_follows
    | with_reducible apply State.count_follows | with_reducible apply State.updLift_follows
    | with_reducible apply State.updWframe_follows | with_reducible apply State.updTiers_follows
    | with_reducible apply State.countUse_follows | with_reducible rfl | split

theorem State.demandFrame_follows {s t : State} (h : Follows s t) (a1 a2 a3) : Follows s (State.demandFrame t a1 a2 a3).2 := by
  unfold State.demandFrame
  try dsimp only
  repeat' first
    | with_reducible exact h | with_reducible assumption | with_reducible apply State.settleStalls_follows
    | with_reducible apply State.updTiers_follows | with_reducible apply State.endWait_follows
    | with_reducible apply State.sameMicrosecond_follows
    | with_reducible apply State.countUse_follows | with_reducible apply State.updLift_follows
    | with_reducible apply State.feedLifts_follows | with_reducible apply State.count_follows
    | with_reducible apply State.queueLift_follows | with_reducible apply State.readAhead_follows
    | with_reducible apply State.poisonFrame_follows | with_reducible apply Follows.foldl
    | with_reducible apply Follows.foldlSnd | intro _ | with_reducible rfl | split

theorem State.demandFrame_after {s t u : State} {x} {a1} {a2} {a3} (e : (State.demandFrame t a1 a2 a3) = (x, u)) (h : Follows s t) : Follows s u := by
  have k := State.demandFrame_follows h a1 a2 a3
  rwa [e] at k

theorem execWeightFrameRead_follows {s t : State} (h : Follows s t) (a1 a2) : FollowsNext s (execWeightFrameRead a1 a2 t) := by
  unfold execWeightFrameRead
  try dsimp only
  apply FollowsNext.next
  repeat' first
    | with_reducible exact h | with_reducible assumption | with_reducible apply State.notDue_follows
    | with_reducible apply State.demandFrame_follows
    | with_reducible apply State.demandFrame_after (e := by assumption) | with_reducible apply State.ok_follows
    | with_reducible apply State.answer_follows | with_reducible apply State.doneWaits_follows
    | with_reducible apply State.waits_follows | with_reducible apply Follows.foldl
    | with_reducible apply Follows.foldlSnd | intro _ | with_reducible rfl | split

theorem State.liftDone_follows {s t : State} (h : Follows s t) (a1) : Follows s (State.liftDone t a1) := by
  unfold State.liftDone
  repeat' first
    | with_reducible exact h | with_reducible apply State.updWframe_follows
    | with_reducible apply State.updTiers_follows | with_reducible apply State.settleStalls_follows
    | (dsimp only <;> with_reducible rfl)

theorem State.liftFails_follows {s t : State} (h : Follows s t) (a1) : Follows s (State.liftFails t a1) := by
  unfold State.liftFails
  try dsimp only
  repeat' first
    | with_reducible exact h | with_reducible assumption | with_reducible apply State.updTiers_follows
    | with_reducible apply State.dropFrame_follows | with_reducible apply State.poisonFrame_follows
    | with_reducible apply State.badWaits_follows | with_reducible apply Follows.foldl
    | with_reducible apply Follows.foldlSnd | intro _ | with_reducible rfl | split
    | with_reducible apply Follows.ident | with_reducible apply Follows.lit | (dsimp only <;> with_reducible rfl)
    | rfl

theorem State.abandonLift_follows {s t : State} (h : Follows s t) (a1) : Follows s (State.abandonLift t a1) := by
  unfold State.abandonLift
  repeat' first
    | with_reducible exact h | with_reducible apply State.settleStalls_follows
    | with_reducible apply State.dropFrame_follows | with_reducible apply State.updTiers_follows
    | (dsimp only <;> with_reducible rfl)

theorem State.nextSource_follows {s t : State} (h : Follows s t) (a1 a2) : Follows s (State.nextSource t a1 a2) := by
  unfold State.nextSource
  try dsimp only
  repeat' first
    | with_reducible exact h | with_reducible assumption | with_reducible apply State.goLift_follows
    | with_reducible apply State.updLift_follows | with_reducible apply State.liftFails_follows
    | with_reducible apply Follows.foldl | with_reducible apply Follows.foldlSnd | intro _ | with_reducible rfl
    | split

theorem State.answerLift_follows {s t : State} (h : Follows s t) (a1 a2 a3) (a4) : Follows s (State.answerLift t a1 a2 a3 a4) := by
  unfold State.answerLift
  repeat' first
    | with_reducible exact h | with_reducible assumption | with_reducible apply State.takeTag_follows
    | with_reducible apply State.takeTag_after (e := by assumption) | with_reducible apply State.sendNow_follows
    | with_reducible apply State.sendStream_follows | with_reducible apply State.dropTag_follows

theorem State.poisonIfDue_follows {s t : State} (h : Follows s t) (a1) : Follows s (State.poisonIfDue t a1) := by
  unfold State.poisonIfDue
  try dsimp only
  repeat' first
    | with_reducible exact h | with_reducible assumption | with_reducible apply State.poisonFrame_follows
    | with_reducible apply Follows.foldl | with_reducible apply Follows.foldlSnd | intro _ | with_reducible rfl
    | split | with_reducible apply Follows.ident | with_reducible apply Follows.lit
    | (dsimp only <;> with_reducible rfl) | rfl

theorem State.retriesFailed_follows {s t : State} (h : Follows s t) (a1) : Follows s (State.retriesFailed t a1) := by
  unfold State.retriesFailed
  try dsimp only
  repeat' first
    | with_reducible exact h | with_reducible assumption | with_reducible apply State.updTiers_follows
    | with_reducible apply State.poisonIfDue_follows | with_reducible apply State.answerLift_follows
    | with_reducible apply State.nextSource_follows | with_reducible apply State.updLift_follows
    | with_reducible apply Follows.foldl | with_reducible apply Follows.foldlSnd | intro _ | with_reducible rfl
    | split | with_reducible apply Follows.ident | with_reducible apply Follows.lit
    | (dsimp only <;> with_reducible rfl) | rfl

theorem State.badRead_follows {s t : State} (h : Follows s t) (a1) : Follows s (State.badRead t a1) := by
  unfold State.badRead
  try dsimp only
  repeat' first
    | with_reducible exact h | with_reducible assumption | with_reducible apply State.retriesFailed_follows
    | with_reducible apply State.updTiers_follows | with_reducible apply State.abandonLift_follows
    | with_reducible apply State.updLift_follows | with_reducible apply State.nextSource_follows
    | with_reducible apply Follows.foldl | with_reducible apply Follows.foldlSnd | intro _ | with_reducible rfl
    | split | with_reducible apply Follows.ident | with_reducible apply Follows.lit
    | (dsimp only <;> with_reducible rfl) | rfl

theorem execLiftComplete_follows {s t : State} (h : Follows s t) (a1 a2) : FollowsNext s (execLiftComplete a1 a2 t) := by
  unfold execLiftComplete
  try dsimp only
  apply FollowsNext.next
  repeat' first
    | with_reducible exact h | with_reducible assumption | with_reducible apply State.notDue_follows
    | with_reducible apply State.waits_follows | with_reducible apply State.badRead_follows
    | with_reducible apply State.ok_follows | with_reducible apply State.readFlash_follows
    | with_reducible apply State.updTiers_follows | with_reducible apply State.answerLift_follows
    | with_reducible apply State.dramUse_follows | with_reducible apply State.markRange_follows
    | with_reducible apply State.liftDone_follows | with_reducible apply State.count_follows
    | with_reducible apply State.putBytes_follows | with_reducible apply Follows.foldl
    | with_reducible apply Follows.foldlSnd | intro _ | with_reducible rfl | split
    | with_reducible apply Follows.ident | with_reducible apply Follows.lit | (dsimp only <;> with_reducible rfl)
    | rfl

theorem execUncorrectableFlashRead_follows {s t : State} (h : Follows s t) (a1 a2) : FollowsNext s (execUncorrectableFlashRead a1 a2 t) := by
  unfold execUncorrectableFlashRead
  try dsimp only
  apply FollowsNext.next
  repeat' first
    | with_reducible exact h | with_reducible assumption | with_reducible apply State.badRead_follows
    | with_reducible apply State.updTiers_follows | with_reducible apply State.ok_follows
    | with_reducible apply State.notDue_follows | with_reducible apply Follows.foldl
    | with_reducible apply Follows.foldlSnd | intro _ | with_reducible rfl | split
    | with_reducible apply Follows.ident | with_reducible apply Follows.lit | (dsimp only <;> with_reducible rfl)
    | rfl

theorem execFlashReadRetry_follows {s t : State} (h : Follows s t) (a1 a2) : FollowsNext s (execFlashReadRetry a1 a2 t) := by
  unfold execFlashReadRetry
  try dsimp only
  apply FollowsNext.next
  repeat' first
    | with_reducible exact h | with_reducible assumption | with_reducible apply State.notDue_follows
    | with_reducible apply State.updBlock_follows | with_reducible apply State.lifeAdd_follows
    | with_reducible apply State.count_follows | with_reducible apply State.ok_follows
    | with_reducible apply State.updTiers_follows | with_reducible apply State.retriesFailed_follows
    | with_reducible apply Follows.foldl | with_reducible apply Follows.foldlSnd | intro _ | with_reducible rfl
    | split

theorem execWeightLateExpire_follows {s t : State} (h : Follows s t) (a1 a2) : FollowsNext s (execWeightLateExpire a1 a2 t) := by
  unfold execWeightLateExpire
  try dsimp only
  apply FollowsNext.next
  repeat' first
    | with_reducible exact h | with_reducible assumption | with_reducible apply State.notDue_follows
    | with_reducible apply State.settleStalls_follows | with_reducible apply State.updTiers_follows
    | with_reducible apply State.ok_follows | with_reducible apply Follows.foldl
    | with_reducible apply Follows.foldlSnd | intro _ | with_reducible rfl | split

theorem State.predict_follows {s t : State} (h : Follows s t) (a1 a2) : Follows s (State.predict t a1 a2) := by
  unfold State.predict
  try dsimp only
  repeat' first
    | with_reducible exact h | with_reducible assumption | with_reducible apply State.count_follows
    | with_reducible apply State.updTiers_follows
    | with_reducible apply State.prefetch_follows (e := by assumption) | with_reducible apply Follows.foldl
    | with_reducible apply Follows.foldlSnd | intro _ | with_reducible rfl | split

theorem State.countPredictions_follows {s t : State} (h : Follows s t) : Follows s (State.countPredictions t) := by
  unfold State.countPredictions
  repeat' first
    | with_reducible exact h | with_reducible apply State.updTiers_follows | with_reducible apply State.add_follows
    | with_reducible rfl

theorem execPredPrefetch_follows {s t : State} (h : Follows s t) (a1 a2 a3) : FollowsNext s (execPredPrefetch a1 a2 a3 t) := by
  unfold execPredPrefetch
  try dsimp only
  apply FollowsNext.next
  repeat' first
    | with_reducible exact h | with_reducible assumption | with_reducible apply State.notDue_follows
    | with_reducible apply State.predict_follows | with_reducible apply State.ok_follows
    | with_reducible apply Follows.foldl | with_reducible apply Follows.foldlSnd | intro _ | with_reducible rfl
    | split

theorem State.feedLift_after {s t u : State} {x} {a1} {a2} (e : (State.feedLift t a1 a2) = (u, x)) (h : Follows s t) : Follows s u := by
  have k := State.feedLift_follows h a1 a2
  rwa [e] at k

theorem State.poisonDue_follows {s t : State} (h : Follows s t) : Follows s (State.poisonDue t) := by
  unfold State.poisonDue
  repeat' first
    | with_reducible exact h | with_reducible assumption | with_reducible apply State.poisonIfDue_follows
    | with_reducible apply Follows.foldl | with_reducible apply Follows.foldlSnd | intro _

end Sys2Proof.Machine
end

