-- ==== Sys2Proof/Laws/Denbel.lean ====
section
/-!
SUPPORT. What the operations of Machine/Denbel.lean do to a legal state.
-/

namespace Sys2Proof.Machine

theorem State.dropReq_follows {s t : State} (h : Follows s t) (a1) : Follows s (State.dropReq t a1) := by
  unfold State.dropReq
  repeat' first
    | with_reducible exact h | with_reducible apply State.updDnb_follows

theorem State.noData_follows {s t : State} (h : Follows s t) (a1 a2) : Follows s (State.noData t a1 a2) := by
  unfold State.noData
  repeat' first
    | with_reducible exact h | with_reducible apply State.updDnb_follows | with_reducible apply State.draw_follows

theorem State.storeLost_follows {s t : State} (h : Follows s t) (a1 a2 a3) : Follows s (State.storeLost t a1 a2 a3) := by
  unfold State.storeLost
  repeat' first
    | with_reducible exact h | with_reducible apply State.event_follows | with_reducible apply State.updCore_follows

theorem State.failReq_follows {s t : State} (h : Follows s t) (a1) : Follows s (State.failReq t a1) := by
  unfold State.failReq
  try dsimp only
  repeat' first
    | with_reducible exact h | with_reducible assumption | with_reducible apply State.failTask_follows
    | with_reducible apply State.dropReq_follows | with_reducible apply State.noData_follows
    | with_reducible apply State.storeLost_follows | with_reducible apply State.nextSource_follows
    | with_reducible apply State.failByHandle_follows | with_reducible apply Follows.foldl
    | with_reducible apply Follows.foldlSnd | intro _ | with_reducible rfl | split
    | with_reducible apply Follows.ident | with_reducible apply Follows.lit | (dsimp only <;> with_reducible rfl)
    | rfl

theorem State.failUnreachable_follows {s t : State} (h : Follows s t) : Follows s (State.failUnreachable t) := by
  unfold State.failUnreachable
  try dsimp only
  repeat' first
    | with_reducible exact h | with_reducible assumption | with_reducible apply State.failReq_follows
    | with_reducible apply State.failByHandle_follows | with_reducible apply State.poisonDue_follows
    | with_reducible apply State.nextSource_follows | with_reducible apply Follows.foldl
    | with_reducible apply Follows.foldlSnd | intro _ | with_reducible rfl | split
    | with_reducible apply Follows.ident | with_reducible apply Follows.lit | (dsimp only <;> with_reducible rfl)
    | rfl

theorem State.finishSwitch_follows {s t : State} (h : Follows s t) : Follows s (State.finishSwitch t) := by
  unfold State.finishSwitch
  try dsimp only
  repeat' first
    | with_reducible exact h | with_reducible assumption | with_reducible apply State.pump_follows
    | with_reducible apply State.updDnb_follows | with_reducible apply Follows.foldl
    | with_reducible apply Follows.foldlSnd | intro _ | with_reducible rfl | split

theorem execPeerTimeout_follows {s t : State} (h : Follows s t) (a1) : FollowsNext s (execPeerTimeout a1 t) := by
  unfold execPeerTimeout
  try dsimp only
  apply FollowsNext.next
  repeat' first
    | with_reducible exact h | with_reducible assumption | with_reducible apply State.notDue_follows
    | with_reducible apply State.finishSwitch_follows | with_reducible apply State.failReq_follows
    | with_reducible apply State.count_follows | with_reducible apply State.ok_follows
    | with_reducible apply Follows.foldl | with_reducible apply Follows.foldlSnd | intro _ | with_reducible rfl
    | split

theorem State.retrainPort_follows {s t : State} (h : Follows s t) (a1) : Follows s (State.retrainPort t a1) := by
  unfold State.retrainPort
  try dsimp only
  repeat' first
    | with_reducible exact h | with_reducible assumption | with_reducible apply State.updPort_follows
    | with_reducible apply State.lifeAdd_follows | with_reducible apply State.count_follows
    | with_reducible apply Follows.foldl | with_reducible apply Follows.foldlSnd | intro _ | with_reducible rfl
    | split

theorem State.replayPort_follows {s t : State} (h : Follows s t) (a1) : Follows s (State.replayPort t a1) := by
  unfold State.replayPort
  try dsimp only
  repeat' first
    | with_reducible exact h | with_reducible apply State.retrainPort_follows | with_reducible apply State.updPort_follows
    | with_reducible apply State.add_follows | split

theorem execDnbFlitReceive_follows {s t : State} (h : Follows s t) (a1 a2) (a3 a4) : FollowsNext s (execDnbFlitReceive a1 a2 a3 a4 t) := by
  unfold execDnbFlitReceive
  try dsimp only
  apply FollowsNext.next
  repeat' first
    | with_reducible exact h | with_reducible assumption | with_reducible apply State.notDue_follows
    | with_reducible apply State.updPort_follows | with_reducible apply State.ok_follows
    | with_reducible apply State.count_follows | with_reducible apply State.replayPort_follows
    | with_reducible apply State.drainPort_follows | with_reducible apply Follows.foldl
    | with_reducible apply Follows.foldlSnd | intro _ | with_reducible rfl | split

theorem execDnbNak_follows {s t : State} (h : Follows s t) (a1 a2) : FollowsNext s (execDnbNak a1 a2 t) := by
  unfold execDnbNak
  try dsimp only
  apply FollowsNext.next
  repeat' first
    | with_reducible exact h | with_reducible assumption | with_reducible apply State.notDue_follows
    | with_reducible apply State.drainPort_follows | with_reducible apply State.replayPort_follows
    | with_reducible apply State.updPort_follows | with_reducible apply State.ok_follows
    | with_reducible apply Follows.foldl | with_reducible apply Follows.foldlSnd | intro _ | with_reducible rfl
    | split

theorem execDnbRetrain_follows {s t : State} (h : Follows s t) (a1) : FollowsNext s (execDnbRetrain a1 t) := by
  unfold execDnbRetrain
  try dsimp only
  apply FollowsNext.next
  repeat' first
    | with_reducible exact h | with_reducible assumption | with_reducible apply State.retrainPort_follows
    | with_reducible apply State.ok_follows | with_reducible apply State.notDue_follows
    | with_reducible apply Follows.foldl | with_reducible apply Follows.foldlSnd | intro _ | with_reducible rfl
    | split

theorem State.regainRoutes_follows {s t : State} (h : Follows s t) (a1) : Follows s (State.regainRoutes t a1) := by
  unfold State.regainRoutes
  repeat' first
    | with_reducible exact h | with_reducible apply State.updDnb_follows

theorem execDnbPortUp_follows {s t : State} (h : Follows s t) (a1 a2) : FollowsNext s (execDnbPortUp a1 a2 t) := by
  unfold execDnbPortUp
  try dsimp only
  apply FollowsNext.next
  repeat' first
    | with_reducible exact h | with_reducible assumption | with_reducible apply State.notDue_follows
    | with_reducible apply State.pump_follows | with_reducible apply State.updPort_follows
    | with_reducible apply State.ok_follows | with_reducible apply State.regainRoutes_follows
    | with_reducible apply Follows.foldl | with_reducible apply Follows.foldlSnd | intro _ | with_reducible rfl
    | split | with_reducible apply Follows.ident | with_reducible apply Follows.lit
    | (dsimp only <;> with_reducible rfl) | rfl

theorem State.portLost_follows {s t : State} (h : Follows s t) (a1) : Follows s (State.portLost t a1) := by
  unfold State.portLost
  repeat' first
    | with_reducible exact h | with_reducible apply State.finishSwitch_follows
    | with_reducible apply State.failUnreachable_follows | with_reducible apply State.portGone_follows

theorem execDnbPortDown_follows {s t : State} (h : Follows s t) (a1) : FollowsNext s (execDnbPortDown a1 t) := by
  unfold execDnbPortDown
  try dsimp only
  apply FollowsNext.next
  repeat' first
    | with_reducible exact h | with_reducible assumption | with_reducible apply State.portLost_follows
    | with_reducible apply State.ok_follows | with_reducible apply State.notDue_follows
    | with_reducible apply Follows.foldl | with_reducible apply Follows.foldlSnd | intro _ | with_reducible rfl
    | split

theorem execDnbPod_follows {s t : State} (h : Follows s t) (a1 a2) : FollowsNext s (execDnbPod a1 a2 t) := by
  unfold execDnbPod
  try dsimp only
  apply FollowsNext.next
  repeat' first
    | with_reducible exact h | with_reducible assumption | with_reducible apply State.notDue_follows
    | with_reducible apply State.finishSwitch_follows | with_reducible apply State.failUnreachable_follows
    | with_reducible apply State.checkNeighbour_follows | with_reducible apply State.updPort_follows
    | with_reducible apply State.ok_follows | with_reducible apply Follows.foldl
    | with_reducible apply Follows.foldlSnd | intro _ | with_reducible rfl | split

theorem State.forward_follows {s t : State} (h : Follows s t) (a1) : Follows s (State.forward t a1) := by
  unfold State.forward
  try dsimp only
  repeat' first
    | with_reducible exact h | with_reducible assumption | with_reducible apply State.count_follows
    | with_reducible apply State.drainPort_follows | with_reducible apply State.updPort_follows
    | with_reducible apply Follows.foldl | with_reducible apply Follows.foldlSnd | intro _ | with_reducible rfl
    | split

theorem execDnbForward_follows {s t : State} (h : Follows s t) (a1) : FollowsNext s (execDnbForward a1 t) := by
  unfold execDnbForward
  try dsimp only
  apply FollowsNext.next
  repeat' first
    | with_reducible exact h | with_reducible assumption | with_reducible apply State.notDue_follows
    | with_reducible apply State.forward_follows | with_reducible apply State.ok_follows
    | with_reducible apply Follows.foldl | with_reducible apply Follows.foldlSnd | intro _ | with_reducible rfl
    | split

theorem State.arrives_follows {s t : State} (h : Follows s t) (a1) (a2 : State → State) (k2 : ∀ u, Follows s u → Follows s (a2 u)) : Follows s (State.arrives t a1 a2) := by
  unfold State.arrives
  repeat' first
    | with_reducible exact h | with_reducible apply k2 | with_reducible apply State.notDue_follows
    | with_reducible apply State.whenAwake_follows | intro _ | split

theorem execDnbWr_follows {s t : State} (h : Follows s t) (a1) : FollowsNext s (execDnbWr a1 t) := by
  unfold execDnbWr
  try dsimp only
  apply FollowsNext.next
  repeat' first
    | with_reducible exact h | with_reducible assumption | with_reducible apply State.arrives_follows
    | with_reducible apply State.sendNow_follows | with_reducible apply State.inWrite_follows
    | with_reducible apply Follows.foldl | with_reducible apply Follows.foldlSnd | intro _

theorem execDnbWrp_follows {s t : State} (h : Follows s t) (a1) : FollowsNext s (execDnbWrp a1 t) := by
  unfold execDnbWrp
  try dsimp only
  apply FollowsNext.next
  repeat' first
    | with_reducible exact h | with_reducible assumption | with_reducible apply State.arrives_follows
    | with_reducible apply State.inWrite_follows | with_reducible apply State.sendNow_follows
    | with_reducible apply Follows.foldl | with_reducible apply Follows.foldlSnd | intro _ | with_reducible rfl
    | split

theorem execDnbRd_follows {s t : State} (h : Follows s t) (a1 a2) : FollowsNext s (execDnbRd a1 a2 t) := by
  unfold execDnbRd
  try dsimp only
  apply FollowsNext.next
  repeat' first
    | with_reducible exact h | with_reducible assumption | with_reducible apply State.arrives_follows
    | with_reducible apply State.inRead_follows | with_reducible apply State.inRead_after (e := by assumption)
    | with_reducible apply State.sendNow_follows | with_reducible apply Follows.foldl
    | with_reducible apply Follows.foldlSnd | intro _ | with_reducible rfl | split
    | with_reducible apply Follows.ident | with_reducible apply Follows.lit | (dsimp only <;> with_reducible rfl)
    | rfl

theorem execDnbRdr_follows {s t : State} (h : Follows s t) (a1) : FollowsNext s (execDnbRdr a1 t) := by
  unfold execDnbRdr
  try dsimp only
  apply FollowsNext.next
  repeat' first
    | with_reducible exact h | with_reducible assumption | with_reducible apply State.arrives_follows
    | with_reducible apply State.finishSwitch_follows | with_reducible apply State.dropReq_follows
    | with_reducible apply State.updDnb_follows | with_reducible apply Follows.foldl
    | with_reducible apply Follows.foldlSnd | intro _ | with_reducible rfl | split

theorem State.acknowledge_follows {s t : State} (h : Follows s t) (d) (n : Nat) : Follows s (t.acknowledge d n) := by
  induction n generalizing t with
  | zero => exact h
  | succ n ih =>
    unfold State.acknowledge
    split
    · exact h
    · exact ih (State.dropReq_follows h _)

theorem execDnbWack_follows {s t : State} (h : Follows s t) (a1) : FollowsNext s (execDnbWack a1 t) := by
  unfold execDnbWack
  try dsimp only
  apply FollowsNext.next
  repeat' first
    | with_reducible exact h | with_reducible assumption | with_reducible apply State.arrives_follows
    | with_reducible apply State.finishSwitch_follows | with_reducible apply State.acknowledge_follows
    | with_reducible apply Follows.foldl | with_reducible apply Follows.foldlSnd | intro _

theorem execDnbLift_follows {s t : State} (h : Follows s t) (a1) : FollowsNext s (execDnbLift a1 t) := by
  unfold execDnbLift
  try dsimp only
  apply FollowsNext.next
  repeat' first
    | with_reducible exact h | with_reducible assumption | with_reducible apply State.arrives_follows
    | with_reducible apply State.answerLift_follows | with_reducible apply State.dramUse_follows
    | with_reducible apply State.updTiers_follows | with_reducible apply Follows.foldl
    | with_reducible apply Follows.foldlSnd | intro _ | with_reducible rfl | split

theorem State.streamStep_follows {s t : State} (h : Follows s t) (a1 a2) (a3 : State → State) (a4 : State → State) (k3 : ∀ u, Follows s u → Follows s (a3 u)) (k4 : ∀ u, Follows s u → Follows s (a4 u)) : Follows s (State.streamStep t a1 a2 a3 a4) := by
  unfold State.streamStep
  try dsimp only
  repeat' first
    | with_reducible exact h | with_reducible assumption | with_reducible apply k3 | with_reducible apply k4
    | with_reducible apply State.notDue_follows | with_reducible apply State.arrives_follows
    | with_reducible apply State.ok_follows | with_reducible apply Follows.foldl
    | with_reducible apply Follows.foldlSnd | intro _ | with_reducible rfl | split
    | with_reducible apply Follows.ident | with_reducible apply Follows.lit | (dsimp only <;> with_reducible rfl)
    | rfl

theorem State.forwardOpen_follows {s t : State} (h : Follows s t) (a1) : Follows s (State.forwardOpen t a1) := by
  unfold State.forwardOpen
  repeat' first
    | with_reducible exact h | with_reducible assumption | with_reducible apply State.takeTag_follows
    | with_reducible apply State.takeTag_after (e := by assumption) | with_reducible apply State.forward_follows

theorem execDnbStreamOpen_follows {s t : State} (h : Follows s t) (a1 a2) : FollowsNext s (execDnbStreamOpen a1 a2 t) := by
  unfold execDnbStreamOpen
  try dsimp only
  apply FollowsNext.next
  repeat' first
    | with_reducible exact h | with_reducible assumption | with_reducible apply State.streamStep_follows
    | with_reducible apply State.forwardOpen_follows | with_reducible apply State.updPort_follows
    | with_reducible apply Follows.foldl | with_reducible apply Follows.foldlSnd | intro _ | with_reducible rfl
    | split | with_reducible apply Follows.ident | with_reducible apply Follows.lit
    | (dsimp only <;> with_reducible rfl) | rfl

theorem State.deliverStream_follows {s t : State} (h : Follows s t) (a1 a2) : Follows s (State.deliverStream t a1 a2) := by
  unfold State.deliverStream
  try dsimp only
  repeat' first
    | with_reducible exact h | with_reducible assumption | with_reducible apply State.putBytes_follows
    | with_reducible apply State.importBytes_follows | with_reducible apply Follows.foldl
    | with_reducible apply Follows.foldlSnd | intro _ | with_reducible rfl | split

theorem execDnbStreamFlit_follows {s t : State} (h : Follows s t) (a1 a2 a3) : FollowsNext s (execDnbStreamFlit a1 a2 a3 t) := by
  unfold execDnbStreamFlit
  try dsimp only
  apply FollowsNext.next
  repeat' first
    | with_reducible exact h | with_reducible assumption | with_reducible apply State.notDue_follows
    | with_reducible apply State.deliverStream_follows | with_reducible apply State.sendStream_follows
    | with_reducible apply State.updPort_follows | with_reducible apply State.waits_follows
    | with_reducible apply State.requested_follows | with_reducible apply State.ok_follows
    | with_reducible apply Follows.foldl | with_reducible apply Follows.foldlSnd | intro _ | with_reducible rfl
    | split

theorem State.endLiftStream_follows {s t : State} (h : Follows s t) (a1 a2) : Follows s (State.endLiftStream t a1 a2) := by
  unfold State.endLiftStream
  try dsimp only
  repeat' first
    | with_reducible exact h | with_reducible assumption | with_reducible apply State.dropReq_follows
    | with_reducible apply State.updLift_follows | with_reducible apply State.nextSource_follows
    | with_reducible apply Follows.foldl | with_reducible apply Follows.foldlSnd | intro _ | with_reducible rfl
    | split

theorem State.endKvStream_follows {s t : State} (h : Follows s t) (a1 a2) : Follows s (State.endKvStream t a1 a2) := by
  unfold State.endKvStream
  try dsimp only
  repeat' first
    | with_reducible exact h | with_reducible assumption | with_reducible apply State.updTransfer_follows
    | with_reducible apply State.endTogether_follows | with_reducible apply Follows.foldl
    | with_reducible apply Follows.foldlSnd | intro _ | with_reducible rfl | split

theorem execDnbStreamEnd_follows {s t : State} (h : Follows s t) (a1 a2) : FollowsNext s (execDnbStreamEnd a1 a2 t) := by
  unfold execDnbStreamEnd
  try dsimp only
  apply FollowsNext.next
  repeat' first
    | with_reducible exact h | with_reducible assumption | with_reducible apply State.notDue_follows
    | with_reducible apply State.waits_follows | with_reducible apply State.streamStep_follows
    | with_reducible apply State.dropTag_follows | with_reducible apply State.forward_follows
    | with_reducible apply State.updPort_follows | with_reducible apply State.finishSwitch_follows
    | with_reducible apply State.endLiftStream_follows | with_reducible apply State.endKvStream_follows
    | with_reducible apply Follows.foldl | with_reducible apply Follows.foldlSnd | intro _ | with_reducible rfl
    | split | with_reducible apply Follows.ident | with_reducible apply Follows.lit
    | (dsimp only <;> with_reducible rfl) | rfl

theorem execDnbKvx_follows {s t : State} (h : Follows s t) (a1 a2) : FollowsNext s (execDnbKvx a1 a2 t) := by
  unfold execDnbKvx
  try dsimp only
  apply FollowsNext.next
  repeat' first
    | with_reducible exact h | with_reducible assumption | with_reducible apply State.arrives_follows
    | with_reducible apply State.kvx_follows | with_reducible apply Follows.foldl
    | with_reducible apply Follows.foldlSnd | intro _

theorem execRefclkLoss_follows {s t : State} (h : Follows s t) : FollowsNext s (execRefclkLoss t) := by
  unfold execRefclkLoss
  try dsimp only
  apply FollowsNext.next
  repeat' first
    | with_reducible exact h | with_reducible assumption | with_reducible apply State.notDue_follows
    | with_reducible apply State.leaveL0_follows | with_reducible apply State.updBoot_follows
    | with_reducible apply State.ok_follows | with_reducible apply State.retrainPort_follows
    | with_reducible apply Follows.foldl | with_reducible apply Follows.foldlSnd | intro _ | with_reducible rfl
    | split

end Sys2Proof.Machine
end

