-- ==== Sys2Proof/Laws/Move.lean ====
section
/-!
SUPPORT. What the operations of Machine/Move.lean do to a legal state.
-/

namespace Sys2Proof.Machine

theorem State.countAccess_follows {s t : State} (h : Follows s t) (a1 a2) (a3 a4) : Follows s (State.countAccess t a1 a2 a3 a4) := by
  unfold State.countAccess
  try dsimp only
  repeat' first
    | with_reducible exact h | with_reducible assumption | with_reducible apply State.activity_follows
    | with_reducible apply Follows.foldl | with_reducible apply Follows.foldlSnd | intro _ | with_reducible rfl
    | split

theorem State.peerRead_follows {s t : State} (h : Follows s t) (a1 a2 a3) : Follows s (State.peerRead t a1 a2 a3).2 := by
  unfold State.peerRead
  try dsimp only
  repeat' first
    | with_reducible exact h | with_reducible assumption | with_reducible apply State.peerAsk_follows
    | with_reducible apply Follows.foldl | with_reducible apply Follows.foldlSnd | intro _ | with_reducible rfl
    | split

theorem State.peerRead_after {s t u : State} {x} {a1} {a2} {a3} (e : (State.peerRead t a1 a2 a3) = (x, u)) (h : Follows s t) : Follows s u := by
  have k := State.peerRead_follows h a1 a2 a3
  rwa [e] at k

theorem State.dropPeerReads_follows {s t : State} (h : Follows s t) (a1 a2 a3) : Follows s (State.dropPeerReads t a1 a2 a3) := by
  unfold State.dropPeerReads
  repeat' first
    | with_reducible exact h | with_reducible apply State.updDnb_follows

theorem State.readSpot_follows {s t : State} (h : Follows s t) (a1 a2 a3) : Follows s (State.readSpot t a1 a2 a3).2 := by
  unfold State.readSpot
  try dsimp only
  repeat' first
    | with_reducible exact h | with_reducible assumption | with_reducible apply State.snoop_follows
    | with_reducible apply State.readAs_follows | with_reducible apply State.readAs_after (e := by assumption)
    | with_reducible apply State.demandFrame_follows
    | with_reducible apply State.demandFrame_after (e := by assumption)
    | with_reducible apply State.drainEgress_follows | with_reducible apply State.peerRead_follows
    | with_reducible apply State.peerRead_after (e := by assumption) | with_reducible apply Follows.foldl
    | with_reducible apply Follows.foldlSnd | intro _ | with_reducible rfl | split
    | with_reducible apply Follows.ident | with_reducible apply Follows.lit | (dsimp only <;> with_reducible rfl)
    | rfl

theorem State.readSpot_after {s t u : State} {x} {a1} {a2} {a3} (e : (State.readSpot t a1 a2 a3) = (x, u)) (h : Follows s t) : Follows s u := by
  have k := State.readSpot_follows h a1 a2 a3
  rwa [e] at k

theorem State.readDone_follows {s t : State} (h : Follows s t) (a1 a2 a3) : Follows s (State.readDone t a1 a2 a3) := by
  unfold State.readDone
  try dsimp only
  repeat' first
    | with_reducible exact h | with_reducible assumption | with_reducible apply State.dramRead_follows
    | with_reducible apply State.countAccess_follows | with_reducible apply State.dropPeerReads_follows
    | with_reducible apply Follows.foldl | with_reducible apply Follows.foldlSnd | intro _ | with_reducible rfl
    | split | with_reducible apply Follows.ident | with_reducible apply Follows.lit
    | (dsimp only <;> with_reducible rfl) | rfl

theorem State.readPieces_follows {s t : State} (h : Follows s t) (x) (l : List (Nat × Nat)) (acc : List MByte) :
    Follows s (State.readPieces x l t acc).2 := by
  induction l generalizing t acc with
  | nil => exact h
  | cons p l ih =>
    unfold State.readPieces
    split
    · split
      · rename_i e
        exact ih (State.readSpot_after e h) _
      · rename_i e
        exact State.readSpot_after e h
    · exact h
    · exact h
    · exact h

theorem State.readPieces_after {s t u : State} {y} {x l acc} (e : State.readPieces x l t acc = (y, u)) (h : Follows s t) : Follows s u := by
  have k := State.readPieces_follows h x l acc
  rwa [e] at k

theorem State.pageUse_follows {s t : State} (h : Follows s t) (a1 a2) : Follows s (State.pageUse t a1 a2) := by
  unfold State.pageUse
  try dsimp only
  repeat' first
    | with_reducible exact h | with_reducible assumption | with_reducible apply State.schedRead_follows
    | with_reducible apply State.updSq_follows | with_reducible apply Follows.foldl
    | with_reducible apply Follows.foldlSnd | intro _ | with_reducible rfl | split
    | with_reducible apply Follows.ident | with_reducible apply Follows.lit | (dsimp only <;> with_reducible rfl)
    | rfl

theorem State.readRange_follows {s t : State} (h : Follows s t) (a1 a2 a3) : Follows s (State.readRange t a1 a2 a3).2 := by
  unfold State.readRange
  try dsimp only
  repeat' first
    | with_reducible exact h | with_reducible assumption | with_reducible apply State.readPieces_follows
    | with_reducible apply State.readPieces_after (e := by assumption) | with_reducible apply State.readDone_follows
    | with_reducible apply State.pageUse_follows | with_reducible apply State.doneWaits_follows
    | with_reducible apply Follows.foldl | with_reducible apply Follows.foldlSnd | intro _ | with_reducible rfl
    | split | with_reducible apply Follows.ident | with_reducible apply Follows.lit
    | (dsimp only <;> with_reducible rfl) | rfl

theorem State.readRange_after {s t u : State} {x} {a1} {a2} {a3} (e : (State.readRange t a1 a2 a3) = (x, u)) (h : Follows s t) : Follows s u := by
  have k := State.readRange_follows h a1 a2 a3
  rwa [e] at k

theorem State.shadowWrite_follows {s t : State} (h : Follows s t) (a1 a2 a3) : Follows s (State.shadowWrite t a1 a2 a3) := by
  unfold State.shadowWrite
  repeat' first
    | with_reducible exact h | with_reducible apply State.updModel_follows | intro _ | split

theorem State.writeSpot_follows {s t : State} (h : Follows s t) (a1 a2) (a3 a4) : Follows s (State.writeSpot t a1 a2 a3 a4) := by
  unfold State.writeSpot
  try dsimp only
  repeat' first
    | with_reducible exact h | with_reducible assumption | with_reducible apply State.shadowWrite_follows
    | with_reducible apply State.snoop_follows | with_reducible apply State.freshWrite_follows
    | with_reducible apply State.dramUse_follows | with_reducible apply State.countAccess_follows
    | with_reducible apply State.noteKv_follows | with_reducible apply State.storeM_follows
    | with_reducible apply State.hostWrite_follows | with_reducible apply State.peerWrite_follows
    | with_reducible apply Follows.foldl | with_reducible apply Follows.foldlSnd | intro _ | with_reducible rfl
    | split | with_reducible apply Follows.ident | with_reducible apply Follows.lit
    | (dsimp only <;> with_reducible rfl) | rfl

theorem State.writePieces_follows {s t : State} (h : Follows s t) (x d va) (l : List (Nat × Nat)) :
    Follows s (State.writePieces x d va l t).2 := by
  induction l generalizing t with
  | nil => exact h
  | cons p l ih =>
    unfold State.writePieces
    split
    · exact ih (State.writeSpot_follows (State.pageUse_follows h _ _) _ _ _ _)
    all_goals exact h

theorem State.writePieces_after {s t u : State} {y} {x l va ps} (e : State.writePieces x l va ps t = (y, u)) (h : Follows s t) : Follows s u := by
  have k := State.writePieces_follows h x l va ps
  rwa [e] at k

theorem State.writeRange_follows {s t : State} (h : Follows s t) (a1 a2 a3) : Follows s (State.writeRange t a1 a2 a3).2 := by
  unfold State.writeRange
  repeat' first
    | with_reducible exact h | with_reducible assumption | with_reducible apply State.writePieces_follows

theorem State.writeRange_after {s t u : State} {x} {a1} {a2} {a3} (e : (State.writeRange t a1 a2 a3) = (x, u)) (h : Follows s t) : Follows s u := by
  have k := State.writeRange_follows h a1 a2 a3
  rwa [e] at k

theorem State.storeCore_follows {s t : State} (h : Follows s t) (a1 a2 a3) : Follows s (State.storeCore t a1 a2 a3) := by
  unfold State.storeCore
  try dsimp only
  repeat' first
    | with_reducible exact h | with_reducible apply State.storeM_follows | split

theorem State.srDraws_follows {s t : State} (h : Follows s t) (a1 a2) (a3 a4) : Follows s (State.srDraws t a1 a2 a3 a4).2 := by
  unfold State.srDraws
  repeat' first
    | with_reducible exact h | with_reducible apply State.updSq_follows

theorem State.srDraws_after {s t u : State} {x} {a1} {a2} {a3} {a4} (e : (State.srDraws t a1 a2 a3 a4) = (x, u)) (h : Follows s t) : Follows s u := by
  have k := State.srDraws_follows h a1 a2 a3 a4
  rwa [e] at k

end Sys2Proof.Machine
end

