-- ==== Sys2Proof/Laws/Reads.lean ====
section
/-!
SUPPORT. What the operations of Machine/Reads.lean do to a legal state.
-/

namespace Sys2Proof.Machine

theorem State.loseShare_follows {s t : State} (h : Follows s t) (a1 a2 a3) : Follows s (State.loseShare t a1 a2 a3) := by
  unfold State.loseShare
  repeat' first
    | with_reducible exact h | with_reducible apply State.updSq_follows | with_reducible apply State.undefine_follows

theorem State.refetchRow_follows {s t : State} (h : Follows s t) (a1 a2) (a3 a4 a5) : Follows s (State.refetchRow t a1 a2 a3 a4 a5).2 := by
  unfold State.refetchRow
  try dsimp only
  repeat' first
    | with_reducible exact h | with_reducible assumption | with_reducible apply State.readRange_follows
    | with_reducible apply State.readRange_after (e := by assumption) | with_reducible apply State.storeCore_follows
    | with_reducible apply State.loseShare_follows | with_reducible apply Follows.foldl
    | with_reducible apply Follows.foldlSnd | intro _ | with_reducible rfl | split
    | with_reducible apply Follows.ident | with_reducible apply Follows.lit | (dsimp only <;> with_reducible rfl)
    | rfl

theorem State.refetchRow_after {s t u : State} {x} {a1} {a2} {a3} {a4} {a5} (e : (State.refetchRow t a1 a2 a3 a4 a5) = (x, u)) (h : Follows s t) : Follows s u := by
  have k := State.refetchRow_follows h a1 a2 a3 a4 a5
  rwa [e] at k

theorem State.refetchSlot_follows {s t : State} (h : Follows s t) (a1 a2 a3) : Follows s (State.refetchSlot t a1 a2 a3).2 := by
  unfold State.refetchSlot
  try dsimp only
  repeat' first
    | with_reducible exact h | with_reducible assumption | with_reducible apply State.loseShare_follows
    | with_reducible apply State.refetchRow_follows | with_reducible apply State.refetchRow_after (e := by assumption)
    | with_reducible apply Follows.foldl | with_reducible apply Follows.foldlSnd | intro _ | with_reducible rfl
    | split | with_reducible apply Follows.ident | with_reducible apply Follows.lit
    | (dsimp only <;> with_reducible rfl) | rfl

theorem State.refetchSlot_after {s t u : State} {x} {a1} {a2} {a3} (e : (State.refetchSlot t a1 a2 a3) = (x, u)) (h : Follows s t) : Follows s u := by
  have k := State.refetchSlot_follows h a1 a2 a3
  rwa [e] at k

theorem State.firstRead_follows {s t : State} (h : Follows s t) (a1 a2) : Follows s (State.firstRead t a1 a2).2 := by
  unfold State.firstRead
  try dsimp only
  repeat' first
    | with_reducible exact h | with_reducible assumption | with_reducible apply State.updSq_follows
    | with_reducible apply State.count_follows | with_reducible apply State.refetchSlot_follows
    | with_reducible apply State.refetchSlot_after (e := by assumption) | with_reducible apply Follows.foldl
    | with_reducible apply Follows.foldlSnd | intro _ | with_reducible rfl | split
    | with_reducible apply Follows.ident | with_reducible apply Follows.lit | (dsimp only <;> with_reducible rfl)
    | rfl

theorem State.firstRead_after {s t u : State} {x} {a1} {a2} (e : (State.firstRead t a1 a2) = (x, u)) (h : Follows s t) : Follows s u := by
  have k := State.firstRead_follows h a1 a2
  rwa [e] at k

theorem State.awaitSlots_follows {s t : State} (h : Follows s t) (q req) (l : List Nat) :
    Follows s (State.awaitSlots t q req l).2 := by
  induction l generalizing t with
  | nil => exact State.unwatch_follows h _ _
  | cons k l ih =>
    unfold State.awaitSlots
    split
    · exact State.waitSlot_follows h _ _ _
    · split
      · rename_i e
        exact ih (State.firstRead_after e h)
      · rename_i e
        exact State.waits_follows (State.firstRead_after e h)

theorem State.awaitSlots_after {s t u : State} {y} {q r l} (e : t.awaitSlots q r l = (y, u)) (h : Follows s t) : Follows s u := by
  have k := State.awaitSlots_follows h q r l
  rwa [e] at k

theorem State.releaseSlot_follows {s t : State} (h : Follows s t) (a1 a2 a3) : Follows s (State.releaseSlot t a1 a2 a3) := by
  unfold State.releaseSlot
  try dsimp only
  repeat' first
    | with_reducible exact h | with_reducible assumption | with_reducible apply State.release_follows
    | with_reducible apply State.count_follows | with_reducible apply Follows.foldl
    | with_reducible apply Follows.foldlSnd | intro _ | with_reducible rfl | split
    | with_reducible apply Follows.ident | with_reducible apply Follows.lit | (dsimp only <;> with_reducible rfl)
    | rfl

theorem State.writeShare_follows {s t : State} (h : Follows s t) (a1 a2) : Follows s (State.writeShare t a1 a2).2 := by
  unfold State.writeShare
  try dsimp only
  repeat' first
    | with_reducible exact h | with_reducible assumption | with_reducible apply State.acquire_follows
    | with_reducible apply State.updSq_follows | with_reducible apply State.storeCore_follows
    | with_reducible apply State.releaseSlot_follows | with_reducible apply Follows.foldl
    | with_reducible apply Follows.foldlSnd | intro _ | with_reducible rfl | split
    | with_reducible apply Follows.ident | with_reducible apply Follows.lit | (dsimp only <;> with_reducible rfl)
    | rfl

theorem State.writeShare_after {s t u : State} {x} {a1} {a2} (e : (State.writeShare t a1 a2) = (x, u)) (h : Follows s t) : Follows s u := by
  have k := State.writeShare_follows h a1 a2
  rwa [e] at k

theorem State.writeShares_follows {s t : State} (h : Follows s t) (own req n w) :
    Follows s (State.writeShares t own req n w).2 := by
  induction n generalizing t w with
  | zero => exact h
  | succ n ih =>
    unfold State.writeShares
    split
    · exact State.unwatch_follows h _ _
    · split
      · exact State.waitSlot_follows h _ _ _
      · exact ih (State.writeShare_follows h _ _) _

theorem State.writeShares_after {s t u : State} {x own req n w} (e : State.writeShares t own req n w = (x, u)) (h : Follows s t) :
    Follows s u := by
  have k := State.writeShares_follows h own req n w
  rwa [e] at k

end Sys2Proof.Machine
end

