-- ==== Sys2Proof/Laws/Dma.lean ====
section
/-!
SUPPORT. What the operations of Machine/Dma.lean do to a legal state.
-/

namespace Sys2Proof.Machine

theorem State.updProg_follows {s t : State} (h : Follows s t) (a1 a2 a3) : Follows s (State.updProg t a1 a2 a3) := by
  unfold State.updProg
  repeat' first
    | with_reducible exact h | with_reducible apply State.updSq_follows

theorem State.untaggedCore_follows {s t : State} (h : Follows s t) (a1 a2 a3) : Follows s (State.untaggedCore t a1 a2 a3) := by
  unfold State.untaggedCore
  try dsimp only
  repeat' first
    | with_reducible exact h | with_reducible assumption | with_reducible apply State.updSq_follows
    | with_reducible apply State.storeCore_follows | with_reducible apply Follows.foldl
    | with_reducible apply Follows.foldlSnd | intro _ | with_reducible rfl | split

theorem State.dmaWrite_follows {s t : State} (h : Follows s t) (a1 a2) : Follows s (State.dmaWrite t a1 a2).2 := by
  unfold State.dmaWrite
  try dsimp only
  repeat' first
    | with_reducible exact h | with_reducible assumption | with_reducible apply State.writeShares_follows
    | with_reducible apply State.writeShares_after (e := by assumption) | with_reducible apply State.updProg_follows
    | with_reducible apply State.unwatch_follows | with_reducible apply State.ok_follows
    | with_reducible apply Follows.foldl | with_reducible apply Follows.foldlSnd | intro _ | with_reducible rfl
    | split | with_reducible apply Follows.ident | with_reducible apply Follows.lit
    | (dsimp only <;> with_reducible rfl) | rfl

theorem State.dmaWrite_after {s t u : State} {x} {a1} {a2} (e : (State.dmaWrite t a1 a2) = (x, u)) (h : Follows s t) : Follows s u := by
  have k := State.dmaWrite_follows h a1 a2
  rwa [e] at k

theorem State.dmaPut_follows {s t : State} (h : Follows s t) (a1 a2) (a3 a4) (a5 a6) : Follows s (State.dmaPut t a1 a2 a3 a4 a5 a6).2 := by
  unfold State.dmaPut
  try dsimp only
  repeat' first
    | with_reducible exact h | with_reducible assumption | with_reducible apply State.activity_follows
    | with_reducible apply State.updProg_follows | with_reducible apply State.unwatch_follows
    | with_reducible apply State.untaggedCore_follows | with_reducible apply State.dmaWrite_follows
    | with_reducible apply State.dmaWrite_after (e := by assumption) | with_reducible apply Follows.foldl
    | with_reducible apply Follows.foldlSnd | intro _ | with_reducible rfl | split
    | with_reducible apply Follows.ident | with_reducible apply Follows.lit | (dsimp only <;> with_reducible rfl)
    | rfl

theorem State.dmaRowDone_follows {s t : State} (h : Follows s t) (a1) : Follows s (State.dmaRowDone t a1) := by
  unfold State.dmaRowDone
  repeat' first
    | with_reducible exact h | with_reducible apply State.updProg_follows | with_reducible apply State.unwatch_follows

theorem State.readDesc_follows {s t : State} (h : Follows s t) (a1 a2) : Follows s (State.readDesc t a1 a2) := by
  unfold State.readDesc
  try dsimp only
  repeat' first
    | with_reducible exact h | with_reducible assumption | with_reducible apply State.schedRead_follows
    | with_reducible apply Follows.foldl | with_reducible apply Follows.foldlSnd | intro _ | with_reducible rfl
    | split | with_reducible apply Follows.ident | with_reducible apply Follows.lit
    | (dsimp only <;> with_reducible rfl) | rfl

theorem State.dmaNext_follows {s t : State} (h : Follows s t) (a1) : Follows s (State.dmaNext t a1) := by
  unfold State.dmaNext
  repeat' first
    | with_reducible exact h | with_reducible apply State.readDesc_follows
    | with_reducible apply State.updProg_follows | with_reducible apply State.unwatch_follows

theorem State.dmaStop_follows {s t : State} (h : Follows s t) (a1 a2 a3) : Follows s (State.dmaStop t a1 a2 a3) := by
  unfold State.dmaStop
  try dsimp only
  repeat' first
    | with_reducible exact h | with_reducible assumption | with_reducible apply State.updProg_follows
    | with_reducible apply State.releaseSlot_follows | with_reducible apply State.consume_follows
    | with_reducible apply State.updSq_follows | with_reducible apply State.failTask_follows
    | with_reducible apply State.dmaNext_follows | with_reducible apply State.doneWaits_follows
    | with_reducible apply Follows.foldl | with_reducible apply Follows.foldlSnd | intro _ | with_reducible rfl
    | split | with_reducible apply Follows.ident | with_reducible apply Follows.lit
    | (dsimp only <;> with_reducible rfl) | rfl

theorem State.storeRoundings_follows {s t : State} (h : Follows s t) (a1) : Follows s (State.storeRoundings t a1).2 := by
  unfold State.storeRoundings
  try dsimp only
  repeat' first
    | with_reducible exact h | with_reducible assumption | with_reducible apply State.srDraws_follows
    | with_reducible apply State.srDraws_after (e := by assumption) | with_reducible apply Follows.foldl
    | with_reducible apply Follows.foldlSnd | intro _ | with_reducible rfl | split

theorem State.storeRoundings_after {s t u : State} {x} {a1} (e : (State.storeRoundings t a1) = (x, u)) (h : Follows s t) : Follows s u := by
  have k := State.storeRoundings_follows h a1
  rwa [e] at k

theorem State.countConverted_follows {s t : State} (h : Follows s t) (a1) : Follows s (State.countConverted t a1) := by
  unfold State.countConverted
  repeat' first
    | with_reducible exact h | with_reducible apply State.activity_follows | split

theorem State.dmaPut_after {s t u : State} {x} {a1} {a2} {a3} {a4} {a5} {a6} (e : (State.dmaPut t a1 a2 a3 a4 a5 a6) = (x, u)) (h : Follows s t) : Follows s u := by
  have k := State.dmaPut_follows h a1 a2 a3 a4 a5 a6
  rwa [e] at k

theorem State.partRow_follows {s t : State} (h : Follows s t) (a1 a2) : Follows s (State.partRow t a1 a2).2 := by
  unfold State.partRow
  try dsimp only
  repeat' first
    | with_reducible exact h | with_reducible assumption | with_reducible apply State.untaggedCore_follows
    | with_reducible apply State.waitSlot_follows | with_reducible apply State.writeShares_follows
    | with_reducible apply State.writeShares_after (e := by assumption) | with_reducible apply State.updProg_follows
    | with_reducible apply Follows.foldl | with_reducible apply Follows.foldlSnd | intro _ | with_reducible rfl
    | split | with_reducible apply Follows.ident | with_reducible apply Follows.lit
    | (dsimp only <;> with_reducible rfl) | rfl

theorem State.partRow_after {s t u : State} {x} {a1} {a2} (e : (State.partRow t a1 a2) = (x, u)) (h : Follows s t) : Follows s u := by
  have k := State.partRow_follows h a1 a2
  rwa [e] at k

theorem State.loadRow_follows {s t : State} (h : Follows s t) (a1 a2 a3) : Follows s (State.loadRow t a1 a2 a3).2 := by
  unfold State.loadRow
  try dsimp only
  repeat' first
    | with_reducible exact h | with_reducible assumption | with_reducible apply State.readRange_follows
    | with_reducible apply State.readRange_after (e := by assumption) | with_reducible apply State.waits_follows
    | with_reducible apply State.dmaPut_follows | with_reducible apply State.dmaPut_after (e := by assumption)
    | with_reducible apply State.countConverted_follows | with_reducible apply State.partRow_follows
    | with_reducible apply State.partRow_after (e := by assumption) | with_reducible apply State.dmaStop_follows
    | with_reducible apply State.draw_follows | with_reducible apply Follows.foldl
    | with_reducible apply Follows.foldlSnd | intro _ | with_reducible rfl | split
    | with_reducible apply Follows.ident | with_reducible apply Follows.lit | (dsimp only <;> with_reducible rfl)
    | rfl

theorem State.loadRow_after {s t u : State} {x} {a1} {a2} {a3} (e : (State.loadRow t a1 a2 a3) = (x, u)) (h : Follows s t) : Follows s u := by
  have k := State.loadRow_follows h a1 a2 a3
  rwa [e] at k

theorem State.storeRow_follows {s t : State} (h : Follows s t) (a1 a2) (a3 a4) (a5 a6) : Follows s (State.storeRow t a1 a2 a3 a4 a5 a6) := by
  unfold State.storeRow
  try dsimp only
  repeat' first
    | with_reducible exact h | with_reducible assumption | with_reducible apply State.dmaRowDone_follows
    | with_reducible apply State.writeRange_follows | with_reducible apply State.writeRange_after (e := by assumption)
    | with_reducible apply State.dmaStop_follows | with_reducible apply State.draw_follows
    | with_reducible apply Follows.foldl | with_reducible apply Follows.foldlSnd | intro _ | with_reducible rfl
    | split | with_reducible apply Follows.ident | with_reducible apply Follows.lit
    | (dsimp only <;> with_reducible rfl) | rfl

theorem State.dmaRows_follows {s t : State} (h : Follows s t) (q ch) (one : DmaNow → State → Bool × State)
    (hp : ∀ n u, Follows s u → Follows s (one n u).2) (a) (n : Nat) : Follows s (t.dmaRows q ch one a n) := by
  induction n generalizing t with
  | zero => exact h
  | succ n ih =>
    unfold State.dmaRows
    split
    · exact h
    · rename_i x _
      split
      · exact h
      · split
        · exact State.dmaNext_follows h _
        · split
          all_goals
            rename_i u e
            have k : Follows s u := by
              split at e
              · exact State.dmaWrite_after e h
              · have g := hp x t h
                rwa [e] at g
          · exact ih k
          · exact k

theorem State.startProgram_follows {s t : State} (h : Follows s t) (a1 a2) : Follows s (State.startProgram t a1 a2) := by
  unfold State.startProgram
  try dsimp only
  repeat' first
    | with_reducible exact h | with_reducible assumption | with_reducible apply State.readDesc_follows
    | with_reducible apply State.updSq_follows | with_reducible apply State.ok_follows
    | with_reducible apply State.notDue_follows | with_reducible apply Follows.foldl
    | with_reducible apply Follows.foldlSnd | intro _ | with_reducible rfl | split
    | with_reducible apply Follows.ident | with_reducible apply Follows.lit | (dsimp only <;> with_reducible rfl)
    | rfl

theorem execDmaProgramStart_follows {s t : State} (h : Follows s t) (a1 a2 a3) : FollowsNext s (execDmaProgramStart a1 a2 a3 t) := by
  unfold execDmaProgramStart
  try dsimp only
  apply FollowsNext.next
  repeat' first
    | with_reducible exact h | with_reducible assumption | with_reducible apply State.parity_follows
    | with_reducible apply State.startProgram_follows | with_reducible apply Follows.foldl
    | with_reducible apply Follows.foldlSnd | intro _ | with_reducible rfl | split
    | with_reducible apply Follows.ident | with_reducible apply Follows.lit | (dsimp only <;> with_reducible rfl)
    | rfl

theorem State.pushLate_follows {s t : State} (h : Follows s t) (a1 a2) : Follows s (State.pushLate t a1 a2) := by
  unfold State.pushLate
  try dsimp only
  repeat' first
    | with_reducible exact h | with_reducible assumption | with_reducible apply State.writeShares_follows
    | with_reducible apply State.writeShares_after (e := by assumption) | with_reducible apply State.answer_follows
    | with_reducible apply State.updProg_follows | with_reducible apply Follows.foldl
    | with_reducible apply Follows.foldlSnd | intro _ | with_reducible rfl | split
    | with_reducible apply Follows.ident | with_reducible apply Follows.lit | (dsimp only <;> with_reducible rfl)
    | rfl

theorem execDmaProgramComplete_follows {s t : State} (h : Follows s t) (a1 a2) : FollowsNext s (execDmaProgramComplete a1 a2 t) := by
  unfold execDmaProgramComplete
  try dsimp only
  apply FollowsNext.next
  repeat' first
    | with_reducible exact h | with_reducible assumption | with_reducible apply State.notDue_follows
    | with_reducible apply State.pushLate_follows | with_reducible apply State.waits_follows
    | with_reducible apply State.updSq_follows | with_reducible apply State.unwatch_follows
    | with_reducible apply State.ok_follows | with_reducible apply Follows.foldl
    | with_reducible apply Follows.foldlSnd | intro _ | with_reducible rfl | split
    | with_reducible apply Follows.ident | with_reducible apply Follows.lit | (dsimp only <;> with_reducible rfl)
    | rfl

theorem State.dmaRun_follows {s t : State} (h : Follows s t) (q ch kind) (one : DmaNow → State → Bool × State)
    (hp : ∀ n u, Follows s u → Follows s (one n u).2) : Follows s (t.dmaRun q ch kind one) := by
  unfold State.dmaRun
  split
  · exact State.notDue_follows h
  · split
    · exact State.notDue_follows h
    · exact State.dmaRows_follows (State.pushLate_follows (State.ok_follows h) _ _) _ _ one hp _ _

theorem loadOne_follows {s t : State} (h : Follows s t) (a1) : Follows s (loadOne a1 t).2 := by
  unfold loadOne
  repeat' first
    | with_reducible exact h | with_reducible assumption | with_reducible apply State.loadRow_follows

theorem loadOne_after {s t u : State} {x} {a1} (e : (loadOne a1 t) = (x, u)) (h : Follows s t) : Follows s u := by
  have k := loadOne_follows h a1
  rwa [e] at k

theorem gatherOne_follows {s t : State} (h : Follows s t) (a1) : Follows s (gatherOne a1 t).2 := by
  unfold gatherOne
  try dsimp only
  repeat' first
    | with_reducible exact h | with_reducible assumption | with_reducible apply State.awaitSlots_follows
    | with_reducible apply State.awaitSlots_after (e := by assumption) | with_reducible apply State.loadRow_follows
    | with_reducible apply State.loadRow_after (e := by assumption) | with_reducible apply Follows.foldl
    | with_reducible apply Follows.foldlSnd | intro _ | with_reducible rfl | split

theorem gatherOne_after {s t u : State} {x} {a1} (e : (gatherOne a1 t) = (x, u)) (h : Follows s t) : Follows s u := by
  have k := gatherOne_follows h a1
  rwa [e] at k

theorem State.coreShares_follows {s t : State} (h : Follows s t) (n fuel got) : Follows s (State.coreShares t n fuel got).2 := by
  induction fuel generalizing t got with
  | zero => exact h
  | succ fuel ih =>
    unfold State.coreShares
    extract_lets off k c
    split
    · exact h
    · split
      all_goals
        rename_i u e
        have g : Follows s u := State.awaitSlots_after e h
      · exact State.updProg_follows g _ _ _
      · dsimp only
        refine ih ?_ _
        split
        · exact State.consume_follows g _ _
        · exact g

theorem State.coreSource_follows {s t : State} (h : Follows s t) (n) : Follows s (t.coreSource n).2 := by
  unfold State.coreSource
  extract_lets off y
  have k : Follows s y.2 := by
    dsimp only [y]
    split
    · exact h
    · exact State.coreShares_follows h _ _ _
  split
  · exact State.activity_follows k _ _ _ _
  · exact k

theorem State.coreSource_after {s t u : State} {x} {n} (e : t.coreSource n = (x, u)) (h : Follows s t) : Follows s u := by
  have k := State.coreSource_follows h n
  rwa [e] at k

theorem storeOne_follows {s t : State} (h : Follows s t) (a1) : Follows s (storeOne a1 t).2 := by
  unfold storeOne
  repeat' first
    | with_reducible exact h | with_reducible assumption | with_reducible apply State.coreSource_follows
    | with_reducible apply State.coreSource_after (e := by assumption)
    | with_reducible apply State.storeRoundings_follows
    | with_reducible apply State.storeRoundings_after (e := by assumption)
    | with_reducible apply State.storeRow_follows | with_reducible apply State.countConverted_follows | split

theorem storeOne_after {s t u : State} {x} {a1} (e : (storeOne a1 t) = (x, u)) (h : Follows s t) : Follows s u := by
  have k := storeOne_follows h a1
  rwa [e] at k

theorem scatterOne_follows {s t : State} (h : Follows s t) (a1) : Follows s (scatterOne a1 t).2 := by
  unfold scatterOne
  try dsimp only
  repeat' first
    | with_reducible exact h | with_reducible assumption | with_reducible apply State.awaitSlots_follows
    | with_reducible apply State.awaitSlots_after (e := by assumption) | with_reducible apply State.coreSource_follows
    | with_reducible apply State.coreSource_after (e := by assumption)
    | with_reducible apply State.storeRoundings_follows
    | with_reducible apply State.storeRoundings_after (e := by assumption)
    | with_reducible apply State.dmaRowDone_follows | with_reducible apply State.updSq_follows
    | with_reducible apply State.storeRow_follows | with_reducible apply State.countConverted_follows
    | with_reducible apply Follows.foldl | with_reducible apply Follows.foldlSnd | intro _ | with_reducible rfl
    | split | with_reducible apply Follows.ident | with_reducible apply Follows.lit
    | (dsimp only <;> with_reducible rfl) | rfl

theorem scatterOne_after {s t u : State} {x} {a1} (e : (scatterOne a1 t) = (x, u)) (h : Follows s t) : Follows s u := by
  have k := scatterOne_follows h a1
  rwa [e] at k

theorem xferOne_follows {s t : State} (h : Follows s t) (a1) : Follows s (xferOne a1 t).2 := by
  unfold xferOne
  try dsimp only
  repeat' first
    | with_reducible exact h | with_reducible assumption | with_reducible apply State.dmaStop_follows
    | with_reducible apply State.coreSource_follows | with_reducible apply State.coreSource_after (e := by assumption)
    | with_reducible apply State.activity_follows | with_reducible apply State.dmaPut_follows
    | with_reducible apply State.dmaPut_after (e := by assumption) | with_reducible apply Follows.foldl
    | with_reducible apply Follows.foldlSnd | intro _ | with_reducible rfl | split
    | with_reducible apply Follows.ident | with_reducible apply Follows.lit | (dsimp only <;> with_reducible rfl)
    | rfl

theorem xferOne_after {s t u : State} {x} {a1} (e : (xferOne a1 t) = (x, u)) (h : Follows s t) : Follows s u := by
  have k := xferOne_follows h a1
  rwa [e] at k

theorem moveOne_follows {s t : State} (h : Follows s t) (n) : Follows s (moveOne n t).2 := by
  unfold moveOne
  dsimp only
  split
  all_goals
    rename_i e
    have k := State.readRange_after e h
  · exact State.waits_follows k
  · exact State.storeRow_follows k _ _ _ _ _ _
  · split
    · exact State.dmaStop_follows (State.writeRange_follows k _ _ _) _ _ _
    · exact State.dmaStop_follows (State.writeRange_follows k _ _ _) _ _ _

theorem execDmaLoad_follows {s t : State} (h : Follows s t) (a1 a2 a3) : FollowsNext s (execDmaLoad a1 a2 a3 t) :=
  .next (State.parity_follows h _ _ _ fun _ k => State.dmaRun_follows k _ _ _ _ fun _ _ g => loadOne_follows g _)

theorem execDmaStore_follows {s t : State} (h : Follows s t) (a1 a2 a3) : FollowsNext s (execDmaStore a1 a2 a3 t) :=
  .next (State.parity_follows h _ _ _ fun _ k => State.dmaRun_follows k _ _ _ _ fun _ _ g => storeOne_follows g _)

theorem execDmaXfer_follows {s t : State} (h : Follows s t) (a1 a2 a3) : FollowsNext s (execDmaXfer a1 a2 a3 t) :=
  .next (State.parity_follows h _ _ _ fun _ k => State.dmaRun_follows k _ _ _ _ fun _ _ g => xferOne_follows g _)

theorem execDmaGather_follows {s t : State} (h : Follows s t) (a1 a2 a3) : FollowsNext s (execDmaGather a1 a2 a3 t) :=
  .next (State.parity_follows h _ _ _ fun _ k => State.dmaRun_follows k _ _ _ _ fun _ _ g => gatherOne_follows g _)

theorem execDmaScatter_follows {s t : State} (h : Follows s t) (a1 a2 a3) : FollowsNext s (execDmaScatter a1 a2 a3 t) :=
  .next (State.parity_follows h _ _ _ fun _ k => State.dmaRun_follows k _ _ _ _ fun _ _ g => scatterOne_follows g _)

theorem execDmaMove_follows {s t : State} (h : Follows s t) (a1 a2 a3) : FollowsNext s (execDmaMove a1 a2 a3 t) :=
  .next (State.parity_follows h _ _ _ fun _ k => State.dmaRun_follows k _ _ _ _ fun _ _ g => moveOne_follows g _)

theorem State.readSlot_follows {s t : State} (h : Follows s t) (a1 a2 a3) : Follows s (State.readSlot t a1 a2 a3) := by
  unfold State.readSlot
  try dsimp only
  repeat' first
    | with_reducible exact h | with_reducible assumption | with_reducible apply State.awaitSlots_follows
    | with_reducible apply State.awaitSlots_after (e := by assumption) | with_reducible apply State.answer_follows
    | with_reducible apply State.consume_follows | with_reducible apply Follows.foldl
    | with_reducible apply Follows.foldlSnd | intro _ | with_reducible rfl | split
    | with_reducible apply Follows.ident | with_reducible apply Follows.lit | (dsimp only <;> with_reducible rfl)
    | rfl

theorem execSlotRead_follows {s t : State} (h : Follows s t) (a1 a2) (a3 a4) : FollowsNext s (execSlotRead a1 a2 a3 a4 t) := by
  unfold execSlotRead
  try dsimp only
  apply FollowsNext.next
  repeat' first
    | with_reducible exact h | with_reducible assumption | with_reducible apply State.parity_follows
    | with_reducible apply State.readSlot_follows | with_reducible apply Follows.foldl
    | with_reducible apply Follows.foldlSnd | intro _ | with_reducible rfl | split
    | with_reducible apply Follows.ident | with_reducible apply Follows.lit | (dsimp only <;> with_reducible rfl)
    | rfl

theorem State.coreShares_after {s t u : State} {x n fuel got} (e : State.coreShares t n fuel got = (x, u)) (h : Follows s t) : Follows s u := by
  have k := State.coreShares_follows h n fuel got
  rwa [e] at k

end Sys2Proof.Machine
end

