-- ==== Sys2Proof/Laws/Dram.lean ====
section
/-!
SUPPORT. What the operations of Machine/Dram.lean do to a legal state.
-/

namespace Sys2Proof.Machine

theorem execDramAccess_follows {s t : State} (h : Follows s t) (a1 a2) : FollowsNext s (execDramAccess a1 a2 t) := by
  unfold execDramAccess
  try dsimp only
  apply FollowsNext.next
  repeat' first
    | with_reducible exact h | with_reducible assumption | with_reducible apply State.notDue_follows
    | with_reducible apply State.waits_follows | with_reducible apply State.updDram_follows
    | with_reducible apply State.ok_follows | with_reducible apply State.dramCheck_follows
    | with_reducible apply Follows.foldl | with_reducible apply Follows.foldlSnd | intro _ | with_reducible rfl
    | split | with_reducible apply Follows.ident | with_reducible apply Follows.lit
    | (dsimp only <;> with_reducible rfl) | rfl

theorem execPrefetchAgePromote_follows {s t : State} (h : Follows s t) (a1) : FollowsNext s (execPrefetchAgePromote a1 t) := by
  unfold execPrefetchAgePromote
  try dsimp only
  apply FollowsNext.next
  repeat' first
    | with_reducible exact h | with_reducible assumption | with_reducible apply State.updDram_follows
    | with_reducible apply State.ok_follows | with_reducible apply State.notDue_follows
    | with_reducible apply Follows.foldl | with_reducible apply Follows.foldlSnd | intro _ | with_reducible rfl
    | split

theorem execRefreshDue_follows {s t : State} (h : Follows s t) (a1 a2) : FollowsNext s (execRefreshDue a1 a2 t) := by
  unfold execRefreshDue
  try dsimp only
  apply FollowsNext.next
  repeat' first
    | with_reducible exact h | with_reducible assumption | with_reducible apply State.notDue_follows
    | with_reducible apply State.updDram_follows | with_reducible apply State.ok_follows
    | with_reducible apply Follows.foldl | with_reducible apply Follows.foldlSnd | intro _ | with_reducible rfl
    | split | with_reducible apply Follows.ident | with_reducible apply Follows.lit
    | (dsimp only <;> with_reducible rfl) | rfl

theorem execDramTempRead_follows {s t : State} (h : Follows s t) (a1 a2) : FollowsNext s (execDramTempRead a1 a2 t) := by
  unfold execDramTempRead
  try dsimp only
  apply FollowsNext.next
  repeat' first
    | with_reducible exact h | with_reducible assumption | with_reducible apply State.notDue_follows
    | with_reducible apply State.updDram_follows | with_reducible apply State.ok_follows
    | with_reducible apply State.lifeAdd_follows | with_reducible apply State.event_follows
    | with_reducible apply Follows.foldl | with_reducible apply Follows.foldlSnd | intro _ | with_reducible rfl
    | split | with_reducible apply Follows.ident | with_reducible apply Follows.lit
    | (dsimp only <;> with_reducible rfl) | rfl

theorem State.patrolLine_follows {s t : State} (h : Follows s t) (a1) : Follows s (State.patrolLine t a1) := by
  unfold State.patrolLine
  try dsimp only
  repeat' first
    | with_reducible exact h | with_reducible assumption | with_reducible apply State.updDram_follows
    | with_reducible apply State.dramAsk_follows | with_reducible apply State.count_follows
    | with_reducible apply Follows.foldl | with_reducible apply Follows.foldlSnd | intro _ | with_reducible rfl
    | split | with_reducible apply Follows.ident | with_reducible apply Follows.lit
    | (dsimp only <;> with_reducible rfl) | rfl

theorem execPatrolScrub_follows {s t : State} (h : Follows s t) (a1) : FollowsNext s (execPatrolScrub a1 t) := by
  unfold execPatrolScrub
  try dsimp only
  apply FollowsNext.next
  repeat' first
    | with_reducible exact h | with_reducible assumption | with_reducible apply State.dramCheck_follows
    | with_reducible apply State.patrolLine_follows | with_reducible apply State.ok_follows
    | with_reducible apply State.notDue_follows | with_reducible apply Follows.foldl
    | with_reducible apply Follows.foldlSnd | intro _ | with_reducible rfl | split
    | with_reducible apply Follows.ident | with_reducible apply Follows.lit | (dsimp only <;> with_reducible rfl)
    | rfl

theorem State.imbOne_follows {s t : State} (h : Follows s t) (a1 a2 a3) : Follows s (State.imbOne t a1 a2 a3) := by
  unfold State.imbOne
  try dsimp only
  repeat' first
    | with_reducible exact h | with_reducible assumption | with_reducible apply State.lifeAdd_follows
    | with_reducible apply State.updDram_follows | with_reducible apply State.event_follows
    | with_reducible apply Follows.foldl | with_reducible apply Follows.foldlSnd | intro _ | with_reducible rfl
    | split

theorem execImbWindowEnd_follows {s t : State} (h : Follows s t) : FollowsNext s (execImbWindowEnd t) := by
  unfold execImbWindowEnd
  try dsimp only
  apply FollowsNext.next
  repeat' first
    | with_reducible exact h | with_reducible assumption | with_reducible apply State.notDue_follows
    | with_reducible apply State.imbOne_follows | with_reducible apply State.ok_follows
    | with_reducible apply State.updDram_follows | with_reducible apply Follows.foldl
    | with_reducible apply Follows.foldlSnd | intro _ | with_reducible rfl | split

theorem State.patrolDue_follows {s t : State} (h : Follows s t) : Follows s (State.patrolDue t) := by
  unfold State.patrolDue
  try dsimp only
  repeat' first
    | with_reducible exact h | with_reducible assumption | with_reducible apply State.patrolLine_follows
    | with_reducible apply Follows.foldl | with_reducible apply Follows.foldlSnd | intro _ | with_reducible rfl
    | split | with_reducible apply Follows.ident | with_reducible apply Follows.lit
    | (dsimp only <;> with_reducible rfl) | rfl

end Sys2Proof.Machine
end

