-- ==== Sys2Proof/Laws/Sleep.lean ====
section
/-!
SUPPORT. What the operations of Machine/Sleep.lean do to a legal state.
-/

namespace Sys2Proof.Machine

theorem execFrontCalmEnter_follows {s t : State} (h : Follows s t) (a1) : FollowsNext s (execFrontCalmEnter a1 t) := by
  unfold execFrontCalmEnter
  try dsimp only
  apply FollowsNext.next
  repeat' first
    | with_reducible exact h | with_reducible assumption | with_reducible apply State.updFront_follows
    | with_reducible apply State.ok_follows | with_reducible apply State.notDue_follows
    | with_reducible apply Follows.foldl | with_reducible apply Follows.foldlSnd | intro _ | with_reducible rfl
    | split

theorem execFrontLullEnter_follows {s t : State} (h : Follows s t) (a1) : FollowsNext s (execFrontLullEnter a1 t) := by
  unfold execFrontLullEnter
  try dsimp only
  apply FollowsNext.next
  repeat' first
    | with_reducible exact h | with_reducible assumption | with_reducible apply State.updFront_follows
    | with_reducible apply State.ok_follows | with_reducible apply State.notDue_follows
    | with_reducible apply Follows.foldl | with_reducible apply Follows.foldlSnd | intro _ | with_reducible rfl
    | split

theorem State.drainCores_follows {s t : State} (h : Follows s t) : Follows s (State.drainCores t) := by
  unfold State.drainCores
  try dsimp only
  repeat' first
    | with_reducible exact h | with_reducible assumption | with_reducible apply State.drainAll_follows
    | with_reducible apply Follows.foldl | with_reducible apply Follows.foldlSnd | intro _

theorem execModuleLullEnter_follows {s t : State} (h : Follows s t) : FollowsNext s (execModuleLullEnter t) := by
  unfold execModuleLullEnter
  try dsimp only
  apply FollowsNext.next
  repeat' first
    | with_reducible exact h | with_reducible assumption | with_reducible apply State.notDue_follows
    | with_reducible apply State.drainCores_follows | with_reducible apply State.ok_follows
    | with_reducible apply State.waits_follows | with_reducible apply State.writeBackCore_follows
    | with_reducible apply State.updPwr_follows | with_reducible apply Follows.foldl
    | with_reducible apply Follows.foldlSnd | intro _ | with_reducible rfl | split

theorem execFrostEnter_follows {s t : State} (h : Follows s t) : FollowsNext s (execFrostEnter t) := by
  unfold execFrostEnter
  try dsimp only
  apply FollowsNext.next
  repeat' first
    | with_reducible exact h | with_reducible assumption | with_reducible apply State.updPwr_follows
    | with_reducible apply State.undefine_follows | with_reducible apply State.ok_follows
    | with_reducible apply State.notDue_follows | with_reducible apply Follows.foldl
    | with_reducible apply Follows.foldlSnd | intro _ | with_reducible rfl | split

theorem execFrontWake_follows {s t : State} (h : Follows s t) (a1) : FollowsNext s (execFrontWake a1 t) := by
  unfold execFrontWake
  try dsimp only
  apply FollowsNext.next
  repeat' first
    | with_reducible exact h | with_reducible assumption | with_reducible apply State.updFront_follows
    | with_reducible apply State.ok_follows | with_reducible apply State.notDue_follows
    | with_reducible apply Follows.foldl | with_reducible apply Follows.foldlSnd | intro _ | with_reducible rfl
    | split

theorem execModuleWake_follows {s t : State} (h : Follows s t) : FollowsNext s (execModuleWake t) := by
  unfold execModuleWake
  try dsimp only
  apply FollowsNext.next
  repeat' first
    | with_reducible exact h | with_reducible assumption | with_reducible apply State.updPwr_follows
    | with_reducible apply State.count_follows | with_reducible apply State.ok_follows
    | with_reducible apply State.notDue_follows | with_reducible apply Follows.foldl
    | with_reducible apply Follows.foldlSnd | intro _ | with_reducible rfl | split

theorem State.frontUp_follows {s t : State} (h : Follows s t) (a1 a2) : Follows s (State.frontUp t a1 a2) := by
  unfold State.frontUp
  try dsimp only
  repeat' first
    | with_reducible exact h | with_reducible assumption | with_reducible apply State.updFront_follows
    | with_reducible apply State.undefine_follows | with_reducible apply State.reloadSquall_follows
    | with_reducible apply State.updSq_follows | with_reducible apply Follows.foldl
    | with_reducible apply Follows.foldlSnd | intro _ | with_reducible rfl | split

theorem State.reloadChip_follows {s t : State} (h : Follows s t) : Follows s (State.reloadChip t) := by
  unfold State.reloadChip
  try dsimp only
  repeat' first
    | with_reducible exact h | with_reducible assumption | with_reducible apply State.reload_follows
    | with_reducible apply Follows.foldl | with_reducible apply Follows.foldlSnd | intro _

theorem execWakeComplete_follows {s t : State} (h : Follows s t) : FollowsNext s (execWakeComplete t) := by
  unfold execWakeComplete
  try dsimp only
  apply FollowsNext.next
  repeat' first
    | with_reducible exact h | with_reducible assumption | with_reducible apply State.updPwr_follows
    | with_reducible apply State.ok_follows | with_reducible apply State.reloadChip_follows
    | with_reducible apply State.notDue_follows | with_reducible apply State.frontUp_follows
    | with_reducible apply Follows.foldl | with_reducible apply Follows.foldlSnd | intro _ | with_reducible rfl
    | split | with_reducible apply Follows.ident | with_reducible apply Follows.lit

end Sys2Proof.Machine
end

