-- ==== Sys2Proof/Laws/Idle.lean ====
section
/-!
SUPPORT. What the operations of Machine/Idle.lean do to a legal state.
-/

namespace Sys2Proof.Machine

theorem State.millisecond_follows {s t : State} (h : Follows s t) : Follows s (State.millisecond t) := by
  unfold State.millisecond
  try dsimp only
  repeat' first
    | with_reducible exact h | with_reducible assumption | with_reducible apply State.lifeAdd_follows
    | with_reducible apply State.updPwr_follows | with_reducible apply State.count_follows
    | with_reducible apply Follows.foldl | with_reducible apply Follows.foldlSnd | intro _ | with_reducible rfl
    | split

theorem State.tick_follows {s t : State} (h : Follows s t) : Follows s (State.tick t) := by
  unfold State.tick
  try dsimp only
  repeat' first
    | with_reducible exact h | with_reducible assumption | with_reducible apply State.updPwr_follows
    | with_reducible apply State.countPredictions_follows | with_reducible apply State.patrolDue_follows
    | with_reducible apply State.scanDue_follows | with_reducible apply State.millisecond_follows
    | with_reducible apply State.pump_follows | with_reducible apply State.drainEgress_follows
    | with_reducible apply State.drainCores_follows | with_reducible apply State.settleStalls_follows
    | with_reducible apply State.feedLifts_follows | with_reducible apply State.vector64_follows
    | with_reducible apply Follows.foldl | with_reducible apply Follows.foldlSnd | intro _ | with_reducible rfl
    | split | with_reducible apply Follows.ident | with_reducible apply Follows.lit
    | (dsimp only <;> with_reducible rfl) | rfl

/-- A nanosecond on an empty queue keeps what a command keeps, but for the time base. -/
theorem State.idle_follows (t : State) : Follows { t with now := t.now + 1, out := .none } t.idle := by
  unfold State.idle
  dsimp only
  split
  · exact State.tick_follows (Follows.refl _)
  · exact Follows.refl _

end Sys2Proof.Machine
end

