-- ==== Sys2Proof/Laws/Mgmt.lean ====
section
/-!
SUPPORT. What the operations of Machine/Mgmt.lean do to a legal state.
-/

namespace Sys2Proof.Machine

theorem State.overMctp_follows {s t : State} (h : Follows s t) (a1 : State → State) (k1 : ∀ u, Follows s u → Follows s (a1 u)) : Follows s (State.overMctp t a1) := by
  unfold State.overMctp
  try dsimp only
  repeat' first
    | with_reducible exact h | with_reducible assumption | with_reducible apply k1
    | with_reducible apply State.answer_follows | with_reducible apply Follows.foldl
    | with_reducible apply Follows.foldlSnd | intro _ | with_reducible rfl | split

theorem State.updMgmt_follows {s t : State} (h : Follows s t) (a1) : Follows s (State.updMgmt t a1) := by
  unfold State.updMgmt
  repeat' first
    | with_reducible exact h | with_reducible apply Follows.lit | (dsimp only <;> with_reducible rfl)

theorem execMgmtEciRequest_follows {s t : State} (h : Follows s t) (a1 a2) : FollowsNext s (execMgmtEciRequest a1 a2 t) := by
  unfold execMgmtEciRequest
  try dsimp only
  apply FollowsNext.next
  repeat' first
    | with_reducible exact h | with_reducible assumption | with_reducible apply State.overMctp_follows
    | with_reducible apply State.answer_follows | with_reducible apply State.final_follows
    | with_reducible apply State.ok_follows | with_reducible apply State.rouse_follows
    | with_reducible apply State.updEci_follows | with_reducible apply Follows.foldl
    | with_reducible apply Follows.foldlSnd | intro _ | with_reducible rfl | split

theorem execMctpControl_follows {s t : State} (h : Follows s t) (a1) : FollowsNext s (execMctpControl a1 t) := by
  unfold execMctpControl
  try dsimp only
  apply FollowsNext.next
  repeat' first
    | with_reducible exact h | with_reducible assumption | with_reducible apply State.overMctp_follows
    | with_reducible apply State.answer_follows | with_reducible apply State.updMgmt_follows
    | with_reducible apply Follows.foldl | with_reducible apply Follows.foldlSnd | intro _ | with_reducible rfl
    | split

theorem execI3cCcc_follows {s t : State} (h : Follows s t) (a1 a2) : FollowsNext s (execI3cCcc a1 a2 t) := by
  unfold execI3cCcc
  try dsimp only
  apply FollowsNext.next
  repeat' first
    | with_reducible exact h | with_reducible assumption | with_reducible apply State.notDue_follows
    | with_reducible apply State.updMgmt_follows | with_reducible apply State.answer_follows
    | with_reducible apply Follows.foldl | with_reducible apply Follows.foldlSnd | intro _ | with_reducible rfl
    | split

theorem State.spdmOn_follows {s t : State} (h : Follows s t) (a1) (a2 : State → State) (k2 : ∀ u, Follows s u → Follows s (a2 u)) : Follows s (State.spdmOn t a1 a2) := by
  unfold State.spdmOn
  try dsimp only
  repeat' first
    | with_reducible exact h | with_reducible assumption | with_reducible apply k2
    | with_reducible apply State.overMctp_follows | with_reducible apply State.notDue_follows
    | with_reducible apply Follows.foldl | with_reducible apply Follows.foldlSnd | intro _ | with_reducible rfl
    | split

theorem State.updSpdm_follows {s t : State} (h : Follows s t) (a1 a2) : Follows s (State.updSpdm t a1 a2) := by
  unfold State.updSpdm
  repeat' first
    | with_reducible exact h | with_reducible apply State.updMgmt_follows | intro _ | split

theorem State.spdmError_follows {s t : State} (h : Follows s t) (a1) : Follows s (State.spdmError t a1) := by
  unfold State.spdmError
  repeat' first
    | with_reducible exact h | with_reducible apply State.answer_follows

theorem execGetVersion_follows {s t : State} (h : Follows s t) (a1) : FollowsNext s (execGetVersion a1 t) := by
  unfold execGetVersion
  try dsimp only
  apply FollowsNext.next
  repeat' first
    | with_reducible exact h | with_reducible assumption | with_reducible apply State.spdmOn_follows
    | with_reducible apply State.answer_follows | with_reducible apply State.updSpdm_follows
    | with_reducible apply Follows.foldl | with_reducible apply Follows.foldlSnd | intro _

theorem execGetCapabilities_follows {s t : State} (h : Follows s t) (a1) : FollowsNext s (execGetCapabilities a1 t) := by
  unfold execGetCapabilities
  try dsimp only
  apply FollowsNext.next
  repeat' first
    | with_reducible exact h | with_reducible assumption | with_reducible apply State.spdmOn_follows
    | with_reducible apply State.answer_follows | with_reducible apply State.updSpdm_follows
    | with_reducible apply State.spdmError_follows | with_reducible apply Follows.foldl
    | with_reducible apply Follows.foldlSnd | intro _ | with_reducible rfl | split

theorem execNegotiateAlgorithms_follows {s t : State} (h : Follows s t) (a1) : FollowsNext s (execNegotiateAlgorithms a1 t) := by
  unfold execNegotiateAlgorithms
  try dsimp only
  apply FollowsNext.next
  repeat' first
    | with_reducible exact h | with_reducible assumption | with_reducible apply State.spdmOn_follows
    | with_reducible apply State.answer_follows | with_reducible apply State.updSpdm_follows
    | with_reducible apply State.spdmError_follows | with_reducible apply Follows.foldl
    | with_reducible apply Follows.foldlSnd | intro _ | with_reducible rfl | split

theorem State.spdmReady_follows {s t : State} (h : Follows s t) (a1) (a2 : State → State) (k2 : ∀ u, Follows s u → Follows s (a2 u)) : Follows s (State.spdmReady t a1 a2) := by
  unfold State.spdmReady
  try dsimp only
  repeat' first
    | with_reducible exact h | with_reducible assumption | with_reducible apply k2
    | with_reducible apply State.spdmOn_follows | with_reducible apply State.spdmError_follows
    | with_reducible apply Follows.foldl | with_reducible apply Follows.foldlSnd | intro _ | with_reducible rfl
    | split

theorem execGetDigests_follows {s t : State} (h : Follows s t) (a1) : FollowsNext s (execGetDigests a1 t) := by
  unfold execGetDigests
  try dsimp only
  apply FollowsNext.next
  repeat' first
    | with_reducible exact h | with_reducible assumption | with_reducible apply State.spdmReady_follows
    | with_reducible apply State.answer_follows | with_reducible apply Follows.foldl
    | with_reducible apply Follows.foldlSnd | intro _

theorem execGetCertificate_follows {s t : State} (h : Follows s t) (a1 a2) (a3 a4) : FollowsNext s (execGetCertificate a1 a2 a3 a4 t) := by
  unfold execGetCertificate
  try dsimp only
  apply FollowsNext.next
  repeat' first
    | with_reducible exact h | with_reducible assumption | with_reducible apply State.spdmReady_follows
    | with_reducible apply State.spdmError_follows | with_reducible apply State.answer_follows
    | with_reducible apply Follows.foldl | with_reducible apply Follows.foldlSnd | intro _ | with_reducible rfl
    | split

theorem execChallenge_follows {s t : State} (h : Follows s t) (a1 a2 a3) : FollowsNext s (execChallenge a1 a2 a3 t) := by
  unfold execChallenge
  try dsimp only
  apply FollowsNext.next
  repeat' first
    | with_reducible exact h | with_reducible assumption | with_reducible apply State.spdmReady_follows
    | with_reducible apply State.spdmError_follows | with_reducible apply State.answer_follows
    | with_reducible apply State.draw_follows | with_reducible apply Follows.foldl
    | with_reducible apply Follows.foldlSnd | intro _ | with_reducible rfl | split

theorem execGetMeasurements_follows {s t : State} (h : Follows s t) (a1 a2 a3) : FollowsNext s (execGetMeasurements a1 a2 a3 t) := by
  unfold execGetMeasurements
  try dsimp only
  apply FollowsNext.next
  repeat' first
    | with_reducible exact h | with_reducible assumption | with_reducible apply State.spdmReady_follows
    | with_reducible apply State.spdmError_follows | with_reducible apply State.answer_follows
    | with_reducible apply State.draw_follows | with_reducible apply Follows.foldl
    | with_reducible apply Follows.foldlSnd | intro _ | with_reducible rfl | split

end Sys2Proof.Machine
end

