-- ==== Sys2Proof/Laws/Pass.lean ====
section
/-!
SUPPORT. What the operations of Machine/Pass.lean do to a legal state.
-/

namespace Sys2Proof.Machine

theorem State.updPass_follows {s t : State} (h : Follows s t) (a1 a2) (a3 a4) : Follows s (State.updPass t a1 a2 a3 a4) := by
  unfold State.updPass
  repeat' first
    | with_reducible exact h | with_reducible apply State.updEng_follows

theorem State.rowWrite_follows {s t : State} (h : Follows s t) (a1 a2) (a3 a4) : Follows s (State.rowWrite t a1 a2 a3 a4) := by
  unfold State.rowWrite
  repeat' first
    | with_reducible exact h | with_reducible assumption | with_reducible apply State.storeM_follows
    | with_reducible apply Follows.foldl | with_reducible apply Follows.foldlSnd | intro _

theorem State.stageTile_follows {s t : State} (h : Follows s t) (a1 a2) : Follows s (State.stageTile t a1 a2) := by
  unfold State.stageTile
  try dsimp only
  repeat' first
    | with_reducible exact h | with_reducible assumption | with_reducible apply State.notDue_follows
    | with_reducible apply State.waitSlot_follows | with_reducible apply State.awaitSlots_follows
    | with_reducible apply State.awaitSlots_after (e := by assumption) | with_reducible apply State.unwatch_follows
    | with_reducible apply State.updSq_follows | with_reducible apply State.storeM_follows
    | with_reducible apply State.coreAccess_follows | with_reducible apply State.ok_follows
    | with_reducible apply State.updPass_follows | with_reducible apply State.updEng_follows
    | with_reducible apply Follows.foldl | with_reducible apply Follows.foldlSnd | intro _ | with_reducible rfl
    | split | with_reducible apply Follows.ident | with_reducible apply Follows.lit
    | (dsimp only <;> with_reducible rfl) | rfl

theorem execTileStage_follows {s t : State} (h : Follows s t) (a1 a2 a3) : FollowsNext s (execTileStage a1 a2 a3 t) := by
  unfold execTileStage
  try dsimp only
  apply FollowsNext.next
  repeat' first
    | with_reducible exact h | with_reducible assumption | with_reducible apply State.parity_follows
    | with_reducible apply State.stageTile_follows | with_reducible apply Follows.foldl
    | with_reducible apply Follows.foldlSnd | intro _ | with_reducible rfl | split
    | with_reducible apply Follows.ident | with_reducible apply Follows.lit | (dsimp only <;> with_reducible rfl)
    | rfl

theorem State.emptyHalf_follows {s t : State} (h : Follows s t) (a1 a2 a3) : Follows s (State.emptyHalf t a1 a2 a3) := by
  unfold State.emptyHalf
  repeat' first
    | with_reducible exact h | with_reducible apply State.undefine_follows | with_reducible apply State.updEng_follows

theorem State.loadTile_follows {s t : State} (h : Follows s t) (a1 a2) : Follows s (State.loadTile t a1 a2) := by
  unfold State.loadTile
  try dsimp only
  repeat' first
    | with_reducible exact h | with_reducible assumption | with_reducible apply State.notDue_follows
    | with_reducible apply State.waits_follows | with_reducible apply State.updEng_follows
    | with_reducible apply State.emptyHalf_follows | with_reducible apply State.ok_follows
    | with_reducible apply State.activity_follows | with_reducible apply Follows.foldl
    | with_reducible apply Follows.foldlSnd | intro _ | with_reducible rfl | split
    | with_reducible apply Follows.ident | with_reducible apply Follows.lit | (dsimp only <;> with_reducible rfl)
    | rfl

theorem execTileLoad_follows {s t : State} (h : Follows s t) (a1 a2 a3) : FollowsNext s (execTileLoad a1 a2 a3 t) := by
  unfold execTileLoad
  try dsimp only
  apply FollowsNext.next
  repeat' first
    | with_reducible exact h | with_reducible assumption | with_reducible apply State.parity_follows
    | with_reducible apply State.loadTile_follows | with_reducible apply Follows.foldl
    | with_reducible apply Follows.foldlSnd | intro _ | with_reducible rfl | split
    | with_reducible apply Follows.ident | with_reducible apply Follows.lit | (dsimp only <;> with_reducible rfl)
    | rfl

theorem State.fetchRows_follows {s t : State} (h : Follows s t) (a1 a2 a3) : Follows s (State.fetchRows t a1 a2 a3) := by
  unfold State.fetchRows
  try dsimp only
  repeat' first
    | with_reducible exact h | with_reducible assumption | with_reducible apply State.waitSlot_follows
    | with_reducible apply State.awaitSlots_follows | with_reducible apply State.awaitSlots_after (e := by assumption)
    | with_reducible apply State.unwatch_follows | with_reducible apply State.rowWrite_follows
    | with_reducible apply State.coreAccess_follows | with_reducible apply State.updSq_follows
    | with_reducible apply State.ok_follows | with_reducible apply State.updPass_follows
    | with_reducible apply State.updEng_follows | with_reducible apply Follows.foldl
    | with_reducible apply Follows.foldlSnd | intro _ | with_reducible rfl | split
    | with_reducible apply Follows.ident | with_reducible apply Follows.lit | (dsimp only <;> with_reducible rfl)
    | rfl

theorem execRowFetch_follows {s t : State} (h : Follows s t) (a1 a2 a3) : FollowsNext s (execRowFetch a1 a2 a3 t) := by
  unfold execRowFetch
  try dsimp only
  apply FollowsNext.next
  repeat' first
    | with_reducible exact h | with_reducible assumption | with_reducible apply State.parity_follows
    | with_reducible apply State.updEng_follows | with_reducible apply State.notDue_follows
    | with_reducible apply State.ok_follows | with_reducible apply State.fetchRows_follows
    | with_reducible apply Follows.foldl | with_reducible apply Follows.foldlSnd | intro _ | with_reducible rfl
    | split | with_reducible apply Follows.ident | with_reducible apply Follows.lit
    | (dsimp only <;> with_reducible rfl) | rfl

theorem State.firstRow_follows {s t : State} (h : Follows s t) (a1 a2 a3) : Follows s (State.firstRow t a1 a2 a3) := by
  unfold State.firstRow
  try dsimp only
  repeat' first
    | with_reducible exact h | with_reducible assumption | with_reducible apply State.updPass_follows
    | with_reducible apply State.updSq_follows | with_reducible apply Follows.foldl
    | with_reducible apply Follows.foldlSnd | intro _ | with_reducible rfl | split

theorem State.entrySlot_follows {s t : State} (h : Follows s t) (a1 a2 a3) : Follows s (State.entrySlot t a1 a2 a3) := by
  unfold State.entrySlot
  try dsimp only
  repeat' first
    | with_reducible exact h | with_reducible assumption | with_reducible apply State.updFront_follows
    | with_reducible apply State.lifeAdd_follows | with_reducible apply State.updEng_follows
    | with_reducible apply Follows.foldl | with_reducible apply Follows.foldlSnd | intro _ | with_reducible rfl
    | split

theorem State.enterRow_follows {s t : State} (h : Follows s t) (a1 a2) : Follows s (State.enterRow t a1 a2) := by
  unfold State.enterRow
  try dsimp only
  repeat' first
    | with_reducible exact h | with_reducible assumption | with_reducible apply State.updEng_follows
    | with_reducible apply State.notDue_follows | with_reducible apply State.waits_follows
    | with_reducible apply State.entrySlot_follows | with_reducible apply State.ok_follows
    | with_reducible apply State.firstRow_follows | with_reducible apply State.updPass_follows
    | with_reducible apply State.activity_follows | with_reducible apply Follows.foldl
    | with_reducible apply Follows.foldlSnd | intro _ | with_reducible rfl | split
    | with_reducible apply Follows.ident | with_reducible apply Follows.lit | (dsimp only <;> with_reducible rfl)
    | rfl

theorem execRowEntry_follows {s t : State} (h : Follows s t) (a1 a2 a3) : FollowsNext s (execRowEntry a1 a2 a3 t) := by
  unfold execRowEntry
  try dsimp only
  apply FollowsNext.next
  repeat' first
    | with_reducible exact h | with_reducible assumption | with_reducible apply State.parity_follows
    | with_reducible apply State.enterRow_follows | with_reducible apply Follows.foldl
    | with_reducible apply Follows.foldlSnd | intro _ | with_reducible rfl | split
    | with_reducible apply Follows.ident | with_reducible apply Follows.lit | (dsimp only <;> with_reducible rfl)
    | rfl

theorem State.mergeAcc_follows {s t : State} (h : Follows s t) (a1 a2) (a3 a4) (a5 a6) (a7 a8) : Follows s (State.mergeAcc t a1 a2 a3 a4 a5 a6 a7 a8) := by
  unfold State.mergeAcc
  repeat' first
    | with_reducible exact h | with_reducible apply State.setMark_follows | with_reducible apply State.putWord_follows

theorem State.promote_follows {s t : State} (h : Follows s t) (a1 a2) (a3 a4) (a5 a6 a7) : Follows s (State.promote t a1 a2 a3 a4 a5 a6 a7) := by
  unfold State.promote
  try dsimp only
  repeat' first
    | with_reducible exact h | with_reducible assumption | with_reducible apply State.updPass_follows
    | with_reducible apply State.mergeAcc_follows | with_reducible apply Follows.foldl
    | with_reducible apply Follows.foldlSnd | intro _ | with_reducible rfl | split

theorem State.promoteSum_follows {s t : State} (h : Follows s t) (a1 a2) (a3 a4) : Follows s (State.promoteSum t a1 a2 a3 a4) := by
  unfold State.promoteSum
  try dsimp only
  repeat' first
    | with_reducible exact h | with_reducible assumption | with_reducible apply State.notDue_follows
    | with_reducible apply State.waits_follows | with_reducible apply State.updEng_follows
    | with_reducible apply State.ok_follows | with_reducible apply State.updPass_follows
    | with_reducible apply State.promote_follows | with_reducible apply Follows.foldl
    | with_reducible apply Follows.foldlSnd | intro _ | with_reducible rfl | split
    | with_reducible apply Follows.ident | with_reducible apply Follows.lit | (dsimp only <;> with_reducible rfl)
    | rfl

theorem execSumPromote_follows {s t : State} (h : Follows s t) (a1 a2) (a3 a4 a5) : FollowsNext s (execSumPromote a1 a2 a3 a4 a5 t) := by
  unfold execSumPromote
  try dsimp only
  apply FollowsNext.next
  repeat' first
    | with_reducible exact h | with_reducible assumption | with_reducible apply State.parity_follows
    | with_reducible apply State.promoteSum_follows | with_reducible apply Follows.foldl
    | with_reducible apply Follows.foldlSnd | intro _ | with_reducible rfl | split
    | with_reducible apply Follows.ident | with_reducible apply Follows.lit | (dsimp only <;> with_reducible rfl)
    | rfl

theorem State.cleanUp_follows {s t : State} (h : Follows s t) (a1 a2 a3) : Follows s (State.cleanUp t a1 a2 a3) := by
  unfold State.cleanUp
  try dsimp only
  repeat' first
    | with_reducible exact h | with_reducible assumption | with_reducible apply State.doneReading_follows
    | with_reducible apply State.updPass_follows | with_reducible apply State.updEng_follows
    | with_reducible apply Follows.foldl | with_reducible apply Follows.foldlSnd | intro _ | with_reducible rfl
    | split

theorem execPassVerdict_follows {s t : State} (h : Follows s t) (a1 a2) : FollowsNext s (execPassVerdict a1 a2 t) := by
  unfold execPassVerdict
  try dsimp only
  apply FollowsNext.next
  repeat' first
    | with_reducible exact h | with_reducible assumption | with_reducible apply State.notDue_follows
    | with_reducible apply State.updPass_follows | with_reducible apply State.ok_follows
    | with_reducible apply State.cleanUp_follows | with_reducible apply State.updEng_follows
    | with_reducible apply Follows.foldl | with_reducible apply Follows.foldlSnd | intro _ | with_reducible rfl
    | split

theorem State.doRepeat_follows {s t : State} (h : Follows s t) (a1 a2 a3) : Follows s (State.doRepeat t a1 a2 a3) := by
  unfold State.doRepeat
  try dsimp only
  repeat' first
    | with_reducible exact h | with_reducible assumption | with_reducible apply State.updEng_follows
    | with_reducible apply State.emptyHalf_follows | with_reducible apply State.mergeAcc_follows
    | with_reducible apply State.lifeAdd_follows | with_reducible apply State.activity_follows
    | with_reducible apply State.coreAccess_follows | with_reducible apply State.updPass_follows
    | with_reducible apply State.cleanUp_follows | with_reducible apply Follows.foldl
    | with_reducible apply Follows.foldlSnd | intro _ | with_reducible rfl | split

theorem State.nextRepeat_follows {s t : State} (h : Follows s t) (a1 a2) : Follows s (State.nextRepeat t a1 a2) := by
  unfold State.nextRepeat
  try dsimp only
  repeat' first
    | with_reducible exact h | with_reducible assumption | with_reducible apply State.notDue_follows
    | with_reducible apply State.doRepeat_follows | with_reducible apply State.ok_follows
    | with_reducible apply State.waits_follows | with_reducible apply Follows.foldl
    | with_reducible apply Follows.foldlSnd | intro _ | with_reducible rfl | split
    | with_reducible apply Follows.ident | with_reducible apply Follows.lit | (dsimp only <;> with_reducible rfl)
    | rfl

theorem execPassRepeat_follows {s t : State} (h : Follows s t) (a1 a2 a3) : FollowsNext s (execPassRepeat a1 a2 a3 t) := by
  unfold execPassRepeat
  try dsimp only
  apply FollowsNext.next
  repeat' first
    | with_reducible exact h | with_reducible assumption | with_reducible apply State.parity_follows
    | with_reducible apply State.nextRepeat_follows | with_reducible apply Follows.foldl
    | with_reducible apply Follows.foldlSnd | intro _ | with_reducible rfl | split
    | with_reducible apply Follows.ident | with_reducible apply Follows.lit | (dsimp only <;> with_reducible rfl)
    | rfl

theorem State.ejectHeld_follows {s t : State} (h : Follows s t) (a1 a2) : Follows s (State.ejectHeld t a1 a2) := by
  unfold State.ejectHeld
  try dsimp only
  repeat' first
    | with_reducible exact h | with_reducible assumption | with_reducible apply State.notDue_follows
    | with_reducible apply State.waits_follows | with_reducible apply State.updEng_follows
    | with_reducible apply State.ok_follows | with_reducible apply State.doRepeat_follows
    | with_reducible apply Follows.foldl | with_reducible apply Follows.foldlSnd | intro _ | with_reducible rfl
    | split | with_reducible apply Follows.ident | with_reducible apply Follows.lit
    | (dsimp only <;> with_reducible rfl) | rfl

theorem execHeldPassEject_follows {s t : State} (h : Follows s t) (a1 a2 a3) : FollowsNext s (execHeldPassEject a1 a2 a3 t) := by
  unfold execHeldPassEject
  try dsimp only
  apply FollowsNext.next
  repeat' first
    | with_reducible exact h | with_reducible assumption | with_reducible apply State.parity_follows
    | with_reducible apply State.ejectHeld_follows | with_reducible apply Follows.foldl
    | with_reducible apply Follows.foldlSnd | intro _ | with_reducible rfl | split
    | with_reducible apply Follows.ident | with_reducible apply Follows.lit | (dsimp only <;> with_reducible rfl)
    | rfl

theorem State.epilogueRead_follows {s t : State} (h : Follows s t) (a1 a2) : Follows s (State.epilogueRead t a1 a2) := by
  unfold State.epilogueRead
  try dsimp only
  repeat' first
    | with_reducible exact h | with_reducible assumption | with_reducible apply State.notDue_follows
    | with_reducible apply State.waitSlot_follows | with_reducible apply State.acquire_follows
    | with_reducible apply State.unwatch_follows | with_reducible apply State.ok_follows
    | with_reducible apply State.updPass_follows | with_reducible apply State.updEng_follows
    | with_reducible apply State.undefine_follows | with_reducible apply Follows.foldl
    | with_reducible apply Follows.foldlSnd | intro _ | with_reducible rfl | split
    | with_reducible apply Follows.ident | with_reducible apply Follows.lit | (dsimp only <;> with_reducible rfl)
    | rfl

theorem execEpilogueRead_follows {s t : State} (h : Follows s t) (a1 a2 a3) : FollowsNext s (execEpilogueRead a1 a2 a3 t) := by
  unfold execEpilogueRead
  try dsimp only
  apply FollowsNext.next
  repeat' first
    | with_reducible exact h | with_reducible assumption | with_reducible apply State.parity_follows
    | with_reducible apply State.epilogueRead_follows | with_reducible apply Follows.foldl
    | with_reducible apply Follows.foldlSnd | intro _ | with_reducible rfl | split
    | with_reducible apply Follows.ident | with_reducible apply Follows.lit | (dsimp only <;> with_reducible rfl)
    | rfl

theorem State.epilogueWrite_follows {s t : State} (h : Follows s t) (a1 a2) : Follows s (State.epilogueWrite t a1 a2) := by
  unfold State.epilogueWrite
  try dsimp only
  repeat' first
    | with_reducible exact h | with_reducible assumption | with_reducible apply State.notDue_follows
    | with_reducible apply State.awaitSlots_follows | with_reducible apply State.awaitSlots_after (e := by assumption)
    | with_reducible apply State.updPass_follows | with_reducible apply State.storeCore_follows
    | with_reducible apply State.coreAccess_follows | with_reducible apply State.ok_follows
    | with_reducible apply State.release_follows | with_reducible apply State.doneReading_follows
    | with_reducible apply Follows.foldl | with_reducible apply Follows.foldlSnd | intro _ | with_reducible rfl
    | split | with_reducible apply Follows.ident | with_reducible apply Follows.lit
    | (dsimp only <;> with_reducible rfl) | rfl

theorem execEpilogueWrite_follows {s t : State} (h : Follows s t) (a1 a2 a3) : FollowsNext s (execEpilogueWrite a1 a2 a3 t) := by
  unfold execEpilogueWrite
  try dsimp only
  apply FollowsNext.next
  repeat' first
    | with_reducible exact h | with_reducible assumption | with_reducible apply State.parity_follows
    | with_reducible apply State.epilogueWrite_follows | with_reducible apply Follows.foldl
    | with_reducible apply Follows.foldlSnd | intro _ | with_reducible rfl | split
    | with_reducible apply Follows.ident | with_reducible apply Follows.lit | (dsimp only <;> with_reducible rfl)
    | rfl

theorem execPassRetire_follows {s t : State} (h : Follows s t) (a1 a2) : FollowsNext s (execPassRetire a1 a2 t) := by
  unfold execPassRetire
  try dsimp only
  apply FollowsNext.next
  repeat' first
    | with_reducible exact h | with_reducible assumption | with_reducible apply State.notDue_follows
    | with_reducible apply State.updPass_follows | with_reducible apply State.ok_follows
    | with_reducible apply State.updSq_follows | with_reducible apply Follows.foldl
    | with_reducible apply Follows.foldlSnd | intro _ | with_reducible rfl | split

end Sys2Proof.Machine
end

