-- ==== Sys2Proof/Laws/Power.lean ====
section
/-!
SUPPORT. What the operations of Machine/Power.lean do to a legal state.
-/

namespace Sys2Proof.Machine

theorem State.formEstimate_follows {s t : State} (h : Follows s t) (a1) : Follows s (State.formEstimate t a1) := by
  unfold State.formEstimate
  repeat' first
    | with_reducible exact h | with_reducible apply State.updFront_follows

theorem State.capChanged_follows {s t : State} (h : Follows s t) : Follows s (State.capChanged t) := by
  unfold State.capChanged
  repeat' first
    | with_reducible exact h | with_reducible apply State.updPwr_follows | with_reducible apply State.lifeAdd_follows
    | with_reducible apply State.count_follows | (dsimp only <;> with_reducible rfl)

theorem State.takeCap_follows {s t : State} (h : Follows s t) : Follows s t.takeCap := by
  unfold State.takeCap
  split
  · exact h
  · rename_i w e
    apply State.capChanged_follows
    exact h.setting (fun l => ⟨l.capWanted w e, fun _ c => (by cases c), l.mode, l.modeDue, l.devTimeout, l.longOps⟩)
      rfl rfl rfl rfl rfl

theorem State.takeMode_follows {s t : State} (h : Follows s t) : Follows s t.takeMode := by
  unfold State.takeMode
  split
  · exact h
  · rename_i v e
    apply State.capChanged_follows
    refine h.setting (fun l => ⟨l.cap, l.capWanted, ?_, fun _ c => (by cases c), l.devTimeout, l.longOps⟩) rfl rfl rfl rfl rfl
    have k := l.modeDue v e
    simp only [State.settings, State.updPwr, bitsAt, BitVec.toNat_ofNat]
    omega

theorem execPeriodBoundary_follows {s t : State} (h : Follows s t) (a1 a2) : FollowsNext s (execPeriodBoundary a1 a2 t) := by
  unfold execPeriodBoundary
  try dsimp only
  apply FollowsNext.next
  repeat' first
    | with_reducible exact h | with_reducible assumption | with_reducible apply State.notDue_follows
    | with_reducible apply State.takeMode_follows | with_reducible apply State.takeCap_follows
    | with_reducible apply State.ok_follows | with_reducible apply State.formEstimate_follows
    | with_reducible apply State.setShares_follows | with_reducible apply State.updPwr_follows
    | with_reducible apply Follows.foldl | with_reducible apply Follows.foldlSnd | intro _ | with_reducible rfl
    | split

theorem execPowerWindow_follows {s t : State} (h : Follows s t) (a1 a2) : FollowsNext s (execPowerWindow a1 a2 t) := by
  unfold execPowerWindow
  try dsimp only
  apply FollowsNext.next
  repeat' first
    | with_reducible exact h | with_reducible assumption | with_reducible apply State.notDue_follows
    | with_reducible apply State.updPwr_follows | with_reducible apply State.add_follows
    | with_reducible apply State.ok_follows | with_reducible apply State.lifeAdd_follows
    | with_reducible apply State.count_follows | with_reducible apply Follows.foldl
    | with_reducible apply Follows.foldlSnd | intro _ | with_reducible rfl | split

theorem execDroopFire_follows {s t : State} (h : Follows s t) (a1) : FollowsNext s (execDroopFire a1 t) := by
  unfold execDroopFire
  apply FollowsNext.next
  repeat' first
    | with_reducible exact h | with_reducible apply State.notDue_follows | with_reducible apply State.updPwr_follows
    | with_reducible apply State.lifeAdd_follows | with_reducible apply State.count_follows
    | with_reducible apply State.ok_follows | intro _ | split | with_reducible apply Follows.lit
    | (dsimp only <;> with_reducible rfl)

theorem execDroopBurstEnd_follows {s t : State} (h : Follows s t) (a1) : FollowsNext s (execDroopBurstEnd a1 t) := by
  unfold execDroopBurstEnd
  apply FollowsNext.next
  repeat' first
    | with_reducible exact h | with_reducible apply State.updPwr_follows | with_reducible apply State.ok_follows
    | with_reducible apply State.notDue_follows | intro _ | split | with_reducible apply Follows.lit
    | (dsimp only <;> with_reducible rfl)

theorem State.throttle_follows {s t : State} (h : Follows s t) (a1) : Follows s (State.throttle t a1) := by
  unfold State.throttle
  try dsimp only
  repeat' first
    | with_reducible exact h | with_reducible assumption | with_reducible apply State.updPwr_follows
    | with_reducible apply State.event_follows | with_reducible apply State.lifeAdd_follows
    | with_reducible apply State.count_follows | with_reducible apply Follows.foldl
    | with_reducible apply Follows.foldlSnd | intro _ | with_reducible rfl | split

theorem State.readTemps_follows {s t : State} (h : Follows s t) (a1) : Follows s (State.readTemps t a1) := by
  unfold State.readTemps
  try dsimp only
  repeat' first
    | with_reducible exact h | with_reducible assumption | with_reducible apply State.lifeAdd_follows
    | with_reducible apply State.updPwr_follows | with_reducible apply Follows.foldl
    | with_reducible apply Follows.foldlSnd | intro _ | with_reducible rfl

theorem State.binTemps_follows {s t : State} (h : Follows s t) (a1) : Follows s (State.binTemps t a1) := by
  unfold State.binTemps
  try dsimp only
  repeat' first
    | with_reducible exact h | with_reducible assumption | with_reducible apply State.lifeAdd_follows
    | with_reducible apply Follows.foldl | with_reducible apply Follows.foldlSnd | intro _ | with_reducible rfl
    | split | with_reducible apply Follows.ident | with_reducible apply Follows.lit
    | (dsimp only <;> with_reducible rfl) | rfl

theorem execTempSample_follows {s t : State} (h : Follows s t) (a1) : FollowsNext s (execTempSample a1 t) := by
  unfold execTempSample
  try dsimp only
  apply FollowsNext.next
  repeat' first
    | with_reducible exact h | with_reducible assumption | with_reducible apply State.notDue_follows
    | with_reducible apply State.updPwr_follows | with_reducible apply State.binTemps_follows
    | with_reducible apply State.readTemps_follows | with_reducible apply State.ok_follows
    | with_reducible apply State.throttle_follows | with_reducible apply Follows.foldl
    | with_reducible apply Follows.foldlSnd | intro _ | with_reducible rfl | split
    | with_reducible apply Follows.ident | with_reducible apply Follows.lit | (dsimp only <;> with_reducible rfl)
    | rfl

theorem State.tripPower_follows {s t : State} (h : Follows s t) : Follows s t.tripPower := by
  have k : Follows s t.warmReset := State.warmReset_follows h
  unfold State.tripPower
  extract_lets w z
  exact ⟨h.queue, h.clock, h.fuses, fun l =>
    let x := (h.legal l).settings
    ⟨Memory.wf_filter (h.legal l).mem _, (k.legal l).flash,
      ⟨x.cap, x.capWanted, x.mode, x.modeDue, LegalSettings.initial.devTimeout, x.longOps⟩⟩⟩

theorem execThermalTrip_follows {s t : State} (h : Follows s t) (a1 a2) : FollowsNext s (execThermalTrip a1 a2 t) := by
  unfold execThermalTrip
  try dsimp only
  apply FollowsNext.next
  repeat' first
    | with_reducible exact h | with_reducible assumption | with_reducible apply State.notDue_follows
    | with_reducible apply State.lifeAdd_follows | with_reducible apply State.event_follows
    | with_reducible apply State.ok_follows | with_reducible apply State.updPwr_follows
    | with_reducible apply State.tripPower_follows | with_reducible apply State.writeLifetime_follows
    | with_reducible apply State.fault_follows | with_reducible apply Follows.foldl
    | with_reducible apply Follows.foldlSnd | intro _ | with_reducible rfl | split
    | with_reducible apply Follows.ident | with_reducible apply Follows.lit | (dsimp only <;> with_reducible rfl)
    | rfl

theorem execTripRelease_follows {s t : State} (h : Follows s t) (a1) : FollowsNext s (execTripRelease a1 t) := by
  unfold execTripRelease
  try dsimp only
  apply FollowsNext.next
  repeat' first
    | with_reducible exact h | with_reducible assumption | with_reducible apply State.readTemps_follows
    | with_reducible apply State.notDue_follows | with_reducible apply State.updPwr_follows
    | with_reducible apply State.ok_follows | with_reducible apply State.warmBoot_follows
    | with_reducible apply Follows.foldl | with_reducible apply Follows.foldlSnd | intro _ | with_reducible rfl
    | split

end Sys2Proof.Machine
end

