-- ==== Sys2Proof/Laws/Query.lean ====
section
/-!
SUPPORT. What the operations of Machine/Query.lean do to a legal state.
-/

namespace Sys2Proof.Machine

theorem State.writeOut_follows {s t : State} (h : Follows s t) (a1 a2) : Follows s (State.writeOut t a1 a2) := by
  unfold State.writeOut
  try dsimp only
  repeat' first
    | with_reducible exact h | with_reducible assumption | with_reducible apply State.hostWrite_follows
    | with_reducible apply State.store_follows | with_reducible apply Follows.foldl
    | with_reducible apply Follows.foldlSnd | intro _ | with_reducible rfl | split

theorem State.output_follows {s t : State} (h : Follows s t) (a1 a2) : Follows s (State.output t a1 a2) := by
  unfold State.output
  repeat' first
    | with_reducible exact h | with_reducible apply State.done_follows | with_reducible apply State.writeOut_follows

theorem queryBody_follows {s t : State} (h : Follows s t) (a1) : Follows s (queryBody a1 t) := by
  unfold queryBody
  repeat' first
    | with_reducible exact h | with_reducible apply State.waits_follows | with_reducible apply State.refuse_follows
    | with_reducible apply State.output_follows | split

theorem execQuery_follows {s t : State} (h : Follows s t) (a1) : FollowsNext s (execQuery a1 t) := by
  unfold execQuery
  try dsimp only
  apply FollowsNext.next
  repeat' first
    | with_reducible exact h | with_reducible assumption | with_reducible apply State.command_follows
    | with_reducible apply queryBody_follows | with_reducible apply Follows.foldl
    | with_reducible apply Follows.foldlSnd | intro _

theorem countersBody_follows {s t : State} (h : Follows s t) (a1) : Follows s (countersBody a1 t) := by
  unfold countersBody
  repeat' first
    | with_reducible exact h | with_reducible apply State.waits_follows | with_reducible apply State.refuse_follows
    | with_reducible apply State.output_follows | split

theorem execCountersRead_follows {s t : State} (h : Follows s t) (a1) : FollowsNext s (execCountersRead a1 t) := by
  unfold execCountersRead
  try dsimp only
  apply FollowsNext.next
  repeat' first
    | with_reducible exact h | with_reducible assumption | with_reducible apply State.command_follows
    | with_reducible apply countersBody_follows | with_reducible apply Follows.foldl
    | with_reducible apply Follows.foldlSnd | intro _

theorem State.markReturned_follows {s t : State} (h : Follows s t) (a1) : Follows s (State.markReturned t a1) := by
  unfold State.markReturned
  repeat' first
    | with_reducible exact h | with_reducible apply State.updLogs_follows

theorem logBody_follows {s t : State} (h : Follows s t) (a1) : Follows s (logBody a1 t) := by
  unfold logBody
  repeat' first
    | with_reducible exact h | with_reducible apply State.waits_follows | with_reducible apply State.refuse_follows
    | with_reducible apply State.markReturned_follows | with_reducible apply State.output_follows | split

theorem execLogRead_follows {s t : State} (h : Follows s t) (a1) : FollowsNext s (execLogRead a1 t) := by
  unfold execLogRead
  try dsimp only
  apply FollowsNext.next
  repeat' first
    | with_reducible exact h | with_reducible assumption | with_reducible apply State.command_follows
    | with_reducible apply logBody_follows | with_reducible apply Follows.foldl
    | with_reducible apply Follows.foldlSnd | intro _

end Sys2Proof.Machine
end

