-- ==== Sys2Proof/Laws/Records.lean ====
section
/-!
SUPPORT. What writing completion records changes, and a command that is accepted runs its own effect: the laws under which every
statement about an ECI command is proved.
-/

namespace Sys2Proof.Machine

theorem RecordOnly.refl (s : State) : RecordOnly s s := by constructor <;> rfl

theorem RecordOnly.trans {s t u : State} (h : RecordOnly s t) (g : RecordOnly t u) : RecordOnly s u where
  now := g.now.trans h.now
  free := g.free.trans h.free
  pending := g.pending.trans h.pending
  marks := g.marks.trans h.marks
  gens := g.gens.trans h.gens
  eci := by rw [g.eci, h.eci]
  srv := g.srv.trans h.srv
  tiers := g.tiers.trans h.tiers
  squalls := g.squalls.trans h.squalls
  cores := g.cores.trans h.cores
  coh := g.coh.trans h.coh
  dram := g.dram.trans h.dram
  pwr := g.pwr.trans h.pwr
  cxl := g.cxl.trans h.cxl
  dnb := g.dnb.trans h.dnb
  mgmt := by rw [g.mgmt, h.mgmt]
  boot := g.boot.trans h.boot
  logs := g.logs.trans h.logs
  ctrs := g.ctrs.trans h.ctrs

/-- A state that differs in memory, the answer, the record parts of the command interface and the responses only. -/
theorem RecordOnly.intro {s : State} (out : Answer) (mem : Memory) (eci : Eci) (l : List Entry)
    (he : eci = { s.eci with
      pairs := eci.pairs, urgCpl := eci.urgCpl, urgBusy := eci.urgBusy, urgDone := eci.urgDone
      mgmtInbox := eci.mgmtInbox, posts := eci.posts, msix := eci.msix, waiting := eci.waiting
      arrivals := eci.arrivals }) :
    RecordOnly s { s with out := out, mem := mem, eci := eci, mgmt := { s.mgmt with responses := l } } := by
  constructor <;> first | exact he | rfl

/-- Storing bytes changes memory only. -/
theorem State.putBytes_eq (s : State) (pa : Nat) (l : List Byte) :
    s.putBytes pa l = { s with mem := (s.putBytes pa l).mem } := by
  induction l generalizing s pa with
  | nil => rfl
  | cons b l ih => simp only [State.putBytes]; rw [ih]; rfl

theorem State.putBytes_record (s : State) (pa : Nat) (l : List Byte) : RecordOnly s (s.putBytes pa l) := by
  rw [State.putBytes_eq]; exact RecordOnly.intro s.out _ s.eci s.mgmt.responses rfl

theorem State.updPair_record (s : State) (q : Fin 64) (f : Pair → Pair) : RecordOnly s (s.updPair q f) :=
  RecordOnly.intro s.out s.mem { s.eci with pairs := upd s.eci.pairs q f } s.mgmt.responses rfl

theorem State.sendMsix_record (s : State) (v : Nat) : RecordOnly s (s.sendMsix v) :=
  RecordOnly.intro s.out s.mem { s.eci with msix := s.eci.msix ++ [v] } s.mgmt.responses rfl

theorem State.ok_record (s : State) : RecordOnly s s.ok := RecordOnly.intro .done s.mem s.eci s.mgmt.responses rfl

theorem State.cqPut_record (s : State) (q : Fin 64) (body : Entry) : RecordOnly s (s.cqPut q body) := by
  unfold State.cqPut
  extract_lets p e n wraps s1 s2 cxl
  have h1 : RecordOnly s s2 := (State.putBytes_record s _ _).trans (State.updPair_record ..)
  split
  · exact h1.trans (State.sendMsix_record _ _)
  · exact h1

theorem State.record_record (s : State) (r : RecRef) (a : Bool) (st : Status) (d h x : Nat) :
    RecordOnly s (s.record r a st d h x) := by
  unfold State.record
  split
  · extract_lets
    split
    · exact RecordOnly.intro s.out s.mem { s.eci with posts := _ } s.mgmt.responses rfl
    · exact State.cqPut_record ..
  · rename_i u _
    extract_lets e s1
    have h1 : RecordOnly s s1 :=
      RecordOnly.intro s.out s.mem { s.eci with urgCpl := _, urgBusy := _, urgDone := _ } s.mgmt.responses rfl
    split
    · split
      · exact h1
      · exact h1.trans (State.sendMsix_record _ _)
    · exact h1
  · exact RecordOnly.intro _ s.mem s.eci _ rfl

theorem State.final_record (s : State) (r : RecRef) (st : Status) (d h x : Nat) : RecordOnly s (s.final r st d h x) :=
  State.record_record ..

theorem State.unreserve_record (s : State) (src : Src) : RecordOnly s (s.unreserve src) := by
  unfold State.unreserve; split
  · exact State.updPair_record ..
  · exact RecordOnly.refl s

theorem State.popEntry_record (s : State) (src : Src) : RecordOnly s (s.popEntry src) := by
  unfold State.popEntry; split
  · exact State.updPair_record ..
  · exact RecordOnly.intro s.out s.mem { s.eci with arrivals := _ } s.mgmt.responses rfl
  · exact RecordOnly.intro s.out s.mem { s.eci with arrivals := _, mgmtInbox := _ } s.mgmt.responses rfl

theorem State.flushBad_record (n : Nat) (s : State) (q : Fin 64) : RecordOnly s (s.flushBad q n) := by
  induction n generalizing s with
  | zero => exact RecordOnly.refl s
  | succ n ih =>
    unfold State.flushBad
    split
    · exact RecordOnly.refl s
    · split
      · exact RecordOnly.refl s
      · split
        · exact RecordOnly.refl s
        · exact ((State.updPair_record s q _).trans (State.final_record ..)).trans (ih _)

theorem State.nextBad_record (s : State) (src : Src) : RecordOnly s (s.nextBad src) := by
  unfold State.nextBad; split
  · exact State.flushBad_record ..
  · exact RecordOnly.refl s

/-- A command that has begun is judged by the state it meets. -/
theorem Begun.command {s : State} {o : Nat} {src : Src} {fields : Cmd → List FieldSpec} {c : Cmd}
    (h : Begun s o src fields c) (body : Cmd → State → State) :
    s.command o src fields body = if s.conflict o c then s.ok.refuse c .stateConflict 0 else body c s.ok := by
  have hc : (s.ok).callerOf o src c.e = some c := h.caller
  have hl : (s.ok).conflict o c = s.conflict o c := rfl
  have ho : ¬ (operatorOpc o = true ∧ c.op = false) := by
    rintro ⟨a, b⟩
    simp [h.operator a] at b
  have hn : ¬ (opcOf c.e ≠ o ∨ s.eci.devState = .uninit) := by
    rintro (g | g)
    · exact g h.opcode
    · exact h.served g
  have hp := h.path
  unfold State.command
  rw [h.entry]
  simp only [if_neg hn, h.header]
  cases src with
  | pair q =>
    simp only [State.callerOf] at hc
    simp only [hc]
    simp [h.fieldsOk, ho, hl]
  | urgent u =>
    simp only [onPath] at hp
    simp only [State.callerOf] at hc
    simp only [hc, hp]
    simp [h.fieldsOk, ho, hl]
  | mgmt =>
    simp only [onPath] at hp
    simp only [State.callerOf] at hc
    simp only [hc, hp]
    simp [h.fieldsOk, ho, hl]

/-- A command that is accepted runs its own effect. -/
theorem Accepted.command {s : State} {o : Nat} {src : Src} {fields : Cmd → List FieldSpec} {c : Cmd}
    (h : Accepted s o src fields c) (body : Cmd → State → State) : s.command o src fields body = body c s.ok := by
  rw [h.toBegun.command, h.legal]; rfl

end Sys2Proof.Machine
end

