-- ==== Sys2Proof/Laws/Sched.lean ====
section
/-!
SUPPORT. What the operations of Machine/Sched.lean do to a legal state.
-/

namespace Sys2Proof.Machine

theorem State.readRecord_follows {s t : State} (h : Follows s t) (a1) : Follows s (State.readRecord t a1) := by
  unfold State.readRecord
  try dsimp only
  repeat' first
    | with_reducible exact h | with_reducible assumption | with_reducible apply State.schedRead_follows
    | with_reducible apply Follows.foldl | with_reducible apply Follows.foldlSnd | intro _ | with_reducible rfl
    | split | with_reducible apply Follows.ident | with_reducible apply Follows.lit
    | (dsimp only <;> with_reducible rfl) | rfl

theorem State.issueBeat_follows {s t : State} (h : Follows s t) (a1 a2) : Follows s (State.issueBeat t a1 a2) := by
  unfold State.issueBeat
  repeat' first
    | with_reducible exact h | with_reducible apply State.updSq_follows
    | with_reducible apply State.readRecord_follows

theorem State.issue_follows {s t : State} {α : Type} (h : Follows s t) (q) (p : Rec → Option α) (r : α → Squall → Bool) (g)
    (put : α → Issue → Nat → Squall → Squall) : Follows s (t.issue q p r g put) := by
  unfold State.issue
  dsimp only
  repeat' split
  all_goals first
    | with_reducible exact State.waits_follows h
    | with_reducible exact State.notDue_follows h
    | with_reducible exact State.updSq_follows (State.issueBeat_follows (State.ok_follows h) _ _) _ _

theorem State.openTask_follows {s t : State} (h : Follows s t) (a1) : Follows s (State.openTask t a1) := by
  unfold State.openTask
  try dsimp only
  repeat' first
    | with_reducible exact h | with_reducible assumption | with_reducible apply State.updSq_follows
    | with_reducible apply State.issueBeat_follows | with_reducible apply State.ok_follows
    | with_reducible apply State.updRun_follows | with_reducible apply State.updFront_follows
    | with_reducible apply State.notDue_follows | with_reducible apply Follows.foldl
    | with_reducible apply Follows.foldlSnd | intro _ | with_reducible rfl | split
    | with_reducible apply Follows.ident | with_reducible apply Follows.lit | (dsimp only <;> with_reducible rfl)
    | rfl

theorem execTask_follows {s t : State} (h : Follows s t) (a1 a2) : FollowsNext s (execTask a1 a2 t) := by
  unfold execTask
  try dsimp only
  apply FollowsNext.next
  repeat' first
    | with_reducible exact h | with_reducible assumption | with_reducible apply State.parity_follows
    | with_reducible apply State.openTask_follows | with_reducible apply Follows.foldl
    | with_reducible apply Follows.foldlSnd | intro _ | with_reducible rfl | split
    | with_reducible apply Follows.ident | with_reducible apply Follows.lit | (dsimp only <;> with_reducible rfl)
    | rfl

theorem State.closeTask_follows {s t : State} (h : Follows s t) (a1) : Follows s (State.closeTask t a1) := by
  unfold State.closeTask
  try dsimp only
  repeat' first
    | with_reducible exact h | with_reducible assumption | with_reducible apply State.waits_follows
    | with_reducible apply State.updSq_follows | with_reducible apply State.issueBeat_follows
    | with_reducible apply State.ok_follows | with_reducible apply State.notDue_follows
    | with_reducible apply Follows.foldl | with_reducible apply Follows.foldlSnd | intro _ | with_reducible rfl
    | split | with_reducible apply Follows.ident | with_reducible apply Follows.lit
    | (dsimp only <;> with_reducible rfl) | rfl

theorem execEndTask_follows {s t : State} (h : Follows s t) (a1 a2) : FollowsNext s (execEndTask a1 a2 t) := by
  unfold execEndTask
  try dsimp only
  apply FollowsNext.next
  repeat' first
    | with_reducible exact h | with_reducible assumption | with_reducible apply State.parity_follows
    | with_reducible apply State.closeTask_follows | with_reducible apply Follows.foldl
    | with_reducible apply Follows.foldlSnd | intro _ | with_reducible rfl | split
    | with_reducible apply Follows.ident | with_reducible apply Follows.lit | (dsimp only <;> with_reducible rfl)
    | rfl

theorem State.passRecord_follows {s t : State} (h : Follows s t) (a1 a2) : Follows s (State.passRecord t a1 a2) := by
  unfold State.passRecord
  try dsimp only
  repeat' first
    | with_reducible exact h | with_reducible assumption | with_reducible apply State.notDue_follows
    | with_reducible apply State.waits_follows | with_reducible apply State.updSq_follows
    | with_reducible apply State.issueBeat_follows | with_reducible apply State.ok_follows
    | with_reducible apply Follows.foldl | with_reducible apply Follows.foldlSnd | intro _ | with_reducible rfl
    | split | with_reducible apply Follows.ident | with_reducible apply Follows.lit
    | (dsimp only <;> with_reducible rfl) | rfl

theorem execLoop_follows {s t : State} (h : Follows s t) (a1 a2) : FollowsNext s (execLoop a1 a2 t) := by
  unfold execLoop
  try dsimp only
  apply FollowsNext.next
  repeat' first
    | with_reducible exact h | with_reducible assumption | with_reducible apply State.parity_follows
    | with_reducible apply State.passRecord_follows | with_reducible apply Follows.foldl
    | with_reducible apply Follows.foldlSnd | intro _ | with_reducible rfl | split
    | with_reducible apply Follows.ident | with_reducible apply Follows.lit | (dsimp only <;> with_reducible rfl)
    | rfl

theorem execEndLoop_follows {s t : State} (h : Follows s t) (a1 a2) : FollowsNext s (execEndLoop a1 a2 t) := by
  unfold execEndLoop
  try dsimp only
  apply FollowsNext.next
  repeat' first
    | with_reducible exact h | with_reducible assumption | with_reducible apply State.parity_follows
    | with_reducible apply State.passRecord_follows | with_reducible apply Follows.foldl
    | with_reducible apply Follows.foldlSnd | intro _ | with_reducible rfl | split
    | with_reducible apply Follows.ident | with_reducible apply Follows.lit | (dsimp only <;> with_reducible rfl)
    | rfl

theorem State.issuePass_follows {s t : State} (h : Follows s t) (a1 a2) : Follows s (State.issuePass t a1 a2) := by
  unfold State.issuePass
  repeat' first
    | with_reducible exact h | with_reducible apply State.issue_follows

theorem execPassMac_follows {s t : State} (h : Follows s t) (a1 a2) : FollowsNext s (execPassMac a1 a2 t) := by
  unfold execPassMac
  try dsimp only
  apply FollowsNext.next
  repeat' first
    | with_reducible exact h | with_reducible assumption | with_reducible apply State.parity_follows
    | with_reducible apply State.issuePass_follows | with_reducible apply Follows.foldl
    | with_reducible apply Follows.foldlSnd | intro _ | with_reducible rfl | split
    | with_reducible apply Follows.ident | with_reducible apply Follows.lit | (dsimp only <;> with_reducible rfl)
    | rfl

theorem execPassL1_follows {s t : State} (h : Follows s t) (a1 a2) : FollowsNext s (execPassL1 a1 a2 t) := by
  unfold execPassL1
  try dsimp only
  apply FollowsNext.next
  repeat' first
    | with_reducible exact h | with_reducible assumption | with_reducible apply State.parity_follows
    | with_reducible apply State.issuePass_follows | with_reducible apply Follows.foldl
    | with_reducible apply Follows.foldlSnd | intro _ | with_reducible rfl | split
    | with_reducible apply Follows.ident | with_reducible apply Follows.lit | (dsimp only <;> with_reducible rfl)
    | rfl

theorem execPassL2_follows {s t : State} (h : Follows s t) (a1 a2) : FollowsNext s (execPassL2 a1 a2 t) := by
  unfold execPassL2
  try dsimp only
  apply FollowsNext.next
  repeat' first
    | with_reducible exact h | with_reducible assumption | with_reducible apply State.parity_follows
    | with_reducible apply State.issuePass_follows | with_reducible apply Follows.foldl
    | with_reducible apply Follows.foldlSnd | intro _ | with_reducible rfl | split
    | with_reducible apply Follows.ident | with_reducible apply Follows.lit | (dsimp only <;> with_reducible rfl)
    | rfl

theorem execPassMaxplus_follows {s t : State} (h : Follows s t) (a1 a2) : FollowsNext s (execPassMaxplus a1 a2 t) := by
  unfold execPassMaxplus
  try dsimp only
  apply FollowsNext.next
  repeat' first
    | with_reducible exact h | with_reducible assumption | with_reducible apply State.parity_follows
    | with_reducible apply State.issuePass_follows | with_reducible apply Follows.foldl
    | with_reducible apply Follows.foldlSnd | intro _ | with_reducible rfl | split
    | with_reducible apply Follows.ident | with_reducible apply Follows.lit | (dsimp only <;> with_reducible rfl)
    | rfl

theorem execPassMinplus_follows {s t : State} (h : Follows s t) (a1 a2) : FollowsNext s (execPassMinplus a1 a2 t) := by
  unfold execPassMinplus
  try dsimp only
  apply FollowsNext.next
  repeat' first
    | with_reducible exact h | with_reducible assumption | with_reducible apply State.parity_follows
    | with_reducible apply State.issuePass_follows | with_reducible apply Follows.foldl
    | with_reducible apply Follows.foldlSnd | intro _ | with_reducible rfl | split
    | with_reducible apply Follows.ident | with_reducible apply Follows.lit | (dsimp only <;> with_reducible rfl)
    | rfl

theorem execPassCmpcount_follows {s t : State} (h : Follows s t) (a1 a2) : FollowsNext s (execPassCmpcount a1 a2 t) := by
  unfold execPassCmpcount
  try dsimp only
  apply FollowsNext.next
  repeat' first
    | with_reducible exact h | with_reducible assumption | with_reducible apply State.parity_follows
    | with_reducible apply State.issuePass_follows | with_reducible apply Follows.foldl
    | with_reducible apply Follows.foldlSnd | intro _ | with_reducible rfl | split
    | with_reducible apply Follows.ident | with_reducible apply Follows.lit | (dsimp only <;> with_reducible rfl)
    | rfl

theorem execPassEwise_follows {s t : State} (h : Follows s t) (a1 a2) : FollowsNext s (execPassEwise a1 a2 t) := by
  unfold execPassEwise
  try dsimp only
  apply FollowsNext.next
  repeat' first
    | with_reducible exact h | with_reducible assumption | with_reducible apply State.parity_follows
    | with_reducible apply State.issuePass_follows | with_reducible apply Follows.foldl
    | with_reducible apply Follows.foldlSnd | intro _ | with_reducible rfl | split
    | with_reducible apply Follows.ident | with_reducible apply Follows.lit | (dsimp only <;> with_reducible rfl)
    | rfl

theorem State.issueDma_follows {s t : State} (h : Follows s t) (a1) : Follows s (State.issueDma t a1) := by
  unfold State.issueDma
  repeat' first
    | with_reducible exact h | with_reducible apply State.issue_follows

theorem execDma_follows {s t : State} (h : Follows s t) (a1 a2) : FollowsNext s (execDma a1 a2 t) := by
  unfold execDma
  try dsimp only
  apply FollowsNext.next
  repeat' first
    | with_reducible exact h | with_reducible assumption | with_reducible apply State.parity_follows
    | with_reducible apply State.issueDma_follows | with_reducible apply Follows.foldl
    | with_reducible apply Follows.foldlSnd | intro _ | with_reducible rfl | split
    | with_reducible apply Follows.ident | with_reducible apply Follows.lit | (dsimp only <;> with_reducible rfl)
    | rfl

theorem State.issueFence_follows {s t : State} (h : Follows s t) (a1 a2) : Follows s (State.issueFence t a1 a2) := by
  unfold State.issueFence
  repeat' first
    | with_reducible exact h | with_reducible apply State.issue_follows

theorem execFenceCore_follows {s t : State} (h : Follows s t) (a1 a2) : FollowsNext s (execFenceCore a1 a2 t) := by
  unfold execFenceCore
  try dsimp only
  apply FollowsNext.next
  repeat' first
    | with_reducible exact h | with_reducible assumption | with_reducible apply State.parity_follows
    | with_reducible apply State.issueFence_follows | with_reducible apply Follows.foldl
    | with_reducible apply Follows.foldlSnd | intro _ | with_reducible rfl | split
    | with_reducible apply Follows.ident | with_reducible apply Follows.lit | (dsimp only <;> with_reducible rfl)
    | rfl

theorem execFenceChip_follows {s t : State} (h : Follows s t) (a1 a2) : FollowsNext s (execFenceChip a1 a2 t) := by
  unfold execFenceChip
  try dsimp only
  apply FollowsNext.next
  repeat' first
    | with_reducible exact h | with_reducible assumption | with_reducible apply State.parity_follows
    | with_reducible apply State.issueFence_follows | with_reducible apply Follows.foldl
    | with_reducible apply Follows.foldlSnd | intro _ | with_reducible rfl | split
    | with_reducible apply Follows.ident | with_reducible apply Follows.lit | (dsimp only <;> with_reducible rfl)
    | rfl

theorem execFenceSys_follows {s t : State} (h : Follows s t) (a1 a2) : FollowsNext s (execFenceSys a1 a2 t) := by
  unfold execFenceSys
  try dsimp only
  apply FollowsNext.next
  repeat' first
    | with_reducible exact h | with_reducible assumption | with_reducible apply State.parity_follows
    | with_reducible apply State.issueFence_follows | with_reducible apply Follows.foldl
    | with_reducible apply Follows.foldlSnd | intro _ | with_reducible rfl | split
    | with_reducible apply Follows.ident | with_reducible apply Follows.lit | (dsimp only <;> with_reducible rfl)
    | rfl

theorem execFenceRetire_follows {s t : State} (h : Follows s t) (a1) : FollowsNext s (execFenceRetire a1 t) := by
  unfold execFenceRetire
  try dsimp only
  apply FollowsNext.next
  repeat' first
    | with_reducible exact h | with_reducible assumption | with_reducible apply State.notDue_follows
    | with_reducible apply State.waits_follows | with_reducible apply State.updSq_follows
    | with_reducible apply State.ok_follows | with_reducible apply State.coreScope_follows
    | with_reducible apply State.settleWrites_follows | with_reducible apply Follows.foldl
    | with_reducible apply Follows.foldlSnd | intro _ | with_reducible rfl | split
    | with_reducible apply Follows.ident | with_reducible apply Follows.lit | (dsimp only <;> with_reducible rfl)
    | rfl

end Sys2Proof.Machine
end

