-- ==== Sys2Proof/Laws/State.lean ====
section
/-!
SUPPORT. What each update of State leaves alone and what it changes, one lemma for each field.
-/

namespace Sys2Proof.Machine

@[simp] theorem State.answer_now (s : State) (a : Answer) : (s.answer a).now = s.now := rfl
@[simp] theorem State.answer_free (s : State) (a : Answer) : (s.answer a).free = s.free := rfl
@[simp] theorem State.answer_out (s : State) (a : Answer) : (s.answer a).out = a := rfl
@[simp] theorem State.answer_pending (s : State) (a : Answer) : (s.answer a).pending = s.pending := rfl
@[simp] theorem State.answer_mem (s : State) (a : Answer) : (s.answer a).mem = s.mem := rfl
@[simp] theorem State.answer_marks (s : State) (a : Answer) : (s.answer a).marks = s.marks := rfl
@[simp] theorem State.answer_gens (s : State) (a : Answer) : (s.answer a).gens = s.gens := rfl
@[simp] theorem State.answer_eci (s : State) (a : Answer) : (s.answer a).eci = s.eci := rfl
@[simp] theorem State.answer_srv (s : State) (a : Answer) : (s.answer a).srv = s.srv := rfl
@[simp] theorem State.answer_tiers (s : State) (a : Answer) : (s.answer a).tiers = s.tiers := rfl
@[simp] theorem State.answer_squalls (s : State) (a : Answer) : (s.answer a).squalls = s.squalls := rfl
@[simp] theorem State.answer_cores (s : State) (a : Answer) : (s.answer a).cores = s.cores := rfl
@[simp] theorem State.answer_coh (s : State) (a : Answer) : (s.answer a).coh = s.coh := rfl
@[simp] theorem State.answer_dram (s : State) (a : Answer) : (s.answer a).dram = s.dram := rfl
@[simp] theorem State.answer_pwr (s : State) (a : Answer) : (s.answer a).pwr = s.pwr := rfl
@[simp] theorem State.answer_cxl (s : State) (a : Answer) : (s.answer a).cxl = s.cxl := rfl
@[simp] theorem State.answer_dnb (s : State) (a : Answer) : (s.answer a).dnb = s.dnb := rfl
@[simp] theorem State.answer_mgmt (s : State) (a : Answer) : (s.answer a).mgmt = s.mgmt := rfl
@[simp] theorem State.answer_boot (s : State) (a : Answer) : (s.answer a).boot = s.boot := rfl
@[simp] theorem State.answer_logs (s : State) (a : Answer) : (s.answer a).logs = s.logs := rfl
@[simp] theorem State.answer_ctrs (s : State) (a : Answer) : (s.answer a).ctrs = s.ctrs := rfl

@[simp] theorem State.updPair_now (s : State) (q : Fin 64) (f : Pair → Pair) : (s.updPair q f).now = s.now := rfl
@[simp] theorem State.updPair_free (s : State) (q : Fin 64) (f : Pair → Pair) : (s.updPair q f).free = s.free := rfl
@[simp] theorem State.updPair_out (s : State) (q : Fin 64) (f : Pair → Pair) : (s.updPair q f).out = s.out := rfl
@[simp] theorem State.updPair_pending (s : State) (q : Fin 64) (f : Pair → Pair) : (s.updPair q f).pending = s.pending := rfl
@[simp] theorem State.updPair_mem (s : State) (q : Fin 64) (f : Pair → Pair) : (s.updPair q f).mem = s.mem := rfl
@[simp] theorem State.updPair_marks (s : State) (q : Fin 64) (f : Pair → Pair) : (s.updPair q f).marks = s.marks := rfl
@[simp] theorem State.updPair_gens (s : State) (q : Fin 64) (f : Pair → Pair) : (s.updPair q f).gens = s.gens := rfl
@[simp] theorem State.updPair_srv (s : State) (q : Fin 64) (f : Pair → Pair) : (s.updPair q f).srv = s.srv := rfl
@[simp] theorem State.updPair_tiers (s : State) (q : Fin 64) (f : Pair → Pair) : (s.updPair q f).tiers = s.tiers := rfl
@[simp] theorem State.updPair_squalls (s : State) (q : Fin 64) (f : Pair → Pair) : (s.updPair q f).squalls = s.squalls := rfl
@[simp] theorem State.updPair_cores (s : State) (q : Fin 64) (f : Pair → Pair) : (s.updPair q f).cores = s.cores := rfl
@[simp] theorem State.updPair_coh (s : State) (q : Fin 64) (f : Pair → Pair) : (s.updPair q f).coh = s.coh := rfl
@[simp] theorem State.updPair_dram (s : State) (q : Fin 64) (f : Pair → Pair) : (s.updPair q f).dram = s.dram := rfl
@[simp] theorem State.updPair_pwr (s : State) (q : Fin 64) (f : Pair → Pair) : (s.updPair q f).pwr = s.pwr := rfl
@[simp] theorem State.updPair_cxl (s : State) (q : Fin 64) (f : Pair → Pair) : (s.updPair q f).cxl = s.cxl := rfl
@[simp] theorem State.updPair_dnb (s : State) (q : Fin 64) (f : Pair → Pair) : (s.updPair q f).dnb = s.dnb := rfl
@[simp] theorem State.updPair_mgmt (s : State) (q : Fin 64) (f : Pair → Pair) : (s.updPair q f).mgmt = s.mgmt := rfl
@[simp] theorem State.updPair_boot (s : State) (q : Fin 64) (f : Pair → Pair) : (s.updPair q f).boot = s.boot := rfl
@[simp] theorem State.updPair_logs (s : State) (q : Fin 64) (f : Pair → Pair) : (s.updPair q f).logs = s.logs := rfl
@[simp] theorem State.updPair_ctrs (s : State) (q : Fin 64) (f : Pair → Pair) : (s.updPair q f).ctrs = s.ctrs := rfl

@[simp] theorem State.updSq_now (s : State) (q : Fin 64) (f : Squall → Squall) : (s.updSq q f).now = s.now := rfl
@[simp] theorem State.updSq_free (s : State) (q : Fin 64) (f : Squall → Squall) : (s.updSq q f).free = s.free := rfl
@[simp] theorem State.updSq_out (s : State) (q : Fin 64) (f : Squall → Squall) : (s.updSq q f).out = s.out := rfl
@[simp] theorem State.updSq_pending (s : State) (q : Fin 64) (f : Squall → Squall) : (s.updSq q f).pending = s.pending := rfl
@[simp] theorem State.updSq_mem (s : State) (q : Fin 64) (f : Squall → Squall) : (s.updSq q f).mem = s.mem := rfl
@[simp] theorem State.updSq_marks (s : State) (q : Fin 64) (f : Squall → Squall) : (s.updSq q f).marks = s.marks := rfl
@[simp] theorem State.updSq_gens (s : State) (q : Fin 64) (f : Squall → Squall) : (s.updSq q f).gens = s.gens := rfl
@[simp] theorem State.updSq_eci (s : State) (q : Fin 64) (f : Squall → Squall) : (s.updSq q f).eci = s.eci := rfl
@[simp] theorem State.updSq_srv (s : State) (q : Fin 64) (f : Squall → Squall) : (s.updSq q f).srv = s.srv := rfl
@[simp] theorem State.updSq_tiers (s : State) (q : Fin 64) (f : Squall → Squall) : (s.updSq q f).tiers = s.tiers := rfl
@[simp] theorem State.updSq_squalls (s : State) (q : Fin 64) (f : Squall → Squall) : (s.updSq q f).squalls = upd s.squalls q f := rfl
@[simp] theorem State.updSq_cores (s : State) (q : Fin 64) (f : Squall → Squall) : (s.updSq q f).cores = s.cores := rfl
@[simp] theorem State.updSq_coh (s : State) (q : Fin 64) (f : Squall → Squall) : (s.updSq q f).coh = s.coh := rfl
@[simp] theorem State.updSq_dram (s : State) (q : Fin 64) (f : Squall → Squall) : (s.updSq q f).dram = s.dram := rfl
@[simp] theorem State.updSq_pwr (s : State) (q : Fin 64) (f : Squall → Squall) : (s.updSq q f).pwr = s.pwr := rfl
@[simp] theorem State.updSq_cxl (s : State) (q : Fin 64) (f : Squall → Squall) : (s.updSq q f).cxl = s.cxl := rfl
@[simp] theorem State.updSq_dnb (s : State) (q : Fin 64) (f : Squall → Squall) : (s.updSq q f).dnb = s.dnb := rfl
@[simp] theorem State.updSq_mgmt (s : State) (q : Fin 64) (f : Squall → Squall) : (s.updSq q f).mgmt = s.mgmt := rfl
@[simp] theorem State.updSq_boot (s : State) (q : Fin 64) (f : Squall → Squall) : (s.updSq q f).boot = s.boot := rfl
@[simp] theorem State.updSq_logs (s : State) (q : Fin 64) (f : Squall → Squall) : (s.updSq q f).logs = s.logs := rfl
@[simp] theorem State.updSq_ctrs (s : State) (q : Fin 64) (f : Squall → Squall) : (s.updSq q f).ctrs = s.ctrs := rfl

@[simp] theorem State.updCore_now (s : State) (c : Fin 64) (f : CoreSt → CoreSt) : (s.updCore c f).now = s.now := rfl
@[simp] theorem State.updCore_free (s : State) (c : Fin 64) (f : CoreSt → CoreSt) : (s.updCore c f).free = s.free := rfl
@[simp] theorem State.updCore_out (s : State) (c : Fin 64) (f : CoreSt → CoreSt) : (s.updCore c f).out = s.out := rfl
@[simp] theorem State.updCore_pending (s : State) (c : Fin 64) (f : CoreSt → CoreSt) : (s.updCore c f).pending = s.pending := rfl
@[simp] theorem State.updCore_mem (s : State) (c : Fin 64) (f : CoreSt → CoreSt) : (s.updCore c f).mem = s.mem := rfl
@[simp] theorem State.updCore_marks (s : State) (c : Fin 64) (f : CoreSt → CoreSt) : (s.updCore c f).marks = s.marks := rfl
@[simp] theorem State.updCore_gens (s : State) (c : Fin 64) (f : CoreSt → CoreSt) : (s.updCore c f).gens = s.gens := rfl
@[simp] theorem State.updCore_eci (s : State) (c : Fin 64) (f : CoreSt → CoreSt) : (s.updCore c f).eci = s.eci := rfl
@[simp] theorem State.updCore_srv (s : State) (c : Fin 64) (f : CoreSt → CoreSt) : (s.updCore c f).srv = s.srv := rfl
@[simp] theorem State.updCore_tiers (s : State) (c : Fin 64) (f : CoreSt → CoreSt) : (s.updCore c f).tiers = s.tiers := rfl
@[simp] theorem State.updCore_squalls (s : State) (c : Fin 64) (f : CoreSt → CoreSt) : (s.updCore c f).squalls = s.squalls := rfl
@[simp] theorem State.updCore_cores (s : State) (c : Fin 64) (f : CoreSt → CoreSt) : (s.updCore c f).cores = upd s.cores c f := rfl
@[simp] theorem State.updCore_coh (s : State) (c : Fin 64) (f : CoreSt → CoreSt) : (s.updCore c f).coh = s.coh := rfl
@[simp] theorem State.updCore_dram (s : State) (c : Fin 64) (f : CoreSt → CoreSt) : (s.updCore c f).dram = s.dram := rfl
@[simp] theorem State.updCore_pwr (s : State) (c : Fin 64) (f : CoreSt → CoreSt) : (s.updCore c f).pwr = s.pwr := rfl
@[simp] theorem State.updCore_cxl (s : State) (c : Fin 64) (f : CoreSt → CoreSt) : (s.updCore c f).cxl = s.cxl := rfl
@[simp] theorem State.updCore_dnb (s : State) (c : Fin 64) (f : CoreSt → CoreSt) : (s.updCore c f).dnb = s.dnb := rfl
@[simp] theorem State.updCore_mgmt (s : State) (c : Fin 64) (f : CoreSt → CoreSt) : (s.updCore c f).mgmt = s.mgmt := rfl
@[simp] theorem State.updCore_boot (s : State) (c : Fin 64) (f : CoreSt → CoreSt) : (s.updCore c f).boot = s.boot := rfl
@[simp] theorem State.updCore_logs (s : State) (c : Fin 64) (f : CoreSt → CoreSt) : (s.updCore c f).logs = s.logs := rfl
@[simp] theorem State.updCore_ctrs (s : State) (c : Fin 64) (f : CoreSt → CoreSt) : (s.updCore c f).ctrs = s.ctrs := rfl

@[simp] theorem State.updFront_now (s : State) (w : Fin 8) (f : FrontPwr → FrontPwr) : (s.updFront w f).now = s.now := rfl
@[simp] theorem State.updFront_free (s : State) (w : Fin 8) (f : FrontPwr → FrontPwr) : (s.updFront w f).free = s.free := rfl
@[simp] theorem State.updFront_out (s : State) (w : Fin 8) (f : FrontPwr → FrontPwr) : (s.updFront w f).out = s.out := rfl
@[simp] theorem State.updFront_pending (s : State) (w : Fin 8) (f : FrontPwr → FrontPwr) : (s.updFront w f).pending = s.pending := rfl
@[simp] theorem State.updFront_mem (s : State) (w : Fin 8) (f : FrontPwr → FrontPwr) : (s.updFront w f).mem = s.mem := rfl
@[simp] theorem State.updFront_marks (s : State) (w : Fin 8) (f : FrontPwr → FrontPwr) : (s.updFront w f).marks = s.marks := rfl
@[simp] theorem State.updFront_gens (s : State) (w : Fin 8) (f : FrontPwr → FrontPwr) : (s.updFront w f).gens = s.gens := rfl
@[simp] theorem State.updFront_eci (s : State) (w : Fin 8) (f : FrontPwr → FrontPwr) : (s.updFront w f).eci = s.eci := rfl
@[simp] theorem State.updFront_srv (s : State) (w : Fin 8) (f : FrontPwr → FrontPwr) : (s.updFront w f).srv = s.srv := rfl
@[simp] theorem State.updFront_tiers (s : State) (w : Fin 8) (f : FrontPwr → FrontPwr) : (s.updFront w f).tiers = s.tiers := rfl
@[simp] theorem State.updFront_squalls (s : State) (w : Fin 8) (f : FrontPwr → FrontPwr) : (s.updFront w f).squalls = s.squalls := rfl
@[simp] theorem State.updFront_cores (s : State) (w : Fin 8) (f : FrontPwr → FrontPwr) : (s.updFront w f).cores = s.cores := rfl
@[simp] theorem State.updFront_coh (s : State) (w : Fin 8) (f : FrontPwr → FrontPwr) : (s.updFront w f).coh = s.coh := rfl
@[simp] theorem State.updFront_dram (s : State) (w : Fin 8) (f : FrontPwr → FrontPwr) : (s.updFront w f).dram = s.dram := rfl
@[simp] theorem State.updFront_cxl (s : State) (w : Fin 8) (f : FrontPwr → FrontPwr) : (s.updFront w f).cxl = s.cxl := rfl
@[simp] theorem State.updFront_dnb (s : State) (w : Fin 8) (f : FrontPwr → FrontPwr) : (s.updFront w f).dnb = s.dnb := rfl
@[simp] theorem State.updFront_mgmt (s : State) (w : Fin 8) (f : FrontPwr → FrontPwr) : (s.updFront w f).mgmt = s.mgmt := rfl
@[simp] theorem State.updFront_boot (s : State) (w : Fin 8) (f : FrontPwr → FrontPwr) : (s.updFront w f).boot = s.boot := rfl
@[simp] theorem State.updFront_logs (s : State) (w : Fin 8) (f : FrontPwr → FrontPwr) : (s.updFront w f).logs = s.logs := rfl
@[simp] theorem State.updFront_ctrs (s : State) (w : Fin 8) (f : FrontPwr → FrontPwr) : (s.updFront w f).ctrs = s.ctrs := rfl

@[simp] theorem State.updPort_now (s : State) (p : Fin 4) (f : DnbPort → DnbPort) : (s.updPort p f).now = s.now := rfl
@[simp] theorem State.updPort_free (s : State) (p : Fin 4) (f : DnbPort → DnbPort) : (s.updPort p f).free = s.free := rfl
@[simp] theorem State.updPort_out (s : State) (p : Fin 4) (f : DnbPort → DnbPort) : (s.updPort p f).out = s.out := rfl
@[simp] theorem State.updPort_pending (s : State) (p : Fin 4) (f : DnbPort → DnbPort) : (s.updPort p f).pending = s.pending := rfl
@[simp] theorem State.updPort_mem (s : State) (p : Fin 4) (f : DnbPort → DnbPort) : (s.updPort p f).mem = s.mem := rfl
@[simp] theorem State.updPort_marks (s : State) (p : Fin 4) (f : DnbPort → DnbPort) : (s.updPort p f).marks = s.marks := rfl
@[simp] theorem State.updPort_gens (s : State) (p : Fin 4) (f : DnbPort → DnbPort) : (s.updPort p f).gens = s.gens := rfl
@[simp] theorem State.updPort_eci (s : State) (p : Fin 4) (f : DnbPort → DnbPort) : (s.updPort p f).eci = s.eci := rfl
@[simp] theorem State.updPort_srv (s : State) (p : Fin 4) (f : DnbPort → DnbPort) : (s.updPort p f).srv = s.srv := rfl
@[simp] theorem State.updPort_tiers (s : State) (p : Fin 4) (f : DnbPort → DnbPort) : (s.updPort p f).tiers = s.tiers := rfl
@[simp] theorem State.updPort_squalls (s : State) (p : Fin 4) (f : DnbPort → DnbPort) : (s.updPort p f).squalls = s.squalls := rfl
@[simp] theorem State.updPort_cores (s : State) (p : Fin 4) (f : DnbPort → DnbPort) : (s.updPort p f).cores = s.cores := rfl
@[simp] theorem State.updPort_coh (s : State) (p : Fin 4) (f : DnbPort → DnbPort) : (s.updPort p f).coh = s.coh := rfl
@[simp] theorem State.updPort_dram (s : State) (p : Fin 4) (f : DnbPort → DnbPort) : (s.updPort p f).dram = s.dram := rfl
@[simp] theorem State.updPort_pwr (s : State) (p : Fin 4) (f : DnbPort → DnbPort) : (s.updPort p f).pwr = s.pwr := rfl
@[simp] theorem State.updPort_cxl (s : State) (p : Fin 4) (f : DnbPort → DnbPort) : (s.updPort p f).cxl = s.cxl := rfl
@[simp] theorem State.updPort_mgmt (s : State) (p : Fin 4) (f : DnbPort → DnbPort) : (s.updPort p f).mgmt = s.mgmt := rfl
@[simp] theorem State.updPort_boot (s : State) (p : Fin 4) (f : DnbPort → DnbPort) : (s.updPort p f).boot = s.boot := rfl
@[simp] theorem State.updPort_logs (s : State) (p : Fin 4) (f : DnbPort → DnbPort) : (s.updPort p f).logs = s.logs := rfl
@[simp] theorem State.updPort_ctrs (s : State) (p : Fin 4) (f : DnbPort → DnbPort) : (s.updPort p f).ctrs = s.ctrs := rfl

@[simp] theorem State.updEci_now (s : State) (f : Eci → Eci) : (s.updEci f).now = s.now := rfl
@[simp] theorem State.updEci_free (s : State) (f : Eci → Eci) : (s.updEci f).free = s.free := rfl
@[simp] theorem State.updEci_out (s : State) (f : Eci → Eci) : (s.updEci f).out = s.out := rfl
@[simp] theorem State.updEci_pending (s : State) (f : Eci → Eci) : (s.updEci f).pending = s.pending := rfl
@[simp] theorem State.updEci_mem (s : State) (f : Eci → Eci) : (s.updEci f).mem = s.mem := rfl
@[simp] theorem State.updEci_marks (s : State) (f : Eci → Eci) : (s.updEci f).marks = s.marks := rfl
@[simp] theorem State.updEci_gens (s : State) (f : Eci → Eci) : (s.updEci f).gens = s.gens := rfl
@[simp] theorem State.updEci_eci (s : State) (f : Eci → Eci) : (s.updEci f).eci = f s.eci := rfl
@[simp] theorem State.updEci_srv (s : State) (f : Eci → Eci) : (s.updEci f).srv = s.srv := rfl
@[simp] theorem State.updEci_tiers (s : State) (f : Eci → Eci) : (s.updEci f).tiers = s.tiers := rfl
@[simp] theorem State.updEci_squalls (s : State) (f : Eci → Eci) : (s.updEci f).squalls = s.squalls := rfl
@[simp] theorem State.updEci_cores (s : State) (f : Eci → Eci) : (s.updEci f).cores = s.cores := rfl
@[simp] theorem State.updEci_coh (s : State) (f : Eci → Eci) : (s.updEci f).coh = s.coh := rfl
@[simp] theorem State.updEci_dram (s : State) (f : Eci → Eci) : (s.updEci f).dram = s.dram := rfl
@[simp] theorem State.updEci_pwr (s : State) (f : Eci → Eci) : (s.updEci f).pwr = s.pwr := rfl
@[simp] theorem State.updEci_cxl (s : State) (f : Eci → Eci) : (s.updEci f).cxl = s.cxl := rfl
@[simp] theorem State.updEci_dnb (s : State) (f : Eci → Eci) : (s.updEci f).dnb = s.dnb := rfl
@[simp] theorem State.updEci_mgmt (s : State) (f : Eci → Eci) : (s.updEci f).mgmt = s.mgmt := rfl
@[simp] theorem State.updEci_boot (s : State) (f : Eci → Eci) : (s.updEci f).boot = s.boot := rfl
@[simp] theorem State.updEci_logs (s : State) (f : Eci → Eci) : (s.updEci f).logs = s.logs := rfl
@[simp] theorem State.updEci_ctrs (s : State) (f : Eci → Eci) : (s.updEci f).ctrs = s.ctrs := rfl

@[simp] theorem State.updSrv_now (s : State) (f : Serving → Serving) : (s.updSrv f).now = s.now := rfl
@[simp] theorem State.updSrv_free (s : State) (f : Serving → Serving) : (s.updSrv f).free = s.free := rfl
@[simp] theorem State.updSrv_out (s : State) (f : Serving → Serving) : (s.updSrv f).out = s.out := rfl
@[simp] theorem State.updSrv_pending (s : State) (f : Serving → Serving) : (s.updSrv f).pending = s.pending := rfl
@[simp] theorem State.updSrv_mem (s : State) (f : Serving → Serving) : (s.updSrv f).mem = s.mem := rfl
@[simp] theorem State.updSrv_marks (s : State) (f : Serving → Serving) : (s.updSrv f).marks = s.marks := rfl
@[simp] theorem State.updSrv_gens (s : State) (f : Serving → Serving) : (s.updSrv f).gens = s.gens := rfl
@[simp] theorem State.updSrv_eci (s : State) (f : Serving → Serving) : (s.updSrv f).eci = s.eci := rfl
@[simp] theorem State.updSrv_srv (s : State) (f : Serving → Serving) : (s.updSrv f).srv = f s.srv := rfl
@[simp] theorem State.updSrv_tiers (s : State) (f : Serving → Serving) : (s.updSrv f).tiers = s.tiers := rfl
@[simp] theorem State.updSrv_squalls (s : State) (f : Serving → Serving) : (s.updSrv f).squalls = s.squalls := rfl
@[simp] theorem State.updSrv_cores (s : State) (f : Serving → Serving) : (s.updSrv f).cores = s.cores := rfl
@[simp] theorem State.updSrv_coh (s : State) (f : Serving → Serving) : (s.updSrv f).coh = s.coh := rfl
@[simp] theorem State.updSrv_dram (s : State) (f : Serving → Serving) : (s.updSrv f).dram = s.dram := rfl
@[simp] theorem State.updSrv_pwr (s : State) (f : Serving → Serving) : (s.updSrv f).pwr = s.pwr := rfl
@[simp] theorem State.updSrv_cxl (s : State) (f : Serving → Serving) : (s.updSrv f).cxl = s.cxl := rfl
@[simp] theorem State.updSrv_dnb (s : State) (f : Serving → Serving) : (s.updSrv f).dnb = s.dnb := rfl
@[simp] theorem State.updSrv_mgmt (s : State) (f : Serving → Serving) : (s.updSrv f).mgmt = s.mgmt := rfl
@[simp] theorem State.updSrv_boot (s : State) (f : Serving → Serving) : (s.updSrv f).boot = s.boot := rfl
@[simp] theorem State.updSrv_logs (s : State) (f : Serving → Serving) : (s.updSrv f).logs = s.logs := rfl
@[simp] theorem State.updSrv_ctrs (s : State) (f : Serving → Serving) : (s.updSrv f).ctrs = s.ctrs := rfl

@[simp] theorem State.updTiers_now (s : State) (f : Tiers → Tiers) : (s.updTiers f).now = s.now := rfl
@[simp] theorem State.updTiers_free (s : State) (f : Tiers → Tiers) : (s.updTiers f).free = s.free := rfl
@[simp] theorem State.updTiers_out (s : State) (f : Tiers → Tiers) : (s.updTiers f).out = s.out := rfl
@[simp] theorem State.updTiers_pending (s : State) (f : Tiers → Tiers) : (s.updTiers f).pending = s.pending := rfl
@[simp] theorem State.updTiers_mem (s : State) (f : Tiers → Tiers) : (s.updTiers f).mem = s.mem := rfl
@[simp] theorem State.updTiers_marks (s : State) (f : Tiers → Tiers) : (s.updTiers f).marks = s.marks := rfl
@[simp] theorem State.updTiers_gens (s : State) (f : Tiers → Tiers) : (s.updTiers f).gens = s.gens := rfl
@[simp] theorem State.updTiers_eci (s : State) (f : Tiers → Tiers) : (s.updTiers f).eci = s.eci := rfl
@[simp] theorem State.updTiers_srv (s : State) (f : Tiers → Tiers) : (s.updTiers f).srv = s.srv := rfl
@[simp] theorem State.updTiers_tiers (s : State) (f : Tiers → Tiers) : (s.updTiers f).tiers = f s.tiers := rfl
@[simp] theorem State.updTiers_squalls (s : State) (f : Tiers → Tiers) : (s.updTiers f).squalls = s.squalls := rfl
@[simp] theorem State.updTiers_cores (s : State) (f : Tiers → Tiers) : (s.updTiers f).cores = s.cores := rfl
@[simp] theorem State.updTiers_coh (s : State) (f : Tiers → Tiers) : (s.updTiers f).coh = s.coh := rfl
@[simp] theorem State.updTiers_dram (s : State) (f : Tiers → Tiers) : (s.updTiers f).dram = s.dram := rfl
@[simp] theorem State.updTiers_pwr (s : State) (f : Tiers → Tiers) : (s.updTiers f).pwr = s.pwr := rfl
@[simp] theorem State.updTiers_cxl (s : State) (f : Tiers → Tiers) : (s.updTiers f).cxl = s.cxl := rfl
@[simp] theorem State.updTiers_dnb (s : State) (f : Tiers → Tiers) : (s.updTiers f).dnb = s.dnb := rfl
@[simp] theorem State.updTiers_mgmt (s : State) (f : Tiers → Tiers) : (s.updTiers f).mgmt = s.mgmt := rfl
@[simp] theorem State.updTiers_boot (s : State) (f : Tiers → Tiers) : (s.updTiers f).boot = s.boot := rfl
@[simp] theorem State.updTiers_logs (s : State) (f : Tiers → Tiers) : (s.updTiers f).logs = s.logs := rfl
@[simp] theorem State.updTiers_ctrs (s : State) (f : Tiers → Tiers) : (s.updTiers f).ctrs = s.ctrs := rfl

@[simp] theorem State.updPwr_now (s : State) (f : Power → Power) : (s.updPwr f).now = s.now := rfl
@[simp] theorem State.updPwr_free (s : State) (f : Power → Power) : (s.updPwr f).free = s.free := rfl
@[simp] theorem State.updPwr_out (s : State) (f : Power → Power) : (s.updPwr f).out = s.out := rfl
@[simp] theorem State.updPwr_pending (s : State) (f : Power → Power) : (s.updPwr f).pending = s.pending := rfl
@[simp] theorem State.updPwr_mem (s : State) (f : Power → Power) : (s.updPwr f).mem = s.mem := rfl
@[simp] theorem State.updPwr_marks (s : State) (f : Power → Power) : (s.updPwr f).marks = s.marks := rfl
@[simp] theorem State.updPwr_gens (s : State) (f : Power → Power) : (s.updPwr f).gens = s.gens := rfl
@[simp] theorem State.updPwr_eci (s : State) (f : Power → Power) : (s.updPwr f).eci = s.eci := rfl
@[simp] theorem State.updPwr_srv (s : State) (f : Power → Power) : (s.updPwr f).srv = s.srv := rfl
@[simp] theorem State.updPwr_tiers (s : State) (f : Power → Power) : (s.updPwr f).tiers = s.tiers := rfl
@[simp] theorem State.updPwr_squalls (s : State) (f : Power → Power) : (s.updPwr f).squalls = s.squalls := rfl
@[simp] theorem State.updPwr_cores (s : State) (f : Power → Power) : (s.updPwr f).cores = s.cores := rfl
@[simp] theorem State.updPwr_coh (s : State) (f : Power → Power) : (s.updPwr f).coh = s.coh := rfl
@[simp] theorem State.updPwr_dram (s : State) (f : Power → Power) : (s.updPwr f).dram = s.dram := rfl
@[simp] theorem State.updPwr_pwr (s : State) (f : Power → Power) : (s.updPwr f).pwr = f s.pwr := rfl
@[simp] theorem State.updPwr_cxl (s : State) (f : Power → Power) : (s.updPwr f).cxl = s.cxl := rfl
@[simp] theorem State.updPwr_dnb (s : State) (f : Power → Power) : (s.updPwr f).dnb = s.dnb := rfl
@[simp] theorem State.updPwr_mgmt (s : State) (f : Power → Power) : (s.updPwr f).mgmt = s.mgmt := rfl
@[simp] theorem State.updPwr_boot (s : State) (f : Power → Power) : (s.updPwr f).boot = s.boot := rfl
@[simp] theorem State.updPwr_logs (s : State) (f : Power → Power) : (s.updPwr f).logs = s.logs := rfl
@[simp] theorem State.updPwr_ctrs (s : State) (f : Power → Power) : (s.updPwr f).ctrs = s.ctrs := rfl

@[simp] theorem State.updCxl_now (s : State) (f : Cxl → Cxl) : (s.updCxl f).now = s.now := rfl
@[simp] theorem State.updCxl_free (s : State) (f : Cxl → Cxl) : (s.updCxl f).free = s.free := rfl
@[simp] theorem State.updCxl_out (s : State) (f : Cxl → Cxl) : (s.updCxl f).out = s.out := rfl
@[simp] theorem State.updCxl_pending (s : State) (f : Cxl → Cxl) : (s.updCxl f).pending = s.pending := rfl
@[simp] theorem State.updCxl_mem (s : State) (f : Cxl → Cxl) : (s.updCxl f).mem = s.mem := rfl
@[simp] theorem State.updCxl_marks (s : State) (f : Cxl → Cxl) : (s.updCxl f).marks = s.marks := rfl
@[simp] theorem State.updCxl_gens (s : State) (f : Cxl → Cxl) : (s.updCxl f).gens = s.gens := rfl
@[simp] theorem State.updCxl_eci (s : State) (f : Cxl → Cxl) : (s.updCxl f).eci = s.eci := rfl
@[simp] theorem State.updCxl_srv (s : State) (f : Cxl → Cxl) : (s.updCxl f).srv = s.srv := rfl
@[simp] theorem State.updCxl_tiers (s : State) (f : Cxl → Cxl) : (s.updCxl f).tiers = s.tiers := rfl
@[simp] theorem State.updCxl_squalls (s : State) (f : Cxl → Cxl) : (s.updCxl f).squalls = s.squalls := rfl
@[simp] theorem State.updCxl_cores (s : State) (f : Cxl → Cxl) : (s.updCxl f).cores = s.cores := rfl
@[simp] theorem State.updCxl_coh (s : State) (f : Cxl → Cxl) : (s.updCxl f).coh = s.coh := rfl
@[simp] theorem State.updCxl_dram (s : State) (f : Cxl → Cxl) : (s.updCxl f).dram = s.dram := rfl
@[simp] theorem State.updCxl_pwr (s : State) (f : Cxl → Cxl) : (s.updCxl f).pwr = s.pwr := rfl
@[simp] theorem State.updCxl_cxl (s : State) (f : Cxl → Cxl) : (s.updCxl f).cxl = f s.cxl := rfl
@[simp] theorem State.updCxl_dnb (s : State) (f : Cxl → Cxl) : (s.updCxl f).dnb = s.dnb := rfl
@[simp] theorem State.updCxl_mgmt (s : State) (f : Cxl → Cxl) : (s.updCxl f).mgmt = s.mgmt := rfl
@[simp] theorem State.updCxl_boot (s : State) (f : Cxl → Cxl) : (s.updCxl f).boot = s.boot := rfl
@[simp] theorem State.updCxl_logs (s : State) (f : Cxl → Cxl) : (s.updCxl f).logs = s.logs := rfl
@[simp] theorem State.updCxl_ctrs (s : State) (f : Cxl → Cxl) : (s.updCxl f).ctrs = s.ctrs := rfl

@[simp] theorem State.updDnb_now (s : State) (f : Denbel → Denbel) : (s.updDnb f).now = s.now := rfl
@[simp] theorem State.updDnb_free (s : State) (f : Denbel → Denbel) : (s.updDnb f).free = s.free := rfl
@[simp] theorem State.updDnb_out (s : State) (f : Denbel → Denbel) : (s.updDnb f).out = s.out := rfl
@[simp] theorem State.updDnb_pending (s : State) (f : Denbel → Denbel) : (s.updDnb f).pending = s.pending := rfl
@[simp] theorem State.updDnb_mem (s : State) (f : Denbel → Denbel) : (s.updDnb f).mem = s.mem := rfl
@[simp] theorem State.updDnb_marks (s : State) (f : Denbel → Denbel) : (s.updDnb f).marks = s.marks := rfl
@[simp] theorem State.updDnb_gens (s : State) (f : Denbel → Denbel) : (s.updDnb f).gens = s.gens := rfl
@[simp] theorem State.updDnb_eci (s : State) (f : Denbel → Denbel) : (s.updDnb f).eci = s.eci := rfl
@[simp] theorem State.updDnb_srv (s : State) (f : Denbel → Denbel) : (s.updDnb f).srv = s.srv := rfl
@[simp] theorem State.updDnb_tiers (s : State) (f : Denbel → Denbel) : (s.updDnb f).tiers = s.tiers := rfl
@[simp] theorem State.updDnb_squalls (s : State) (f : Denbel → Denbel) : (s.updDnb f).squalls = s.squalls := rfl
@[simp] theorem State.updDnb_cores (s : State) (f : Denbel → Denbel) : (s.updDnb f).cores = s.cores := rfl
@[simp] theorem State.updDnb_coh (s : State) (f : Denbel → Denbel) : (s.updDnb f).coh = s.coh := rfl
@[simp] theorem State.updDnb_dram (s : State) (f : Denbel → Denbel) : (s.updDnb f).dram = s.dram := rfl
@[simp] theorem State.updDnb_pwr (s : State) (f : Denbel → Denbel) : (s.updDnb f).pwr = s.pwr := rfl
@[simp] theorem State.updDnb_cxl (s : State) (f : Denbel → Denbel) : (s.updDnb f).cxl = s.cxl := rfl
@[simp] theorem State.updDnb_dnb (s : State) (f : Denbel → Denbel) : (s.updDnb f).dnb = f s.dnb := rfl
@[simp] theorem State.updDnb_mgmt (s : State) (f : Denbel → Denbel) : (s.updDnb f).mgmt = s.mgmt := rfl
@[simp] theorem State.updDnb_boot (s : State) (f : Denbel → Denbel) : (s.updDnb f).boot = s.boot := rfl
@[simp] theorem State.updDnb_logs (s : State) (f : Denbel → Denbel) : (s.updDnb f).logs = s.logs := rfl
@[simp] theorem State.updDnb_ctrs (s : State) (f : Denbel → Denbel) : (s.updDnb f).ctrs = s.ctrs := rfl

@[simp] theorem State.updCoh_now (s : State) (f : Coherence → Coherence) : (s.updCoh f).now = s.now := rfl
@[simp] theorem State.updCoh_free (s : State) (f : Coherence → Coherence) : (s.updCoh f).free = s.free := rfl
@[simp] theorem State.updCoh_out (s : State) (f : Coherence → Coherence) : (s.updCoh f).out = s.out := rfl
@[simp] theorem State.updCoh_pending (s : State) (f : Coherence → Coherence) : (s.updCoh f).pending = s.pending := rfl
@[simp] theorem State.updCoh_mem (s : State) (f : Coherence → Coherence) : (s.updCoh f).mem = s.mem := rfl
@[simp] theorem State.updCoh_marks (s : State) (f : Coherence → Coherence) : (s.updCoh f).marks = s.marks := rfl
@[simp] theorem State.updCoh_gens (s : State) (f : Coherence → Coherence) : (s.updCoh f).gens = s.gens := rfl
@[simp] theorem State.updCoh_eci (s : State) (f : Coherence → Coherence) : (s.updCoh f).eci = s.eci := rfl
@[simp] theorem State.updCoh_srv (s : State) (f : Coherence → Coherence) : (s.updCoh f).srv = s.srv := rfl
@[simp] theorem State.updCoh_tiers (s : State) (f : Coherence → Coherence) : (s.updCoh f).tiers = s.tiers := rfl
@[simp] theorem State.updCoh_squalls (s : State) (f : Coherence → Coherence) : (s.updCoh f).squalls = s.squalls := rfl
@[simp] theorem State.updCoh_cores (s : State) (f : Coherence → Coherence) : (s.updCoh f).cores = s.cores := rfl
@[simp] theorem State.updCoh_coh (s : State) (f : Coherence → Coherence) : (s.updCoh f).coh = f s.coh := rfl
@[simp] theorem State.updCoh_dram (s : State) (f : Coherence → Coherence) : (s.updCoh f).dram = s.dram := rfl
@[simp] theorem State.updCoh_pwr (s : State) (f : Coherence → Coherence) : (s.updCoh f).pwr = s.pwr := rfl
@[simp] theorem State.updCoh_cxl (s : State) (f : Coherence → Coherence) : (s.updCoh f).cxl = s.cxl := rfl
@[simp] theorem State.updCoh_dnb (s : State) (f : Coherence → Coherence) : (s.updCoh f).dnb = s.dnb := rfl
@[simp] theorem State.updCoh_mgmt (s : State) (f : Coherence → Coherence) : (s.updCoh f).mgmt = s.mgmt := rfl
@[simp] theorem State.updCoh_boot (s : State) (f : Coherence → Coherence) : (s.updCoh f).boot = s.boot := rfl
@[simp] theorem State.updCoh_logs (s : State) (f : Coherence → Coherence) : (s.updCoh f).logs = s.logs := rfl
@[simp] theorem State.updCoh_ctrs (s : State) (f : Coherence → Coherence) : (s.updCoh f).ctrs = s.ctrs := rfl

@[simp] theorem State.updDram_now (s : State) (f : Dram → Dram) : (s.updDram f).now = s.now := rfl
@[simp] theorem State.updDram_free (s : State) (f : Dram → Dram) : (s.updDram f).free = s.free := rfl
@[simp] theorem State.updDram_out (s : State) (f : Dram → Dram) : (s.updDram f).out = s.out := rfl
@[simp] theorem State.updDram_pending (s : State) (f : Dram → Dram) : (s.updDram f).pending = s.pending := rfl
@[simp] theorem State.updDram_mem (s : State) (f : Dram → Dram) : (s.updDram f).mem = s.mem := rfl
@[simp] theorem State.updDram_marks (s : State) (f : Dram → Dram) : (s.updDram f).marks = s.marks := rfl
@[simp] theorem State.updDram_gens (s : State) (f : Dram → Dram) : (s.updDram f).gens = s.gens := rfl
@[simp] theorem State.updDram_eci (s : State) (f : Dram → Dram) : (s.updDram f).eci = s.eci := rfl
@[simp] theorem State.updDram_srv (s : State) (f : Dram → Dram) : (s.updDram f).srv = s.srv := rfl
@[simp] theorem State.updDram_tiers (s : State) (f : Dram → Dram) : (s.updDram f).tiers = s.tiers := rfl
@[simp] theorem State.updDram_squalls (s : State) (f : Dram → Dram) : (s.updDram f).squalls = s.squalls := rfl
@[simp] theorem State.updDram_cores (s : State) (f : Dram → Dram) : (s.updDram f).cores = s.cores := rfl
@[simp] theorem State.updDram_coh (s : State) (f : Dram → Dram) : (s.updDram f).coh = s.coh := rfl
@[simp] theorem State.updDram_dram (s : State) (f : Dram → Dram) : (s.updDram f).dram = f s.dram := rfl
@[simp] theorem State.updDram_pwr (s : State) (f : Dram → Dram) : (s.updDram f).pwr = s.pwr := rfl
@[simp] theorem State.updDram_cxl (s : State) (f : Dram → Dram) : (s.updDram f).cxl = s.cxl := rfl
@[simp] theorem State.updDram_dnb (s : State) (f : Dram → Dram) : (s.updDram f).dnb = s.dnb := rfl
@[simp] theorem State.updDram_mgmt (s : State) (f : Dram → Dram) : (s.updDram f).mgmt = s.mgmt := rfl
@[simp] theorem State.updDram_boot (s : State) (f : Dram → Dram) : (s.updDram f).boot = s.boot := rfl
@[simp] theorem State.updDram_logs (s : State) (f : Dram → Dram) : (s.updDram f).logs = s.logs := rfl
@[simp] theorem State.updDram_ctrs (s : State) (f : Dram → Dram) : (s.updDram f).ctrs = s.ctrs := rfl

@[simp] theorem State.updBoot_now (s : State) (f : Boot → Boot) : (s.updBoot f).now = s.now := rfl
@[simp] theorem State.updBoot_free (s : State) (f : Boot → Boot) : (s.updBoot f).free = s.free := rfl
@[simp] theorem State.updBoot_out (s : State) (f : Boot → Boot) : (s.updBoot f).out = s.out := rfl
@[simp] theorem State.updBoot_pending (s : State) (f : Boot → Boot) : (s.updBoot f).pending = s.pending := rfl
@[simp] theorem State.updBoot_mem (s : State) (f : Boot → Boot) : (s.updBoot f).mem = s.mem := rfl
@[simp] theorem State.updBoot_marks (s : State) (f : Boot → Boot) : (s.updBoot f).marks = s.marks := rfl
@[simp] theorem State.updBoot_gens (s : State) (f : Boot → Boot) : (s.updBoot f).gens = s.gens := rfl
@[simp] theorem State.updBoot_eci (s : State) (f : Boot → Boot) : (s.updBoot f).eci = s.eci := rfl
@[simp] theorem State.updBoot_srv (s : State) (f : Boot → Boot) : (s.updBoot f).srv = s.srv := rfl
@[simp] theorem State.updBoot_tiers (s : State) (f : Boot → Boot) : (s.updBoot f).tiers = s.tiers := rfl
@[simp] theorem State.updBoot_squalls (s : State) (f : Boot → Boot) : (s.updBoot f).squalls = s.squalls := rfl
@[simp] theorem State.updBoot_cores (s : State) (f : Boot → Boot) : (s.updBoot f).cores = s.cores := rfl
@[simp] theorem State.updBoot_coh (s : State) (f : Boot → Boot) : (s.updBoot f).coh = s.coh := rfl
@[simp] theorem State.updBoot_dram (s : State) (f : Boot → Boot) : (s.updBoot f).dram = s.dram := rfl
@[simp] theorem State.updBoot_pwr (s : State) (f : Boot → Boot) : (s.updBoot f).pwr = s.pwr := rfl
@[simp] theorem State.updBoot_cxl (s : State) (f : Boot → Boot) : (s.updBoot f).cxl = s.cxl := rfl
@[simp] theorem State.updBoot_dnb (s : State) (f : Boot → Boot) : (s.updBoot f).dnb = s.dnb := rfl
@[simp] theorem State.updBoot_mgmt (s : State) (f : Boot → Boot) : (s.updBoot f).mgmt = s.mgmt := rfl
@[simp] theorem State.updBoot_boot (s : State) (f : Boot → Boot) : (s.updBoot f).boot = f s.boot := rfl
@[simp] theorem State.updBoot_logs (s : State) (f : Boot → Boot) : (s.updBoot f).logs = s.logs := rfl
@[simp] theorem State.updBoot_ctrs (s : State) (f : Boot → Boot) : (s.updBoot f).ctrs = s.ctrs := rfl

@[simp] theorem State.updLogs_now (s : State) (f : Logs → Logs) : (s.updLogs f).now = s.now := rfl
@[simp] theorem State.updLogs_free (s : State) (f : Logs → Logs) : (s.updLogs f).free = s.free := rfl
@[simp] theorem State.updLogs_out (s : State) (f : Logs → Logs) : (s.updLogs f).out = s.out := rfl
@[simp] theorem State.updLogs_pending (s : State) (f : Logs → Logs) : (s.updLogs f).pending = s.pending := rfl
@[simp] theorem State.updLogs_mem (s : State) (f : Logs → Logs) : (s.updLogs f).mem = s.mem := rfl
@[simp] theorem State.updLogs_marks (s : State) (f : Logs → Logs) : (s.updLogs f).marks = s.marks := rfl
@[simp] theorem State.updLogs_gens (s : State) (f : Logs → Logs) : (s.updLogs f).gens = s.gens := rfl
@[simp] theorem State.updLogs_eci (s : State) (f : Logs → Logs) : (s.updLogs f).eci = s.eci := rfl
@[simp] theorem State.updLogs_srv (s : State) (f : Logs → Logs) : (s.updLogs f).srv = s.srv := rfl
@[simp] theorem State.updLogs_tiers (s : State) (f : Logs → Logs) : (s.updLogs f).tiers = s.tiers := rfl
@[simp] theorem State.updLogs_squalls (s : State) (f : Logs → Logs) : (s.updLogs f).squalls = s.squalls := rfl
@[simp] theorem State.updLogs_cores (s : State) (f : Logs → Logs) : (s.updLogs f).cores = s.cores := rfl
@[simp] theorem State.updLogs_coh (s : State) (f : Logs → Logs) : (s.updLogs f).coh = s.coh := rfl
@[simp] theorem State.updLogs_dram (s : State) (f : Logs → Logs) : (s.updLogs f).dram = s.dram := rfl
@[simp] theorem State.updLogs_pwr (s : State) (f : Logs → Logs) : (s.updLogs f).pwr = s.pwr := rfl
@[simp] theorem State.updLogs_cxl (s : State) (f : Logs → Logs) : (s.updLogs f).cxl = s.cxl := rfl
@[simp] theorem State.updLogs_dnb (s : State) (f : Logs → Logs) : (s.updLogs f).dnb = s.dnb := rfl
@[simp] theorem State.updLogs_mgmt (s : State) (f : Logs → Logs) : (s.updLogs f).mgmt = s.mgmt := rfl
@[simp] theorem State.updLogs_boot (s : State) (f : Logs → Logs) : (s.updLogs f).boot = s.boot := rfl
@[simp] theorem State.updLogs_logs (s : State) (f : Logs → Logs) : (s.updLogs f).logs = f s.logs := rfl
@[simp] theorem State.updLogs_ctrs (s : State) (f : Logs → Logs) : (s.updLogs f).ctrs = s.ctrs := rfl

@[simp] theorem State.putByte_now (s : State) (a : Nat) (b : Byte) : (s.putByte a b).now = s.now := rfl
@[simp] theorem State.putByte_free (s : State) (a : Nat) (b : Byte) : (s.putByte a b).free = s.free := rfl
@[simp] theorem State.putByte_out (s : State) (a : Nat) (b : Byte) : (s.putByte a b).out = s.out := rfl
@[simp] theorem State.putByte_pending (s : State) (a : Nat) (b : Byte) : (s.putByte a b).pending = s.pending := rfl
@[simp] theorem State.putByte_marks (s : State) (a : Nat) (b : Byte) : (s.putByte a b).marks = s.marks := rfl
@[simp] theorem State.putByte_gens (s : State) (a : Nat) (b : Byte) : (s.putByte a b).gens = s.gens := rfl
@[simp] theorem State.putByte_eci (s : State) (a : Nat) (b : Byte) : (s.putByte a b).eci = s.eci := rfl
@[simp] theorem State.putByte_srv (s : State) (a : Nat) (b : Byte) : (s.putByte a b).srv = s.srv := rfl
@[simp] theorem State.putByte_tiers (s : State) (a : Nat) (b : Byte) : (s.putByte a b).tiers = s.tiers := rfl
@[simp] theorem State.putByte_squalls (s : State) (a : Nat) (b : Byte) : (s.putByte a b).squalls = s.squalls := rfl
@[simp] theorem State.putByte_cores (s : State) (a : Nat) (b : Byte) : (s.putByte a b).cores = s.cores := rfl
@[simp] theorem State.putByte_coh (s : State) (a : Nat) (b : Byte) : (s.putByte a b).coh = s.coh := rfl
@[simp] theorem State.putByte_dram (s : State) (a : Nat) (b : Byte) : (s.putByte a b).dram = s.dram := rfl
@[simp] theorem State.putByte_pwr (s : State) (a : Nat) (b : Byte) : (s.putByte a b).pwr = s.pwr := rfl
@[simp] theorem State.putByte_cxl (s : State) (a : Nat) (b : Byte) : (s.putByte a b).cxl = s.cxl := rfl
@[simp] theorem State.putByte_dnb (s : State) (a : Nat) (b : Byte) : (s.putByte a b).dnb = s.dnb := rfl
@[simp] theorem State.putByte_mgmt (s : State) (a : Nat) (b : Byte) : (s.putByte a b).mgmt = s.mgmt := rfl
@[simp] theorem State.putByte_boot (s : State) (a : Nat) (b : Byte) : (s.putByte a b).boot = s.boot := rfl
@[simp] theorem State.putByte_logs (s : State) (a : Nat) (b : Byte) : (s.putByte a b).logs = s.logs := rfl
@[simp] theorem State.putByte_ctrs (s : State) (a : Nat) (b : Byte) : (s.putByte a b).ctrs = s.ctrs := rfl

@[simp] theorem State.setMark_now (s : State) (a : Nat) (m : Mark) : (s.setMark a m).now = s.now := rfl
@[simp] theorem State.setMark_free (s : State) (a : Nat) (m : Mark) : (s.setMark a m).free = s.free := rfl
@[simp] theorem State.setMark_out (s : State) (a : Nat) (m : Mark) : (s.setMark a m).out = s.out := rfl
@[simp] theorem State.setMark_pending (s : State) (a : Nat) (m : Mark) : (s.setMark a m).pending = s.pending := rfl
@[simp] theorem State.setMark_mem (s : State) (a : Nat) (m : Mark) : (s.setMark a m).mem = s.mem := rfl
@[simp] theorem State.setMark_gens (s : State) (a : Nat) (m : Mark) : (s.setMark a m).gens = s.gens := rfl
@[simp] theorem State.setMark_eci (s : State) (a : Nat) (m : Mark) : (s.setMark a m).eci = s.eci := rfl
@[simp] theorem State.setMark_srv (s : State) (a : Nat) (m : Mark) : (s.setMark a m).srv = s.srv := rfl
@[simp] theorem State.setMark_tiers (s : State) (a : Nat) (m : Mark) : (s.setMark a m).tiers = s.tiers := rfl
@[simp] theorem State.setMark_squalls (s : State) (a : Nat) (m : Mark) : (s.setMark a m).squalls = s.squalls := rfl
@[simp] theorem State.setMark_cores (s : State) (a : Nat) (m : Mark) : (s.setMark a m).cores = s.cores := rfl
@[simp] theorem State.setMark_coh (s : State) (a : Nat) (m : Mark) : (s.setMark a m).coh = s.coh := rfl
@[simp] theorem State.setMark_dram (s : State) (a : Nat) (m : Mark) : (s.setMark a m).dram = s.dram := rfl
@[simp] theorem State.setMark_pwr (s : State) (a : Nat) (m : Mark) : (s.setMark a m).pwr = s.pwr := rfl
@[simp] theorem State.setMark_cxl (s : State) (a : Nat) (m : Mark) : (s.setMark a m).cxl = s.cxl := rfl
@[simp] theorem State.setMark_dnb (s : State) (a : Nat) (m : Mark) : (s.setMark a m).dnb = s.dnb := rfl
@[simp] theorem State.setMark_mgmt (s : State) (a : Nat) (m : Mark) : (s.setMark a m).mgmt = s.mgmt := rfl
@[simp] theorem State.setMark_boot (s : State) (a : Nat) (m : Mark) : (s.setMark a m).boot = s.boot := rfl
@[simp] theorem State.setMark_logs (s : State) (a : Nat) (m : Mark) : (s.setMark a m).logs = s.logs := rfl
@[simp] theorem State.setMark_ctrs (s : State) (a : Nat) (m : Mark) : (s.setMark a m).ctrs = s.ctrs := rfl

@[simp] theorem State.bumpGen_now (s : State) (a : Nat) : (s.bumpGen a).now = s.now := rfl
@[simp] theorem State.bumpGen_free (s : State) (a : Nat) : (s.bumpGen a).free = s.free := rfl
@[simp] theorem State.bumpGen_out (s : State) (a : Nat) : (s.bumpGen a).out = s.out := rfl
@[simp] theorem State.bumpGen_pending (s : State) (a : Nat) : (s.bumpGen a).pending = s.pending := rfl
@[simp] theorem State.bumpGen_mem (s : State) (a : Nat) : (s.bumpGen a).mem = s.mem := rfl
@[simp] theorem State.bumpGen_marks (s : State) (a : Nat) : (s.bumpGen a).marks = s.marks := rfl
@[simp] theorem State.bumpGen_eci (s : State) (a : Nat) : (s.bumpGen a).eci = s.eci := rfl
@[simp] theorem State.bumpGen_srv (s : State) (a : Nat) : (s.bumpGen a).srv = s.srv := rfl
@[simp] theorem State.bumpGen_tiers (s : State) (a : Nat) : (s.bumpGen a).tiers = s.tiers := rfl
@[simp] theorem State.bumpGen_squalls (s : State) (a : Nat) : (s.bumpGen a).squalls = s.squalls := rfl
@[simp] theorem State.bumpGen_cores (s : State) (a : Nat) : (s.bumpGen a).cores = s.cores := rfl
@[simp] theorem State.bumpGen_coh (s : State) (a : Nat) : (s.bumpGen a).coh = s.coh := rfl
@[simp] theorem State.bumpGen_dram (s : State) (a : Nat) : (s.bumpGen a).dram = s.dram := rfl
@[simp] theorem State.bumpGen_pwr (s : State) (a : Nat) : (s.bumpGen a).pwr = s.pwr := rfl
@[simp] theorem State.bumpGen_cxl (s : State) (a : Nat) : (s.bumpGen a).cxl = s.cxl := rfl
@[simp] theorem State.bumpGen_dnb (s : State) (a : Nat) : (s.bumpGen a).dnb = s.dnb := rfl
@[simp] theorem State.bumpGen_mgmt (s : State) (a : Nat) : (s.bumpGen a).mgmt = s.mgmt := rfl
@[simp] theorem State.bumpGen_boot (s : State) (a : Nat) : (s.bumpGen a).boot = s.boot := rfl
@[simp] theorem State.bumpGen_logs (s : State) (a : Nat) : (s.bumpGen a).logs = s.logs := rfl
@[simp] theorem State.bumpGen_ctrs (s : State) (a : Nat) : (s.bumpGen a).ctrs = s.ctrs := rfl

@[simp] theorem State.draw_now (s : State) : s.draw.now = s.now := rfl
@[simp] theorem State.draw_free (s : State) : s.draw.free = s.free + 1 := rfl
@[simp] theorem State.draw_out (s : State) : s.draw.out = s.out := rfl
@[simp] theorem State.draw_pending (s : State) : s.draw.pending = s.pending := rfl
@[simp] theorem State.draw_mem (s : State) : s.draw.mem = s.mem := rfl
@[simp] theorem State.draw_marks (s : State) : s.draw.marks = s.marks := rfl
@[simp] theorem State.draw_gens (s : State) : s.draw.gens = s.gens := rfl
@[simp] theorem State.draw_eci (s : State) : s.draw.eci = s.eci := rfl
@[simp] theorem State.draw_srv (s : State) : s.draw.srv = s.srv := rfl
@[simp] theorem State.draw_tiers (s : State) : s.draw.tiers = s.tiers := rfl
@[simp] theorem State.draw_squalls (s : State) : s.draw.squalls = s.squalls := rfl
@[simp] theorem State.draw_cores (s : State) : s.draw.cores = s.cores := rfl
@[simp] theorem State.draw_coh (s : State) : s.draw.coh = s.coh := rfl
@[simp] theorem State.draw_dram (s : State) : s.draw.dram = s.dram := rfl
@[simp] theorem State.draw_pwr (s : State) : s.draw.pwr = s.pwr := rfl
@[simp] theorem State.draw_cxl (s : State) : s.draw.cxl = s.cxl := rfl
@[simp] theorem State.draw_dnb (s : State) : s.draw.dnb = s.dnb := rfl
@[simp] theorem State.draw_mgmt (s : State) : s.draw.mgmt = s.mgmt := rfl
@[simp] theorem State.draw_boot (s : State) : s.draw.boot = s.boot := rfl
@[simp] theorem State.draw_logs (s : State) : s.draw.logs = s.logs := rfl
@[simp] theorem State.draw_ctrs (s : State) : s.draw.ctrs = s.ctrs := rfl

@[simp] theorem State.updModel_now (s : State) (i : BitVec 32) (f : Model → Model) : (s.updModel i f).now = s.now := rfl
@[simp] theorem State.updModel_free (s : State) (i : BitVec 32) (f : Model → Model) : (s.updModel i f).free = s.free := rfl
@[simp] theorem State.updModel_out (s : State) (i : BitVec 32) (f : Model → Model) : (s.updModel i f).out = s.out := rfl
@[simp] theorem State.updModel_pending (s : State) (i : BitVec 32) (f : Model → Model) : (s.updModel i f).pending = s.pending := rfl
@[simp] theorem State.updModel_mem (s : State) (i : BitVec 32) (f : Model → Model) : (s.updModel i f).mem = s.mem := rfl
@[simp] theorem State.updModel_marks (s : State) (i : BitVec 32) (f : Model → Model) : (s.updModel i f).marks = s.marks := rfl
@[simp] theorem State.updModel_gens (s : State) (i : BitVec 32) (f : Model → Model) : (s.updModel i f).gens = s.gens := rfl
@[simp] theorem State.updModel_eci (s : State) (i : BitVec 32) (f : Model → Model) : (s.updModel i f).eci = s.eci := rfl
@[simp] theorem State.updModel_tiers (s : State) (i : BitVec 32) (f : Model → Model) : (s.updModel i f).tiers = s.tiers := rfl
@[simp] theorem State.updModel_squalls (s : State) (i : BitVec 32) (f : Model → Model) : (s.updModel i f).squalls = s.squalls := rfl
@[simp] theorem State.updModel_cores (s : State) (i : BitVec 32) (f : Model → Model) : (s.updModel i f).cores = s.cores := rfl
@[simp] theorem State.updModel_coh (s : State) (i : BitVec 32) (f : Model → Model) : (s.updModel i f).coh = s.coh := rfl
@[simp] theorem State.updModel_dram (s : State) (i : BitVec 32) (f : Model → Model) : (s.updModel i f).dram = s.dram := rfl
@[simp] theorem State.updModel_pwr (s : State) (i : BitVec 32) (f : Model → Model) : (s.updModel i f).pwr = s.pwr := rfl
@[simp] theorem State.updModel_cxl (s : State) (i : BitVec 32) (f : Model → Model) : (s.updModel i f).cxl = s.cxl := rfl
@[simp] theorem State.updModel_dnb (s : State) (i : BitVec 32) (f : Model → Model) : (s.updModel i f).dnb = s.dnb := rfl
@[simp] theorem State.updModel_mgmt (s : State) (i : BitVec 32) (f : Model → Model) : (s.updModel i f).mgmt = s.mgmt := rfl
@[simp] theorem State.updModel_boot (s : State) (i : BitVec 32) (f : Model → Model) : (s.updModel i f).boot = s.boot := rfl
@[simp] theorem State.updModel_logs (s : State) (i : BitVec 32) (f : Model → Model) : (s.updModel i f).logs = s.logs := rfl
@[simp] theorem State.updModel_ctrs (s : State) (i : BitVec 32) (f : Model → Model) : (s.updModel i f).ctrs = s.ctrs := rfl

@[simp] theorem State.updChain_now (s : State) (m : BitVec 32) (c : Fin 16) (f : Chain → Chain) : (s.updChain m c f).now = s.now := rfl
@[simp] theorem State.updChain_free (s : State) (m : BitVec 32) (c : Fin 16) (f : Chain → Chain) : (s.updChain m c f).free = s.free := rfl
@[simp] theorem State.updChain_out (s : State) (m : BitVec 32) (c : Fin 16) (f : Chain → Chain) : (s.updChain m c f).out = s.out := rfl
@[simp] theorem State.updChain_pending (s : State) (m : BitVec 32) (c : Fin 16) (f : Chain → Chain) : (s.updChain m c f).pending = s.pending := rfl
@[simp] theorem State.updChain_mem (s : State) (m : BitVec 32) (c : Fin 16) (f : Chain → Chain) : (s.updChain m c f).mem = s.mem := rfl
@[simp] theorem State.updChain_marks (s : State) (m : BitVec 32) (c : Fin 16) (f : Chain → Chain) : (s.updChain m c f).marks = s.marks := rfl
@[simp] theorem State.updChain_gens (s : State) (m : BitVec 32) (c : Fin 16) (f : Chain → Chain) : (s.updChain m c f).gens = s.gens := rfl
@[simp] theorem State.updChain_eci (s : State) (m : BitVec 32) (c : Fin 16) (f : Chain → Chain) : (s.updChain m c f).eci = s.eci := rfl
@[simp] theorem State.updChain_tiers (s : State) (m : BitVec 32) (c : Fin 16) (f : Chain → Chain) : (s.updChain m c f).tiers = s.tiers := rfl
@[simp] theorem State.updChain_squalls (s : State) (m : BitVec 32) (c : Fin 16) (f : Chain → Chain) : (s.updChain m c f).squalls = s.squalls := rfl
@[simp] theorem State.updChain_cores (s : State) (m : BitVec 32) (c : Fin 16) (f : Chain → Chain) : (s.updChain m c f).cores = s.cores := rfl
@[simp] theorem State.updChain_coh (s : State) (m : BitVec 32) (c : Fin 16) (f : Chain → Chain) : (s.updChain m c f).coh = s.coh := rfl
@[simp] theorem State.updChain_dram (s : State) (m : BitVec 32) (c : Fin 16) (f : Chain → Chain) : (s.updChain m c f).dram = s.dram := rfl
@[simp] theorem State.updChain_pwr (s : State) (m : BitVec 32) (c : Fin 16) (f : Chain → Chain) : (s.updChain m c f).pwr = s.pwr := rfl
@[simp] theorem State.updChain_cxl (s : State) (m : BitVec 32) (c : Fin 16) (f : Chain → Chain) : (s.updChain m c f).cxl = s.cxl := rfl
@[simp] theorem State.updChain_dnb (s : State) (m : BitVec 32) (c : Fin 16) (f : Chain → Chain) : (s.updChain m c f).dnb = s.dnb := rfl
@[simp] theorem State.updChain_mgmt (s : State) (m : BitVec 32) (c : Fin 16) (f : Chain → Chain) : (s.updChain m c f).mgmt = s.mgmt := rfl
@[simp] theorem State.updChain_boot (s : State) (m : BitVec 32) (c : Fin 16) (f : Chain → Chain) : (s.updChain m c f).boot = s.boot := rfl
@[simp] theorem State.updChain_logs (s : State) (m : BitVec 32) (c : Fin 16) (f : Chain → Chain) : (s.updChain m c f).logs = s.logs := rfl
@[simp] theorem State.updChain_ctrs (s : State) (m : BitVec 32) (c : Fin 16) (f : Chain → Chain) : (s.updChain m c f).ctrs = s.ctrs := rfl

@[simp] theorem State.updSeq_now (s : State) (m : BitVec 32) (h : Nat) (f : Seq → Seq) : (s.updSeq m h f).now = s.now := rfl
@[simp] theorem State.updSeq_free (s : State) (m : BitVec 32) (h : Nat) (f : Seq → Seq) : (s.updSeq m h f).free = s.free := rfl
@[simp] theorem State.updSeq_out (s : State) (m : BitVec 32) (h : Nat) (f : Seq → Seq) : (s.updSeq m h f).out = s.out := rfl
@[simp] theorem State.updSeq_pending (s : State) (m : BitVec 32) (h : Nat) (f : Seq → Seq) : (s.updSeq m h f).pending = s.pending := rfl
@[simp] theorem State.updSeq_mem (s : State) (m : BitVec 32) (h : Nat) (f : Seq → Seq) : (s.updSeq m h f).mem = s.mem := rfl
@[simp] theorem State.updSeq_marks (s : State) (m : BitVec 32) (h : Nat) (f : Seq → Seq) : (s.updSeq m h f).marks = s.marks := rfl
@[simp] theorem State.updSeq_gens (s : State) (m : BitVec 32) (h : Nat) (f : Seq → Seq) : (s.updSeq m h f).gens = s.gens := rfl
@[simp] theorem State.updSeq_eci (s : State) (m : BitVec 32) (h : Nat) (f : Seq → Seq) : (s.updSeq m h f).eci = s.eci := rfl
@[simp] theorem State.updSeq_tiers (s : State) (m : BitVec 32) (h : Nat) (f : Seq → Seq) : (s.updSeq m h f).tiers = s.tiers := rfl
@[simp] theorem State.updSeq_squalls (s : State) (m : BitVec 32) (h : Nat) (f : Seq → Seq) : (s.updSeq m h f).squalls = s.squalls := rfl
@[simp] theorem State.updSeq_cores (s : State) (m : BitVec 32) (h : Nat) (f : Seq → Seq) : (s.updSeq m h f).cores = s.cores := rfl
@[simp] theorem State.updSeq_coh (s : State) (m : BitVec 32) (h : Nat) (f : Seq → Seq) : (s.updSeq m h f).coh = s.coh := rfl
@[simp] theorem State.updSeq_dram (s : State) (m : BitVec 32) (h : Nat) (f : Seq → Seq) : (s.updSeq m h f).dram = s.dram := rfl
@[simp] theorem State.updSeq_pwr (s : State) (m : BitVec 32) (h : Nat) (f : Seq → Seq) : (s.updSeq m h f).pwr = s.pwr := rfl
@[simp] theorem State.updSeq_cxl (s : State) (m : BitVec 32) (h : Nat) (f : Seq → Seq) : (s.updSeq m h f).cxl = s.cxl := rfl
@[simp] theorem State.updSeq_dnb (s : State) (m : BitVec 32) (h : Nat) (f : Seq → Seq) : (s.updSeq m h f).dnb = s.dnb := rfl
@[simp] theorem State.updSeq_mgmt (s : State) (m : BitVec 32) (h : Nat) (f : Seq → Seq) : (s.updSeq m h f).mgmt = s.mgmt := rfl
@[simp] theorem State.updSeq_boot (s : State) (m : BitVec 32) (h : Nat) (f : Seq → Seq) : (s.updSeq m h f).boot = s.boot := rfl
@[simp] theorem State.updSeq_logs (s : State) (m : BitVec 32) (h : Nat) (f : Seq → Seq) : (s.updSeq m h f).logs = s.logs := rfl
@[simp] theorem State.updSeq_ctrs (s : State) (m : BitVec 32) (h : Nat) (f : Seq → Seq) : (s.updSeq m h f).ctrs = s.ctrs := rfl

@[simp] theorem State.updSession_now (s : State) (i : BitVec 16) (f : Session → Session) : (s.updSession i f).now = s.now := rfl
@[simp] theorem State.updSession_free (s : State) (i : BitVec 16) (f : Session → Session) : (s.updSession i f).free = s.free := rfl
@[simp] theorem State.updSession_out (s : State) (i : BitVec 16) (f : Session → Session) : (s.updSession i f).out = s.out := rfl
@[simp] theorem State.updSession_pending (s : State) (i : BitVec 16) (f : Session → Session) : (s.updSession i f).pending = s.pending := rfl
@[simp] theorem State.updSession_mem (s : State) (i : BitVec 16) (f : Session → Session) : (s.updSession i f).mem = s.mem := rfl
@[simp] theorem State.updSession_marks (s : State) (i : BitVec 16) (f : Session → Session) : (s.updSession i f).marks = s.marks := rfl
@[simp] theorem State.updSession_gens (s : State) (i : BitVec 16) (f : Session → Session) : (s.updSession i f).gens = s.gens := rfl
@[simp] theorem State.updSession_srv (s : State) (i : BitVec 16) (f : Session → Session) : (s.updSession i f).srv = s.srv := rfl
@[simp] theorem State.updSession_tiers (s : State) (i : BitVec 16) (f : Session → Session) : (s.updSession i f).tiers = s.tiers := rfl
@[simp] theorem State.updSession_squalls (s : State) (i : BitVec 16) (f : Session → Session) : (s.updSession i f).squalls = s.squalls := rfl
@[simp] theorem State.updSession_cores (s : State) (i : BitVec 16) (f : Session → Session) : (s.updSession i f).cores = s.cores := rfl
@[simp] theorem State.updSession_coh (s : State) (i : BitVec 16) (f : Session → Session) : (s.updSession i f).coh = s.coh := rfl
@[simp] theorem State.updSession_dram (s : State) (i : BitVec 16) (f : Session → Session) : (s.updSession i f).dram = s.dram := rfl
@[simp] theorem State.updSession_pwr (s : State) (i : BitVec 16) (f : Session → Session) : (s.updSession i f).pwr = s.pwr := rfl
@[simp] theorem State.updSession_cxl (s : State) (i : BitVec 16) (f : Session → Session) : (s.updSession i f).cxl = s.cxl := rfl
@[simp] theorem State.updSession_dnb (s : State) (i : BitVec 16) (f : Session → Session) : (s.updSession i f).dnb = s.dnb := rfl
@[simp] theorem State.updSession_mgmt (s : State) (i : BitVec 16) (f : Session → Session) : (s.updSession i f).mgmt = s.mgmt := rfl
@[simp] theorem State.updSession_boot (s : State) (i : BitVec 16) (f : Session → Session) : (s.updSession i f).boot = s.boot := rfl
@[simp] theorem State.updSession_logs (s : State) (i : BitVec 16) (f : Session → Session) : (s.updSession i f).logs = s.logs := rfl
@[simp] theorem State.updSession_ctrs (s : State) (i : BitVec 16) (f : Session → Session) : (s.updSession i f).ctrs = s.ctrs := rfl

@[simp] theorem State.updOp_now (s : State) (h : Nat) (f : LongOp → LongOp) : (s.updOp h f).now = s.now := rfl
@[simp] theorem State.updOp_free (s : State) (h : Nat) (f : LongOp → LongOp) : (s.updOp h f).free = s.free := rfl
@[simp] theorem State.updOp_out (s : State) (h : Nat) (f : LongOp → LongOp) : (s.updOp h f).out = s.out := rfl
@[simp] theorem State.updOp_pending (s : State) (h : Nat) (f : LongOp → LongOp) : (s.updOp h f).pending = s.pending := rfl
@[simp] theorem State.updOp_mem (s : State) (h : Nat) (f : LongOp → LongOp) : (s.updOp h f).mem = s.mem := rfl
@[simp] theorem State.updOp_marks (s : State) (h : Nat) (f : LongOp → LongOp) : (s.updOp h f).marks = s.marks := rfl
@[simp] theorem State.updOp_gens (s : State) (h : Nat) (f : LongOp → LongOp) : (s.updOp h f).gens = s.gens := rfl
@[simp] theorem State.updOp_srv (s : State) (h : Nat) (f : LongOp → LongOp) : (s.updOp h f).srv = s.srv := rfl
@[simp] theorem State.updOp_tiers (s : State) (h : Nat) (f : LongOp → LongOp) : (s.updOp h f).tiers = s.tiers := rfl
@[simp] theorem State.updOp_squalls (s : State) (h : Nat) (f : LongOp → LongOp) : (s.updOp h f).squalls = s.squalls := rfl
@[simp] theorem State.updOp_cores (s : State) (h : Nat) (f : LongOp → LongOp) : (s.updOp h f).cores = s.cores := rfl
@[simp] theorem State.updOp_coh (s : State) (h : Nat) (f : LongOp → LongOp) : (s.updOp h f).coh = s.coh := rfl
@[simp] theorem State.updOp_dram (s : State) (h : Nat) (f : LongOp → LongOp) : (s.updOp h f).dram = s.dram := rfl
@[simp] theorem State.updOp_pwr (s : State) (h : Nat) (f : LongOp → LongOp) : (s.updOp h f).pwr = s.pwr := rfl
@[simp] theorem State.updOp_cxl (s : State) (h : Nat) (f : LongOp → LongOp) : (s.updOp h f).cxl = s.cxl := rfl
@[simp] theorem State.updOp_dnb (s : State) (h : Nat) (f : LongOp → LongOp) : (s.updOp h f).dnb = s.dnb := rfl
@[simp] theorem State.updOp_mgmt (s : State) (h : Nat) (f : LongOp → LongOp) : (s.updOp h f).mgmt = s.mgmt := rfl
@[simp] theorem State.updOp_boot (s : State) (h : Nat) (f : LongOp → LongOp) : (s.updOp h f).boot = s.boot := rfl
@[simp] theorem State.updOp_logs (s : State) (h : Nat) (f : LongOp → LongOp) : (s.updOp h f).logs = s.logs := rfl
@[simp] theorem State.updOp_ctrs (s : State) (h : Nat) (f : LongOp → LongOp) : (s.updOp h f).ctrs = s.ctrs := rfl

@[simp] theorem State.add_now (s : State) (c : Ctr) (n : Nat) : (s.add c n).now = s.now := rfl
@[simp] theorem State.add_free (s : State) (c : Ctr) (n : Nat) : (s.add c n).free = s.free := rfl
@[simp] theorem State.add_out (s : State) (c : Ctr) (n : Nat) : (s.add c n).out = s.out := rfl
@[simp] theorem State.add_pending (s : State) (c : Ctr) (n : Nat) : (s.add c n).pending = s.pending := rfl
@[simp] theorem State.add_mem (s : State) (c : Ctr) (n : Nat) : (s.add c n).mem = s.mem := rfl
@[simp] theorem State.add_marks (s : State) (c : Ctr) (n : Nat) : (s.add c n).marks = s.marks := rfl
@[simp] theorem State.add_gens (s : State) (c : Ctr) (n : Nat) : (s.add c n).gens = s.gens := rfl
@[simp] theorem State.add_eci (s : State) (c : Ctr) (n : Nat) : (s.add c n).eci = s.eci := rfl
@[simp] theorem State.add_srv (s : State) (c : Ctr) (n : Nat) : (s.add c n).srv = s.srv := rfl
@[simp] theorem State.add_tiers (s : State) (c : Ctr) (n : Nat) : (s.add c n).tiers = s.tiers := rfl
@[simp] theorem State.add_squalls (s : State) (c : Ctr) (n : Nat) : (s.add c n).squalls = s.squalls := rfl
@[simp] theorem State.add_cores (s : State) (c : Ctr) (n : Nat) : (s.add c n).cores = s.cores := rfl
@[simp] theorem State.add_coh (s : State) (c : Ctr) (n : Nat) : (s.add c n).coh = s.coh := rfl
@[simp] theorem State.add_dram (s : State) (c : Ctr) (n : Nat) : (s.add c n).dram = s.dram := rfl
@[simp] theorem State.add_pwr (s : State) (c : Ctr) (n : Nat) : (s.add c n).pwr = s.pwr := rfl
@[simp] theorem State.add_cxl (s : State) (c : Ctr) (n : Nat) : (s.add c n).cxl = s.cxl := rfl
@[simp] theorem State.add_dnb (s : State) (c : Ctr) (n : Nat) : (s.add c n).dnb = s.dnb := rfl
@[simp] theorem State.add_mgmt (s : State) (c : Ctr) (n : Nat) : (s.add c n).mgmt = s.mgmt := rfl
@[simp] theorem State.add_boot (s : State) (c : Ctr) (n : Nat) : (s.add c n).boot = s.boot := rfl
@[simp] theorem State.add_logs (s : State) (c : Ctr) (n : Nat) : (s.add c n).logs = s.logs := rfl

@[simp] theorem State.count_now (s : State) (c : Ctr) : (s.count c).now = s.now := rfl
@[simp] theorem State.count_free (s : State) (c : Ctr) : (s.count c).free = s.free := rfl
@[simp] theorem State.count_out (s : State) (c : Ctr) : (s.count c).out = s.out := rfl
@[simp] theorem State.count_pending (s : State) (c : Ctr) : (s.count c).pending = s.pending := rfl
@[simp] theorem State.count_mem (s : State) (c : Ctr) : (s.count c).mem = s.mem := rfl
@[simp] theorem State.count_marks (s : State) (c : Ctr) : (s.count c).marks = s.marks := rfl
@[simp] theorem State.count_gens (s : State) (c : Ctr) : (s.count c).gens = s.gens := rfl
@[simp] theorem State.count_eci (s : State) (c : Ctr) : (s.count c).eci = s.eci := rfl
@[simp] theorem State.count_srv (s : State) (c : Ctr) : (s.count c).srv = s.srv := rfl
@[simp] theorem State.count_tiers (s : State) (c : Ctr) : (s.count c).tiers = s.tiers := rfl
@[simp] theorem State.count_squalls (s : State) (c : Ctr) : (s.count c).squalls = s.squalls := rfl
@[simp] theorem State.count_cores (s : State) (c : Ctr) : (s.count c).cores = s.cores := rfl
@[simp] theorem State.count_coh (s : State) (c : Ctr) : (s.count c).coh = s.coh := rfl
@[simp] theorem State.count_dram (s : State) (c : Ctr) : (s.count c).dram = s.dram := rfl
@[simp] theorem State.count_pwr (s : State) (c : Ctr) : (s.count c).pwr = s.pwr := rfl
@[simp] theorem State.count_cxl (s : State) (c : Ctr) : (s.count c).cxl = s.cxl := rfl
@[simp] theorem State.count_dnb (s : State) (c : Ctr) : (s.count c).dnb = s.dnb := rfl
@[simp] theorem State.count_mgmt (s : State) (c : Ctr) : (s.count c).mgmt = s.mgmt := rfl
@[simp] theorem State.count_boot (s : State) (c : Ctr) : (s.count c).boot = s.boot := rfl
@[simp] theorem State.count_logs (s : State) (c : Ctr) : (s.count c).logs = s.logs := rfl

@[simp] theorem State.ok_now (s : State) : s.ok.now = s.now := rfl
@[simp] theorem State.ok_free (s : State) : s.ok.free = s.free := rfl
@[simp] theorem State.ok_out (s : State) : s.ok.out = .done := rfl
@[simp] theorem State.ok_pending (s : State) : s.ok.pending = s.pending := rfl
@[simp] theorem State.ok_mem (s : State) : s.ok.mem = s.mem := rfl
@[simp] theorem State.ok_marks (s : State) : s.ok.marks = s.marks := rfl
@[simp] theorem State.ok_gens (s : State) : s.ok.gens = s.gens := rfl
@[simp] theorem State.ok_eci (s : State) : s.ok.eci = s.eci := rfl
@[simp] theorem State.ok_srv (s : State) : s.ok.srv = s.srv := rfl
@[simp] theorem State.ok_tiers (s : State) : s.ok.tiers = s.tiers := rfl
@[simp] theorem State.ok_squalls (s : State) : s.ok.squalls = s.squalls := rfl
@[simp] theorem State.ok_cores (s : State) : s.ok.cores = s.cores := rfl
@[simp] theorem State.ok_coh (s : State) : s.ok.coh = s.coh := rfl
@[simp] theorem State.ok_dram (s : State) : s.ok.dram = s.dram := rfl
@[simp] theorem State.ok_pwr (s : State) : s.ok.pwr = s.pwr := rfl
@[simp] theorem State.ok_cxl (s : State) : s.ok.cxl = s.cxl := rfl
@[simp] theorem State.ok_dnb (s : State) : s.ok.dnb = s.dnb := rfl
@[simp] theorem State.ok_mgmt (s : State) : s.ok.mgmt = s.mgmt := rfl
@[simp] theorem State.ok_boot (s : State) : s.ok.boot = s.boot := rfl
@[simp] theorem State.ok_logs (s : State) : s.ok.logs = s.logs := rfl
@[simp] theorem State.ok_ctrs (s : State) : s.ok.ctrs = s.ctrs := rfl

@[simp] theorem State.notDue_now (s : State) : s.notDue.now = s.now := rfl
@[simp] theorem State.notDue_free (s : State) : s.notDue.free = s.free := rfl
@[simp] theorem State.notDue_out (s : State) : s.notDue.out = .notDue := rfl
@[simp] theorem State.notDue_pending (s : State) : s.notDue.pending = s.pending := rfl
@[simp] theorem State.notDue_mem (s : State) : s.notDue.mem = s.mem := rfl
@[simp] theorem State.notDue_marks (s : State) : s.notDue.marks = s.marks := rfl
@[simp] theorem State.notDue_gens (s : State) : s.notDue.gens = s.gens := rfl
@[simp] theorem State.notDue_eci (s : State) : s.notDue.eci = s.eci := rfl
@[simp] theorem State.notDue_srv (s : State) : s.notDue.srv = s.srv := rfl
@[simp] theorem State.notDue_tiers (s : State) : s.notDue.tiers = s.tiers := rfl
@[simp] theorem State.notDue_squalls (s : State) : s.notDue.squalls = s.squalls := rfl
@[simp] theorem State.notDue_cores (s : State) : s.notDue.cores = s.cores := rfl
@[simp] theorem State.notDue_coh (s : State) : s.notDue.coh = s.coh := rfl
@[simp] theorem State.notDue_dram (s : State) : s.notDue.dram = s.dram := rfl
@[simp] theorem State.notDue_pwr (s : State) : s.notDue.pwr = s.pwr := rfl
@[simp] theorem State.notDue_cxl (s : State) : s.notDue.cxl = s.cxl := rfl
@[simp] theorem State.notDue_dnb (s : State) : s.notDue.dnb = s.dnb := rfl
@[simp] theorem State.notDue_mgmt (s : State) : s.notDue.mgmt = s.mgmt := rfl
@[simp] theorem State.notDue_boot (s : State) : s.notDue.boot = s.boot := rfl
@[simp] theorem State.notDue_logs (s : State) : s.notDue.logs = s.logs := rfl
@[simp] theorem State.notDue_ctrs (s : State) : s.notDue.ctrs = s.ctrs := rfl

@[simp] theorem State.waits_now (s : State) : s.waits.now = s.now := rfl
@[simp] theorem State.waits_free (s : State) : s.waits.free = s.free := rfl
@[simp] theorem State.waits_out (s : State) : s.waits.out = .waits := rfl
@[simp] theorem State.waits_pending (s : State) : s.waits.pending = s.pending := rfl
@[simp] theorem State.waits_mem (s : State) : s.waits.mem = s.mem := rfl
@[simp] theorem State.waits_marks (s : State) : s.waits.marks = s.marks := rfl
@[simp] theorem State.waits_gens (s : State) : s.waits.gens = s.gens := rfl
@[simp] theorem State.waits_eci (s : State) : s.waits.eci = s.eci := rfl
@[simp] theorem State.waits_srv (s : State) : s.waits.srv = s.srv := rfl
@[simp] theorem State.waits_tiers (s : State) : s.waits.tiers = s.tiers := rfl
@[simp] theorem State.waits_squalls (s : State) : s.waits.squalls = s.squalls := rfl
@[simp] theorem State.waits_cores (s : State) : s.waits.cores = s.cores := rfl
@[simp] theorem State.waits_coh (s : State) : s.waits.coh = s.coh := rfl
@[simp] theorem State.waits_dram (s : State) : s.waits.dram = s.dram := rfl
@[simp] theorem State.waits_pwr (s : State) : s.waits.pwr = s.pwr := rfl
@[simp] theorem State.waits_cxl (s : State) : s.waits.cxl = s.cxl := rfl
@[simp] theorem State.waits_dnb (s : State) : s.waits.dnb = s.dnb := rfl
@[simp] theorem State.waits_mgmt (s : State) : s.waits.mgmt = s.mgmt := rfl
@[simp] theorem State.waits_boot (s : State) : s.waits.boot = s.boot := rfl
@[simp] theorem State.waits_logs (s : State) : s.waits.logs = s.logs := rfl
@[simp] theorem State.waits_ctrs (s : State) : s.waits.ctrs = s.ctrs := rfl

end Sys2Proof.Machine
end

