-- ==== Sys2Proof/Laws/Submit.lean ====
section
/-!
SUPPORT. What the operations of Machine/Submit.lean do to a legal state.
-/

namespace Sys2Proof.Machine

theorem State.writeSelect_follows {s t : State} (h : Follows s t) (a1 a2) : Follows s (State.writeSelect t a1 a2) := by
  unfold State.writeSelect
  try dsimp only
  repeat' first
    | with_reducible exact h | with_reducible assumption | with_reducible apply State.putWord_follows
    | with_reducible apply Follows.foldl | with_reducible apply Follows.foldlSnd | intro _

theorem State.acceptItem_follows {s t : State} (h : Follows s t) (a1 a2) (a3 a4 a5) : Follows s (State.acceptItem t a1 a2 a3 a4 a5) := by
  unfold State.acceptItem
  try dsimp only
  repeat' first
    | with_reducible exact h | with_reducible assumption | with_reducible apply State.popEntry_follows
    | with_reducible apply State.nextBad_follows | with_reducible apply State.failItem_follows
    | with_reducible apply State.writeSelect_follows | with_reducible apply State.updChain_follows
    | with_reducible apply Follows.foldl | with_reducible apply Follows.foldlSnd | intro _ | with_reducible rfl
    | split

theorem stepSubmitBody_follows {s t : State} (h : Follows s t) (a1) : Follows s (stepSubmitBody a1 t) := by
  unfold stepSubmitBody
  try dsimp only
  repeat' first
    | with_reducible exact h | with_reducible apply State.refuse_follows | with_reducible apply State.waits_follows
    | with_reducible apply State.acceptItem_follows | intro _ | split

theorem execStepSubmit_follows {s t : State} (h : Follows s t) (a1) : FollowsNext s (execStepSubmit a1 t) := by
  unfold execStepSubmit
  try dsimp only
  apply FollowsNext.next
  repeat' first
    | with_reducible exact h | with_reducible assumption | with_reducible apply State.command_follows
    | with_reducible apply stepSubmitBody_follows | with_reducible apply Follows.foldl
    | with_reducible apply Follows.foldlSnd | intro _

theorem execGustExpire_follows {s t : State} (h : Follows s t) (a1 a2) : FollowsNext s (execGustExpire a1 a2 t) := by
  unfold execGustExpire
  try dsimp only
  apply FollowsNext.next
  repeat' first
    | with_reducible exact h | with_reducible assumption | with_reducible apply State.updChain_follows
    | with_reducible apply State.ok_follows | with_reducible apply State.notDue_follows
    | with_reducible apply Follows.foldl | with_reducible apply Follows.foldlSnd | intro _ | with_reducible rfl
    | split

end Sys2Proof.Machine
end

