-- ==== Sys2Proof/Laws/Tiers.lean ====
section
/-!
SUPPORT. What the operations of Machine/Tiers.lean do to a legal state.
-/

namespace Sys2Proof.Machine

theorem execKvDemoteComplete_follows {s t : State} (h : Follows s t) (a1 a2) : FollowsNext s (execKvDemoteComplete a1 a2 t) := by
  unfold execKvDemoteComplete
  try dsimp only
  apply FollowsNext.next
  repeat' first
    | with_reducible exact h | with_reducible assumption | with_reducible apply State.notDue_follows
    | with_reducible apply State.setBlock_follows | with_reducible apply State.ok_follows
    | with_reducible apply State.waits_follows | with_reducible apply State.feedLifts_follows
    | with_reducible apply State.demoteBlock_follows | with_reducible apply Follows.foldl
    | with_reducible apply Follows.foldlSnd | intro _ | with_reducible rfl | split
    | with_reducible apply Follows.ident | with_reducible apply Follows.lit | (dsimp only <;> with_reducible rfl)
    | rfl

theorem execKvPromote_follows {s t : State} (h : Follows s t) (a1 a2) : FollowsNext s (execKvPromote a1 a2 t) := by
  unfold execKvPromote
  try dsimp only
  apply FollowsNext.next
  repeat' first
    | with_reducible exact h | with_reducible assumption | with_reducible apply State.notDue_follows
    | with_reducible apply State.takeSubs_follows | with_reducible apply State.takeSubs_after (e := by assumption)
    | with_reducible apply State.waits_follows | with_reducible apply State.trimKv_follows
    | with_reducible apply State.moveBlock_follows | with_reducible apply State.ok_follows
    | with_reducible apply State.setBlock_follows | with_reducible apply State.count_follows
    | with_reducible apply State.updTiers_follows | with_reducible apply Follows.foldl
    | with_reducible apply Follows.foldlSnd | intro _ | with_reducible rfl | split

theorem execDrizzleRelocate_follows {s t : State} (h : Follows s t) (a1) : FollowsNext s (execDrizzleRelocate a1 t) := by
  unfold execDrizzleRelocate
  try dsimp only
  apply FollowsNext.next
  repeat' first
    | with_reducible exact h | with_reducible assumption | with_reducible apply State.notDue_follows
    | with_reducible apply State.lifeAdd_follows | with_reducible apply State.count_follows
    | with_reducible apply State.relocateBlock_follows | with_reducible apply State.ok_follows
    | with_reducible apply Follows.foldl | with_reducible apply Follows.foldlSnd | intro _ | with_reducible rfl
    | split

theorem execDrizzleScan_follows {s t : State} (h : Follows s t) (a1 a2 a3) : FollowsNext s (execDrizzleScan a1 a2 a3 t) := by
  unfold execDrizzleScan
  try dsimp only
  apply FollowsNext.next
  repeat' first
    | with_reducible exact h | with_reducible assumption | with_reducible apply State.notDue_follows
    | with_reducible apply State.scanBlock_follows | with_reducible apply State.ok_follows
    | with_reducible apply Follows.foldl | with_reducible apply Follows.foldlSnd | intro _ | with_reducible rfl
    | split | with_reducible apply Follows.ident | with_reducible apply Follows.lit
    | (dsimp only <;> with_reducible rfl) | rfl

theorem execWearRelocate_follows {s t : State} (h : Follows s t) (a1) : FollowsNext s (execWearRelocate a1 t) := by
  unfold execWearRelocate
  try dsimp only
  apply FollowsNext.next
  repeat' first
    | with_reducible exact h | with_reducible assumption | with_reducible apply State.notDue_follows
    | with_reducible apply State.relocateBlock_follows | with_reducible apply State.ok_follows
    | with_reducible apply Follows.foldl | with_reducible apply Follows.foldlSnd | intro _ | with_reducible rfl
    | split

end Sys2Proof.Machine
end

