-- ==== Sys2Proof/Laws/Vector.lean ====
section
/-!
SUPPORT. What the operations of Machine/Vector.lean do to a legal state.
-/

namespace Sys2Proof.Machine

theorem State.updVop_follows {s t : State} (h : Follows s t) (a1 a2 a3) : Follows s (State.updVop t a1 a2 a3) := by
  unfold State.updVop
  repeat' first
    | with_reducible exact h | with_reducible apply State.updSq_follows | intro _ | with_reducible apply Follows.lit
    | (dsimp only <;> with_reducible rfl) | rfl

theorem State.vopWrites_follows {s t : State} (h : Follows s t) (q v) : Follows s (t.vopWrites q v) := by
  unfold State.vopWrites
  extract_lets step r u
  have kr : ∀ (l : List CoreWrite) (acc : List CoreWrite × List Nat × State), Follows s acc.2.2 → Follows s (l.foldl step acc).2.2 := by
    intro l
    induction l with
    | nil => exact fun _ g => g
    | cons w l ih =>
      intro acc g
      refine ih _ ?_
      dsimp only [step]
      split
      · exact g
      · exact State.writeShares_follows g _ _ _ _
  have ku : Follows s u := State.updVop_follows (kr _ _ h) _ _ _
  clear_value u
  split
  · exact State.updSq_follows ku _ _
  · exact ku

theorem State.vopDrain_follows {s t : State} (h : Follows s t) (q) : Follows s (t.vopDrain q) :=
  State.answer_follows (Follows.foldl h _ _ fun _ v k => State.vopWrites_follows k q v) _

theorem State.overlay_follows {s t : State} (h : Follows s t) (a1 a2) : Follows s (State.overlay t a1 a2) := by
  unfold State.overlay
  try dsimp only
  repeat' first
    | with_reducible exact h | with_reducible assumption | with_reducible apply State.updSq_follows
    | with_reducible apply State.storeCore_follows | with_reducible apply Follows.foldl
    | with_reducible apply Follows.foldlSnd | intro _ | with_reducible rfl | split
    | with_reducible apply Follows.ident | with_reducible apply Follows.lit | (dsimp only <;> with_reducible rfl)
    | rfl

theorem State.vopRow_follows {s t : State} (h : Follows s t) (a1 a2 a3) : Follows s (State.vopRow t a1 a2 a3).2 := by
  unfold State.vopRow
  try dsimp only
  repeat' first
    | with_reducible exact h | with_reducible assumption | with_reducible apply State.overlay_follows
    | with_reducible apply State.awaitSlots_follows | with_reducible apply State.awaitSlots_after (e := by assumption)
    | with_reducible apply State.consume_follows | with_reducible apply State.updVop_follows
    | with_reducible apply State.coreAccess_follows | with_reducible apply State.activity_follows
    | with_reducible apply State.draw_follows | with_reducible apply Follows.foldl
    | with_reducible apply Follows.foldlSnd | intro _ | with_reducible rfl | split
    | with_reducible apply Follows.ident | with_reducible apply Follows.lit | (dsimp only <;> with_reducible rfl)
    | rfl

theorem State.vopRow_after {s t u : State} {x} {a1} {a2} {a3} (e : (State.vopRow t a1 a2 a3) = (x, u)) (h : Follows s t) : Follows s u := by
  have k := State.vopRow_follows h a1 a2 a3
  rwa [e] at k

theorem State.vopRows_follows {s t : State} (h : Follows s t) (q seq op) (n : Nat) : Follows s (t.vopRows q seq op n) := by
  induction n generalizing t with
  | zero => exact h
  | succ n ih =>
    unfold State.vopRows
    split
    · exact h
    · split
      · exact h
      · split
        · rename_i e
          exact ih (State.vopDrain_follows (State.vopRow_after e h) _)
        · rename_i e
          exact State.vopDrain_follows (State.vopRow_after e h) _

theorem State.vop_follows {s t : State} (h : Follows s t) (a1 a2) : Follows s (State.vop t a1 a2) := by
  unfold State.vop
  try dsimp only
  repeat' first
    | with_reducible exact h | with_reducible assumption | with_reducible apply State.issue_follows
    | with_reducible apply State.waits_follows | with_reducible apply State.vopDrain_follows
    | with_reducible apply State.notDue_follows | with_reducible apply State.vopRows_follows
    | with_reducible apply State.ok_follows | with_reducible apply Follows.foldl
    | with_reducible apply Follows.foldlSnd | intro _ | with_reducible rfl | split
    | with_reducible apply Follows.ident | with_reducible apply Follows.lit | (dsimp only <;> with_reducible rfl)
    | rfl

theorem execVopAdd_follows {s t : State} (h : Follows s t) (a1 a2) : FollowsNext s (execVopAdd a1 a2 t) := by
  unfold execVopAdd
  try dsimp only
  apply FollowsNext.next
  repeat' first
    | with_reducible exact h | with_reducible assumption | with_reducible apply State.parity_follows
    | with_reducible apply State.vop_follows | with_reducible apply Follows.foldl
    | with_reducible apply Follows.foldlSnd | intro _ | with_reducible rfl | split
    | with_reducible apply Follows.ident | with_reducible apply Follows.lit | (dsimp only <;> with_reducible rfl)
    | rfl

theorem execVopMul_follows {s t : State} (h : Follows s t) (a1 a2) : FollowsNext s (execVopMul a1 a2 t) := by
  unfold execVopMul
  try dsimp only
  apply FollowsNext.next
  repeat' first
    | with_reducible exact h | with_reducible assumption | with_reducible apply State.parity_follows
    | with_reducible apply State.vop_follows | with_reducible apply Follows.foldl
    | with_reducible apply Follows.foldlSnd | intro _ | with_reducible rfl | split
    | with_reducible apply Follows.ident | with_reducible apply Follows.lit | (dsimp only <;> with_reducible rfl)
    | rfl

theorem execVopFma_follows {s t : State} (h : Follows s t) (a1 a2) : FollowsNext s (execVopFma a1 a2 t) := by
  unfold execVopFma
  try dsimp only
  apply FollowsNext.next
  repeat' first
    | with_reducible exact h | with_reducible assumption | with_reducible apply State.parity_follows
    | with_reducible apply State.vop_follows | with_reducible apply Follows.foldl
    | with_reducible apply Follows.foldlSnd | intro _ | with_reducible rfl | split
    | with_reducible apply Follows.ident | with_reducible apply Follows.lit | (dsimp only <;> with_reducible rfl)
    | rfl

theorem execVopMin_follows {s t : State} (h : Follows s t) (a1 a2) : FollowsNext s (execVopMin a1 a2 t) := by
  unfold execVopMin
  try dsimp only
  apply FollowsNext.next
  repeat' first
    | with_reducible exact h | with_reducible assumption | with_reducible apply State.parity_follows
    | with_reducible apply State.vop_follows | with_reducible apply Follows.foldl
    | with_reducible apply Follows.foldlSnd | intro _ | with_reducible rfl | split
    | with_reducible apply Follows.ident | with_reducible apply Follows.lit | (dsimp only <;> with_reducible rfl)
    | rfl

theorem execVopMax_follows {s t : State} (h : Follows s t) (a1 a2) : FollowsNext s (execVopMax a1 a2 t) := by
  unfold execVopMax
  try dsimp only
  apply FollowsNext.next
  repeat' first
    | with_reducible exact h | with_reducible assumption | with_reducible apply State.parity_follows
    | with_reducible apply State.vop_follows | with_reducible apply Follows.foldl
    | with_reducible apply Follows.foldlSnd | intro _ | with_reducible rfl | split
    | with_reducible apply Follows.ident | with_reducible apply Follows.lit | (dsimp only <;> with_reducible rfl)
    | rfl

theorem execVopCmp_follows {s t : State} (h : Follows s t) (a1 a2) : FollowsNext s (execVopCmp a1 a2 t) := by
  unfold execVopCmp
  try dsimp only
  apply FollowsNext.next
  repeat' first
    | with_reducible exact h | with_reducible assumption | with_reducible apply State.parity_follows
    | with_reducible apply State.vop_follows | with_reducible apply Follows.foldl
    | with_reducible apply Follows.foldlSnd | intro _ | with_reducible rfl | split
    | with_reducible apply Follows.ident | with_reducible apply Follows.lit | (dsimp only <;> with_reducible rfl)
    | rfl

theorem execVopSelect_follows {s t : State} (h : Follows s t) (a1 a2) : FollowsNext s (execVopSelect a1 a2 t) := by
  unfold execVopSelect
  try dsimp only
  apply FollowsNext.next
  repeat' first
    | with_reducible exact h | with_reducible assumption | with_reducible apply State.parity_follows
    | with_reducible apply State.vop_follows | with_reducible apply Follows.foldl
    | with_reducible apply Follows.foldlSnd | intro _ | with_reducible rfl | split
    | with_reducible apply Follows.ident | with_reducible apply Follows.lit | (dsimp only <;> with_reducible rfl)
    | rfl

theorem execVopExp2_follows {s t : State} (h : Follows s t) (a1 a2) : FollowsNext s (execVopExp2 a1 a2 t) := by
  unfold execVopExp2
  try dsimp only
  apply FollowsNext.next
  repeat' first
    | with_reducible exact h | with_reducible assumption | with_reducible apply State.parity_follows
    | with_reducible apply State.vop_follows | with_reducible apply Follows.foldl
    | with_reducible apply Follows.foldlSnd | intro _ | with_reducible rfl | split
    | with_reducible apply Follows.ident | with_reducible apply Follows.lit | (dsimp only <;> with_reducible rfl)
    | rfl

theorem execVopLog2_follows {s t : State} (h : Follows s t) (a1 a2) : FollowsNext s (execVopLog2 a1 a2 t) := by
  unfold execVopLog2
  try dsimp only
  apply FollowsNext.next
  repeat' first
    | with_reducible exact h | with_reducible assumption | with_reducible apply State.parity_follows
    | with_reducible apply State.vop_follows | with_reducible apply Follows.foldl
    | with_reducible apply Follows.foldlSnd | intro _ | with_reducible rfl | split
    | with_reducible apply Follows.ident | with_reducible apply Follows.lit | (dsimp only <;> with_reducible rfl)
    | rfl

theorem execVopRcp_follows {s t : State} (h : Follows s t) (a1 a2) : FollowsNext s (execVopRcp a1 a2 t) := by
  unfold execVopRcp
  try dsimp only
  apply FollowsNext.next
  repeat' first
    | with_reducible exact h | with_reducible assumption | with_reducible apply State.parity_follows
    | with_reducible apply State.vop_follows | with_reducible apply Follows.foldl
    | with_reducible apply Follows.foldlSnd | intro _ | with_reducible rfl | split
    | with_reducible apply Follows.ident | with_reducible apply Follows.lit | (dsimp only <;> with_reducible rfl)
    | rfl

theorem execVopRsqrt_follows {s t : State} (h : Follows s t) (a1 a2) : FollowsNext s (execVopRsqrt a1 a2 t) := by
  unfold execVopRsqrt
  try dsimp only
  apply FollowsNext.next
  repeat' first
    | with_reducible exact h | with_reducible assumption | with_reducible apply State.parity_follows
    | with_reducible apply State.vop_follows | with_reducible apply Follows.foldl
    | with_reducible apply Follows.foldlSnd | intro _ | with_reducible rfl | split
    | with_reducible apply Follows.ident | with_reducible apply Follows.lit | (dsimp only <;> with_reducible rfl)
    | rfl

theorem execVopSqrt_follows {s t : State} (h : Follows s t) (a1 a2) : FollowsNext s (execVopSqrt a1 a2 t) := by
  unfold execVopSqrt
  try dsimp only
  apply FollowsNext.next
  repeat' first
    | with_reducible exact h | with_reducible assumption | with_reducible apply State.parity_follows
    | with_reducible apply State.vop_follows | with_reducible apply Follows.foldl
    | with_reducible apply Follows.foldlSnd | intro _ | with_reducible rfl | split
    | with_reducible apply Follows.ident | with_reducible apply Follows.lit | (dsimp only <;> with_reducible rfl)
    | rfl

theorem execVopTanh_follows {s t : State} (h : Follows s t) (a1 a2) : FollowsNext s (execVopTanh a1 a2 t) := by
  unfold execVopTanh
  try dsimp only
  apply FollowsNext.next
  repeat' first
    | with_reducible exact h | with_reducible assumption | with_reducible apply State.parity_follows
    | with_reducible apply State.vop_follows | with_reducible apply Follows.foldl
    | with_reducible apply Follows.foldlSnd | intro _ | with_reducible rfl | split
    | with_reducible apply Follows.ident | with_reducible apply Follows.lit | (dsimp only <;> with_reducible rfl)
    | rfl

theorem execVopSigmoid_follows {s t : State} (h : Follows s t) (a1 a2) : FollowsNext s (execVopSigmoid a1 a2 t) := by
  unfold execVopSigmoid
  try dsimp only
  apply FollowsNext.next
  repeat' first
    | with_reducible exact h | with_reducible assumption | with_reducible apply State.parity_follows
    | with_reducible apply State.vop_follows | with_reducible apply Follows.foldl
    | with_reducible apply Follows.foldlSnd | intro _ | with_reducible rfl | split
    | with_reducible apply Follows.ident | with_reducible apply Follows.lit | (dsimp only <;> with_reducible rfl)
    | rfl

theorem execVopSum_follows {s t : State} (h : Follows s t) (a1 a2) : FollowsNext s (execVopSum a1 a2 t) := by
  unfold execVopSum
  try dsimp only
  apply FollowsNext.next
  repeat' first
    | with_reducible exact h | with_reducible assumption | with_reducible apply State.parity_follows
    | with_reducible apply State.vop_follows | with_reducible apply Follows.foldl
    | with_reducible apply Follows.foldlSnd | intro _ | with_reducible rfl | split
    | with_reducible apply Follows.ident | with_reducible apply Follows.lit | (dsimp only <;> with_reducible rfl)
    | rfl

theorem execVopRowMax_follows {s t : State} (h : Follows s t) (a1 a2) : FollowsNext s (execVopRowMax a1 a2 t) := by
  unfold execVopRowMax
  try dsimp only
  apply FollowsNext.next
  repeat' first
    | with_reducible exact h | with_reducible assumption | with_reducible apply State.parity_follows
    | with_reducible apply State.vop_follows | with_reducible apply Follows.foldl
    | with_reducible apply Follows.foldlSnd | intro _ | with_reducible rfl | split
    | with_reducible apply Follows.ident | with_reducible apply Follows.lit | (dsimp only <;> with_reducible rfl)
    | rfl

theorem execVopRowMin_follows {s t : State} (h : Follows s t) (a1 a2) : FollowsNext s (execVopRowMin a1 a2 t) := by
  unfold execVopRowMin
  try dsimp only
  apply FollowsNext.next
  repeat' first
    | with_reducible exact h | with_reducible assumption | with_reducible apply State.parity_follows
    | with_reducible apply State.vop_follows | with_reducible apply Follows.foldl
    | with_reducible apply Follows.foldlSnd | intro _ | with_reducible rfl | split
    | with_reducible apply Follows.ident | with_reducible apply Follows.lit | (dsimp only <;> with_reducible rfl)
    | rfl

theorem execVopNorm_follows {s t : State} (h : Follows s t) (a1 a2) : FollowsNext s (execVopNorm a1 a2 t) := by
  unfold execVopNorm
  try dsimp only
  apply FollowsNext.next
  repeat' first
    | with_reducible exact h | with_reducible assumption | with_reducible apply State.parity_follows
    | with_reducible apply State.vop_follows | with_reducible apply Follows.foldl
    | with_reducible apply Follows.foldlSnd | intro _ | with_reducible rfl | split
    | with_reducible apply Follows.ident | with_reducible apply Follows.lit | (dsimp only <;> with_reducible rfl)
    | rfl

theorem execVopSoftmax_follows {s t : State} (h : Follows s t) (a1 a2) : FollowsNext s (execVopSoftmax a1 a2 t) := by
  unfold execVopSoftmax
  try dsimp only
  apply FollowsNext.next
  repeat' first
    | with_reducible exact h | with_reducible assumption | with_reducible apply State.parity_follows
    | with_reducible apply State.vop_follows | with_reducible apply Follows.foldl
    | with_reducible apply Follows.foldlSnd | intro _ | with_reducible rfl | split
    | with_reducible apply Follows.ident | with_reducible apply Follows.lit | (dsimp only <;> with_reducible rfl)
    | rfl

theorem execVopRotary_follows {s t : State} (h : Follows s t) (a1 a2) : FollowsNext s (execVopRotary a1 a2 t) := by
  unfold execVopRotary
  try dsimp only
  apply FollowsNext.next
  repeat' first
    | with_reducible exact h | with_reducible assumption | with_reducible apply State.parity_follows
    | with_reducible apply State.vop_follows | with_reducible apply Follows.foldl
    | with_reducible apply Follows.foldlSnd | intro _ | with_reducible rfl | split
    | with_reducible apply Follows.ident | with_reducible apply Follows.lit | (dsimp only <;> with_reducible rfl)
    | rfl

theorem execVopTopk_follows {s t : State} (h : Follows s t) (a1 a2) : FollowsNext s (execVopTopk a1 a2 t) := by
  unfold execVopTopk
  try dsimp only
  apply FollowsNext.next
  repeat' first
    | with_reducible exact h | with_reducible assumption | with_reducible apply State.parity_follows
    | with_reducible apply State.vop_follows | with_reducible apply Follows.foldl
    | with_reducible apply Follows.foldlSnd | intro _ | with_reducible rfl | split
    | with_reducible apply Follows.ident | with_reducible apply Follows.lit | (dsimp only <;> with_reducible rfl)
    | rfl

theorem execVopGather_follows {s t : State} (h : Follows s t) (a1 a2) : FollowsNext s (execVopGather a1 a2 t) := by
  unfold execVopGather
  try dsimp only
  apply FollowsNext.next
  repeat' first
    | with_reducible exact h | with_reducible assumption | with_reducible apply State.parity_follows
    | with_reducible apply State.vop_follows | with_reducible apply Follows.foldl
    | with_reducible apply Follows.foldlSnd | intro _ | with_reducible rfl | split
    | with_reducible apply Follows.ident | with_reducible apply Follows.lit | (dsimp only <;> with_reducible rfl)
    | rfl

theorem execVopScatter_follows {s t : State} (h : Follows s t) (a1 a2) : FollowsNext s (execVopScatter a1 a2 t) := by
  unfold execVopScatter
  try dsimp only
  apply FollowsNext.next
  repeat' first
    | with_reducible exact h | with_reducible assumption | with_reducible apply State.parity_follows
    | with_reducible apply State.vop_follows | with_reducible apply Follows.foldl
    | with_reducible apply Follows.foldlSnd | intro _ | with_reducible rfl | split
    | with_reducible apply Follows.ident | with_reducible apply Follows.lit | (dsimp only <;> with_reducible rfl)
    | rfl

theorem execVopMerge_follows {s t : State} (h : Follows s t) (a1 a2 a3) : FollowsNext s (execVopMerge a1 a2 a3 t) := by
  unfold execVopMerge
  try dsimp only
  apply FollowsNext.next
  repeat' first
    | with_reducible exact h | with_reducible assumption | with_reducible apply State.parity_follows
    | with_reducible apply State.vop_follows | with_reducible apply Follows.foldl
    | with_reducible apply Follows.foldlSnd | intro _ | with_reducible rfl | split
    | with_reducible apply Follows.ident | with_reducible apply Follows.lit | (dsimp only <;> with_reducible rfl)
    | rfl

theorem execVopMergeRoot_follows {s t : State} (h : Follows s t) (a1 a2 a3) : FollowsNext s (execVopMergeRoot a1 a2 a3 t) := by
  unfold execVopMergeRoot
  try dsimp only
  apply FollowsNext.next
  repeat' first
    | with_reducible exact h | with_reducible assumption | with_reducible apply State.parity_follows
    | with_reducible apply State.vop_follows | with_reducible apply Follows.foldl
    | with_reducible apply Follows.foldlSnd | intro _ | with_reducible rfl | split
    | with_reducible apply Follows.ident | with_reducible apply Follows.lit | (dsimp only <;> with_reducible rfl)
    | rfl

end Sys2Proof.Machine
end

