-- ==== Sys2Proof/Tests/Slice0.lean ====
section
/-!
SUPPORT. Tests of the model on small states: ill-formed commands that the checks refuse, a state that meets the hypotheses of each
statement, and single steps whose results the spec gives.
-/

namespace Sys2Proof.Machine

set_option Elab.async false

/-! ## Ill-formed commands, one for each check -/

def tMsg : Msg := { opc := 1, dst := 1, src := 2, vc := 0, hops := 0, tag := 5, marks := 0, addr := 0, aux := 1, data := [] }

theorem test_wf_register_size : (Instr.registerWrite 0 3 0 .host).wf = false := by decide
theorem test_wf_register_end : (Instr.registerWrite 0xFFFF 4 0 .host).wf = false := by decide
theorem test_wf_debug_load : (Instr.debugLoad .host 0 3 none).wf = false := by decide
theorem test_wf_debug_store : (Instr.debugStore .host 0 []).wf = false := by decide
theorem test_wf_device_load : (Instr.deviceLoad 0 0 5 .plain true).wf = false := by decide
theorem test_wf_device_store : (Instr.deviceStore 0 0 0 5 0 .plain true).wf = false := by decide
theorem test_wf_core_load : (Instr.coreLoad 0 0 5 .pma .plain none).wf = false := by decide
theorem test_wf_core_store : (Instr.coreStore 0 0 5 0 .pma .plain).wf = false := by decide
theorem test_wf_cxl_mem : (Instr.cxlMemRead 1 64 .clean).wf = false ∧ (Instr.cxlMemWrite 0 [1] false).wf = false := by decide
theorem test_wf_bar4 : (Instr.bar4Read 0 0 0 .clean).wf = false ∧ (Instr.bar4Write 0 [] 0 false).wf = false := by decide
theorem test_wf_flit : (Instr.dnbFlitReceive 0 { emptyFlit with kind := 1 } true false).wf = false := by decide
theorem test_wf_stream_flit : (Instr.dnbStreamFlit 0 0 [1]).wf = false := by decide
theorem test_wf_forward : (Instr.dnbForward { tMsg with data := [1] }).wf = false := by decide
theorem test_wf_write_messages : (Instr.dnbWr tMsg).wf = false ∧ (Instr.dnbWrp tMsg).wf = false := by decide
theorem test_wf_read_messages : (Instr.dnbRd { tMsg with aux := 5 } .clean).wf = false ∧ (Instr.dnbRdr tMsg).wf = false ∧
    (Instr.dnbWack { tMsg with aux := 0 }).wf = false := by decide
theorem test_wf_lift_and_stream : (Instr.dnbLift tMsg).wf = false ∧ (Instr.dnbStreamOpen 0 tMsg).wf = false ∧
    (Instr.dnbStreamEnd 0 { tMsg with aux := 3 }).wf = false := by decide
theorem test_wf_nonces : (Instr.challenge .doe 0 []).wf = false ∧ (Instr.getMeasurements .doe 0 []).wf = false := by decide
theorem test_wf_rails : (Instr.powerWindow 0 []).wf = false := by decide

/-! ## States to test on -/

/-- READY, with every rail, reset, and link in order. -/
def tReady : State := { State.reset with
  boot := { State.reset.boot with supply := .inRange, stage := 9, resetN := true }
  cxl := { State.reset.cxl with state := .up, width := 16, speed := 64, microcode := true }
  eci := { State.reset.eci with devState := .ready } }

def tSession : Session := { id := 1, tenant := 0, token := 7 }

/-- Pair 0 is ACTIVE, with its queues in device memory and session 1. -/
def tPair : State := { tReady with eci := { tReady.eci with
  sessions := [tSession]
  pairs := upd tReady.eci.pairs 0 fun p => { p with
    session := some 1, enable := true, active := true, sqLog2 := 4, cqLog2 := 4, sqBase := 0xFFF8000000, cqBase := 0xFFF8001000 } } }

/-- The state that an outcome leaves; the reset state where it leaves none. -/
def left (o : Host.Outcome State Fault Refusal) : State :=
  match o with
  | .next t => t
  | _ => State.reset

/-- An urgent slot with an entry. -/
def tUrgent : State := { tReady with eci := { tReady.eci with urgEntry := tReady.eci.urgEntry.set 1 0x40 } }

/-! ## Hypotheses of the statements, met: the machine and the registers -/

theorem witness_StepRunsFrontCommand : ({ tReady with pending := [.powerUp] } : State).pending = .powerUp :: [] := rfl
theorem witness_EmptyQueueIdles : tReady.pending = [] ∧ State.reset.pending = [] ∧ State.reset.boot.supply.on = false := by decide +kernel
theorem witness_StepsKeepLegal : LegalState tReady ∧ ∃ t, step { tReady with pending := [.cxlConfigRequest] } = .next t :=
  ⟨⟨rfl, rfl, ⟨⟨by decide +kernel, by decide +kernel⟩, (fun _ h => nomatch h), by decide +kernel, (fun _ h => nomatch h), by decide +kernel, by decide +kernel⟩⟩, _, rfl⟩
theorem witness_FusesNeverLowered : ∃ t, step { tReady with pending := [.cxlConfigRequest] } = .next t := ⟨_, rfl⟩
theorem witness_CommandsKeepQueueAndClock : ∃ t, exec .cxlConfigRequest tReady = .next t := ⟨_, rfl⟩
theorem witness_StoredBytesReadBack : Memory.wf tReady.mem = true ∧ tReady.real 1 ≠ tReady.real 0 := by decide +kernel
theorem witness_RecordWrittenAtTail :
    isHost ((tPair.pair 0).cqNow 0) = false ∧ (tPair.pair 0).cqTail.toNat + 1 ≠ entriesOf (tPair.pair 0).cqLog2 ∧
    entriesOf 4 = 16 := by decide +kernel

theorem witness_UninitDiscardsRegisterWrites : State.reset.eci.devState = .uninit ∧ (regAt 0x40 4).isSome = true := by decide +kernel
theorem witness_WindowWritesAreRegisterWrites : tReady.eci.devState ≠ .uninit ∧ (tReady.pair 63).session = none ∧ (tReady.pair 63).active = false ∧
    (0x2108 : BitVec 16).toNat ∈ [0x00, 0x04, 0x08, 0x10, 0x18, 0x20, 0x2108] := by decide +kernel
theorem witness_WrongSizeWritesAreRefused : regAt 0x40 8 = none ∧ regAt 0x41 4 = none := by decide +kernel
theorem witness_SqTailMovesInsideTheQueue : tPair.eci.devState ≠ .uninit ∧ (tPair.pair 0).active = true ∧
    15 % 4096 < 2 ^ (tPair.pair 0).sqLog2.toNat ∧ 2 ^ (tPair.pair 0).sqLog2.toNat ≤ 16 % 4096 ∧ (tPair.pair 1).active = false ∧
    (tPair.pair 0).session = some 1 ∧ tPair.session 1 = some tSession ∧ tSession.lost = false := by decide +kernel
/-- One record written that the head has not passed. -/
def tUnread : State := tPair.updPair 0 fun p => { p with unread := 1, cqTail := 1 }
theorem witness_CqHeadFreesUnreadRecords : (tUnread.pair 0).active = true ∧ tUnread.eci.devState ≠ .uninit ∧ 1 < 2 ^ (tUnread.pair 0).cqLog2.toNat ∧
    (1 + 16 - (tUnread.pair 0).cqHead.toNat) % 16 ≤ (tUnread.pair 0).unread ∧ tUnread.eci.delivering = [] ∧
    (tUnread.pair 0).unread < (2 + 16 - (tUnread.pair 0).cqHead.toNat) % 16 ∧ 2 ^ (tUnread.pair 0).cqLog2.toNat ≤ 16 := by decide +kernel
theorem witness_EnableActivatesAValidPair : (tReady.pair 2).session = none ∧ (tReady.pair 2).enable = false ∧ (tReady.pair 2).active = false ∧
    tReady.eci.devState ≠ .uninit ∧ queueOk 0xFFF8000000 4 = true ∧ queueOk 0xFFF8000000 0 = false := by decide +kernel
theorem witness_UrgentDoorbellQueuesItsEntry : pick tUrgent.eci.urgBusy 1 = false ∧ urgentOpc (opcOf (pick tUrgent.eci.urgEntry 1)) = true ∧
    tUrgent.eci.devState ≠ .uninit ∧ pick ({ tUrgent.eci with urgBusy := Vector.replicate 4 true } : Eci).urgBusy 1 = true := by decide +kernel
theorem witness_BeatRenewsItsSession : tPair.session 1 = some tSession ∧ tSession.lost = false ∧ tSession.beatMs = 0 ∧ tPair.eci.devState ≠ .uninit := by decide +kernel
theorem witness_RangedRegistersTakeLegalValues : tReady.eci.devState ≠ .uninit := by decide +kernel
theorem witness_OrderModeUntilLocked : tReady.coh.locked = false ∧ ({ tReady.coh with locked := true } : Coherence).locked = true := by decide +kernel
theorem witness_CapModeWaitsForThePeriod : tReady.eci.devState ≠ .uninit ∧ (1 : BitVec 32).toNat % 4 ≤ 1 ∧ 2 ≤ (2 : BitVec 32).toNat % 4 := by decide +kernel
theorem witness_HdmDecoderCommits : (0x10000000 : BitVec 64).toNat % 0x10000000 = 0 ∧ (0x10000001 : BitVec 64).toNat % 0x10000000 ≠ 0 := by decide +kernel
/-- An entry stands in pair 0's queue. -/
def tFetch : State := (tPair.putWord 0xFFF8000000 128 0x40).updPair 0 fun p => { p with sqTail := 1 }
theorem witness_FetchTakesTheHeadEntry : tFetch.eci.devState ≠ .uninit ∧ tFetch.eci.devState ≠ .booting ∧ tFetch.eci.devState ≠ .updating ∧
    tFetch.eci.arrivals = [] ∧ tFetch.pwr.sleep = .awake ∧ tFetch.nextFetch = some 0 ∧ (tFetch.pair 0).inbox = [] ∧
    knownOpc (opcOf (BitVec.ofNat 1024 (tFetch.word ((tFetch.pair 0).sqBase.toNat + 128 * (tFetch.pair 0).sqHead.toNat) 128))) = true := by decide +kernel

/-! ## Commands that stand at pair 0 -/

def tEntry (opcode : Nat) (fields : List (Nat × Nat)) : Entry := BitVec.ofNat 1024 (opcode + argBits fields)

/-- A state with one entry in pair 0's inbox, and the command that stands there. -/
def State.with0 (s : State) (e : Entry) : State := s.updPair 0 fun p => { p with inbox := [e], reserved := if longOpc (opcOf e) then 2 else 1 }
def cmd0 (e : Entry) : Cmd := { src := .pair 0, e := e, session := 1, op := true }

/-- What `Begun` asks of a command at pair 0 under session 1 of tenant 0. -/
def begunHere (s : State) (o : Nat) (e : Entry) (fields : Cmd → List FieldSpec) : Bool :=
  s.entryAt (.pair 0) == some e && opcOf e == o && s.eci.devState != .uninit && o != 1 && o != 3
    && (s.pair 0).session == some 1 && (s.session 1).map (·.tenant) == some 0
    && headerBad (.pair 0) e == none && badField e 64 (fields (cmd0 e)) == none

theorem begun_of_begunHere (s : State) (o : Nat) (e : Entry) (fields : Cmd → List FieldSpec) (h : begunHere s o e fields = true) :
    Begun s o (.pair 0) fields (cmd0 e) := by
  simp only [begunHere, Bool.and_eq_true, beq_iff_eq, bne_iff_ne, ne_eq] at h
  obtain ⟨⟨⟨⟨⟨⟨⟨⟨h1, h2⟩, h3⟩, h4⟩, h5⟩, h6⟩, h7⟩, h8⟩, h9⟩ := h
  refine ⟨h1, h2, h3, rfl, ?_, h8, h9, fun _ => rfl⟩
  obtain ⟨x, hx, ht⟩ := Option.map_eq_some_iff.mp h7
  simp [State.callerOf, h4, h5, State.caller, h6, cmd0]
  exact ⟨by rw [show s.session 1#16 = some x from hx]; simpa using ht, x, hx, ht⟩

theorem accepted_of_begunHere (s : State) (o : Nat) (e : Entry) (fields : Cmd → List FieldSpec)
    (h : begunHere s o e fields = true) (hc : s.conflict o (cmd0 e) = false) : Accepted s o (.pair 0) fields (cmd0 e) :=
  { toBegun := begun_of_begunHere s o e fields h, legal := hc }

/-- A command at pair 0 that is begun there, and legal or not. -/
def meets (s : State) (o : Nat) (l : List (Nat × Nat)) (fields : Cmd → List FieldSpec) (conflict : Bool) : Bool :=
  let e := tEntry o l
  begunHere (s.with0 e) o e fields && (s.with0 e).conflict o (cmd0 e) == conflict

theorem accepted_of_meets {s : State} {o : Nat} {l : List (Nat × Nat)} {fields : Cmd → List FieldSpec} (h : meets s o l fields false = true) :
    Accepted (s.with0 (tEntry o l)) o (.pair 0) fields (cmd0 (tEntry o l)) := by
  simp only [meets, Bool.and_eq_true, beq_iff_eq] at h
  exact accepted_of_begunHere _ _ _ _ h.1 h.2

/-- The commands of Table 14.7 but ATTACH and REATTACH, with operands in range. -/
def tCommands : List (Nat × List (Nat × Nat) × (Cmd → List FieldSpec)) :=
  [(0x02, [(64, 1)], fun _ => [(64, 16, anyVal)]), (0x10, [], fun _ => modelLoadFields), (0x11, [], fun _ => modelInstallFields),
   (0x12, [(64, 9)], fun _ => [(64, 32, anyVal)]), (0x18, [(64, 2)], fun _ => [(64, 3, inVals 0 3)]), (0x19, [(64, 2), (128, 5)], policyFields),
   (0x1A, [(64, 1000)], fun _ => [(64, 12, anyVal)]), (0x20, [(128, 1)], fun _ => regionFields), (0x21, [(64, 1)], fun _ => [(64, 16, anyVal)]),
   (0x28, [(64, 9)], fun _ => [(64, 32, anyVal), (96, 64, anyVal), (160, 32, anyVal)]), (0x29, [(64, 9)], fun _ => [(64, 32, anyVal), (96, 16, anyVal)]),
   (0x2A, [(64, 9), (112, 1)], fun _ => submitFields), (0x30, [(64, 9)], fun _ => kvExportFields),
   (0x31, [(64, 9)], fun _ => [(64, 32, anyVal), (96, 16, anyVal), (112, 8, anyVal), (128, 32, anyVal)]),
   (0x38, [(64, 3 <<< 62)], fun _ => [targetField fun k => k == 0 || k == 3]), (0x39, [(64, 1)], fun _ => [targetField fun k => k == 0 || k == 3]),
   (0x3A, [(64, 1)], fun _ => [targetField fun k => k != 3]), (0x40, [], outputFields 8),
   (0x41, [(72, 4)], fun c => (64, 8, anyVal) :: (72, 4, anyVal) :: (outputFields 8 c).drop 1), (0x42, [], outputFields 8),
   (0x48, [], fun _ => [(64, 48, anyVal)]), (0x49, [(128, 1)], fwStageFields), (0x4A, [], fun _ => []),
   (0x4B, [(64, 5)], fun _ => [(64, 32, anyVal), (96, 1, anyVal)]), (0x4C, [], fun _ => [(64, 2, inVals 0 1)])]

def tUpdating : State := { tPair with eci := { tPair.eci with devState := .updating } }
theorem witness_IllegalStatesRefuseCommands : ∀ x ∈ tCommands, meets tUpdating x.1 x.2.1 x.2.2 true = true := by decide +kernel

/-! ## Sessions -/

/-- An ATTACH with ROLE 7 on pair 2, which no session holds. -/
def tAttach : State := tReady.updPair 2 fun p => { p with
  active := true, cqLog2 := 4, sqLog2 := 4, sqBase := 0xFFF8000000, cqBase := 0xFFF8001000
  inbox := [tEntry 1 [(176, 7)]], reserved := 1 }
theorem witness_AttachCreatesASession :
    Accepted tAttach 0x01 (.pair 2) (fun _ => attachFields) { src := .pair 2, e := tEntry 1 [(176, 7)] } ∧ (tAttach.pair 2).session = none ∧
    fld (tEntry 1 [(176, 7)]) 192 48 = 0 ∧ fld (tEntry 1 [(176, 7)]) 176 3 = 7 :=
  ⟨{ entry := by decide +kernel, opcode := by decide +kernel, served := by decide +kernel, path := rfl, caller := by rfl
     header := by decide +kernel, fieldsOk := by decide +kernel, operator := by decide +kernel, legal := by decide +kernel },
   by decide +kernel, by decide +kernel, by decide +kernel⟩
theorem witness_IllegalAttachAndReattach :
    let s : State := { tAttach with eci := { tAttach.eci with devState := .updating } }
    Begun s 0x01 (.pair 2) (fun _ => attachFields) { src := .pair 2, e := tEntry 1 [(176, 7)] } ∧ s.conflict 1 { src := .pair 2, e := tEntry 1 [(176, 7)] } = true ∧
    s.conflict 3 { src := .pair 2, e := tEntry 3 [(64, 1), (128, 7)] } = true :=
  ⟨{ entry := by decide +kernel, opcode := by decide +kernel, served := by decide +kernel, path := rfl, caller := by rfl
     header := by decide +kernel, fieldsOk := by decide +kernel, operator := by decide +kernel }, by decide +kernel, by decide +kernel⟩
theorem witness_DetachEndsWithItsSessionsWork : meets tPair 0x02 [(64, 1)] (fun _ => [(64, 16, anyVal)]) false = true ∧ (tPair.session 1).isSome = true := by
  decide +kernel
theorem witness_DroppedSessionsLeaveNothing : (tPair.session 1).isSome = true ∧ (2 : BitVec 16) ≠ 1 := by decide +kernel

/-- Session 1 is lost; pair 2, bound to no session, brings a REATTACH with a token. -/
def tLost (token : Nat) : State :=
  let s : State := { tPair with eci := { tPair.eci with sessions := [{ tSession with lost := true }] } }
  s.updPair 2 fun p => { p with
    active := true, cqLog2 := 4, sqLog2 := 4, sqBase := 0xFFF8002000, cqBase := 0xFFF8003000
    inbox := [tEntry 3 [(64, 1), (128, token)]], reserved := 1 }
theorem witness_ReattachRevivesALostSession (token : Nat) (h : token = 7 ∨ token = 8) :
    Accepted (tLost token) 0x03 (.pair 2) (fun _ => [(64, 16, anyVal), (128, 64, anyVal), (192, 64, anyVal)])
      { src := .pair 2, e := tEntry 3 [(64, 1), (128, token)] } ∧
    (tLost token).session 1 = some { tSession with lost := true } ∧ ((tLost token).pair 2).session = none ∧
    (tLost token).eci.reattachLockUntil = none ∧ fld (tEntry 3 [(64, 1), (128, token)]) 128 64 = token ∧ tSession.token.toNat = 7 := by
  rcases h with rfl | rfl
  all_goals exact ⟨{ entry := by decide +kernel, opcode := by decide +kernel, served := by decide +kernel, path := rfl, caller := by rfl
                     header := by decide +kernel, fieldsOk := by decide +kernel, operator := by decide +kernel, legal := by decide +kernel },
    by decide +kernel, by decide +kernel, by decide +kernel, by decide +kernel, by decide +kernel⟩
/-- After k wrong tokens, with the lock's end at 5 ns. -/
def tWrong (k : Nat) : State := { tReady with now := 5, eci := { tReady.eci with badTokens := List.replicate k 0, reattachLockUntil := some 5 } }
theorem witness_WrongTokensLockReattach : ((tWrong 6).eci.badTokens.filter fun t => decide ((tWrong 6).now < t + 60000000000)).length < 7 ∧
    7 ≤ ((tWrong 7).eci.badTokens.filter fun t => decide ((tWrong 7).now < t + 60000000000)).length ∧ (tWrong 7).eci.reattachLockUntil = some 5 := by decide +kernel
/-- Session 1 must beat every 10 ms. -/
def tBeat : State := { tPair with now := 10000001, eci := { tPair.eci with sessions := [{ tSession with beatMs := 10 }] } }
theorem witness_LapsedSessionsAreLost : tBeat.session 1 = some { tSession with beatMs := 10 } ∧ 0 + 1000000 * 10 < tBeat.now ∧ tBeat.eci.devState ≠ .uninit := by
  decide +kernel

/-! ## Roles, policies, regions, sequences -/

/-- A model with one chain in force, under tenant 0. -/
def tFamily : Family := { chains := 1 }
def tModel : Model := { id := 9, image := { families := [tFamily], variants := [{}], attn := [{ attn := true, maxSeq := 4096, seqs := 4 }] } }
def tServing : State := { tPair with
  eci := { tPair.eci with devState := .serving }
  srv := { tPair.srv with models := [tModel], chains := [{ model := 9, chain := 0 }] } }

theorem witness_OperatorSettings : meets tPair 0x18 [(64, 2)] (fun _ => [(64, 3, inVals 0 3)]) false = true ∧ tPair.eci.ops = [] ∧
    meets tPair 0x19 [(64, 2), (128, 5)] policyFields false = true ∧ policyKey 2 = some .mixedPrefill ∧ tPair.policyOk .mixedPrefill 0 5 = true ∧
    meets tServing 0x19 [(64, 0x14), (96, 9), (128, 10)] policyFields false = true ∧ tServing.model 9 = some tModel ∧ tServing.policyOk .weightLate 9 10 = true ∧
    meets tPair 0x1A [(64, 800)] (fun _ => [(64, 12, anyVal)]) false = true ∧ meets tPair 0x1A [(64, 799)] (fun _ => [(64, 12, anyVal)]) false = true := by decide +kernel
theorem witness_PolicyValuesReadBack : tServing.policyOk .weightLate 9 4000 = true ∧ (tServing.model 9).isSome = true ∧ tServing.policyOk .tenantCeiling 0 784384 = true := by
  decide +kernel

def tRegion : Region := { handle := 1, base := 0x8000000000, pages := 1, host := true, session := 1 }
def tRegions : State := { tPair with eci := { tPair.eci with regions := [tRegion] } }
theorem witness_RegionsComeAndGo :
    meets tPair 0x20 [(64, 0xC000000000), (128, 1), (160, 1)] (fun _ => regionFields) false = true ∧ tPair.regionOk 0 0xC000000000 1 = true ∧
    tPair.regionOk 0 0x30000000000 1 = false ∧ firstNat (fun h => !tPair.eci.regions.any (·.handle == BitVec.ofNat 16 h)) 1 65535 = some 1 ∧
    meets tRegions 0x21 [(64, 1)] (fun _ => [(64, 16, anyVal)]) false = true ∧ tRegions.regionFor (cmd0 0) 1 = some tRegion ∧ tRegions.openItems = [] := by decide +kernel

theorem witness_SequencesOpenAndClose :
    let s : State := { tServing with srv := { tServing.srv with seqs := [{ model := 9, handle := 0, session := 1 }] } }
    meets tServing 0x28 [(64, 9)] (fun _ => [(64, 32, anyVal), (96, 64, anyVal), (160, 32, anyVal)]) false = true ∧ tServing.eci.role ≠ some .cache ∧
    tServing.modelFor (cmd0 0) 9 = some tModel ∧ tServing.readable 0 = true ∧ tServing.newHandle tModel = some 0 ∧ (∀ k ∈ tServing.srv.chains, k.inserting = []) ∧ s.newHandle tModel = some 1 ∧
    meets s 0x29 [(64, 9), (96, 0)] (fun _ => [(64, 32, anyVal), (96, 16, anyVal)]) false = true ∧ (s.seqFor (cmd0 0) 9 0).isSome = true := by decide +kernel

/-- An operation with handle 1 in a state. -/
def tOp (st : OpState) (dev : DevState) : State := { tPair with eci := { tPair.eci with
  devState := dev, ops := [{ handle := 1, kind := .scrub, st := st, ref := { src := .pair 0, cid := 0 } }], nextHandle := 3 } }
theorem witness_SuspendAndResume :
    meets (tOp .running .ready) 0x38 [(64, 3 <<< 62)] (fun _ => [targetField fun k => k == 0 || k == 3]) false = true ∧
    (cmd0 (tEntry 0x38 [(64, 3 <<< 62)])).f 64 64 >>> 62 = 3 ∧ (cmd0 (tEntry 0x38 [(64, 1)])).f 64 64 >>> 62 ≠ 3 ∧
    (tOp .running .degraded).eci.devState = .degraded ∧ (∃ o, (tOp .running .ready).opFor (cmd0 0) 1 = .live o ∧ o.st = .running) ∧
    (∃ o, (tOp .suspended .suspended).opFor (cmd0 0) 1 = .live o ∧ o.st = .suspended) ∧
    meets (tOp .suspended .ready) 0x38 [(64, 1)] (fun _ => [targetField fun k => k == 0 || k == 3]) false = true ∧
    meets (tOp .suspended .suspended) 0x39 [(64, 3 <<< 62)] (fun _ => [targetField fun k => k == 0 || k == 3]) false = true ∧
    meets (tOp .suspended .ready) 0x39 [(64, 1)] (fun _ => [targetField fun k => k == 0 || k == 3]) false = true :=
  ⟨by decide +kernel, by decide +kernel, by decide +kernel, rfl, ⟨_, rfl, rfl⟩, ⟨_, rfl, rfl⟩, by decide +kernel, by decide +kernel, by decide +kernel⟩

/-- Chain 0 of the model has a closed step with one item, number 5 of pair 0. -/
def tItem : Item := { ref := { src := .pair 0, cid := 5, session := 1 }, t := 1, seq := some 0 }
def tClosed : Closed := { items := [tItem], tOpen := 1, tClose := 2, why := .fill }
def tQueued : State := { tServing with srv := { tServing.srv with
  seqs := [{ model := 9, handle := 0, session := 1 }]
  chains := [{ model := 9, chain := 0, closed := [tClosed], seq := 4 }] } }
theorem witness_CancelEndsItsTarget :
    meets (tOp .running .ready) 0x3A [(64, 1)] (fun _ => [targetField fun k => k != 3]) false = true ∧
    (∃ o, (tOp .running .ready).opFor (cmd0 0) 1 = .live o ∧ o.st ≠ .suspended) ∧ (tOp .running .ready).opFor (cmd0 0) 2 = .final ∧
    meets tQueued 0x3A [(64, 1 <<< 62 ||| 5)] (fun _ => [targetField fun k => k != 3]) false = true ∧
    (tQueued.openItems.any fun i => i.ref.src == .pair 0 && i.ref.cid == 5 && i.tenant == 0) = true ∧ tServing.openItems = [] ∧
    meets tQueued 0x3A [(64, 2 <<< 62 ||| 9 <<< 16)] (fun _ => [targetField fun k => k != 3]) false = true ∧
    (tQueued.modelFor (cmd0 0) 9).isSome = true := 
  ⟨by decide +kernel, ⟨_, rfl, by decide⟩, rfl, by decide +kernel, by decide +kernel, by decide +kernel, by decide +kernel, by decide +kernel⟩
theorem witness_RecordsCarryTheState : 63 < 64 ∧ 4095 < 4096 := by decide +kernel

/-! ## Models, operations, transfers -/

/-- The nonzero bytes of a manifest (Table 14.6: MANF, version 1, model 9, one object of one frame, its arena at 0x10000000). -/
def tManifest : Memory :=
  [(0xFFF8010000, 0x4D), (0xFFF8010001, 0x41), (0xFFF8010002, 0x4E), (0xFFF8010003, 0x46), (0xFFF8010004, 1), (0xFFF8010008, 9), (0xFFF801000C, 1),
   (0xFFF8010013, 0x10), (0xFFF8010084, 1)]
/-- The nonzero bytes of an image of 1216 bytes, laid out by hand from Tables 6.1 to 6.11: its header, its section table, and one
family with one chain and one variant, one list with an empty task for one Squall unit, page 0 readable. -/
def tImage : Memory :=
  [(0xFFF8020000, 65), (0xFFF8020001, 68), (0xFFF8020002, 84), (0xFFF8020003, 72), (0xFFF8020004, 1), (0xFFF8020005, 50), (0xFFF8020006, 7), (0xFFF8020008, 192), (0xFFF8020009, 4),
   (0xFFF8020010, 1), (0xFFF8020012, 1), (0xFFF8020014, 1), (0xFFF8020017, 1)] ++
  [(0xFFF8020100, 1), (0xFFF8020104, 1), (0xFFF8020109, 2), (0xFFF8020110, 64), (0xFFF8020120, 2), (0xFFF8020124, 1), (0xFFF8020128, 64), (0xFFF8020129, 2), (0xFFF8020130, 64),
   (0xFFF8020140, 3), (0xFFF8020148, 128), (0xFFF8020149, 2), (0xFFF8020150, 192), (0xFFF8020160, 4), (0xFFF8020168, 64), (0xFFF8020169, 3), (0xFFF8020180, 5), (0xFFF8020184, 1),
   (0xFFF8020188, 64), (0xFFF8020189, 3), (0xFFF8020190, 8), (0xFFF80201A0, 6), (0xFFF80201A4, 1), (0xFFF80201A8, 128), (0xFFF80201A9, 3), (0xFFF80201B0, 16), (0xFFF80201C0, 7),
   (0xFFF80201C4, 1), (0xFFF80201C8, 192), (0xFFF80201C9, 3), (0xFFF80201D1, 1)] ++
  [(0xFFF8020202, 1), (0xFFF8020204, 1), (0xFFF8020208, 1), (0xFFF802020C, 1), (0xFFF802020D, 8), (0xFFF8020210, 1), (0xFFF8020212, 1), (0xFFF8020242, 1), (0xFFF802024C, 1),
   (0xFFF802025A, 1), (0xFFF8020284, 2), (0xFFF8020288, 64), (0xFFF80202C0, 5), (0xFFF8020300, 6), (0xFFF8020342, 2), (0xFFF8020343, 1), (0xFFF8020345, 1),
   (0xFFF8020385, 1), (0xFFF8020389, 1)]

/-- Image and manifest in DRAM, and a MODEL_LOAD of them that runs. -/
def tLoadEntry : Entry := tEntry 0x10 [(64, 0xFFF8010000), (128, 0xFFF8020000), (192, 1216)]
def tLoading : State :=
  { tPair with
    mem := tManifest ++ tImage
    eci := { tPair.eci with ops := [{ handle := 1, kind := .modelLoad, ref := { src := .pair 0, cid := 0 }, model := 9, entry := tLoadEntry, total := 1 }], nextHandle := 2 } }

theorem witness_LongOperationsBegin : tPair.eci.ops.length < 16 ∧ (List.replicate 16 (tOp .running .ready)).length = 16 := by decide +kernel
theorem witness_LongCommandsBeginTheirOperation :
    let s : State := { tServing with srv := { tServing.srv with seqs := [{ model := 9, handle := 0, session := 1 }] }, dnb := { tServing.dnb with routes := [(7, 0)] } }
    meets tPair 0x10 [(64, 0xFFF8010000), (128, 0xFFF8020000), (192, 1216)] (fun _ => modelLoadFields) false = true ∧ tPair.readable 0xFFF8010000 = true ∧
    tPair.modelUsed 0 = false ∧ meets tPair 0x11 [(64, 0xFFF8010000), (224, 1)] (fun _ => modelInstallFields) false = true ∧
    meets s 0x30 [(64, 9), (112, 7), (128, 2), (160, 2)] (fun _ => kvExportFields) false = true ∧ (s.seqFor (cmd0 0) 9 0).isSome = true ∧
    s.eci.role ≠ some .cache ∧ s.modelFor (cmd0 0) 9 = some tModel ∧ tModel.plan.isSome = true ∧ (routePort (s.route 7)).isSome = true ∧ s.eci.ops.length < 16 ∧
    meets s 0x31 [(64, 9), (96, 0xFFFF), (112, 7)] (fun _ => [(64, 32, anyVal), (96, 16, anyVal), (112, 8, anyVal), (128, 32, anyVal)]) false = true ∧
    s.newHandle tModel = some 1 ∧ s.seqOf 9 1 = none ∧ s.srv.heard = [] ∧
    meets s 0x31 [(64, 9), (112, 7)] (fun _ => [(64, 32, anyVal), (96, 16, anyVal), (112, 8, anyVal), (128, 32, anyVal)]) false = true ∧
    (s.seqOf 9 0).any (·.importing) = false ∧
    meets tPair 0x49 [(128, 1)] fwStageFields false = true ∧ meets tPair 0x49 [(128, 0x4000000)] fwStageFields false = true ∧
    meets tPair 0x4C [(64, 0)] (fun _ => [(64, 2, inVals 0 1)]) false = true := by decide +kernel
theorem witness_EndedOperationsAreFinal : 0 < 1 ∧ 1 < (tOp .running .ready).eci.nextHandle := by decide +kernel
theorem witness_SafePointsSuspendAndCancel :
    ∃ o, tLoading.op 1 = some o ∧ o.passed < o.total ∧ o.kind = .modelLoad ∧ o.st = .running := ⟨_, rfl, by decide, rfl, rfl⟩
def tLoadable (s : State) : Bool :=
  let mr := s.manifestAt (fld tLoadEntry 64 48)
  let raw := s.bytes (fld tLoadEntry 128 48) (fld tLoadEntry 192 32)
  let img := imageOf raw
  (s.endable 1 .modelLoad).isSome && s.readable (fld tLoadEntry 64 48) && s.readable (fld tLoadEntry 128 48) && mr.ok && objectsApart mr.m
    && mr.m.arenaVa != 0 && mr.m.modelId == 9
    && s.loadDetail { mixed := s.eci.role == some .mixed, arenaVa := mr.m.arenaVa, arenaBytes := arenaBytes mr.m img.expert } mr.m raw 1216 == none
    && manifestFits mr.m img.expert && decide (s.poolUse 0 + img.pinNeed mr.m ≤ s.ceilingOf 0)
    && decide (img.pinNeed mr.m ≤ s.tiers.poolSize) && (s.bindImage img s.unitIn s.heldAreas).any fun bs =>
      (State.takePinned s.ok 0 mr.m.modelId (img.pinWishes mr.m bs)).1.isSome
theorem witness_CheckedModelsLoad : tLoadable tLoading = true := by decide +kernel
theorem witness_PlacedModelsServe : tPair.model 9 = none ∧ tPair.eci.detaching = [] ∧ tPair.eci.devState = .ready := by decide +kernel
/-- The same manifest, with a MODEL_INSTALL of its one object running. -/
def tInstall : LongOp := { handle := 1, kind := .modelInstall, ref := { src := .pair 0, cid := 0 }
                           entry := tEntry 0x11 [(64, 0xFFF8010000), (128, 0xFFF8020000), (224, 1)] }
def tInstalling : State := { tLoading with eci := { tLoading.eci with ops := [tInstall] } }
def tInstallable (s : State) (o : LongOp) : Bool :=
  let mr := s.manifestAt (fld o.entry 64 48)
  s.endable 1 .modelInstall == some o && s.readable (fld o.entry 64 48) && s.readable (fld o.entry 128 48) && mr.ok && objectsApart mr.m
    && mr.m.arenaVa != 0 && fld o.entry 224 32 == 1 && fld o.entry 192 32 == 0 && mr.m.objects.length == 1 && (s.model mr.m.modelId).isNone
    && decide (s.flashFrames + 1 ≤ flashCapacity)
theorem witness_CheckedObjectsInstall : tInstallable tInstalling tInstall = true := by decide +kernel
def tSwitching : State := { tServing with srv := { tServing.srv with models := [{ tModel with switching := [(0, 5)] }] } }
theorem witness_InstalledCopiesSwitchAtABoundary :
    tSwitching.model 9 = some { tModel with switching := [(0, 5)] } ∧ tSwitching.modelRuns 9 = false := by decide +kernel
theorem witness_EvictedModelsAreGone : meets tServing 0x12 [(64, 9)] (fun _ => [(64, 32, anyVal)]) false = true ∧ (tServing.modelFor (cmd0 0) 9).isSome = true ∧
    tServing.modelBusy 9 = false ∧ tQueued.modelBusy 9 = true ∧ meets tQueued 0x12 [(64, 9)] (fun _ => [(64, 32, anyVal)]) false = true ∧
    (tServing.evictModel 9).srv.models = [] ∧ tServing.eci.devState = .serving := by decide +kernel

/-- An open gate of chain 0 since time 0, its limit 150 microseconds over. -/
def tGust : State := { tServing with now := 150000, srv := { tServing.srv with chains := [{ model := 9, chain := 0, gate := some { items := [tItem], rows := 1, tOpen := 0 } }] } }
theorem witness_SubmittedItemsEnter :
    let s : State := { tServing with srv := { tServing.srv with seqs := [{ model := 9, handle := 0, session := 1 }] } }
    meets s 0x2A [(64, 9), (112, 1)] (fun _ => submitFields) false = true ∧ s.eci.role ≠ some .cache ∧ s.modelFor (cmd0 0) 9 = some tModel ∧
    tModel.image.familyOf 0 = some tFamily ∧ (0 : Fin 16).val < tModel.image.chains ∧ (tModel.image.attn.getD 0 {}).attn = true ∧
    (s.seqFor (cmd0 0) 9 0).isSome = true ∧ s.roleRuns tFamily = true ∧ tModel.image.regionSlots.length ≤ 16 ∧
    (s.entryItem (cmd0 (tEntry 0x2A [(64, 9), (112, 1)])) tModel.image).maskOff = 0 ∧
    s.acceptFails tModel 0 tFamily (s.entryItem (cmd0 (tEntry 0x2A [(64, 9), (112, 1)])) tModel.image) = none := by decide +kernel
theorem witness_GatesFillAndClose : ∃ x g, tGust.chain 9 0 = some x ∧ x.gate = some g ∧ g.tOpen + 1000 * g.limitUs ≤ tGust.now :=
  ⟨_, _, rfl, rfl, by decide +kernel⟩

def tExport : Transfer := { op := 1, isExport := true, tag := 3, peer := 7, model := 9, seq := 0, peerReady := true }
def tMoving (t : Transfer) (k : LongKind) : State := { tServing with
  srv := { tServing.srv with transfers := [t] }
  eci := { tServing.eci with ops := [{ handle := 1, kind := k, ref := { src := .pair 0, cid := 0 } }] } }
theorem witness_TransfersComplete : (tMoving tExport .kvExport).transfer 1 = some tExport ∧ tExport.stream = false ∧ tExport.peerHeld = false ∧
    ((tMoving tExport .kvExport).endable 1 .kvExport).isSome = true ∧
    (let t : Transfer := { tExport with isExport := false, nx := some 128, reserved := true, streamEnd := some 0 }
     (tMoving t .kvImport).transfer 1 = some t ∧ ((tMoving t .kvImport).endable 1 .kvImport).isSome = true) := by decide +kernel
def tScrub (target : Nat) : State := { tPair with eci := { tPair.eci with
  ops := [{ handle := 1, kind := .scrub, ref := { src := .pair 0, cid := 0 }, entry := tEntry 0x4C [(64, target)] }] } }
def tStaging : State := { tPair with eci := { tPair.eci with
  ops := [{ handle := 1, kind := .fwStage, ref := { src := .pair 0, cid := 0 }, entry := tEntry 0x49 [(128, 1)] }] } }
theorem witness_FirmwareAndScrubComplete :
    (∃ o, tStaging.endable 1 .fwStage = some o ∧ tStaging.readable (fld o.entry 64 48) = true) ∧
    (let s : State := { tPair with boot := { tPair.boot with staged := some 1 } }
     meets s 0x4A [] (fun _ => []) false = true ∧ s.eci.ops = [] ∧ s.boot.staged = some 1 ∧ s.eci.devState = .ready) ∧
    (∃ o, (tScrub 0).endable 1 .scrub = some o ∧ fld o.entry 64 2 = 0) ∧ (∃ o, (tScrub 1).endable 1 .scrub = some o ∧ fld o.entry 64 2 ≠ 0) :=
  ⟨⟨_, rfl, by decide +kernel⟩, by decide +kernel, ⟨_, rfl, by decide +kernel⟩, ⟨_, rfl, by decide +kernel⟩⟩
/-- Does a selection succeed. -/
def okay {α : Type} : Except (Status × Nat) α → Bool
  | .ok _ => true
  | .error _ => false
theorem witness_ReadingCommandsAnswerTheirOutput : tPair.outReady (cmd0 (tEntry 0x40 [(64, 1)])) = true ∧
    meets tPair 0x40 [(64, 1)] (outputFields 8) false = true ∧ okay (tPair.subject (cmd0 (tEntry 0x40 [(64, 1)]))) = true ∧
    meets tPair 0x41 [(64, 2)] (fun c => (64, 8, anyVal) :: (72, 4, anyVal) :: (outputFields 8 c).drop 1) false = true ∧
    okay (tPair.selection (cmd0 (tEntry 0x41 [(64, 2)]))) = true ∧
    meets tPair 0x42 [(64, 2)] (outputFields 8) false = true ∧ okay (tPair.logSelection (cmd0 (tEntry 0x42 [(64, 2)]))) = true ∧
    meets tPair 0x42 [] (outputFields 8) false = true ∧ okay (tPair.logSelection (cmd0 (tEntry 0x42 []))) = true := by decide +kernel
theorem witness_PagesRetire :
    let full : State := { tPair with dram := { tPair.dram with spares := Vector.replicate 2 spareCount } }
    meets tPair 0x48 [(64, 0xFFF8000000)] (fun _ => [(64, 48, anyVal)]) false = true ∧ tPair.populated 0xFFF8000000 = true ∧
    assoc tPair.dram.retired 0xFFF8000 = none ∧ (State.retirePage tPair.ok 0xFFF8000).isSome = true ∧ State.retirePage full.ok 0xFFF8000 = none ∧
    (assoc ({ tPair.dram with retired := [(0xFFF8000, 1)] } : Dram).retired 0xFFF8000).isSome = true := by decide +kernel
theorem witness_ScopesResetAndAreTested :
    meets tPair 0x4B [(64, 0)] (fun _ => [(64, 32, anyVal), (96, 1, anyVal)]) false = true ∧ (tPair.unitRef 0).isSome = true := by decide +kernel
theorem witness_FailuresTakeUnitsOut : tPair.eci.devState ≠ .uninit ∧ tPair.eci.devState ≠ .booting ∧ tPair.inServiceNow (.squall 63) = true ∧
    tPair.inServiceNow (.core 63) = true := by decide +kernel

/-! ## Supply, resets, boot, power -/

def tBoot (stage : Nat) : State := { tReady with boot := { tReady.boot with stage := stage }, eci := { tReady.eci with devState := .booting } }
/-- Both slots unbootable, the other one alone bootable. -/
def tTwoSlots (a b : Bool) : State := { tBoot 2 with boot := { (tBoot 2).boot with slots := #v[{ valid := a }, { valid := b }] } }
theorem witness_InputLossKeepsFlashAndJournal : tReady.boot.supply.on = true ∧ tReady.eci.devState ≠ .uninit ∧ tReady.eci.devState ≠ .booting := by decide +kernel
theorem witness_SupplyComesBack : State.reset.boot.supply = .off ∧ tReady.boot.supply = .inRange := by decide +kernel
theorem witness_ResetPinTakesTheModuleDown : tReady.boot.resetN = true ∧ State.reset.boot.resetN = false ∧
    (let s : State := { State.reset with now := 100000, boot := { State.reset.boot with supply := .inRange, pwrgood := true, resetN := true } }
     s.eci.devState = .uninit ∧ s.boot.supply.on = true ∧ s.boot.releasedAt + 100000 ≤ s.now ∧ s.pwr.tripped = false) ∧
    tUpdating.eci.devState = .updating := by decide +kernel
theorem witness_BringUpGoesStageByStage : (tBoot 1).eci.devState = .booting ∧ (tBoot 8).boot.stopped = false ∧ (tBoot 2).slotBoots 0 = true ∧
    (tTwoSlots false true).slotBoots 0 = false ∧ (tTwoSlots false true).slotBoots (tTwoSlots false true).boot.other = true ∧
    (tTwoSlots false false).slotBoots (tTwoSlots false false).boot.other = false := by decide +kernel
theorem witness_BootReadyEndsTheTrial : (tBoot 9).eci.devState = .booting ∧ (tBoot 9).boot.stage = 9 ∧ (tBoot 9).boot.bootFailures = [] := by decide +kernel
/-- A boot that began at 0 and hangs, after f failures. -/
def tHung (f : Nat) (back : Bool) : State := { tTwoSlots true true with
  now := 10000000000, boot := { (tTwoSlots true true).boot with failed := f, fellBack := back } }
theorem witness_BootWatchdogFallsBack : (tHung 0 false).eci.devState = .booting ∧ (tHung 0 false).boot.startedAt + 10000000000 ≤ (tHung 0 false).now ∧
    1 ≤ (tHung 1 false).boot.failed ∧ (tHung 1 false).boot.fellBack = false ∧ (tHung 1 false).slotBoots (tHung 1 false).boot.other = true ∧
    (tHung 1 true).boot.fellBack = true := by decide +kernel
theorem witness_HeartbeatAndLifetimeRecord :
    (let s : State := { tReady with now := 600000000000 }
     s.firmwareRuns = true ∧ s.eci.lastHeartbeat + 1000000 ≤ s.now ∧ s.eci.lastHeartbeat + 100000000 ≤ s.now ∧ s.eci.devState ≠ .uninit ∧
     s.logs.life.lastWrite + 600000000000 ≤ s.now) := by decide +kernel

theorem witness_PeriodBoundaryTakesSettings : tReady.now % 10000 = 0 ∧ tReady.pwr.lastPeriod ≠ some tReady.now ∧ tReady.eci.devState ≠ .uninit ∧
    tReady.pwr.sleep.deep = false ∧ tReady.pwr.capModeDue = none ∧ ({ tReady.pwr with capModeDue := some 0x00020110 } : Power).capModeDue.isSome = true := by
  decide +kernel
theorem witness_PowerWindowCountsEnergy : tReady.now % 1000000 = 0 ∧ tReady.pwr.lastWindow ≠ some tReady.now ∧ tReady.eci.devState ≠ .uninit ∧
    ∀ f p, 1 / 2 ≤ pick (tReady.front f).factor p ∧ pick (tReady.front f).factor p ≤ 2 := by decide +kernel
theorem witness_DroopBurstsCount : tReady.eci.devState ≠ .uninit ∧ pick (tReady.pwr.droop.set 15 true) 15 = true := by decide +kernel
def tHot : State := { tReady with pwr := { tReady.pwr with tripped := true, tripReset := true, temps := (List.range 48).map fun d => (d, 94) } }
theorem witness_TemperatureThrottlesAndTrips : tReady.boot.supply.on = true ∧ tReady.now % 100000 = 0 ∧ tReady.pwr.lastTemp ≠ some tReady.now ∧ 47 < 48 ∧
    (∀ i, 5 ≤ (pick tReady.pwr.thermal i).val) ∧ (115 : Int) < 116 ∧ tReady.pwr.tripped = false ∧ tReady.eci.devState ≠ .uninit ∧
    tHot.pwr.tripped = true ∧ (tHot.readTemps []).coolEnough = true ∧ tHot.pwr.tripReset = true ∧
    ({ tHot.eci with devState := .uninit } : Eci).devState = .uninit := by decide +kernel
/-- Front 3 in a sleep state. -/
def tFront (x : FrontSleep) (s : State) : State := { s with pwr := { s.pwr with fronts := upd s.pwr.fronts 3 fun w => { w with sleep := x } } }
def tMilli : State := { tReady with now := 1000000, pwr := { tReady.pwr with lullAfter := 1, frostAfter := 1, wakeOwed := true } }
theorem witness_FrontsSleepAndWake : tMilli.moduleAwake = true ∧ (tMilli.front 3).sleep = .awake ∧ tMilli.frontQuiet 3 = true ∧ tMilli.frontReset 3 = false ∧
    (let s := tFront (.calm 0) tMilli
     s.moduleAwake = true ∧ (s.front 3).sleep = .calm 0 ∧ s.frontBound 3 = false ∧ s.frontReset 3 = false ∧ s.now % 1000000 = 0 ∧ s.pwr.lullAfter ≠ 0 ∧
     0 + 1000000 * s.pwr.lullAfter.toNat ≤ s.now) ∧
    (let s : State := tFront (.lull 0) { tMilli with eci := { tMilli.eci with role := some .cache } }
     (tFront (.calm 0) s).cacheLull 3 = true) := by decide +kernel
/-- Every Front sleeps, and every core waits with empty caches. -/
def tQuiet : State := { tMilli with pwr := { tMilli.pwr with fronts := Vector.replicate 8 { sleep := .lull 0 } } }
theorem witness_ModuleSleepsAndWakes : tQuiet.lullReady = true ∧ (∀ c, ((State.drainCores tQuiet.ok).core c).sb = []) ∧
    (let s : State := { tMilli with now := 1000000000, pwr := { tMilli.pwr with sleep := .lull 0 } }
     s.pwr.sleep = .lull 0 ∧ s.now % 1000000 = 0 ∧ s.pwr.frostAfter ≠ 0 ∧ 0 + 1000000 * (1000 * s.pwr.frostAfter.toNat) ≤ s.now ∧ s.pwr.wakeOwed = true) ∧
    (tFront (.waking 0 true) tMilli).pwr.sleep = .awake ∧ ((tFront (.waking 0 true) tMilli).front 3).sleep = .waking 0 true ∧
    ∀ g : Fin 8, g < 3 → ((tFront (.waking 0 true) tMilli).front g).sleep = .awake := by decide +kernel

/-! ## Cores and coherence -/

/-- Core 3 holds one line of DRAM. -/
def tLine (st : Mesi) : CLine := { line := 0x3FFE00000, st := st, data := List.replicate 64 7 }
def tCore (f : CoreSt → CoreSt) : State := { tReady with cores := upd tReady.cores 3 f }
def tHeld (st : Mesi) : State := tCore fun x => { x with l1d := { lines := [tLine st] } }
/-- A pod in which slot 0 reaches module 7. -/
def tPod : State := { tReady with eci := { tReady.eci with pod := some { self := 1, count := 2, routes := [], neighbours := [], targets := [7], groups := [], windows := [], raw := [] } } }
theorem witness_CoreLoadsAnswerTheirBytes : (tHeld .e).coreRuns 3 = true ∧ (tHeld .e).typeOf 0xFFF8000000 64 .pma = .cacheable ∧
    (tHeld .e).cachedLoad 3 0xFFF8000000 64 = some (List.replicate 64 7, false) ∧ 0x3FFE00000 ∈ linesOf 0xFFF8000000 64 ∧ tReady.typeOf 0x030000000000 64 .pma = .chip ∧
    tReady.coh.fresh = [] ∧ badIn none 0x030000000000 64 = false ∧ badIn (some (.mem 0x03000000003F)) 0x030000000000 64 = true ∧
    tReady.typeOf 0xFFF8000000 64 .nc = .nonCacheable ∧ isHost 0xFFF8000000 = false ∧ (∀ i < 64, tReady.markAt (0xFFF8000000 + i) = .none) ∧
    tReady.typeOf 0x030100000000 8 .pma = .window ∧ tPod.typeOf peerBase 8 .pma = .peer ∧ tReady.typeOf 0x028000000000 8 .pma = .absent := by
  decide +kernel
theorem witness_CoreStoresEnterTheBuffer : tReady.coreRuns 3 = true ∧ tReady.typeOf 0xFFF8000038 8 .pma = .cacheable ∧
    tReady.typeOf 0x030000000000 8 .pma = .chip ∧ tReady.typeOf 0x030100000000 8 .pma = .window ∧ tReady.typeOf 0x028000000000 8 .pma = .absent ∧
    (let u := (((tHeld .m).coreWorks 3).fetchHost 3 0xFFF8000000 8).drainAll 3
     (u.core 3).reserved = none ∧ (u.core 3).sb = [] ∧ (u.core 3).line 0x3FFE00000 = some (tLine .m)) ∧
    (let s := (tHeld .m).updCore 3 fun x => { x with reserved := some 0x3FFE00000 }
     let u := ((s.coreWorks 3).fetchHost 3 0xFFF8000000 8).drainAll 3
     (u.core 3).reserved = some (0xFFF8000000 / 64) ∧ (u.core 3).line 0x3FFE00000 = some (tLine .m)) := by decide +kernel
def tStore : BufStore := { pa := 0xFFF8000000, data := [1], cacheable := true }
theorem witness_StoresMergeInTheBuffer : (mergeStore (List.replicate 55 tStore) tStore).length = 56 ∧
    (mergeStore [{ tStore with pa := 0x030000000000, cacheable := false }] { tStore with pa := 0x030000000001, cacheable := false }).length = 1 := by decide +kernel
theorem witness_CacheOperations : (tHeld .m).coreRuns 3 = true ∧
    (let u := ((tHeld .m).coreWorks 3).drainAll 3
     (u.memType 0xFFF8000000).under .pma = .cacheable ∧ (u.core 3).sb = [] ∧ (u.core 3).line 0x3FFE00000 = some (tLine .m) ∧
     (u.core 3).owns 0x3FFE00000 = true ∧ isHost 0xFFF8000000 = false) ∧
    (let u := (tReady.coreWorks 3).drainAll 3
     (u.core 3).line 0x3FFE00000 = none ∧ (u.memType 0xFFF8000000).under .nc = .nonCacheable ∧ (u.memType 0x030000000000).under .pma = .chip ∧
     (u.memType 0x030100000000).under .pma = .window ∧ (u.memType 0xC00000000000).under .nc = .nonCacheable ∧ isHost 0xC00000000000 = true ∧
     (u.memType 0x028000000000).under .pma = .absent) ∧
    (((tPod.coreWorks 3).drainAll 3).memType peerBase).under .pma = .peer := by decide +kernel
/-- A cacheable store of a line that core 3 does not own waits in its buffer. -/
def tBuffered : State := tCore fun x => { x with sb := [tStore] }
theorem witness_FencesAndTrapsDrainStores : tReady.coreRuns 3 = true ∧ ((tCore fun x => { x with pending := some 5 }).core 3).pending = some 5 ∧
    (tReady.core 3).pending = none ∧ (((tReady.coreWorks 3).drainAll 3).core 3).sb = [] ∧
    (let v := ((tReady.coreWorks 3).drainAll 3).drainEgress
     (v.core 3).sb = [] ∧ (v.core 3).dev = [] ∧ v.dnb.reqs = [] ∧ v.cxl.egress = []) ∧
    tBuffered.coreRuns 3 = true ∧ (((tBuffered.coreWorks 3).drainAll 3).core 3).sb ≠ [] ∧
    ((((tBuffered.coreWorks 3).drainAll 3).drainEgress).core 3).sb ≠ [] := by decide +kernel
theorem witness_DeviceAccessesReachRegisters : tReady.coreRuns 3 = true ∧ (tReady.core 3).pending = none ∧
    deviceFaults 0x38000000040 4 .plain = false ∧ deviceFaults 0x38000000042 4 .plain = true ∧ (tReady.coreWorks 3).memType 0x028000000000 = .absent ∧
    (let u := (tReady.coreWorks 3).drainAll 3
     (u.core 3).sb = [] ∧ (u.core 3).dev = [] ∧ u.memType 0x38000000040 = .device ∧ u.memType 0x030000000000 = .chip ∧
     u.memType 0x030100000000 = .window ∧ u.memType 0xFFF8000000 = .cacheable ∧ isDram 0xFFF8000000 = true) := by decide +kernel
def tAccess (isStore : Bool) : DevAcc := { isStore := isStore, pa := 0x38000000040, va := 5, size := 4, since := 0 }
theorem witness_DeviceTimeoutsAreReported : ({ tReady with now := 100000 } : State).now = 100000 ∧
    (tAccess true).since + 1000 * (tReady.coh.devTimeout.toNat % 2 ^ 17) ≤ 100000 ∧ (tAccess false).isStore = false ∧
    ((tCore fun x => { x with dev := [tAccess true] }).core 3).dev = tAccess true :: [] := by decide +kernel
theorem witness_CoreResetsDrainAndInvalidate :
    (let s := tCore fun x => { x with rst := .draining 0 }
     (s.core 3).rst = .draining 0 ∧ ((State.drainAll s.ok 3).core 3).sb = []) ∧
    (let s : State := { (tCore fun x => { x with rst := .draining 0, sb := [tStore] }) with now := 10000 }
     (s.core 3).rst = .draining 0 ∧ ((State.drainAll s.ok 3).core 3).sb ≠ [] ∧ 0 + 10000 ≤ s.now) ∧
    ((tCore fun x => { x with rst := .invalidating }).core 3).rst = .invalidating := by decide +kernel
theorem witness_DebugAccessesNeedDebug : isWindow 0x030100000000 = true ∧ isWindow (0x030100000000 + 64 - 1) = true ∧ tReady.eci.debugOn = false ∧
    ({ tReady.eci with debugOn := true } : Eci).debugOn = true ∧ badIn none 0x030100000000 64 = false ∧
    badIn (some (.mem 0x030100000000)) 0x030100000000 64 = true := by decide +kernel

/-- Request 5 of an agent for the line. -/
def tCoh (a : Agent) (k : CohKind) (ph : ReqPhase) (n : Nat) : CohReq := { id := 5, agent := a, line := 0x3FFE00000, kind := k, phase := ph, issue := n }
def tAsked (s : State) (r : CohReq) : State := { s with coh := { s.coh with reqs := [r], nextReq := 6, queues := upd s.coh.queues 0 fun _ => [5] } }
theorem witness_CoherentRequestsAreOrdered : isDram (64 * 0x3FFE00000) = true ∧ tReady.populated (64 * 0x3FFE00000) = true ∧ mayAsk (.core 3) .own = true ∧
    (tHeld .s).satisfied (.core 3) 0x3FFE00000 .own = false ∧ tReady.coh.reqs = [] ∧ tReady.req tReady.coh.nextReq = none := by decide +kernel
/-- The line's region is owner-ordered, and request 6 holds its turn. -/
def tOwner (r : CohReq) : State :=
  let s := tAsked (tHeld .e) r
  { s with coh := { s.coh with orderMode := Vector.replicate 40 (BitVec.allOnes 64), reservations := [{ line := 0x3FFE00000, req := 6, owner := .core 3 }] } }
def tSnoop : CohReq := { tCoh (.core 4) .own .snooping 1 with waiting := [.core 3] }
theorem witness_SnoopsTakeTheLine : (tAsked (tHeld .m) tSnoop).req 5 = some tSnoop ∧ (tAsked (tHeld .m) tSnoop).held (.core 3) 0x3FFE00000 = some (tLine .m) ∧
    (tAsked (tHeld .s) tSnoop).held (.core 3) 0x3FFE00000 = some (tLine .s) ∧ (tAsked tReady tSnoop).held (.core 3) 0x3FFE00000 = none ∧
    (tAsked (tHeld .m) tSnoop).ownerOrdered 0x3FFE00000 = false ∧ (tOwner tSnoop).ownerOrdered 0x3FFE00000 = true ∧ tSnoop.escalates = false ∧
    (tOwner tSnoop).held (.core 3) 0x3FFE00000 = some (tLine .e) ∧ (∃ p ∈ (tOwner tSnoop).coh.reservations, p.line = tSnoop.line ∧ p.owner = .core 3 ∧ p.req ≠ tSnoop.id) := by decide +kernel
theorem witness_AnswersGrantOrRefuse :
    (let r : CohReq := { tCoh (.core 4) .own .snooping 1 with answers := [(.core 3, true)], writeback := some (.core 3, List.replicate 64 7) }
     (tAsked tReady r).req 5 = some r ∧ r.escalates = false ∧ r.answers.find? (·.1 == .core 3) = some (.core 3, true)) ∧
    (let r : CohReq := { tCoh (.core 4) .own .snooping 1 with answers := [(.core 3, false)] }
     (tAsked tReady r).req 5 = some r ∧ r.waiting = [] ∧ r.nackSeen = false ∧ ∀ x ∈ (tAsked tReady r).coh.reqs, x.writeback = none) := by decide +kernel
theorem witness_GrantsGiveTheLine : (tAsked tReady (tCoh (.core 3) .own .granted 1)).req 5 = some (tCoh (.core 3) .own .granted 1) ∧
    (tReady.core 3).sb = [] ∧ (tReady.core 3).rst = .running := by decide +kernel
theorem witness_GrantsAnswerUncachedRequesters : (tAsked tReady (tCoh (.dma 63) .read .granted 1)).req 5 = some (tCoh (.dma 63) .read .granted 1) := by decide +kernel
theorem witness_NackedRequestsRetryAndEscalate :
    (∀ x ∈ [(ReqPhase.nacked, 1), (.retrying, 15), (.retrying, 16), (.escalated, 17)],
      (tAsked tReady (tCoh (.core 4) .own x.1 x.2)).req 5 = some (tCoh (.core 4) .own x.1 x.2)) ∧
    (pick (tAsked tReady (tCoh (.core 4) .own .escalated 17)).coh.queues 0).head? = some 5 ∧
    (∃ p ∈ (tOwner tSnoop).coh.reservations, p.line = (0x3FFE00000 : BitVec 42).toNat) := by decide +kernel

/-! ## DRAM, tiers, the CXL port -/

/-- Channel 575 with a queue, after accesses of some classes. -/
def tQueue (q : List DramReq) (l : List Nat) : State := { tReady with now := 20000, dram := { tReady.dram with
  channels := upd tReady.dram.channels 575 fun x => { x with queue := q, last := l } } }
def tReq (cls : Nat) (w : Bool) : DramReq := { cls := cls, line := 0x3FFE00000, write := w }
theorem witness_ChannelsServeTheirChoice :
    (tQueue [tReq 1 true] []).nextAccess (pick (tQueue [tReq 1 true] []).dram.channels 575) = some (tReq 1 true) ∧
    (tQueue [tReq 3 false, tReq 1 false] [1, 1]).nextAccess (pick (tQueue [tReq 3 false, tReq 1 false] [1, 1]).dram.channels 575) = some (tReq 3 false) ∧
    (tQueue [tReq 1 true] []).pwr.sleep.deep = false ∧ (tQueue [tReq 1 true] []).admits 575 = true ∧ (tReq 1 false).checked = false ∧
    (tQueue [tReq 2 false, tReq 1 false] []).nextAccess (pick (tQueue [tReq 2 false, tReq 1 false] []).dram.channels 575) = some (tReq 1 false) := by decide +kernel
theorem witness_ArbitrationFollowsClasses :
    (let c : Channel := { queue := [tReq 2 false, tReq 3 false], last := [3, 1, 3] }
     tReady.nextAccess c = some (tReq 2 false) ∧ 2 ≤ (c.last.filter (· == 3)).length) ∧
    (let c : Channel := { queue := [tReq 1 false, tReq 3 false], last := [3] }
     tReady.nextAccess c = some (tReq 3 false) ∧ (c.last.filter (· == 3)).length < 2) := by decide +kernel
theorem witness_EccMarksUncorrectableLines : tReady.weightAt (0xFFF8000000 / 64 * 64) = none := by decide +kernel
theorem witness_ChannelUpkeep : ((pick (tQueue [tReq 2 false] []).dram.channels 575).queue.any fun r => r.cls == 2 && decide (r.since + 20000 ≤ 20000)) = true ∧
    tReady.pwr.sleep.deep = false ∧ tReady.eci.devState ≠ .uninit ∧ tReady.eci.devState ≠ .booting ∧ (15 : Fin 48).val < 16 ∧
    (let c := pick (tQueue [] []).dram.channels 575
     (assoc c.refreshed 15).getD 0 + (pick (tQueue [] []).dram.devices (channelDevice 575)).interval ≤ (tQueue [] []).now) := by decide +kernel
theorem witness_DramTemperatureSetsTheRate : ∀ x, (pick tReady.dram.devices 31).readAt = some x → x + 1000000 ≤ tReady.now := by decide +kernel
theorem witness_ImbalanceWindowsEnd : tReady.dram.imbStart + 1000 * (tReady.dram.imbWindow.toNat % 65536) ≤ 1000000 := by decide +kernel

/-- Object 0 of model 9 has four frames, its first source the local flash. -/
def tFid : FrameId := { model := 9, obj := 0, f := 3 }
def tObject : WObject := { frame := 0, frames := 4, sources := [0xFE, 0xFF, 0xFF, 0xFF], digest := [] }
def tVariant : Variant := { splits := [{ lunit := 0, kind := 2, members := 1, active := 1, fronts := 1 }] }
def tWeights : Model := { id := 9, manifest := { modelId := 9, arenaVa := 0x10000000, objects := [tObject] }
                          image := { families := [{ tFamily with dims := [{ buckets := 1, source := .gate, kind := 0, quantum := 1 }] }]
                                     variants := [tVariant], lunits := 1, attn := [{}]
                                     expert := { moeLayers := 1, pred := 1, predBudget := 1 } } }
def tTask : TaskRec := { id := 6 }
def tRun : Run := { items := [tItem], tOpen := 0, tClose := 1, why := .fill, tDispatch := 2, tasks := [{ sq := 0, rc := tTask }] }
/-- Chain 0 of the model runs a step; on Squall 0 channel 1 runs a program of its task 4. -/
def tRunning : State := { tServing with
  srv := { tServing.srv with models := [tWeights], chains := [{ model := 9, chain := 0, run := some tRun, seq := 5 }] }
  tiers := { tServing.tiers with installed := [{ model := 9, obj := 0, frames := 4, place := 8, digest := [] }], flashUsed := 12 }
  squalls := upd tServing.squalls 0 fun x => { x with
    tasks := [{ key := 4, model := 9, chain := 0, rc := tTask }]
    chans := upd x.chans 1 fun _ => { run := some { seq := 0, task := 4, at_ := 0, model := 9 } } } }
def tReader : Reader := { sq := 0, ch := 1 }
def tWith (w : WState) : State := { tRunning with tiers := { tRunning.tiers with weights := [{ fid := tFid, st := w, frame := some 3000 }] } }
theorem witness_DemandReadsLiftFrames : (∃ x, ((tRunning.readerTask tReader).bind fun t => tRunning.taskEnv 0 t.key 0) = some x ∧ x.m.id = tFid.model ∧
      x.m.manifest.objects[0]? = some tObject) ∧ tFid.f < tObject.frames ∧ tRunning.tiers.waits = [] ∧
    ((tWith .present).wframe tFid).isSome = true ∧ ((tWith .poisoned).wframe tFid).map (·.st) = some .poisoned ∧
    ((tWith .lifting).wframe tFid).map (·.st) = some .lifting ∧ tRunning.wframe tFid = none ∧ tRunning.sourceFrom tFid 0 = some 0 :=
  ⟨⟨_, rfl, rfl, rfl⟩, by decide +kernel⟩
def tLift (cls : Nat) : Lift := { fid := tFid, cls := cls, since := 0, frame := some 3000 }
def tLifting (l : Lift) (st : WState) : State := { (tWith st) with tiers := { (tWith st).tiers with lifts := [l] } }
theorem witness_LiftsMakeFramesPresent : (tLifting (tLift 1) .lifting).onFlash = some (tLift 1) ∧ (tLift 1).transit = none ∧
    (tLifting (tLift 3) .lifting).onFlash = some (tLift 3) ∧ (tLift 1).srcOf ((tLifting (tLift 1) .lifting).sourcesOf tFid) = 0xFE ∧
    (tLift 1).frame = some 3000 ∧ (tLift 1).retrying = false ∧ (tLift 1).delivered = false ∧ (tLift 1).retries < 7 ∧
    (∀ l, (tLifting (tLift 1) .lifting).crcMatches tFid l = true) ∧
    (let l : Lift := { tLift 1 with transit := some (7, 4) }
     (tLifting l .lifting).onFlash = some l) ∧
    (let l : Lift := { tLift 1 with source := 1, delivered := true }
     (tLifting l .lifting).tiers.lifts.find? (fun x => x.fid == l.fid && x.delivered && x.transit.isNone) = some l ∧
     ∀ k ∈ (tLifting l .lifting).onFlash, k.fid = l.fid → k.retrying = true) :=
  by and_intros <;> first | exact fun _ => rfl | decide +kernel
theorem witness_DoneLiftsReleaseReaders : ((tLifting (tLift 1) .lifting).wframe tFid).isSome = true := by decide +kernel
theorem witness_FlashReadsRetry : (tLifting (tLift 2) .lifting).onFlash = some (tLift 2) ∧ (31 : Fin 32).val ∉ (tLift 2).pages ∧
    (let l : Lift := { tLift 1 with retrying := true, retries := 6 }
     (tLifting l .lifting).tiers.lifts.find? (fun l => l.fid == tFid && l.retrying) = some l ∧ l.transit = none ∧ 6 ≤ l.retries) ∧
    (let l : Lift := { tLift 1 with retrying := true, retries := 5 }
     (tLifting l .lifting).tiers.lifts.find? (fun l => l.fid == tFid && l.retrying) = some l ∧ l.retries < 6) := by decide +kernel
def tWait : WaitRead := { who := tReader, fid := tFid, since := 0, limitMs := 2000 }
theorem witness_LateReadsCompleteMarked :
    (let s : State := { tWith .lifting with now := 2000000000, tiers := { (tWith .lifting).tiers with waits := [tWait] } }
     s.tiers.waits.find? (fun x => x.who == tReader && x.fid == tFid && s.waitOpen x) = some tWait ∧ tWait.since + 1000000 * tWait.limitMs ≤ s.now) := by decide +kernel
theorem witness_PredictorOffersItsCandidates : (∃ x, tRunning.accessEnv 9 0 = some x ∧ x.m.image.expert.moeLayers ≠ 0 ∧ x.m.image.expert.pred ≠ 0 ∧
      x.m.image.expert.predBudget ≠ 0) ∧
    (pairwiseB (fun (a b : Nat × Nat) => a.1 != b.1 || decide (a.2 < b.2)) [(0, 1), (0, 3), (1, 0)]) = true := ⟨⟨_, rfl, by decide +kernel⟩, by decide +kernel⟩

/-- One block set of the model, held by an idle sequence. -/
def tBlock : BlockSet := { model := 9, sub := 1, places := [0xFFF0000000], demoting := true }
def tKv (b : BlockSet) : State := { tServing with srv := { tServing.srv with
  blocks := [b], seqs := [{ model := 9, handle := 0, session := 1, n := 100, table := [1] }] } }
theorem witness_BlockSetsMoveBetweenTiers :
    ((tKv tBlock).srv.blocks.find? fun x => x.model == 9 && x.sub == 1 && x.demoting && x.inPool) = some tBlock ∧ (tKv tBlock).demotable tBlock = true ∧
    ((tKv tBlock).freeOverflow 1).isSome = true ∧
    (let b : BlockSet := { tBlock with demoting := false, inPool := false }
     ((tKv b).srv.blocks.find? fun x => x.model == 9 && x.sub == 1 && !x.inPool) = some b ∧ (tKv b).model 9 = some tModel ∧
     ((tKv b).takeSubs 0 9 1 true (1 / 32 + 2)).1.isSome = true) := by decide +kernel
/-- Blocks 8 to 11 each hold one piece of zeros. -/
def tPieces : State := { tRunning with tiers := { tRunning.tiers with
  pieces := [8, 9, 10, 11].map fun b => { piece := b, page := 32 * b }
  blocks := [{ id := 8, reads := 100000 }, { id := 9, relocate := true }, { id := 10, erases := 1000 }, { id := 5, erases := 3 }] } }
theorem crc64_zeros (n : Nat) : crc64 (List.replicate n 0) = 0 := by
  induction n with
  | zero => rfl
  | succ n ih => rw [List.replicate_succ, crc64, List.foldl_cons, show crc64Step 0 0 = 0 from by decide]; exact ih
theorem witness_FlashBlocksAreRelocated : 11 ∈ tPieces.flashBlocks ∧ 100000 ≤ (tPieces.blockOf 8).reads ∧ (tPieces.blockOf 9).relocate = true ∧
    (tPieces.blockOf 11).erases + 200 < tPieces.averageErases ∧ (∀ k ∈ [8, 9, 11], tPieces.freshBlock ≠ k) ∧
    ∀ p ∈ tPieces.tiers.pieces, crc64 (tPieces.flashPiece p.piece) = p.crc := by
  refine ⟨by decide +kernel, by decide +kernel, by decide +kernel, by decide +kernel, by decide +kernel, fun p hp => ?_⟩
  rw [show p.crc = 0 from (by decide +kernel : ∀ p ∈ tPieces.tiers.pieces, p.crc = 0) p hp,
    show tPieces.flashPiece p.piece = List.replicate pieceBytes 0 from by simp [State.flashPiece, show tPieces.tiers.flash = [] from rfl, Memory.lookup, List.map_const']]
  exact crc64_zeros _

/-- A region of one page that the host, a listed adapter and a listed module may read. -/
def tOpenRegion (write : Bool) : Region :=
  { handle := 1, base := 0xFFF8000000, pages := 1, host := true, adapter := true, peer := true, write := write, requesters := [5], modules := [7] }
def tShared : State := { tServing with cxl := { tServing.cxl with hdmCommitted := true }, eci := { tServing.eci with regions := [tOpenRegion true] } }
theorem witness_CxlMemoryIsChecked : tShared.linkUp = true ∧ tShared.cxl.state ≠ .pcieOnly ∧ tShared.boot.stage = 9 ∧ tShared.cxl.hdmCommitted = true ∧
    tShared.pwr.sleep = .awake ∧ (0xFFF8000000 : BitVec 48).toNat + 64 ≤ 0x28000000000 ∧
    (∀ a ∈ chunksOf 0xFFF8000000 64, tShared.admitted .host false (max a 0xFFF8000000) = some false) ∧
    (∃ a ∈ chunksOf 0xFFF8001FC0 128, tShared.admitted .host false (max a 0xFFF8001FC0) = none) := by decide +kernel
theorem witness_Bar4IsCheckedByRequester : (∀ a ∈ chunksOf 0xFFF8000000 64, tShared.admitted (.adapter 5) false (max a 0xFFF8000000) = some false) ∧
    tShared.admitted (.adapter 6) false 0xFFF8000000 = none ∧
    ({ tShared with cxl := { tShared.cxl with state := .pcieOnly } } : State).linkUp = true := by decide +kernel
theorem witness_RefusedChunksAreDropped : tServing.admitted .host true 0xFFF8000000 = some false ∧ tServing.admitted .host true 0xFFF9000000 = none ∧
    tShared.admitted (.peer 7) true 0xFFF8000000 = some false := by decide +kernel
theorem witness_RegionsAdmitByTheirLists : (tOpenRegion false).admits false (.peer 7) = true ∧ (tOpenRegion false).admits true (.peer 8) = false ∧
    (tOpenRegion false).admits true (.adapter 5) = true := by decide +kernel
def tLink (st : LinkState) (t : Option Nat) : State := { tReady with cxl := { tReady.cxl with state := st, leftL0 := t } }
theorem witness_CxlLinkTrains : (tLink .training none).cxl.leftL0 = none ∧ tReady.boot.perstN = true ∧ tReady.cxl.microcode = true ∧ tReady.linkUp = true ∧
    (tLink .training (some 0)).now ≤ 0 + 50000000 := by decide +kernel
theorem witness_PortEventsLoseTheHost : tReady.linkUp = true ∧ (tLink .training (some 0)).cxl.leftL0.isSome = true ∧ tPair.session 1 = some tSession ∧
    tSession.onPkg = false ∧ tPair.eci.detaching = [] ∧ tReady.boot.perstN = true ∧ tReady.eci.devState ≠ .uninit ∧ tReady.cxl.state ≠ .down := by decide +kernel
theorem witness_TrainingWaitsForPerst : ({ tReady.boot with perstN := false } : Boot).perstN = false ∧ tReady.cxl.microcode = true ∧ State.reset.cxl.microcode = false ∧
    tReady.boot.holdover = false ∧ tReady.boot.supply.on = true := by decide +kernel
theorem witness_PushesFollowTheirOrder : ([{ q := 63, body := 0 }] : List Post).find? (·.q == 63) = some { q := 63, body := 0 } ∧
    (tLink .training (some 0)).linkUp = false ∧ tReady.linkUp = true := by decide +kernel
theorem witness_MailboxAnswers : tReady.eci.devState ≠ .uninit ∧ tReady.linkUp = true ∧ 20 < 1 + 20 ∧ (0x4400 : BitVec 16).toNat ∉ [0x4000, 0x0400, 0x0401, 0x0100, 0x0101] := by
  decide +kernel

/-! ## The management port, Denbel -/

theorem witness_ManagementRequestsQueue : tReady.eci.devState ≠ .uninit ∧ tReady.mgmtOutstanding < 4 ∧ knownOpc 0x77 = false ∧ knownOpc 0x2A = true ∧
    mgmtOpc 0x2A = false ∧ mgmtOpc 0x49 = true ∧ knownOpc 0x49 = true ∧
    4 ≤ ({ tReady with eci := { tReady.eci with mgmtInbox := List.replicate 4 (0, []) } } : State).mgmtOutstanding := by decide +kernel
theorem witness_I3cTakesAddresses : tReady.eci.devState ≠ .uninit ∧ tReady.boot.supply.on = true ∧
    (let m : List Byte := [0, 0, 1, 1, 0x1D]
     m.getD 2 0 = 1 ∧ (m.getD 3 0 &&& 3).toNat ≤ 1 ∧ m.getD 4 0 ≠ 0 ∧ m.getD 4 0 ≠ 0xFF) := by decide +kernel
def tSpdm : State := { tReady with mgmt := { tReady.mgmt with spdmDoe := { versionDone := true, capsDone := true, algsDone := true } } }
theorem witness_SpdmConnectsInOrder : tReady.eci.devState ≠ .uninit ∧ tReady.linkUp = true ∧ (tSpdm.spdmConn .doe).versionDone = true ∧
    (tSpdm.spdmConn .doe).capsDone = true ∧ (tReady.spdmConn .doe).versionDone = false ∧ (tReady.spdmConn .mctp).capsDone = false := by decide +kernel
theorem witness_SpdmAttests : tSpdm.eci.devState ≠ .uninit ∧ tSpdm.linkUp = true ∧ (tSpdm.spdmConn .doe).algsDone = true ∧
    (tReady.spdmConn .doe).algsDone = false := by decide +kernel

/-- Port 2 is UP and reaches module 7; this module is module 1. -/
def tPort (f : DnbPort → DnbPort) : State := { tReady with
  eci := { tReady.eci with moduleIndex := 1 }
  dnb := { tReady.dnb with routes := [(7, 2)], ports := upd tReady.dnb.ports 2 fun x => f { x with state := .up, width := 16, neighbour := 7 } } }
def tFlit (seq : BitVec 10) : Flit :=
  { seq := seq, ack := 0, ackv := true, nak := false, kind := 1, stag := 0, crvc := 0, crcnt := 0, payload := List.replicate 640 0 }
def tFrom (src dst : BitVec 8) : Msg :=
  { opc := 1, dst := dst, src := src, vc := 0, hops := 0, tag := 4, marks := 0, addr := 0xFFF8000000, aux := 1, data := 1 :: List.replicate 79 0 }
theorem witness_FlitsAreAcceptedInOrder : ((tPort id).port 2).state.isUp = true ∧ ((tPort id).port 2).sendQ = [] ∧ (tFlit 0).nak = false ∧
    (tFlit 0).kind = 1 ∧ (tFlit 0).seq = ((tPort id).port 2).rxSeq ∧ (tFlit 1023).seq ≠ ((tPort id).port 2).rxSeq := by decide +kernel
theorem witness_PortsTrain : ((tPort id).port 2).state.isUp = true ∧ ((tPort id).port 3).state.isUp = false ∧ ((tPort id).port 3).heldDown = false ∧
    (tPort id).cxl.microcode = true ∧ 8 ≤ 15 ∧ ((tPort id).port 3).leftUp = none ∧ (tPort id).dnb.outbox = [] ∧
    ((tPort fun x => { x with state := .training, leftUp := some 0 }).port 2).leftUp = some 0 ∧ (tPort id).eci.pod = none ∧ (tPort id).dnb.reqs = [] ∧
    (tPort id).dnb.switching = [] ∧ (tPort id).srv.transfers = [] ∧ (tPort id).tiers.lifts = [] ∧ (tPort id).tiers.unreadable = [] := by decide +kernel
theorem witness_MessagesAreForwarded : (tPort id).denbelUp = true ∧ (tFrom 5 7).dst ≠ (tPort id).eci.moduleIndex ∧ (tPort id).route 7 = (2 : Fin 4).val ∧
    (tFrom 5 7).hops ≠ 7 ∧ (tPort id).route 9 = 15 := by decide +kernel
/-- The same, with a region that module 7 may write. -/
def tPeers : State := { tPort id with eci := { (tPort id).eci with regions := [tOpenRegion true] } }
theorem witness_PeersReadAndWrite : tPeers.denbelUp = true ∧ (tFrom 7 1).dst = tPeers.eci.moduleIndex ∧ tPeers.boot.stage = 9 ∧ tPeers.pwr.sleep = .awake ∧
    tPeers.coh.fresh = [] ∧ leNat ((tFrom 7 1).data.take 8) ≠ 0 ∧ leNat (({ (tFrom 7 1) with data := List.replicate 80 0 } : Msg).data.take 8) = 0 ∧
    (∀ c ∈ chunksOf 0xFFF8000000 64, tPeers.admitted (.peer 7) false (max c 0xFFF8000000) = some false) ∧
    (∃ c ∈ chunksOf 0xFFF8000000 64, tPeers.admitted (.peer 8) false (max c 0xFFF8000000) = none) := by decide +kernel
def tPeerReq (what : PeerWhat) (chunks : Nat) : PeerReq := { tag := 4, dst := 7, what := what, since := 0, chunks := chunks }
def tPending (r : PeerReq) : State := { tPort id with dnb := { (tPort id).dnb with reqs := [r] } }
theorem witness_PeerAnswersEndRequests :
    (let r := tPeerReq (.coreLoad 3) 1
     let m : Msg := { tFrom 7 1 with data := List.replicate 64 5 }
     (tPending r).dnb.switching = [] ∧ (tPending r).denbelUp = true ∧ m.dst = (tPending r).eci.moduleIndex ∧
     ((tPending r).dnb.reqs.find? fun x => x.tag == m.tag && x.dst == m.src && x.chunks != 0 && x.open_) = some r ∧ m.data.length = 64 * r.chunks ∧
     (tPending r).wanted r = true) ∧
    (let r := tPeerReq (.write none) 0
     let s : State := { tPending r with now := 200000000 }
     (s.dnb.reqs.find? fun x => x.tag == r.tag && x.open_) = some r ∧ r.since + 200000000 ≤ s.now ∧ r.what = .write none) := by decide +kernel
/-- A stream of purpose p from module 7, its bytes got so far. -/
def tStream (got : Nat) : Stream := { stag := 3, src := 7, dst := 1, mtag := 4, purpose := 1, tag := 9, length := 640, got := got }
theorem witness_StreamsDeliverInOrder : ((tPort id).port 2).state.isUp = true ∧ (tFrom 7 1).dst = (tPort id).eci.moduleIndex ∧
    (let s : State := { tWith .present with eci := { tServing.eci with moduleIndex := 1 } }
     (s.wframe tFid).map (·.frame) = some (some 3000) ∧ (s.wframe tFid).map (·.st) = some .present ∧ tFid.model = 9) ∧
    tRunning.wframe tFid = none ∧ tRunning.usable tFid 0xFE = true ∧ tReady.usable tFid 0xFE = false ∧
    (let s := tPort fun x => { x with streams := [tStream 0] }
     ((s.port 2).streams.find? fun x => x.stag == 3) = some (tStream 0) ∧ (tStream 0).dst = s.eci.moduleIndex ∧
     ((s.port 2).streams.find? fun x => x.src == 7 && x.dst == 1 && x.mtag == 4) = some (tStream 0) ∧ (tStream 0).got < (tStream 0).length ∧
     (tStream 640).length ≤ (tStream 640).got) := by decide +kernel

/-! ## Steps and schedule records -/

/-- The model bound to Squall b, with its selection, status and history areas in one pinned frame, and a closed step. -/
def tBound (b : Nat) : Model := { tWeights with
  bindings := [{ lunit := 0, kind := 2, members := [b] }]
  pins := [{ va := 0, bytes := 0x200000, pa := 0xFFF8000000 }]
  image := { tWeights.image with expert := { tWeights.image.expert with geom := [(1, 1), (2, 2)], statusVa := 0x2000 } } }
def tClosing (i : Item) : State := { tServing with
  srv := { tServing.srv with models := [tBound 0], chains := [{ model := 9, chain := 0, closed := [{ tClosed with items := [i] }], seq := 4 }] }
  squalls := upd tServing.squalls 63 fun x => { x with inService := false } }
def tNoSeq : Item := { tItem with seq := none }
theorem witness_ClosedStepsDispatch :
    (let s := tClosing tNoSeq
     s.model 9 = some (tBound 0) ∧ (s.chain 9 0).map (·.closed) = some [{ tClosed with items := [tNoSeq] }] ∧ (s.chain 9 0).map (·.run) = some none ∧
     ((tBound 0).image.familyOf 0).isSome = true ∧ s.eci.devState = .serving ∧ s.pwr.sleep = .awake ∧ (tBound 0).switching = [] ∧ s.exportAhead (tBound 0) [tNoSeq] = false ∧
     ((tBound 0).image.familyOf 0).map (fun f => f.idxOk (s.indices (tBound 0) 0 f [tNoSeq])) = some true ∧
     ((tBound 0).image.familyOf 0).map (fun f => f.idxOk (s.indices (tBound 0) 0 f [{ tNoSeq with t := 2 }])) = some false ∧
     s.variantOffline (tBound 0) tVariant = false ∧ s.variantOffline (tBound 63) tVariant = true ∧
     s.frontsFree ((tBound 0).runFronts tVariant) = true ∧ tClosed.poolSince = none ∧ (s.coverItems (tBound 0) false [tNoSeq]).1.isSome = true) := by
  decide +kernel
def tList (l : List Rec) : Variant := { tVariant with lists := [{ lunit := 0, wave := 0, recs := l }] }
theorem witness_ClosedStepsDispatch_waits : tRunning.frontsFree ((tBound 0).runFronts (tList [.task tTask, .endTask])) = false := by decide +kernel
/-- A sequence that is written into its last block set; a tenant ceiling where one is given; every pool frame taken where `full`. -/
def tGrow (ceiling : Option Nat) (full : Bool) : State := { tServing with
  srv := { tServing.srv with
    models := [{ tModel with image := { tModel.image with attn := [{ attn := true, kvfmt := 3, groups := 1, layers := 1, maxSeq := 4096, seqs := 4 }] } }]
    seqs := [{ model := 9, handle := 0, session := 1, n := 100, table := [1, 2] }]
    blocks := [{ model := 9, sub := 2, begun := true }] }
  tiers := { tServing.tiers with poolSize := if full then 0 else 8 }
  eci := { tServing.eci with tenants := (ceiling.toList).map fun n => { id := 0, ceiling := some n } } }
def tAlloc (s : State) : Option Nat :=
  ((s.model 9).map fun m => (s.allocBlock m 0).1).map fun a => match a with
    | .got _ => 0
    | .ceiling => 1
    | .full => 2
theorem witness_SequencesTakeBlocks :
    (∃ m q, (tGrow none false).model 9 = some m ∧ (tGrow none false).seqOf 9 0 = some q ∧ q.importing = false ∧ q.closing = false ∧ q.table ≠ [] ∧
      q.table.length < ((m.plan.map (·.maxSeq)).getD 0) / 64 ∧ (tGrow none false).lastBegun q = true) ∧
    tAlloc (tGrow none false) = some 0 ∧ tAlloc (tGrow (some 0) false) = some 1 ∧ tAlloc (tGrow (some 8) true) = some 2 :=
  ⟨⟨_, _, rfl, rfl, by decide +kernel⟩, by decide +kernel⟩
def tWaves : State := tRunning.updRun 9 0 fun r => { r with waves := Vector.replicate 8 1 }
theorem witness_WavesReleaseInOrder : (∃ c r, tWaves.chain 9 0 = some c ∧ c.run = some r ∧ r.phase = .running ∧ r.ended = none ∧ (0 : Fin 8) ∈ r.fronts ∧
      bitAt (pick r.waves 0).toNat 1 = false ∧ (pick r.waves 0).toNat % 2 ^ 1 = 2 ^ 1 - 1 ∧ (pick r.waves 0).toNat % 2 ^ 2 ≠ 2 ^ 2 - 1 ∧
      r.tWave + 2000 * 1 ≤ 2000) ∧ tWaves.model 9 = some tWeights := ⟨⟨_, _, rfl, rfl, by decide +kernel⟩, by decide +kernel⟩
def tEnded : State := tRunning.updSq 0 fun x => { x with tasks := x.tasks.map fun t => { t with ended := true } }
theorem witness_TasksBecomeFinal : ∃ t c r, (tEnded.sq 0).tasks.find? (fun t => t.ended && !(tEnded.sq 0).open_.any (·.2 == t.key)) = some t ∧
    tEnded.chain t.model t.chain = some c ∧ c.run = some r ∧
    (r.tasks.find? fun y => y.sq == 0 && y.status.isNone && y.list == t.list && y.pos == t.pos && y.member == t.member).isSome = true :=
  ⟨_, _, _, rfl, rfl, rfl, by decide +kernel⟩
def tStalled : State := { (tRunning.updSq 0 fun x => { x with watch := [((16, 4095), 0), ((17, watchKey 0 63 4095), 0), ((18, opKey 3 511), 0)] }) with now := 50000001 }
theorem witness_StallsEndTheirStep : (∃ c r, tStalled.runOn 0 = some (c, r) ∧ r.stallSince = none ∧ r.ended = none) ∧ frontOf 0 = 0 ∧
    ((16, 4095), 0) ∈ (tStalled.sq 0).watch ∧ ((tStalled.sq 0).tag 4095).st ≠ .filling ∧ ((17, watchKey 0 63 4095), 0) ∈ (tStalled.sq 0).watch ∧
    ((tStalled.sq 63).tag 4095).st ≠ .filling ∧ ((18, opKey 3 511), 0) ∈ (tStalled.sq 0).watch ∧ 0 + 50000000 < tStalled.now :=
  ⟨⟨_, _, rfl, rfl, rfl⟩, by decide +kernel⟩
/-- A running step with every task DONE, in some phase; tag 1 is speculative and may be committed; the first status byte where given. -/
def tFinal (ph : StepPhase) (spec : Bool) (status : Byte) : State := { tRunning with
  mem := if status = 0 then [(0xFFF8000020, 2)] else [(0xFFF8000020, 2), (0xFFF8002000, status)]
  srv := { tRunning.srv with
    models := [tBound 0]
    chains := [{ model := 9, chain := 0, seq := 5, run := some { tRun with
      phase := ph, items := [tNoSeq], idx := [0], tasks := [{ sq := 0, rc := { spec := spec, tag := 1, item := some 0 }, status := some .done }] } }] } }
theorem witness_StepsCommitAndEnd :
    (∃ c r f, (tFinal .running true 0).chain 9 0 = some c ∧ c.run = some r ∧ (tBound 0).image.familyOf 0 = some f ∧ r.phase = .running ∧
      (∀ t ∈ r.tasks, t.status ≠ none) ∧ r.ended = none ∧ (tFinal .running true 0).routeOverflow (tBound 0) 0 = false ∧
      (tFinal .running true 0).commitTags (tBound 0) 0 r r.judge = [1] ∧ r.replay = false ∧ ¬ (tBound 0).image.expert.buckets ≤ r.idx.getD 0 0 + 1) ∧
    (tFinal .running false 1).routeOverflow (tBound 0) 0 = true ∧ (tBound 0).image.expert.moeLayers ≠ 0 ∧
    ((tFinal .recording false 0).chain 9 0).map (fun c => c.run.map (·.phase)) = some (some .recording) ∧ (tFinal .running true 0).model 9 = some (tBound 0) ∧
    (∃ c r, (tFinal (.committing []) false 0).chain 9 0 = some c ∧ c.run = some r ∧ r.phase = .committing [] ∧
      (tFinal (.committing []) false 0).drainEgress.fenceSysOpen r = false ∧
      ({ tFinal (.committing []) false 0 with dnb := { tReady.dnb with reqs := [tPeerReq (.write (some (0, 4))) 0] } } : State).drainEgress.fenceSysOpen r = true) :=
  ⟨⟨_, _, _, rfl, rfl, rfl, rfl, by decide +kernel⟩, by decide +kernel, by decide +kernel, by decide +kernel, by decide +kernel, ⟨_, _, rfl, rfl, rfl, by decide +kernel⟩⟩
theorem witness_CommitCopiesEnd : (∃ c r, (tFinal (.committing [1]) true 0).chain 9 0 = some c ∧ c.run = some r ∧ r.phase = .committing [1] ∧
      (∃ x z, r.tasks.find? (fun x => x.rc.spec && x.rc.tag == 1) = some x ∧ x.rc.item = some 0 ∧ r.items[0]? = some z)) :=
  ⟨_, _, rfl, rfl, rfl, _, _, rfl, rfl, rfl⟩
theorem witness_PrefixesAreInserted :
    (let s : State := { tServing with srv := { tServing.srv with chains := [{ model := 9, chain := 0, inserting := [{ tItem with tokensPa := 0x8000000000 }, tItem] }] } }
     s.model 9 = some tModel ∧ (s.chain 9 0).isSome = true ∧ s.readable 0x8000000000 = true ∧
     ({ s with cxl := { s.cxl with state := .down } } : State).readable 0xC00000000000 = false) := by decide +kernel

/-- Squall 0 holds a list with the records l, within task 4 where `inTask`. -/
def tIssue (l : List Rec) (inTask : Bool) : State := tRunning.updSq 0 fun x => { x with
  lists := [{ model := 9, chain := 0, lunit := 0, member := 0, wave := 0, recs := l }], current := if inTask then some 4 else none }
theorem witness_TasksOpenAndClose : ((tIssue [.task tTask] false).sq 0).next = some (.task tTask) ∧ ((tIssue [.task tTask] false).sq 0).lists ≠ [] ∧
    ((tIssue [.task tTask] false).sq 0).current = none ∧ ((tIssue [.endTask] true).sq 0).next = some .endTask ∧ ((tIssue [.endTask] true).sq 0).current = some 4 ∧
    ((tIssue [.endTask] true).sq 0).fences = [] ∧
    (((tIssue [.endTask] true).updSq 0 fun x => { x with fences := [{ seq := 3, task := 4, scope := .core }] }).sq 0).next = some .endTask ∧
    ((tIssue [.loop 3 1 2] true).sq 0).next = some (.loop 3 1 2) ∧ ((tIssue [.endLoop] true).sq 0).next = some .endLoop := by decide +kernel
def tPassRec (op : PassOp) : PassRec := { op := op, final := true, rows := 2 }
theorem witness_PassesEnterTheirQueue : ∀ op ∈ [PassOp.mac, .l1, .l2, .maxplus, .minplus, .cmpcount, .ewise],
    ((tIssue [.pass (tPassRec op)] true).sq 0).next = some (.pass (tPassRec op)) ∧ ((tIssue [.pass (tPassRec op)] true).sq 0).issuing.isSome = true ∧
    (tPassRec op).op = op ∧ ((tIssue [.pass (tPassRec op)] true).sq 0).fences = [] ∧
    (pick ((tIssue [.pass (tPassRec op)] true).sq 0).engines 0).queued < 8 ∧
    8 ≤ ({ passes := List.replicate 8 { seq := 0, task := 4, rc := tPassRec op } } : Engine).queued := by decide +kernel
def tFence (scope : Scope) : FenceEntry := { seq := 3, task := 4, scope := scope }
theorem witness_DmaAndFenceRecords : ((tIssue [.dma 7 2] true).sq 0).issuing.isSome = true ∧ ((tIssue [.dma 7 2] true).sq 0).next = some (.dma 7 2) ∧
    (pick ((tIssue [.dma 7 2] true).sq 0).chans 7).queue.length < 4 ∧ (∀ x ∈ [Scope.core, .chip, .sys], ((tIssue [.fence x] true).sq 0).next = some (.fence x)) ∧
    (let s := tRunning.updSq 0 fun x => { x with fences := [tFence .sys], open_ := [(3, 4), (9, 5)] }
     (s.sq 0).fences = [tFence .sys] ∧ (∀ r ∈ (s.sq 0).open_, r.2 = (tFence .sys).task → (tFence .sys).seq ≤ r.1) ∧ s.sysWait 0 (tFence .sys) = false ∧
     ({ s with dnb := { s.dnb with reqs := [tPeerReq (.write (some (0, 4))) 0] } } : State).sysWait 0 (tFence .sys) = true) := by decide +kernel

/-! ## Vector operations, engines, DMA, slots -/

def slotsReadyB (s : State) (q : Fin 64) (l : List Nat) : Bool :=
  l.all fun k => ((s.sq q).tag k).st.readable && !((s.sq q).tag k).kvp && ((s.sq q).tag k).gens == []
theorem slotsReady_of {s : State} {q : Fin 64} {l : List Nat} (h : slotsReadyB s q l = true) : s.SlotsReady q l := by
  intro k hk
  have h' := List.all_eq_true.mp h k hk
  simp only [Bool.and_eq_true, beq_iff_eq, Bool.not_eq_true'] at h'
  exact ⟨h'.1.1, h'.1.2, h'.2⟩
/-- Slots 0 to 2 of Squall 0 are FULL with one reader. -/
def tSlots (s : State) : State := s.updSq 0 fun x => { x with tags := [(0, { st := .full, readers := 1 }), (1, { st := .full, readers := 1 }), (2, { st := .full, readers := 1 })] }
def tVop (opc param : Nat) : VopRec := { opc := opc, param := param, src0 := 0, src1 := 0x1000, src2 := 0x2000, dst := 0x3000, dstride := 16 }
def tVector (v : VopRec) : State :=
  { tSlots (tRunning.updSq 0 fun x => { x with vq := [{ seq := 7, task := 4, rc := v }], open_ := [(7, 4)] }) with
    mem := [0, 0x1000, 0x2000].flatMap fun a => (List.range 8).map fun i => (coreMemBase + a + i, 0) }
/-- The source slots of the operation may be read, and slot 3, where its results go, is EMPTY. -/
def tVectorReady (v : VopRec) (out : State → List (Nat × List MByte)) : Bool :=
  let s := tVector v
  let u := s.ok.unwatch 0 reqVector
  (s.sq 0).vq == [{ seq := 7, task := 4, rc := v }] && v.rows == 1 && (s.sq 0).next.isNone && s.dram.retired.isEmpty
    && slotsReadyB s 0 (readSlots (u.rowReads 0 v 0)) && pairwiseB (fun a b => decide (a.1 + a.2.length ≤ b.1) || decide (b.1 + b.2.length ≤ a.1)) (out u) && arrivalOk v.param (List.range v.param)
    && (out u).all fun o => decide (o.2.length ≤ 0xFFF000) && (slotsOf o.1 o.2.length).all fun k => k == 3 && ((s.sq 0).tag k).st == .empty
theorem witness_VectorOperationsStoreTheirResults :
    ∀ c ∈ [(tVop 1 0, fun (u : State) => u.vBinary 0 (tVop 1 0) f32Add 0), (tVop 3 0, fun u => u.vFma 0 (tVop 3 0) 0), (tVop 6 3, fun u => u.vCmp 0 (tVop 6 3) 0),
      (tVop 7 0, fun u => u.vSelect 0 (tVop 7 0) 0), (tVop 0x10 0, fun u => u.vUnary 0 (tVop 0x10 0) f32Exp2 0),
      (tVop 0x20 0, fun u => u.vReduce 0 (tVop 0x20 0) f32Add 0), (tVop 0x28 0, fun u => u.vNorm 0 (tVop 0x28 0) 0),
      (tVop 0x29 0, fun u => u.vSoftmax 0 (tVop 0x29 0) 0), (tVop 0x38 1, fun u => u.vTopk 0 (tVop 0x38 1) 0), (tVop 0x40 0, fun u => u.vGather 0 (tVop 0x40 0) 0),
      (tVop 0x41 0, fun u => u.vScatter 0 (tVop 0x41 0) 0), (tVop 0x48 2, fun u => u.vMerge 0 (tVop 0x48 2) [0, 1] 0),
      (tVop 0x49 2, fun u => u.vMergeRoot 0 (tVop 0x49 2) [0, 1] 0)], tVectorReady c.1 c.2 = true := by decide +kernel
theorem witness_VectorRowsGoOneByOne :
    (let s := tVector (tVop 1 0)
     let v : VopEntry := { seq := 7, task := 4, rc := tVop 1 0 }
     (s.sq 0).vopFront = some v ∧ (∀ y ∈ (s.sq 0).vq, y.seq = v.seq → y = v) ∧ (s.sq 0).next = none ∧ arrivalOk v.rc.param [] = true ∧
     slotsReadyB s 0 (readSlots (s.rowReads 0 v.rc v.row)) = true ∧ 0 ∈ readSlots (v.rc.reads v.row) ∧
     (let u := s.updSq 0 fun x => { x with tags := [] }
      (u.sq 0).vopFront = some v ∧ ((u.sq 0).tag 0).st.readable = false ∧ ((u.sq 0).tag 0).again = false)) := by decide +kernel
theorem witness_VectorRecordsQueue : ∀ n ∈ [1, 31, 32],
    (let s := (tIssue [.vop (tVop 1 0)] true).updSq 0 fun x => { x with vq := List.replicate n { seq := 7, task := 4, rc := tVop 2 0 } }
     (s.sq 0).next = some (.vop (tVop 1 0)) ∧ (s.sq 0).issuing.isSome = true ∧ (s.sq 0).fences = [] ∧ (s.sq 0).vopFront.isSome = true ∧
     ((s.sq 0).vq.filter fun y => decide (y.row < y.rc.rows)).length = n ∧ ∀ y ∈ (s.sq 0).vq, y.rc.opc ≠ (tVop 1 0).opc) := by decide +kernel
/-- A detection on Squall 0 in a running step; line 5 stands in the schedule engine's cache. -/
theorem witness_DetectionsRerunTheStep : (∃ c r, tRunning.runOn (frontOf 0) = some (c, r) ∧ tRunning.model c.model = some tWeights ∧ r.attempts < 3) ∧
    ((((tRunning.schedFetch 0 5)).sq 0).cache.find 5).isSome = true ∧
    (let s := tRunning.updRun 9 0 fun r => { r with attempts := 3 }
     ∃ c r, s.runOn (frontOf 0) = some (c, r) ∧ 3 ≤ r.attempts) :=
  ⟨⟨_, _, rfl, rfl, by decide +kernel⟩, by decide +kernel, ⟨_, _, rfl, by decide +kernel⟩⟩
/-- Squall 0's engine 0. -/
def tEngine (x : Engine) : State := tSlots (tRunning.updSq 0 fun y => { y with engines := upd y.engines 0 fun _ => x })
/-- Slots 0 to 15 are FULL. -/
def tMany (s : State) : State := s.updSq 0 fun x => { x with tags := (List.range 16).map fun k => (k, { st := .full, readers := 1 }) }
def tPass (rc : PassRec) : Pass := { seq := 7, task := 4, rc := rc }
def tMac : PassRec := { op := .mac, wfmt := .bf16, afmt := .bf16, aaddr := 0x1000, tsrc := 0, rows := 2, final := true, daddr := 0x3000 }
theorem witness_TilesStageAndLoad :
    (let s := tEngine { passes := [tPass tMac] }
     ((s.eng 0 0).passes.find? fun p => p.loads && p.tile == .none).map (·.seq) = some 7 ∧ (pick (s.eng 0 0).halves 0).full = none ∧
     slotsReadyB s 0 (slotsOf 0 64) = true ∧ slotsReadyB (tMany s) 0 (s.tileSlots 0 tMac) = true) ∧
    (let s := tEngine { passes := [tPass tMac], halves := Vector.replicate 2 { full := some {} } }
     (pick (s.eng 0 0).halves 0).full ≠ none ∧ (pick (s.eng 0 0).halves 1).full ≠ none) ∧
    (let p : Pass := { tPass tMac with tile := .staged 1 }
     let s := tEngine { passes := [p], halves := Vector.replicate 2 { full := some {} } }
     ((s.eng 0 0).passes.find? fun p => p.loads && p.bank.isNone).map (·.seq) = some 7 ∧ p.tile = .staged 1 ∧ (s.eng 0 0).bankFree 0 = true) ∧
    (let p : Pass := { tPass tMac with seq := 8, tile := .staged 1 }
     let s := tEngine { passes := [{ tPass tMac with tile := .loaded 0 }, { tPass tMac with seq := 6, tile := .loaded 1, rc := { tMac with keep := true } }, p] }
     ((s.eng 0 0).passes.find? fun p => p.loads && p.bank.isNone).map (·.seq) = some 8 ∧
     (s.eng 0 0).bankFree (((s.eng 0 0).bankBefore p.seq).map otherBank |>.getD 0) = false) := by decide +kernel
def tOneRow : PassRec := { tMac with rows := 1 }
/-- An EWISE pass of one row: its rows are at 0x1000, its second stream at 0x2000. -/
def tEwise : PassRec := { op := .ewise, afmt := .bf16, ewfmt := .bf16, aaddr := 0x1000, eaddr := 0x2000, rows := 1, final := true, daddr := 0x3000 }
theorem witness_RowsAreFetched :
    (let x : Engine := { passes := [tPass tOneRow] }
     let s := tEngine x
     x.resolveHeld = x ∧ (x.passes.find? fun p => !p.fetched) = some (tPass tOneRow) ∧ tOneRow.held = false ∧ tOneRow.op ≠ .ewise ∧
     (x.freeSlots (cdiv (1 * tOneRow.rowSize (tPass tOneRow).wfmtOf) 1024)).isSome = true ∧
     slotsReadyB s 0 (rowSlots 0x1000 0 (tOneRow.rowSize (tPass tOneRow).wfmtOf) 1) = true) ∧
    (let h : HeldRows := { task := 4, aaddr := 0x1000, astride := 0, rows := 1, afmt := .bf16, ablk := false, size := 256, slots := [0], reader := 6
                           rowExp := [none], rowMark := [.none], skips := [0] }
     let p := tPass { tEwise with held := true }
     let x : Engine := { passes := [p], held := [h] }
     let s := tEngine x
     x.resolveHeld = x ∧ (x.passes.find? fun p => !p.fetched) = some p ∧ x.heldFor p = some h ∧
     (x.freeSlots (0 + cdiv (1 * tEwise.ewRow) 1024)).isSome = true ∧ slotsReadyB s 0 (rowSlots 0x2000 0 tEwise.ewRow 1) = true) ∧
    ({ passes := [tPass tOneRow], opTags := (List.range 256).map fun k => (128 + k, .full) } : Engine).freeSlots 1 = none := by decide +kernel
/-- A pass with its rows, its tile in bank 0. -/
def tFed (entered : Nat) : Pass := { tPass tMac with tile := .loaded 0, fetched := true, rowsFrom := 7, slots := [0, 1], rowExp := [none, none]
                                                     rowMark := [.none, .none], skips := [0, 0], entered := entered, exps := some (0, 0) }
theorem witness_RowsEnterOrBubble :
    (let x : Engine := { passes := [tFed 0] }
     let s := tEngine x
     x.resolveHeld = x ∧ (x.passes.find? fun p => decide (p.entered < p.rc.rows)) = some (tFed 0) ∧ (tFed 0).bank = some 0 ∧
     x.holding = none ∧ x.mayEnter (tFed 0) = true ∧ (0 + 1) * s.bubbleOf 0 / 64 = 0 * s.bubbleOf 0 / 64) ∧
    (let s : State := tEngine { passes := [tFed 0], slotCount := 63 }
     let t : State := { s with pwr := { s.pwr with fronts := upd s.pwr.fronts 0 fun f => { f with bubble := 20 } } }
     63 * t.bubbleOf 0 / 64 < (63 + 1) * t.bubbleOf 0 / 64) ∧ (tPass tMac).fetched = false ∧
    (let p : Pass := { tFed 0 with seq := 8 }
     ({ passes := [tFed 2, p], hold := some (8, 0) } : Engine).holding = some (8, 0)) := by decide +kernel
theorem witness_SumsArePromoted :
    (let x : Engine := { passes := [tFed 2] }
     x.promoting (0 : Fin 256).val 127 = some (tFed 2) ∧ x.rowBusy (tFed 2) 0 = false ∧ x.holding = none) ∧
    (let p : Pass := { tFed 2 with seq := 8 }
     let x : Engine := { passes := [{ tFed 2 with sums := Vector.replicate 128 2, verdict := .clean }, p] }
     x.promoting (0 : Fin 256).val 0 = some p ∧ x.rowBusy p 0 = true ∧ p.rc.next = false ∧ x.holding = none ∧
     { x with hold := some (8, 0) }.promoting 0 0 = some p ∧ { x with hold := some (8, 0) }.holding = some (8, 0)) ∧
    (let p : Pass := { tFed 2 with seq := 9 }
     let x : Engine := { passes := [{ tFed 2 with sums := Vector.replicate 128 2 }, { tFed 2 with seq := 8, sums := upd (Vector.replicate 128 0) 0 fun _ => 2 }, p]
                         hold := some (8, 0) }
     x.promoting (0 : Fin 256).val 0 = some p ∧ x.holding = some (8, 0) ∧ 8 < p.seq) := by decide +kernel
def tSummed (ovf : List (Nat × Nat)) : Pass := { tFed 2 with sums := Vector.replicate 128 2, ovf := ovf }
theorem witness_VerdictsAndRepeats :
    (∀ l ∈ [[], [(1, 5)]], ({ passes := [tSummed l] } : Engine).passes.find? (fun p => p.verdict == .none && p.settled) = some (tSummed l)) ∧
    (tSummed [(1, 5)]).ovf ≠ [] ∧
    (let p : Pass := { tSummed [(1, 5)] with verdict := .repeatWanted }
     let s := tEngine { passes := [p], repeats := [(7, 7)] }
     (s.eng 0 0).repeats = [(p.seq, 7)] ∧ (s.eng 0 0).passOf 7 = some p ∧ s.repeatDue 0 0 7 = true) ∧
    (∀ n ∈ [0, 1], let p : Pass := { tSummed [(1, 5)] with verdict := .repeatWanted }
     let h : Pass := { tFed 1 with seq := 8, sums := Vector.replicate 128 n }
     let s := tEngine { passes := [p, h], repeats := [(7, 8)], hold := some (8, 1) }
     s.repeatDue 0 0 8 = false ∧ (s.eng 0 0).holding = some (h.seq, 1) ∧ (s.eng 0 0).passOf 8 = some h ∧ (s.eng 0 0).passOf 7 = some p ∧
     (s.eng 0 0).waitsForRepeat h 1 = true ∧ (∀ y ∈ (s.eng 0 0).passes, y.seq < h.seq → y.tiled = true → y.settled = true) ∧
     ((∀ c, pick h.sums c = 1) ↔ n = 1)) := by decide +kernel
theorem witness_EpiloguesWriteAndRetire :
    (let p : Pass := { tSummed [] with verdict := .clean }
     let s := tEngine { passes := [p] }
     (s.eng 0 0).passes.findSome? (fun p => (p.unread.find? fun r => (s.eng 0 0).rowFinal p r).map fun r => (p.seq, r)) = some (7, 0) ∧
     (s.sq 0).firstTaken p.acq (p.destSlots 0) = none ∧
     ((tEngine { passes := [{ p with rc := { tMac with daddr := 0x2000 } }] }).sq 0).firstTaken p.acq (slotsOf 0x2000 512) = some 2) ∧
    (let p : Pass := { tSummed [] with verdict := .clean, acq := [3], reads := [(0, List.replicate 128 (0, .none))] }
     let s := tEngine { passes := [p] }
     ((s.eng 0 0).passes.find? fun p => p.reads ≠ []).map (·.seq) = some 7 ∧ slotsReadyB s 0 (p.rc.epi.peeks 0 ++ p.rc.epi.ewSlots 0) = true ∧
     ∀ k ∈ p.acq, ∃ j ∈ (List.range p.rc.rows), j ≠ 0 ∧ j ∉ p.written ∧ k ∈ p.destSlots j) ∧
    (let p : Pass := { tSummed [] with verdict := .clean, written := [0, 1] }
     (((tEngine { passes := [p] }).eng 0 0).passes.find? fun p => !p.retired && p.verdict == .clean && (!p.rc.final || p.written.length == p.rc.rows)).map (·.seq) = some 7) := by
  decide +kernel

/-- Channel 1 of Squall 0 runs a program of task 4 at descriptor d; the model may read and write its first pages. -/
def tDma (d : Desc) (run : Bool) (filling : List Nat) : State := { tSlots (tRunning.updSq 0 fun x => { x with
    chans := upd x.chans 1 fun _ => { queue := [{ seq := 9, task := 4, at_ := 0 }], run := if run then some { seq := 8, task := 4, at_ := 0, model := 9, filling := filling } else none } }) with
  srv := { tRunning.srv with models := [{ tBound 0 with image := { (tBound 0).image with
    descs := [d, {}]
    variants := [{ tVariant with map := [{ vpn := 0, pages := 16, rd := true, wr := true, sw := false, host := false, peer := false, region := 0 }] }] } }] } }
def tDesc (kind : DKind) : Desc := { kind := kind, va := 0x4000, n0 := 4, coff := 0x3000, xlunit := 0, va2 := 0x5000, untag := kind == .xfer }
theorem witness_ProgramsStartAndComplete : ((tDma {} true []).dmaNow 0 1).map (·.prog.late) = some [] ∧ (pick ((tDma {} false []).sq 0).chans 1).run = none ∧
    (pick ((tDma {} false []).sq 0).chans 1).queue = [{ seq := 9, task := 4, at_ := 0 }] ∧
    ((tDma {} true []).dmaNow 0 1).map (·.d.kind) = some .stop ∧ ((tDma {} true []).dmaNow 0 1).map (·.prog.filling) = some [] ∧
    ((tDma {} true [3]).dmaNow 0 1).map (·.prog.filling) = some [3] := by decide +kernel
def tRead (n : DmaNow) (s : State) (va bytes : Nat) : Bool := match (s.readRange n.port va bytes).1 with
  | .got _ => true
  | _ => false
theorem witness_DescriptorsRunTheirRows : ∀ k ∈ [DKind.load, .store, .xfer, .gather, .scatter, .move],
    let s := tDma (tDesc k) true []
    (tDesc k).rowCount = 1 ∧ s.dram.retired = [] ∧
    (s.dmaNow 0 1).any (fun n => n.d.kind == k && n.prog.filling == [] && n.prog.row == 0 && n.prog.write.isNone && tRead n s 0x4000 16
      && (s.writeStop n.port 0x4000 16).isNone && n.target == some 0) = true ∧
    (tDesc .load).untag = false ∧ (tDesc .xfer).untag = true ∧ ∀ k ∈ slotsOf 0x3000 16, ((s.sq 0).tag k).st = .empty := by decide +kernel
theorem witness_ParityInRowsRerunsTheStep : (left (exec (.dmaLoad 0 1 none) (tDma (tDesc .load) true []))).out.performed = true := by decide +kernel
def tTag (st : TagSt) (readers : Nat) : State := tRunning.updSq 0 fun x => { x with tags := [(4095, { st := st, readers := readers })] }
theorem witness_SlotsAreReleasedAndRead : ((tTag .filling 0).sq 0).tag 4095 = { st := .filling } ∧ (15 : Fin 16) ≠ 0 ∧ (tTag .filling 0).writing 0 4095 = false ∧
    slotsReadyB (tTag .full 1) 0 [4095] = true ∧ slotsReadyB (tTag .full 15) 0 [4095] = true ∧ slotsReadyB (tTag .resident 0) 0 [4095] = true ∧
    (tRunning.sq 0).tag 0 = {} ∧ ((tTag .filling 0).sq 0).tag 4095 = { st := .filling, again := false } := by decide +kernel
theorem witness_StepsStartWithEmptySlots : frontOf 7 ∈ [0] ∧ frontOf 63 ∉ [0] := by decide +kernel
theorem witness_ResidentSlotsRefuseUntaggedWrites : 0xFFFF00 + 16 ≤ 2 ^ 24 ∧ slotsOf 0xFFFF00 16 = [4095] ∧ (((tTag .resident 0).sq 0).tag 4095).st = .resident ∧
    (((tTag .full 1).sq 0).tag 4095).st ≠ .resident := by decide +kernel

/-! ## Numbers -/

theorem witness_PlainCodesRoundTrip : 0xFF80 < 2 ^ Fmt.bf16.width ∧ Fmt.bf16.elem 0xFF80 ≠ .nan ∧ Fmt.bf16.elem 0xFF81 = .nan ∧
    0x0001 < 2 ^ Fmt.fp16.width ∧ Fmt.fp16.elem 0x0001 ≠ .nan := by decide +kernel
theorem witness_Binary32IsCommutative : valOf 0x7FC00001 = .nan := by decide +kernel
theorem witness_SentinelsMeanNoValue : onGrid 0 true 524288 0 ≤ -524288 ∧ 524287 ≤ onGrid 0 false 524287 0 ∧ -524288 < onGrid 0 true 524287 0 := by decide +kernel

/-! ## Worked examples of the spec -/

/-- Example 1.1: the engine D0.F3.S5.E2, its Squall's core memory and its operand buffer. -/
theorem test_example_1_1 : squallOf 3 5 = 29 ∧ tReady.engineId 29 2 = 0x3520 ∧ tReady.squallId 29 = 0x35F0 ∧ tReady.frontId 3 = 0x3FF0 ∧
    tReady.moduleId = 0xFFF0 ∧ coreAddr 29 0 = 0x03011D000000 ∧ halfAt 29 2 0 = 0x030203B00000 := by decide +kernel
/-- Example 3.1: 32 values in sixteenths, each times 10,000, give the exponent code 0x7B and the codes of Table 3.7. -/
def tExample31 : List Val :=
  [(false, 14), (true, 44), (false, 2), (false, 20), (true, 4), (false, 56), (false, 0), (true, 12), (false, 40), (false, 6), (true, 18), (false, 3),
   (false, 120), (true, 5), (false, 10), (false, 30), (true, 72), (false, 1), (false, 36), (true, 16), (false, 4), (true, 26), (false, 11), (false, 80),
   (true, 2), (false, 16), (true, 32), (false, 8), (false, 0), (true, 7), (false, 28), (false, 100)].map fun p => Val.fin p.1 p.2 (-8)
theorem test_example_3_1 : encodeBlock .nb4 tExample31 (List.replicate 32 .rne) = (0x7B,
    [2, 0xD, 0, 2, 8, 6, 0, 0xA, 4, 1, 0xA, 0, 7, 9, 1, 4, 0xE, 0, 4, 0xA, 0, 0xB, 1, 6, 8, 2, 0xC, 1, 0, 9, 4, 7]) := by decide +kernel
/-- Example 4.1: the exponents of pass 0, and the field after cell rows 41 and 42. -/
def tCells (n : Nat) : Sum := (List.range n).foldl (fun s _ => s.cell .mac 0 [(.fin false 3072 0, .fin false 2 0), (.fin false 3072 0, .fin false 2 0)]) { field := 0 }
theorem test_example_4_1 : passExps .mac 2 (some 2) (some 12) = (0, 4) ∧ tCells 42 = { field := 516096 } ∧ (tCells 43).ovf = true := by decide +kernel
theorem test_example_4_2 : (passExps .mac 4 (some (-3)) (some 2)).1 = -14 := by decide +kernel
/-- Example 6.1: the variant that the indices 5, 3, 7, 2 select. -/
theorem test_example_6_1 : ({ firstVariant := 40, dims := [16, 8, 12, 4].map fun b => { buckets := b, source := .prior, kind := 0, quantum := 0 } } : Family).variantAt
    [5, 3, 7, 2] = 4061 := by decide +kernel
/-- Example 7.1: sub-frames of a block set, and the select entries of tiles 155 and 156. -/
def tMask : MaskView := { tr := 1, tc := 157, qpos0 := 20000, rowpos := false, tree := false, explicit := false }
theorem test_example_7_1 : ({ layers := 96, groups := 8, kvfmt := 3 } : AttnPlan).subs = 256 ∧ tReady.selectEntry tMask 0 155 = 1 ∧
    tReady.selectEntry tMask 0 156 = 161 := by decide +kernel
/-- Example 15.1: the bubble fraction at the boundary after the cap is lowered. -/
theorem test_example_15_1 : newBubble 0 (1985 / 8) (615 / 2) (625 / 4) = 25 := by decide +kernel
/-- Binary32 (R125): a sum that rounds to even, an overflow, a fused 1.5 x 1.5 + 1 = 3.25. -/
theorem test_binary32 : f32Add 0x4B800000 0x3F800000 = 0x4B800000 ∧ f32Mul 0x7F7FFFFF 0x40000000 = 0x7F800000 ∧ f32Fma 0x3FC00000 0x3FC00000 0x3F800000 = 0x40500000 := by decide +kernel

/-! ## One step of a few commands, by the rules named -/

/-- R429. -/
theorem test_power_up : (left (exec .powerUp State.reset)).boot.pwrgood = true := by decide +kernel
/-- R364. -/
theorem test_fetch : ((left (exec .sqFetch tFetch)).pair 0).sqHead = 1 := by decide +kernel
/-- R374: a session for tenant 7 on pair 2. -/
theorem test_attach : ((left (exec (.attach (.pair 2)) tAttach)).pair 2).session.isSome = true := by decide +kernel
/-- R377. -/
theorem test_detach : (left (exec (.detach (.pair 0)) (tPair.with0 (tEntry 2 [(64, 1)])))).eci.sessions = [] := by decide +kernel
/-- R389. -/
theorem test_power_cap : (left (exec (.powerCapSet (.pair 0)) (tPair.with0 (tEntry 0x1A [(64, 2600)])))).pwr.capWanted = some 2600 := by decide +kernel
/-- R382: SUSPEND of an operation. -/
theorem test_suspend : ((left (exec (.suspend (.pair 0)) ((tOp .running .ready).with0 (tEntry 0x38 [(64, 1)])))).eci.ops.map (·.st)) = [.suspending] := by
  decide +kernel
/-- R165, R373: five rows enter the gate. -/
theorem test_submit : (((left (exec (.stepSubmit (.pair 0)) ({ tServing with srv := { tServing.srv with
    models := [{ tModel with image := { tModel.image with families := [{ tFamily with fillRows := 128, maxRows := 256 }] } }]
    seqs := [{ model := 9, handle := 0, session := 1 }] } }.with0 (tEntry 0x2A [(64, 9), (104, 5)])))).chain 9 0).bind (·.gate)).map (·.rows) = some 5 := by
  decide +kernel
/-- R166. -/
theorem test_gust : ((left (exec (.gustExpire 9 0) tGust)).chain 9 0).map (fun c => c.closed.map (·.why)) = some [.gust] := by decide +kernel
/-- R296: a core reads the bytes of its own buffered store. -/
theorem test_store_forwards : (left (exec (.coreLoad 3 0xFFF8000000 2 .pma .plain none) (tHeld .e |>.updCore 3 fun x => { x with sb := [tStore] }))).out =
    .data [1, 7] .none := by decide +kernel
/-- R297. -/
theorem test_cbo_zero : (((left (exec (.cboZero 3 0xFFF8000000 .pma) (tHeld .e))).core 3).line 0x3FFE00000).map (fun l => (l.st, l.data.getD 0 9)) = some (.m, 0) := by
  decide +kernel
/-- R302: 64 cores, 64 schedule engines and the cluster, less the one that asks. -/
theorem test_coh_request : (((left (exec (.cohRequest (.core 3) 0x3FFE00000 .own) tReady)).req 0).map (·.waiting.length)) = some 128 := by decide +kernel
/-- R278: class 1 goes before class 2. -/
theorem test_dram_class : ((pick (left (exec (.dramAccess 575 .clean) (tQueue [tReq 2 true, tReq 1 true] []))).dram.channels 575).queue.map (·.cls)) = [2] := by
  decide +kernel
/-- R335: a read outside every region answers zeros with poison. -/
theorem test_cxl_refused : (left (exec (.cxlMemRead 0xFFF9000000 2 .clean) tShared)).out = .data [0, 0] .unreadable := by decide +kernel
/-- R347. -/
theorem test_flit : ((left (exec (.dnbFlitReceive 2 (tFlit 0) true false) (tPort id))).port 2).rxSeq = 1 := by decide +kernel
/-- R106: the last consuming read empties the slot. -/
theorem test_slot_read : ((left (exec (.slotRead 0 2 .consume none) (tSlots tRunning))).sq 0).tag 2 = {} := by decide +kernel
/-- R124: 1.0 + 2.0 is 3.0, and slot 3 is FULL. -/
def tAdd : State := { tVector (tVop 1 0) with mem := [(coreMemBase, 0), (coreMemBase + 1, 0), (coreMemBase + 2, 0x80), (coreMemBase + 3, 0x3F),
  (coreMemBase + 0x1000, 0), (coreMemBase + 0x1001, 0), (coreMemBase + 0x1002, 0), (coreMemBase + 0x1003, 0x40)] }
theorem test_vop_add : (left (exec (.vopAdd 0 none) tAdd)).bytes (coreMemBase + 0x3000) 4 = [0, 0, 0x40, 0x40] := by decide +kernel
theorem test_vop_add_fills : (((left (exec (.vopAdd 0 none) tAdd)).sq 0).tag 3).st = .full := by decide +kernel
/-- R119: a PASS record enters its engine's queue. -/
theorem test_pass_mac : ((left (exec (.passMac 0 none) (tIssue [.pass (tPassRec .mac)] true))).eng 0 0).passes.length = 1 := by decide +kernel
/-- R158: four binary32 elements come from memory. -/
def tLoadRow : State := { tDma (tDesc .load) true [] with mem := [(0xFFF8004000, 5), (0xFFF800400F, 6)] }
theorem test_dma_load : (left (exec (.dmaLoad 0 1 none) tLoadRow)).bytes (coreMemBase + 0x3000) 16 = [5, 0, 0, 0, 0, 0, 0, 0, 0, 0, 0, 0, 0, 0, 0, 6] := by
  decide +kernel
/-- A command with nothing to act on changes nothing but its answer (log 4). -/
theorem test_not_due : (left (exec (.dmaLoad 0 1 none) tReady)).out = .notDue := by decide +kernel

end Sys2Proof.Machine
end

section
/-!
PROOFS. The law of memory: a read after a write, at the place written and at every other place (R7, R286).
-/

namespace Sys2Proof.Machine

/-- A reader sees the byte that memory lists at the place of the address, else what that place reads as unlisted. -/
theorem State.byteAt_eq_getD (s : State) (pa : Nat) :
    s.byteAt pa = (s.mem.lookup (s.real pa)).getD ((unlisted (s.real pa)).getD (Config.freeByte s.free (s.real pa))) := by
  cases h : s.mem.lookup (s.real pa) <;> simp [State.byteAt, h]

/-- A store goes to the place of its address: the spare, where the page is retired (R286). -/
theorem State.putByte_mem (s : State) (pa : Nat) (b : Byte) : (s.putByte pa b).mem = s.mem.put (s.real pa) b := rfl

/-- A store retires no page: every address keeps its place. -/
@[simp] theorem State.putByte_real (s : State) (pa : Nat) (b : Byte) (a : Nat) : (s.putByte pa b).real a = s.real a := rfl

/-- The two ways in which the canonical form holds a stored byte: unlisted, where the place reads as that byte anyway, or listed. -/
theorem State.byteAt_putByte_same (s : State) (pa : Nat) (b : Byte) (hwf : Memory.wf s.mem = true) :
    (s.putByte pa b).byteAt pa = b := by
  rw [State.byteAt_eq_getD, State.putByte_mem, State.putByte_real, Memory.lookup_put_same hwf]
  by_cases hu : unlisted (s.real pa) = some b <;> simp [hu]

theorem State.byteAt_putByte_other (s : State) (pa : Nat) (b : Byte) {a : Nat} (ha : s.real a ≠ s.real pa) :
    (s.putByte pa b).byteAt a = s.byteAt a := by
  simp only [State.byteAt_eq_getD, State.putByte_mem, State.putByte_real, State.putByte_free, Memory.lookup_put_other s.mem ha]

/-- Settles O9, by the laws of a read after a write at the same and at another place. -/
theorem storedBytesReadBack : Obligations.StoredBytesReadBack := by
  unfold Obligations.StoredBytesReadBack
  intro s pa b hwf
  exact ⟨s.byteAt_putByte_same pa b hwf, fun _ ha => s.byteAt_putByte_other pa b ha⟩

end Sys2Proof.Machine
end

section
/-!
PROOFS. QUERY, COUNTERS_READ and LOG_READ (R14, R18, R370, R411): no output depends on the answer of the step under way, so an
accepted command writes and answers the output that the state before the step gives.
-/

namespace Sys2Proof.Machine

/-! ## The outputs do not depend on the answer of the step

Stated as equations of functions, so that one rewrite reaches every use under a binder of an output's definition. -/

theorem State.ok_unitRef (s : State) : s.ok.unitRef = s.unitRef := rfl
theorem State.ok_counters (s : State) : s.ok.counters = s.counters := rfl
theorem State.ok_modelFor (s : State) : s.ok.modelFor = s.modelFor := rfl
theorem State.ok_chain (s : State) : s.ok.chain = s.chain := rfl
theorem State.ok_op (s : State) : s.ok.op = s.op := rfl
theorem State.ok_session (s : State) : s.ok.session = s.session := rfl
theorem State.ok_portEntries (s : State) : s.ok.portEntries = s.portEntries := rfl
theorem State.ok_bindings (s : State) : s.ok.bindings = s.bindings := rfl
theorem State.ok_sessionRecord (s : State) : s.ok.sessionRecord = s.sessionRecord := rfl
theorem State.ok_tenantRecord (s : State) : s.ok.tenantRecord = s.tenantRecord := rfl

/-- A group's window is made of its members' windows, so the argument runs over the depth of the nesting (R19). -/
theorem State.ok_window_apply (s : State) (depth : Nat) (u : UnitRef) : s.ok.window depth u = s.window depth u := by
  induction depth generalizing u with
  | zero => cases u <;> rfl
  | succ n ih =>
    cases u with
    | group g => simp only [State.window, ih, State.ok_unitRef]
    | _ => rfl

theorem State.ok_window (s : State) : s.ok.window = s.window :=
  funext fun depth => funext fun u => s.ok_window_apply depth u

theorem State.ok_descriptor (s : State) : s.ok.descriptor = s.descriptor := by
  unfold State.descriptor
  rw [State.ok_unitRef, State.ok_window, State.ok_counters, State.ok_srv]

theorem State.ok_subject (s : State) (c : Cmd) : s.ok.subject c = s.subject c := by
  unfold State.subject
  rw [State.ok_unitRef, State.ok_descriptor, State.ok_portEntries, State.ok_modelFor, State.ok_bindings, State.ok_op,
    State.ok_session, State.ok_sessionRecord]

theorem State.ok_selection (s : State) (c : Cmd) : s.ok.selection c = s.selection c := by
  unfold State.selection
  rw [State.ok_unitRef, State.ok_counters, State.ok_modelFor, State.ok_chain, State.ok_tenantRecord, State.ok_dram]

theorem State.ok_logSelection (s : State) (c : Cmd) : s.ok.logSelection c = s.logSelection c := rfl

/-! ## What each body does with a subject that exists -/

theorem queryBody_of_subject {s : State} {c : Cmd} {out : List Byte} (hr : s.outReady c = true) (ho : s.subject c = .ok out) :
    queryBody c s = s.output c out := by
  simp [queryBody, hr, ho]

theorem countersBody_of_selection {s : State} {c : Cmd} {out : List Byte} (hr : s.outReady c = true) (ho : s.selection c = .ok out) :
    countersBody c s = s.output c out := by
  simp [countersBody, hr, ho]

theorem logBody_of_logSelection {s : State} {c : Cmd} {out : List Byte} (hr : s.outReady c = true) (ho : s.logSelection c = .ok out) :
    logBody c s = (if c.f 64 8 = 0 then s.markReturned c else s).output c out := by
  simp [logBody, hr, ho]

/-! ## The arms of the three commands -/

theorem exec_query (src : Src) (s : State) :
    exec (.query src) s = .next (s.command 0x40 src (outputFields 8) queryBody) := rfl

theorem exec_countersRead (src : Src) (s : State) :
    exec (.countersRead src) s =
      .next (s.command 0x41 src (fun c => (64, 8, anyVal) :: (72, 4, anyVal) :: (outputFields 8 c).drop 1) countersBody) := rfl

theorem exec_logRead (src : Src) (s : State) :
    exec (.logRead src) s = .next (s.command 0x42 src (outputFields 8) logBody) := rfl

/-- Settles O26: an accepted command runs its own body, and the body meets the same destination and the same output as the state
before the step. -/
theorem readingCommandsAnswerTheirOutput : Obligations.ReadingCommandsAnswerTheirOutput := by
  unfold Obligations.ReadingCommandsAnswerTheirOutput
  intro s src c out hr
  have hr' : s.ok.outReady c = true := hr
  refine ⟨fun ha ho => ?_, fun ha ho => ?_, fun ha ho => ?_⟩
  · have ho' : s.ok.subject c = .ok out := (s.ok_subject c).trans ho
    rw [exec_query, ha.command, queryBody_of_subject hr' ho', State.output]
  · have ho' : s.ok.selection c = .ok out := (s.ok_selection c).trans ho
    rw [exec_countersRead, ha.command, countersBody_of_selection hr' ho', State.output]
  · have ho' : s.ok.logSelection c = .ok out := (s.ok_logSelection c).trans ho
    rw [exec_logRead, ha.command, logBody_of_logSelection hr' ho', State.output]

end Sys2Proof.Machine
end

section
/-!
PROOFS. What the phases of a pass rest on: one element of a vector or list after a change, the Squalls and engines that an operation
leaves alone, and states that hold the same bytes (so that what is read from one is read from the other).
-/

namespace Sys2Proof.Machine

/-! ## Vectors and lists -/

@[simp] theorem pick_upd_same {α : Type} {n : Nat} (v : Vector α n) (i : Fin n) (f : α → α) : pick (upd v i f) i = f (pick v i) := by
  simp [pick, upd]

theorem pick_upd_other {α : Type} {n : Nat} (v : Vector α n) {i j : Fin n} (h : j ≠ i) (f : α → α) : pick (upd v i f) j = pick v j :=
  Vector.getElem_set_ne i.isLt j.isLt fun k => h (Fin.ext k.symm)

/-- Changing an element into what it is changes nothing. -/
theorem upd_eq_self {α : Type} {n : Nat} (v : Vector α n) (i : Fin n) {f : α → α} (h : f (pick v i) = pick v i) : upd v i f = v := by
  have hf : f (v[i.val]'i.isLt) = v[i.val]'i.isLt := h
  rw [upd, hf, Vector.set_getElem_self]

/-- Two changes of the first element of a kind are one, when the first change leaves its kind. -/
theorem updFirst_updFirst {α : Type} (l : List α) {p : α → Bool} {f : α → α} (g : α → α) (hp : ∀ a, p (f a) = p a) :
    updFirst (updFirst l p f) p g = updFirst l p fun a => g (f a) := by
  induction l with
  | nil => rfl
  | cons a l ih => cases h : p a <;> simp [updFirst, h, hp, ih]

theorem updFirst_id {α : Type} (l : List α) (p : α → Bool) : updFirst l p (fun a => a) = l := by
  induction l with
  | nil => rfl
  | cons a l ih => cases h : p a <;> simp [updFirst, h, ih]

/-- What every step of a fold keeps, the fold keeps. -/
theorem foldl_keeps {α β γ : Type} {g : α → γ} {f : α → β → α} (hf : ∀ a b, g (f a b) = g a) (l : List β) (a : α) : g (l.foldl f a) = g a := by
  induction l generalizing a with
  | nil => rfl
  | cons b l ih => exact (ih _).trans (hf a b)

theorem assoc_assocSet_same {κ α : Type} [DecidableEq κ] (l : List (κ × α)) (k : κ) (a : α) : assoc (assocSet l k a) k = some a := by
  induction l with
  | nil => simp [assocSet, assoc]
  | cons x l ih => by_cases h : x.1 = k <;> simp [assocSet, assoc, h, ih]

theorem assoc_assocSet_other {κ α : Type} [DecidableEq κ] (l : List (κ × α)) {k j : κ} (h : j ≠ k) (a : α) :
    assoc (assocSet l k a) j = assoc l j := by
  induction l with
  | nil => simp [assocSet, assoc, h.symm]
  | cons x l ih =>
    by_cases hx : x.1 = k
    · simp [assocSet, assoc, hx, h.symm]
    · simp [assocSet, assoc, hx, ih]

/-! ## Squalls and engines after an operation -/

@[simp] theorem State.updSq_sq (s : State) (q : Fin 64) (f : Squall → Squall) : (s.updSq q f).sq q = f (s.sq q) :=
  pick_upd_same s.squalls q f

theorem State.updSq_sq_other (s : State) {q k : Fin 64} (h : k ≠ q) (f : Squall → Squall) : (s.updSq q f).sq k = s.sq k :=
  pick_upd_other s.squalls h f

@[simp] theorem State.updEng_sq (s : State) (q : Fin 64) (e : Fin 4) (f : Engine → Engine) :
    (s.updEng q e f).sq q = { s.sq q with engines := upd (s.sq q).engines e f } := s.updSq_sq q _

theorem State.updEng_sq_other (s : State) {q k : Fin 64} (h : k ≠ q) (e : Fin 4) (f : Engine → Engine) : (s.updEng q e f).sq k = s.sq k :=
  s.updSq_sq_other h _

/-- Changing an engine into what it is changes nothing. -/
theorem State.updEng_eq_self (s : State) (q : Fin 64) (e : Fin 4) {f : Engine → Engine} (h : f (s.eng q e) = s.eng q e) : s.updEng q e f = s := by
  have hx : upd (s.sq q).engines e f = (s.sq q).engines := upd_eq_self _ e h
  have hs : upd s.squalls q (fun x => { x with engines := upd x.engines e f }) = s.squalls :=
    upd_eq_self _ q (congrArg (fun v => { s.sq q with engines := v }) hx)
  exact congrArg (fun v => { s with squalls := v }) hs

@[simp] theorem State.ok_sq (s : State) : s.ok.sq = s.sq := rfl
@[simp] theorem State.undefine_sq (s : State) (p : Nat → Bool) : (s.undefine p).sq = s.sq := rfl
@[simp] theorem State.updFront_sq (s : State) (f : Fin 8) (g : FrontPwr → FrontPwr) : (s.updFront f g).sq = s.sq := rfl
@[simp] theorem State.lifeAdd_sq (s : State) (sec idx n : Nat) : (s.lifeAdd sec idx n).sq = s.sq := rfl

@[simp] theorem State.activity_sq (s : State) (f : Fin 8) (p : Fin 4) (k n : Nat) : (s.activity f p k n).sq = s.sq := by
  unfold State.activity; split <;> rfl

@[simp] theorem State.coreAccess_sq (s : State) (q : Fin 64) (key n : Nat) : (s.coreAccess q key n).sq = s.sq := s.activity_sq ..

@[simp] theorem State.putBytes_sq (s : State) (pa : Nat) (l : List Byte) : (s.putBytes pa l).sq = s.sq := by
  rw [s.putBytes_eq]; rfl

@[simp] theorem State.storeM_sq (s : State) (pa : Nat) (l : List MByte) : (s.storeM pa l).sq = s.sq := by
  have marked (f : State → Nat → Mark) (l' : List Nat) (u : State) : (l'.foldl (fun u a => u.setMark a (f u a)) u).sq = u.sq :=
    foldl_keeps (g := State.sq) (f := fun u a => u.setMark a (f u a)) (fun _ _ => rfl) l' u
  dsimp only [State.storeM]
  split
  · exact (foldl_keeps (g := State.sq) (f := fun u a => u.bumpGen a) (fun _ _ => rfl) _ _).trans ((marked ..).trans (s.putBytes_sq ..))
  · exact (marked ..).trans (s.putBytes_sq ..)

@[simp] theorem State.storeCore_sq (s : State) (q : Fin 64) (off : Nat) (l : List MByte) : (s.storeCore q off l).sq = s.sq := by
  dsimp only [State.storeCore]
  split <;> simp

@[simp] theorem State.rowWrite_sq (s : State) (q : Fin 64) (e : Fin 4) (slots : List Nat) (l : List MByte) : (s.rowWrite q e slots l).sq = s.sq :=
  foldl_keeps (g := State.sq) (fun u _ => u.storeM_sq ..) _ _

@[simp] theorem State.mergeAcc_sq (s : State) (q : Fin 64) (e : Fin 4) (p : Pass) (row col : Nat) (first : Bool) (v : W32) (m : Mark) :
    (s.mergeAcc q e p row col first v m).sq = s.sq := s.putBytes_sq ..

/-! ## Memory after an operation that writes none -/

@[simp] theorem State.updEng_mem (s : State) (q : Fin 64) (e : Fin 4) (f : Engine → Engine) : (s.updEng q e f).mem = s.mem := rfl
@[simp] theorem State.updPass_mem (s : State) (q : Fin 64) (e : Fin 4) (n : Nat) (f : Pass → Pass) : (s.updPass q e n f).mem = s.mem := rfl
@[simp] theorem State.lifeAdd_mem (s : State) (sec idx n : Nat) : (s.lifeAdd sec idx n).mem = s.mem := rfl

@[simp] theorem State.undefine_mem (s : State) (p : Nat → Bool) : (s.undefine p).mem = s.mem.drop p := rfl

@[simp] theorem State.activity_mem (s : State) (f : Fin 8) (p : Fin 4) (k n : Nat) : (s.activity f p k n).mem = s.mem := by
  unfold State.activity; split <;> rfl

/-! ## States that hold the same bytes -/

/-- Two states hold the same bytes under the same marks at the same places, and draw the same free values. -/
structure State.SameBytes (s t : State) : Prop where
  mem : t.mem = s.mem
  marks : t.marks = s.marks
  dram : t.dram = s.dram
  free : t.free = s.free

namespace State.SameBytes

variable {s t : State}

theorem refl (s : State) : SameBytes s s := ⟨rfl, rfl, rfl, rfl⟩

/-! Operations that keep them. -/

theorem ok (h : SameBytes s t) : SameBytes s t.ok := ⟨h.mem, h.marks, h.dram, h.free⟩
theorem updSq (h : SameBytes s t) (q : Fin 64) (f : Squall → Squall) : SameBytes s (t.updSq q f) := ⟨h.mem, h.marks, h.dram, h.free⟩
theorem updEng (h : SameBytes s t) (q : Fin 64) (e : Fin 4) (f : Engine → Engine) : SameBytes s (t.updEng q e f) := h.updSq q _
theorem updPass (h : SameBytes s t) (q : Fin 64) (e : Fin 4) (n : Nat) (f : Pass → Pass) : SameBytes s (t.updPass q e n f) := h.updEng q e _
theorem unwatch (h : SameBytes s t) (q : Fin 64) (req : Nat) : SameBytes s (t.unwatch q req) := h.updSq q _

theorem activity (h : SameBytes s t) (f : Fin 8) (p : Fin 4) (k n : Nat) : SameBytes s (t.activity f p k n) := by
  unfold State.activity
  split
  · exact h
  · exact ⟨h.mem, h.marks, h.dram, h.free⟩

theorem coreAccess (h : SameBytes s t) (q : Fin 64) (key n : Nat) : SameBytes s (t.coreAccess q key n) := h.activity ..

/-! What is read from them. -/

theorem real (h : SameBytes s t) : t.real = s.real := by
  funext pa; simp [State.real, h.dram]

theorem byteAt (h : SameBytes s t) : t.byteAt = s.byteAt := by
  funext pa; simp [State.byteAt, h.real, h.mem, h.free]

theorem bytes (h : SameBytes s t) : t.bytes = s.bytes := by
  funext pa n
  induction n generalizing pa with
  | zero => rfl
  | succ n ih => simp [State.bytes, h.byteAt, ih]

theorem word (h : SameBytes s t) : t.word = s.word := by
  funext pa n; simp [State.word, h.bytes]

theorem markAt (h : SameBytes s t) : t.markAt = s.markAt := by
  funext pa; simp [State.markAt, h.real, h.marks]

theorem load (h : SameBytes s t) : t.load = s.load := by
  funext pa n
  induction n generalizing pa with
  | zero => rfl
  | succ n ih => simp [State.load, h.markAt, h.byteAt, ih]

theorem loadCore (h : SameBytes s t) : t.loadCore = s.loadCore := by
  funext q off n; simp [State.loadCore, h.load]

theorem headerAt (h : SameBytes s t) : t.headerAt = s.headerAt := by
  funext q off; simp [State.headerAt, h.word]

theorem tileSlots (h : SameBytes s t) : t.tileSlots = s.tileSlots := by
  funext q r; simp [State.tileSlots, h.headerAt]

theorem tileOf (h : SameBytes s t) : t.tileOf = s.tileOf := by
  funext q r; simp [State.tileOf, h.headerAt, h.loadCore]

theorem readRows (h : SameBytes s t) : t.readRows = s.readRows := by
  funext q a d n r; simp [State.readRows, h.loadCore]

theorem rowRead (h : SameBytes s t) : t.rowRead = s.rowRead := by
  funext q e l o n; simp [State.rowRead, h.load]

theorem epiSteps (h : SameBytes s t) : t.epiSteps = s.epiSteps := by
  funext q e r row; simp [State.epiSteps, h.loadCore]

/-! The same change made to both. -/

theorem putByte (h : SameBytes s t) (pa : Nat) (b : Byte) : SameBytes (s.putByte pa b) (t.putByte pa b) :=
  ⟨by rw [State.putByte_mem, State.putByte_mem, h.real, h.mem], h.marks, h.dram, h.free⟩

theorem putBytes (h : SameBytes s t) (pa : Nat) (l : List Byte) : SameBytes (s.putBytes pa l) (t.putBytes pa l) := by
  induction l generalizing s t pa with
  | nil => exact h
  | cons b l ih => exact ih (h.putByte pa b) (pa + 1)

theorem setMark (h : SameBytes s t) (pa : Nat) (m : Mark) : SameBytes (s.setMark pa m) (t.setMark pa m) :=
  ⟨h.mem, by simp [State.setMark, h.real, h.marks], h.dram, h.free⟩

theorem foldl {β : Type} {f : State → β → State} (hf : ∀ s t b, SameBytes s t → SameBytes (f s b) (f t b)) (l : List β)
    (h : SameBytes s t) : SameBytes (l.foldl f s) (l.foldl f t) := by
  induction l generalizing s t with
  | nil => exact h
  | cons b l ih => exact ih (hf s t b h)

theorem storeM (h : SameBytes s t) (pa : Nat) (l : List MByte) : SameBytes (s.storeM pa l) (t.storeM pa l) := by
  dsimp only [State.storeM]
  split
  · refine foldl ?_ _ (foldl ?_ _ (h.putBytes ..))
    · exact fun _ _ _ k => ⟨k.mem, k.marks, k.dram, k.free⟩
    · intro u v a k
      rw [k.markAt]
      exact k.setMark ..
  · refine foldl ?_ _ (h.putBytes ..)
    intro u v a k
    rw [k.markAt]
    exact k.setMark ..

theorem storeCore (h : SameBytes s t) (q : Fin 64) (off : Nat) (l : List MByte) : SameBytes (s.storeCore q off l) (t.storeCore q off l) := by
  dsimp only [State.storeCore]
  split
  · exact h.storeM ..
  · exact (h.storeM ..).storeM ..

theorem rowWrite (h : SameBytes s t) (q : Fin 64) (e : Fin 4) (slots : List Nat) (l : List MByte) :
    SameBytes (s.rowWrite q e slots l) (t.rowWrite q e slots l) := by
  refine foldl ?_ _ h
  exact fun _ _ _ k => k.storeM ..

end State.SameBytes

end Sys2Proof.Machine
end

section
/-!
PROOFS. A tagged read of slots that stand ready goes on at once (R106), and its request waits no more.
-/

namespace Sys2Proof.Machine

@[simp] theorem State.unwatch_sq (s : State) (q : Fin 64) (req : Nat) :
    (s.unwatch q req).sq q = { s.sq q with watch := (s.sq q).watch.filter fun w => w.1.1 != req } := s.updSq_sq q _

/-- What stands ready depends on the tags alone. -/
theorem State.SlotsReady.unwatch {s : State} {q : Fin 64} {l : List Nat} (h : s.SlotsReady q l) (req : Nat) : (s.unwatch q req).SlotsReady q l := by
  simpa [State.SlotsReady, Squall.tag] using h

theorem State.SlotsReady.eraseDups {s : State} {q : Fin 64} {l : List Nat} (h : s.SlotsReady q l) : s.SlotsReady q l.eraseDups :=
  fun k hk => h k (List.mem_eraseDups.1 hk)

/-- A slot of which run-ahead recorded nothing has nothing to check before its first read (R267, R268). -/
theorem State.firstRead_of_plain {s : State} {q : Fin 64} {k : Nat} (hk : ((s.sq q).tag k).kvp = false) (hg : ((s.sq q).tag k).gens = []) :
    s.firstRead q k = (true, s) := by
  simp [State.firstRead, hk, hg]

theorem State.SlotsReady.awaitSlots {s : State} {q : Fin 64} {l : List Nat} (h : s.SlotsReady q l) (req : Nat) :
    s.awaitSlots q req l = (true, s.unwatch q req) := by
  induction l with
  | nil => rfl
  | cons k l ih =>
    obtain ⟨⟨hr, hk, hg⟩, hl⟩ := List.forall_mem_cons.1 h
    simp [State.awaitSlots, hr, State.firstRead_of_plain hk hg, ih hl]

end Sys2Proof.Machine
end

section
/-!
PROOFS. Staging and loading of tiles (R43, R44, R46, R48, R60).
-/

namespace Sys2Proof.Machine

theorem exec_tileStage (s : State) (q : Fin 64) (e : Fin 4) : exec (.tileStage q e none) s = .next (s.stageTile q e) := rfl
theorem exec_tileLoad (s : State) (q : Fin 64) (e : Fin 4) : exec (.tileLoad q e none) s = .next (s.loadTile q e) := rfl

/-- Slots that take a tag have it. -/
theorem Engine.opTag_setOp {e : Engine} {t : TagSt} (ht : t ≠ .empty) {l : List Nat} {k : Nat} (hk : k ∈ l ∨ e.opTag k = t) :
    (e.setOp t l).opTag k = t := by
  simp only [Engine.opTag, Engine.setOp, if_neg ht] at hk ⊢
  generalize e.opTags = a at hk ⊢
  induction l generalizing a with
  | nil => simpa using hk
  | cons j l ih =>
    refine ih _ ?_
    by_cases h : k = j
    · simp [h, assoc_assocSet_same]
    · simpa [assoc_assocSet_other _ h, h] using hk

/-- A state that differs from another in what a Squall's readers wait for and have begun to read: the bytes, the tags, the engines and the
other Squalls are the same. -/
structure State.SameButReads (s t : State) (q : Fin 64) : Prop where
  bytes : s.SameBytes t
  tags : (t.sq q).tags = (s.sq q).tags
  engines : (t.sq q).engines = (s.sq q).engines
  others : ∀ k, k ≠ q → t.sq k = s.sq k

theorem State.SameButReads.refl (s : State) (q : Fin 64) : s.SameButReads s q := ⟨.refl s, rfl, rfl, fun _ _ => rfl⟩

theorem State.SameButReads.ok {s t : State} {q : Fin 64} (h : s.SameButReads t q) : s.SameButReads t.ok q := ⟨h.bytes.ok, h.tags, h.engines, h.others⟩

theorem State.SameButReads.updSq {s t : State} {q : Fin 64} (h : s.SameButReads t q) {f : Squall → Squall} (ht : ∀ x, (f x).tags = x.tags)
    (he : ∀ x, (f x).engines = x.engines) : s.SameButReads (t.updSq q f) q where
  bytes := h.bytes.updSq ..
  tags := by rw [State.updSq_sq, ht, h.tags]
  engines := by rw [State.updSq_sq, he, h.engines]
  others k hk := (t.updSq_sq_other hk _).trans (h.others k hk)

theorem State.SameButReads.unwatch {s t : State} {q : Fin 64} (h : s.SameButReads t q) (req : Nat) : s.SameButReads (t.unwatch q req) q :=
  h.updSq (fun _ => rfl) fun _ => rfl

theorem State.SameButReads.hold {s t : State} {q : Fin 64} (h : s.SameButReads t q) (seq part : Nat) (l : List Nat) :
    s.SameButReads (t.updSq q fun x => x.hold seq part l) q := h.updSq (fun _ => rfl) fun _ => rfl

theorem State.SameButReads.eng {s t : State} {q : Fin 64} (h : s.SameButReads t q) (e : Fin 4) : t.eng q e = s.eng q e := by
  simp [State.eng, h.engines]

/-- The first tile that is not staged goes, as its image, into the first empty half, once its slots are ready. -/
theorem stageTile_of_ready {s : State} {q : Fin 64} {e : Fin 4} {p : Pass} {h : Fin 2}
    (hp : (s.eng q e).passes.find? (fun p => p.loads && p.tile == .none) = some p)
    (hh : (List.finRange 2).find? (fun h => (pick (s.eng q e).halves h).full.isNone) = some h)
    (hhead : s.SlotsReady q (slotsOf p.rc.tsrc 64)) (hsrc : s.SlotsReady q (s.tileSlots q p.rc)) :
    ∃ v n, s.SameButReads v q ∧ s.stageTile q e =
      (((v.ok.coreAccess q p.task n).storeM (halfAt q e h) (s.tileOf q p.rc).2).updEng q e fun y =>
        { y.setOp .full (halfSlots h (s.tileOf q p.rc).2.length) with
          halves := upd y.halves h fun _ => { full := some (s.tileOf q p.rc).1, owner := p.seq } }).updPass q e p.seq
        fun y => { y with tile := .staged h } := by
  have hv : s.SameButReads (((s.unwatch q (reqWrite (reqStage e))).unwatch q (reqStage e)).unwatch q (reqStage e)) q :=
    (((State.SameButReads.refl s q).unwatch _).unwatch _).unwatch _
  have hu : ((s.unwatch q (reqWrite (reqStage e))).unwatch q (reqStage e)).tileSlots = s.tileSlots :=
    (((State.SameBytes.refl s).unwatch ..).unwatch ..).tileSlots
  have h1 := (hhead.unwatch (reqWrite (reqStage e))).awaitSlots (reqStage e)
  have h2 := ((hsrc.unwatch (reqWrite (reqStage e))).unwatch (reqStage e)).awaitSlots (reqStage e)
  simp only [State.stageTile, hp, hh, h1, hu, h2, hv.bytes.tileOf, hv.bytes.tileSlots]
  split
  · exact ⟨_, _, hv, rfl⟩
  · exact ⟨_, _, hv.hold .., rfl⟩

theorem stageTile_fills_half {s : State} {q : Fin 64} {e : Fin 4} {p : Pass} {h : Fin 2}
    (hp : (s.eng q e).passes.find? (fun p => p.loads && p.tile == .none) = some p)
    (hh : (List.finRange 2).find? (fun h => (pick (s.eng q e).halves h).full.isNone) = some h)
    (hhead : s.SlotsReady q (slotsOf p.rc.tsrc 64)) (hsrc : s.SlotsReady q (s.tileSlots q p.rc)) :
    let tile := s.tileOf q p.rc
    let t := s.stageTile q e
    t.mem = (s.storeM (halfAt q e h) tile.2).mem ∧ pick (t.eng q e).halves h = { full := some tile.1, owner := p.seq } ∧
      (∀ k ∈ halfSlots h tile.2.length, (t.eng q e).opTag k = .full) ∧
      (t.eng q e).passes = updFirst (s.eng q e).passes (·.seq == p.seq) (fun y => { y with tile := .staged h }) ∧
      (t.sq q).tags = (s.sq q).tags ∧ ∀ k, k ≠ q → t.sq k = s.sq k := by
  obtain ⟨v, n, hv, ht⟩ := stageTile_of_ready hp hh hhead hsrc
  dsimp only
  rw [ht]
  refine ⟨?_, ?_, fun k hk => ?_, ?_, ?_, fun k hk => ?_⟩
  · rw [State.updPass_mem, State.updEng_mem, ((hv.bytes.ok.coreAccess ..).storeM ..).mem]
  · simp [State.eng, State.updPass]
  · simpa [State.eng, State.updPass, Engine.opTag] using Engine.opTag_setOp (e := v.eng q e) (t := .full) (by decide) (.inl hk)
  · simp [State.eng, State.updPass, Engine.setOp, hv.engines]
  · simp [State.updPass, hv.tags]
  · simp [State.updPass, State.updEng_sq_other _ hk, hv.others k hk]

/-- With both halves full the stationary feeder waits for the half of the older tile. -/
theorem stageTile_of_full {s : State} {q : Fin 64} {e : Fin 4} {p : Pass}
    (hp : (s.eng q e).passes.find? (fun p => p.loads && p.tile == .none) = some p)
    (h0 : (pick (s.eng q e).halves 0).full ≠ none) (h1 : (pick (s.eng q e).halves 1).full ≠ none) :
    s.stageTile q e = s.waitSlot q (reqWrite (reqStage e))
      (opKey e (if (pick (s.eng q e).halves 0).owner ≤ (pick (s.eng q e).halves 1).owner then 0 else 64)) := by
  have hh : (List.finRange 2).find? (fun h => (pick (s.eng q e).halves h).full.isNone) = none := by
    rw [List.find?_eq_none]
    intro h _
    match h with
    | 0 => simpa using h0
    | 1 => simpa using h1
  simp only [State.stageTile, hp, hh]

/-- A staged tile loads into the other bank, for its pass and the KEEP passes behind it, and its half is empty again. -/
theorem loadTile_of_free {s : State} {q : Fin 64} {e : Fin 4} {p : Pass} {h : Fin 2}
    (hp : (s.eng q e).passes.find? (fun p => p.loads && p.bank.isNone) = some p) (ht : p.tile = .staged h)
    (hb : (s.eng q e).bankFree ((((s.eng q e).bankBefore p.seq).map otherBank).getD 0) = true) :
    let x := s.eng q e
    let b := ((x.bankBefore p.seq).map otherBank).getD 0
    let tile := ((pick x.halves h).full).getD {}
    let t := s.loadTile q e
    pick (t.eng q e).banks b = { tile := tile, image := (s.load (halfAt q e h) tile.bytes).map (·.1) } ∧
      (∀ k, k ≠ b → pick (t.eng q e).banks k = pick x.banks k) ∧ pick (t.eng q e).halves h = {} ∧
      (t.eng q e).passes = updWhere x.passes (fun z => (p.seq :: (x.keeps p.seq).map (·.seq)).contains z.seq) (fun z => { z with tile := .loaded b }) ∧
      t.mem = (s.undefine (inRange (halfAt q e h) 0x10000)).mem := by
  simp only [State.loadTile, hp, ht, hb, Bool.not_true, Bool.false_eq_true, if_false]
  refine ⟨?_, fun k hk => ?_, ?_, ?_, ?_⟩
  · simp [State.eng, State.emptyHalf]
  · simpa [State.eng, State.emptyHalf, Engine.setOp] using pick_upd_other (s.eng q e).banks hk _
  · simp [State.eng, State.emptyHalf]
  · simp [State.eng, State.emptyHalf, Engine.setOp]
  · simp [State.emptyHalf, State.undefine]

theorem tilesStageAndLoad : Claim.TilesStageAndLoad := by
  intro s q e p
  refine ⟨fun hp => ⟨fun h hh h1 h2 => ⟨_, exec_tileStage s q e, stageTile_fills_half hp hh h1 h2⟩, fun h0 h1 => ?_⟩,
    fun h hp ht => ⟨fun hb => ⟨_, exec_tileLoad s q e, loadTile_of_free hp ht hb⟩, fun hb => ?_⟩⟩
  · rw [exec_tileStage, stageTile_of_full hp h0 h1]
  · rw [exec_tileLoad]
    simp only [State.loadTile, hp, ht, hb]
    rfl

end Sys2Proof.Machine
end

section
/-!
PROOFS. The rows of a pass are fetched and enter the array (R33, R43, R44, R46, R52, R58, R60, R82, R394, R439).
-/

namespace Sys2Proof.Machine

theorem exec_rowFetch {s : State} {q : Fin 64} {e : Fin 4} {p : Pass} (hres : (s.eng q e).resolveHeld = s.eng q e)
    (hp : (s.eng q e).passes.find? (fun p => !p.fetched) = some p) : exec (.rowFetch q e none) s = .next (s.fetchRows q e p) := by
  have h : exec (.rowFetch q e none) s = execRowFetch q e none s := rfl
  simp only [h, execRowFetch, State.parity, s.updEng_eq_self q e hres, hp]

theorem rowsAreFetched : Claim.RowsAreFetched := by
  intro s q e p hres
  dsimp only
  intro hp
  refine ⟨fun room hroom hready => ⟨s.fetchRows q e p, exec_rowFetch hres hp, ?_⟩, fun hroom => ?_⟩
  · have ha := (hready.eraseDups.unwatch (reqWrite (reqFetch e))).awaitSlots (reqFetch e)
    have hv : s.SameButReads ((s.unwatch q (reqWrite (reqFetch e))).unwatch q (reqFetch e)) q := ((State.SameButReads.refl s q).unwatch _).unwatch _
    simp only [State.fetchRows, hroom, ha, hv.eng, hv.bytes.readRows]
    simp only [State.readRows]
    generalize (if (!p.rc.held) = true then none else (s.eng q e).heldFor p) = held
    refine ⟨?_, ?_, ?_⟩
    · rw [State.updEng_mem, State.updPass_mem]
      exact ((((hv.ok.bytes.updSq ..).coreAccess ..).rowWrite ..).rowWrite ..).mem
    · cases held <;> simp [State.eng, State.updPass, Squall.hold, Engine.setOp]
    · simp [State.updPass, Squall.hold]
  · rw [exec_rowFetch hres hp]
    simp only [State.fetchRows, hroom]

theorem exec_rowEntry (s : State) (q : Fin 64) (e : Fin 4) : exec (.rowEntry q e none) s = .next (s.enterRow q e) := rfl

/-! ## Counts of a Front's entry slots (R394) -/

@[simp] theorem State.updFront_front (s : State) (f : Fin 8) (g : FrontPwr → FrontPwr) : (s.updFront f g).front f = g (s.front f) :=
  pick_upd_same s.pwr.fronts f g

@[simp] theorem State.ok_front (s : State) : s.ok.front = s.front := rfl
@[simp] theorem State.updEng_front (s : State) (q : Fin 64) (e : Fin 4) (f : Engine → Engine) : (s.updEng q e f).front = s.front := rfl
@[simp] theorem State.updPass_front (s : State) (q : Fin 64) (e : Fin 4) (n : Nat) (f : Pass → Pass) : (s.updPass q e n f).front = s.front := rfl
@[simp] theorem State.lifeAdd_front (s : State) (sec idx n : Nat) : (s.lifeAdd sec idx n).front = s.front := rfl

/-- Activities are counted beside the entry slots. -/
@[simp] theorem State.activity_bubbleSlots (s : State) (f : Fin 8) (p : Fin 4) (k n : Nat) :
    ((s.activity f p k n).front f).bubbleSlots = (s.front f).bubbleSlots := by
  unfold State.activity; split <;> simp

@[simp] theorem State.activity_entrySlots (s : State) (f : Fin 8) (p : Fin 4) (k n : Nat) :
    ((s.activity f p k n).front f).entrySlots = (s.front f).entrySlots := by
  unfold State.activity; split <;> simp

/-- An entry slot is counted in the place of its engine's pattern; nothing else of the engine changes. -/
@[simp] theorem State.entrySlot_sq (s : State) (q : Fin 64) (e : Fin 4) (bubble : Bool) :
    (s.entrySlot q e bubble).sq q = { s.sq q with engines := upd (s.sq q).engines e fun x => { x with slotCount := x.slotCount + 1 } } := by
  cases bubble <;> simp [State.entrySlot]

@[simp] theorem State.entrySlot_entrySlots (s : State) (q : Fin 64) (e : Fin 4) (bubble : Bool) :
    ((s.entrySlot q e bubble).front (frontOf q)).entrySlots = (s.front (frontOf q)).entrySlots + 1 := by
  cases bubble <;> simp [State.entrySlot]

@[simp] theorem State.entrySlot_bubbleSlots (s : State) (q : Fin 64) (e : Fin 4) (bubble : Bool) :
    ((s.entrySlot q e bubble).front (frontOf q)).bubbleSlots = (s.front (frontOf q)).bubbleSlots + bubble.toNat := by
  cases bubble <;> simp [State.entrySlot]

@[simp] theorem State.entrySlot_mem (s : State) (q : Fin 64) (e : Fin 4) (bubble : Bool) : (s.entrySlot q e bubble).mem = s.mem := by
  cases bubble <;> simp [State.entrySlot]

/-! ## The first row of a pass (R46, R82, R89) -/

@[simp] theorem State.firstRow_mem (s : State) (q : Fin 64) (e : Fin 4) (p : Pass) : (s.firstRow q e p).mem = s.mem := by
  dsimp only [State.firstRow]; split <;> rfl

@[simp] theorem State.firstRow_front (s : State) (q : Fin 64) (e : Fin 4) (p : Pass) : (s.firstRow q e p).front = s.front := by
  dsimp only [State.firstRow]; split <;> rfl

@[simp] theorem State.firstRow_slotCount (s : State) (q : Fin 64) (e : Fin 4) (p : Pass) :
    (pick ((s.firstRow q e p).sq q).engines e).slotCount = (pick (s.sq q).engines e).slotCount := by
  dsimp only [State.firstRow]; split <;> simp [State.updPass]

/-- A stream's place depends on its Squall's streams and tasks, and on the steps that run. -/
theorem State.streamState_congr {s t : State} {q : Fin 64} (hs : (t.sq q).streams = (s.sq q).streams) (ht : (t.sq q).tasks = (s.sq q).tasks)
    (hr : t.srv = s.srv) (key stream : Nat) : t.streamState q key stream = s.streamState q key stream := by
  have hc : t.chain = s.chain := by funext m c; simp [State.chain, hr]
  simp [State.streamState, State.stepSeed, Squall.task, hs, ht, hc]

/-- What the first row fixes depends on the engine's passes and banks and on the streams, not on the count of its slots. -/
theorem State.firstRow_passes_entrySlot (s : State) (q : Fin 64) (e : Fin 4) (p : Pass) (bubble : Bool) :
    (((s.ok.entrySlot q e bubble).firstRow q e p).eng q e).passes = ((s.firstRow q e p).eng q e).passes := by
  have hst (F : Pass → Pass) : ((s.ok.entrySlot q e bubble).updPass q e p.seq F).streamState q p.task p.rc.stream =
      (s.updPass q e p.seq F).streamState q p.task p.rc.stream :=
    State.streamState_congr (by simp [State.updPass]) (by simp [State.updPass])
      (by cases bubble <;> simp [State.updPass, State.updEng, State.entrySlot, State.lifeAdd]) _ _
  have hb : (s.ok.entrySlot q e bubble).bankOf q e p = s.bankOf q e p := by simp [State.bankOf, State.eng]
  simp only [State.firstRow, hb, hst]
  split <;> simp [State.eng, State.updPass]

/-- ROW_ENTRY where nothing is to be resolved and nothing stands against it: the next slot of the pattern is a bubble or a row (R394). -/
theorem enterRow_of_ready {s : State} {q : Fin 64} {e : Fin 4} {p : Pass} (hres : (s.eng q e).resolveHeld = s.eng q e)
    (hp : (s.eng q e).passes.find? (fun p => decide (p.entered < p.rc.rows)) = some p) (hf : p.fetched = true)
    (hb : p.tiled = true → p.bank ≠ none) (hh : (s.eng q e).holding = none) (hm : (s.eng q e).mayEnter p = true) :
    let i := (s.eng q e).slotCount % 64
    let n := s.bubbleOf q
    (i * n / 64 < (i + 1) * n / 64 → s.enterRow q e = s.ok.entrySlot q e true) ∧
    ((i + 1) * n / 64 = i * n / 64 → ∃ (ph : Fin 4) (cls k : Nat), s.enterRow q e =
      (((if p.exps.isNone then (s.ok.entrySlot q e false).firstRow q e p else s.ok.entrySlot q e false).activity (frontOf q) ph cls 1).activity
        (frontOf q) ph 7 k).updPass q e p.seq fun y => { y with entered := y.entered + 1 }) := by
  have hw : (!p.fetched || (p.tiled && p.bank.isNone) || (s.eng q e).holding.isSome || !(s.eng q e).mayEnter p) = false := by
    cases ht : p.tiled <;> simp_all [Option.isSome_iff_ne_none]
  refine ⟨fun h => ?_, fun h => ?_⟩
  · simp only [State.enterRow, s.updEng_eq_self q e hres, hp, hw, gt_iff_lt, if_pos h]
    rfl
  · simp only [State.enterRow, s.updEng_eq_self q e hres, hp, hw, gt_iff_lt, h, Nat.lt_irrefl, if_false]
    exact ⟨_, _, _, rfl⟩

theorem rowsEnterOrBubble : Claim.RowsEnterOrBubble := by
  intro s q e p hres
  dsimp only
  refine fun hp => ⟨fun hf hb hh hm => ?_, fun hw => ⟨_, exec_rowEntry s q e, ?_⟩⟩
  · obtain ⟨hbubble, hrow⟩ := enterRow_of_ready hres hp hf hb hh hm
    refine ⟨fun h => ⟨_, exec_rowEntry s q e, ?_⟩, fun h => ⟨_, exec_rowEntry s q e, ?_⟩⟩
    · rw [hbubble h]
      simp [State.eng]
    · obtain ⟨ph, cls, k, ht⟩ := hrow h
      rw [ht]
      have hpass := s.firstRow_passes_entrySlot q e p false
      by_cases hx : p.exps = none
      · simp only [State.eng] at hpass
        simp [hx, State.updPass, State.eng, hpass]
      · simp [hx, State.updPass, State.eng]
  · have hc : (!p.fetched || (p.tiled && p.bank.isNone) || (s.eng q e).holding.isSome || !(s.eng q e).mayEnter p) = true := by
      rcases hw with h | h <;> simp [h, Option.isSome_iff_ne_none]
    simp only [State.enterRow, s.updEng_eq_self q e hres, hp, hc, if_true]
    exact ⟨rfl, rfl⟩

/-- Settles O55: tiles, rows and entries, each from the state that its phase of the pass leaves. -/
theorem passesAreFed : Obligations.PassesAreFed := ⟨tilesStageAndLoad, rowsAreFetched, rowsEnterOrBubble⟩

end Sys2Proof.Machine
end

section
/-!
PROOFS. Promotion of sums, verdicts and repeats (R44, R45, R47, R49 to R53, R90 to R92).
-/

namespace Sys2Proof.Machine

/-! ## Sums are promoted -/

theorem exec_sumPromote (s : State) (q : Fin 64) (e : Fin 4) (row : Fin 256) (col : Fin 128) :
    exec (.sumPromote q e row col none) s = .next (s.promoteSum q e row col) := rfl

/-- A row's values are those of the same bytes, where the engine holds the same rows. -/
theorem State.SameBytes.rowValues {s t : State} (h : s.SameBytes t) {q : Fin 64} {e : Fin 4} (hh : (t.eng q e).held = (s.eng q e).held) :
    t.rowValues q e = s.rowValues q e := by
  funext p c r
  simp only [State.rowValues, State.rowData, Engine.slotsOfRows, hh, h.rowRead, h.free]

theorem State.mergeAcc_mem (s : State) (q : Fin 64) (e : Fin 4) (p : Pass) (row col : Nat) (first : Bool) (v : W32) (m : Mark) :
    (s.mergeAcc q e p row col first v m).mem =
      (s.putWord (accAt q e row + 4 * col) 4 (p.rc.op.combine
        (if first then p.rc.op.identity else BitVec.ofNat 32 (s.word (accAt q e row + 4 * col) 4)) v).toNat).mem := rfl

/-- A promotion notes the place of a sum that overflowed, and changes nothing else of the passes (R49). -/
theorem State.promote_passes (s : State) (q : Fin 64) (e : Fin 4) (p : Pass) (t : Cells) (mark : Mark) (row col : Nat) :
    let sum := columnSum p.rc t (p.exps.getD (0, 0)).1 (s.rowValues q e p t row) col
    ((s.promote q e p t mark row col).eng q e).passes = updFirst (s.eng q e).passes (·.seq == p.seq) fun y =>
      { y with ovf := if sum.ovf then y.ovf ++ [(row, col)] else y.ovf } := by
  dsimp only [State.promote]
  split
  · cases p.rc.next <;> simp [State.eng, State.updPass]
  · simp [State.eng, updFirst_id]

/-- A sum within its field is merged, with what a NEXT pass finds there or with the identity. -/
theorem State.promote_mem_exact (s : State) (q : Fin 64) (e : Fin 4) (p : Pass) (t : Cells) (mark : Mark) (row col : Nat) :
    let ex := (p.exps.getD (0, 0)).1
    let sum := columnSum p.rc t ex (s.rowValues q e p t row) col
    let a := accAt q e row + 4 * col
    sum.ovf = false → (s.promote q e p t mark row col).mem =
      (s.putWord a 4 (p.rc.op.combine (if p.rc.next then BitVec.ofNat 32 (s.word a 4) else p.rc.op.identity) (sum.value p.rc.op ex)).toNat).mem := by
  intro ex sum a h
  have hs : columnSum p.rc t (p.exps.getD (0, 0)).1 (s.rowValues q e p t row) col = sum := rfl
  simp only [State.promote, hs, h, Bool.false_eq_true, if_false, State.mergeAcc_mem]
  cases p.rc.next <;> rfl

/-- A sum whose field overflowed leaves the accumulator as it is, or the identity where it would have been the first. -/
theorem State.promote_mem_overflow (s : State) (q : Fin 64) (e : Fin 4) (p : Pass) (t : Cells) (mark : Mark) (row col : Nat) :
    (columnSum p.rc t (p.exps.getD (0, 0)).1 (s.rowValues q e p t row) col).ovf = true → (s.promote q e p t mark row col).mem =
      if p.rc.next then s.mem
      else (s.putWord (accAt q e row + 4 * col) 4 (p.rc.op.combine p.rc.op.identity p.rc.op.identity).toNat).mem := by
  intro h
  simp only [State.promote, h, if_true]
  cases p.rc.next
  · exact ((State.SameBytes.refl s).updPass ..).putBytes .. |>.mem
  · rfl

@[simp] theorem Engine.fillAcc_passes (x : Engine) (row : Nat) : (x.fillAcc row).passes = x.passes := rfl

/-- Does the array wait for an earlier row than that of a promotion (R45). -/
def Engine.heldBefore (x : Engine) (p : Pass) (row : Nat) : Bool :=
  x.holding.any fun h => decide (h.1 < p.seq) || (h.1 == p.seq && decide (h.2 < row))

theorem Engine.heldBefore_eq_true {x : Engine} {p : Pass} {row : Nat} :
    x.heldBefore p row = true ↔ ∃ h, x.holding = some h ∧ (h.1 < p.seq ∨ h.1 = p.seq ∧ h.2 < row) := by
  cases h : x.holding <;> simp [Engine.heldBefore, h]

/-- The state in which the sum of a row leaves the array: a hold for that row has ended. -/
def State.unheld (s : State) (q : Fin 64) (e : Fin 4) (p : Pass) (row : Nat) : State :=
  s.ok.updEng q e fun y => { y with hold := y.hold.filter fun h => h != (p.seq, row) }

theorem State.unheld_same (s : State) (q : Fin 64) (e : Fin 4) (p : Pass) (row : Nat) : s.SameBytes (s.unheld q e p row) :=
  (State.SameBytes.refl s).ok.updEng ..

theorem State.unheld_passes (s : State) (q : Fin 64) (e : Fin 4) (p : Pass) (row : Nat) :
    ((s.unheld q e p row).eng q e).passes = (s.eng q e).passes := by
  simp [State.eng, State.unheld]

/-- The three things that SUM_PROMOTE can do with the next sum of a column. -/
theorem promoteSum_cases {s : State} {q : Fin 64} {e : Fin 4} {row : Fin 256} {col : Fin 128} {p : Pass}
    (hp : (s.eng q e).promoting row.val col = some p) :
    ((s.eng q e).heldBefore p row.val = true → s.promoteSum q e row col = s.waits) ∧
    ((s.eng q e).heldBefore p row.val = false → p.rc.next = false → (s.eng q e).rowBusy p row.val = true →
      s.promoteSum q e row col = (s.updEng q e fun y => { y with hold := some (p.seq, row.val) }).waits) ∧
    ((s.eng q e).heldBefore p row.val = false → p.rc.next = true ∨ (s.eng q e).rowBusy p row.val = false →
      s.promoteSum q e row col =
        (((s.unheld q e p row.val).promote q e p ((s.bankOf q e p).cells p.rc) (s.bankOf q e p).tile.mark row.val col.val).updPass q e p.seq
          fun y => { y with sums := upd y.sums col fun _ => row.val + 1 }).updEng q e fun y => y.fillAcc row.val) := by
  refine ⟨fun hb => ?_, fun hb hn hr => ?_, fun hb hf => ?_⟩ <;> rw [Engine.heldBefore] at hb
  · simp only [State.promoteSum, hp, hb, if_true]
  · simp only [State.promoteSum, hp, hb, hn, hr]
    rfl
  · have hw : (!p.rc.next && (s.eng q e).rowBusy p row.val) = false := by rcases hf with h | h <;> simp [h]
    simp only [State.promoteSum, hp, hb, hw]
    rfl

theorem sumsArePromoted : Claim.SumsArePromoted := by
  intro s q e row col p
  dsimp only
  intro hp
  obtain ⟨hwait, hhold, hgo⟩ := promoteSum_cases hp
  have hfree (h : ∀ h, (s.eng q e).holding = some h → ¬(h.1 < p.seq ∨ h.1 = p.seq ∧ h.2 < row.val)) : (s.eng q e).heldBefore p row.val = false := by
    rw [← Bool.not_eq_true, Engine.heldBefore_eq_true]
    exact fun ⟨k, hk, hb⟩ => h k hk hb
  have hvals : (s.unheld q e p row.val).rowValues q e = s.rowValues q e := (s.unheld_same ..).rowValues (by simp [State.eng, State.unheld])
  refine ⟨fun h => ?_, fun h hf => ⟨_, exec_sumPromote .., ?_⟩, fun h hn hr => ?_⟩
  · rw [exec_sumPromote, hwait (Engine.heldBefore_eq_true.2 h)]
    rfl
  · rw [hgo (hfree h) hf]
    refine ⟨?_, fun ho => ?_, fun ho => ?_⟩
    · have hpass := (s.unheld q e p row.val).promote_passes q e p ((s.bankOf q e p).cells p.rc) (s.bankOf q e p).tile.mark row.val col.val
      simp only [State.unheld_passes, hvals] at hpass
      simp only [State.eng] at hpass
      simp [State.eng, State.updPass, hpass, updFirst_updFirst]
    · rw [State.updEng_mem, State.updPass_mem, State.promote_mem_exact _ _ _ _ _ _ _ _ (by rw [hvals]; exact ho), hvals, (s.unheld_same ..).word]
      exact ((s.unheld_same ..).putBytes ..).mem
    · rw [State.updEng_mem, State.updPass_mem, State.promote_mem_overflow _ _ _ _ _ _ _ _ (by rw [hvals]; exact ho)]
      split
      · rfl
      · exact ((s.unheld_same ..).putBytes ..).mem
  · rw [exec_sumPromote, hhold (hfree h) hn hr]
    rfl

/-! ## Slots whose readers are done leave the engines alone (R106) -/

/-- What the end of a wait changes of a Squall is the list of those that wait. -/
theorem State.letIn_sq (s : State) (q : Fin 64) (k : Nat) (writers : Bool) (j : Fin 64) :
    ∃ w, (s.letIn q k writers).sq j = { s.sq j with watch := w } :=
  ⟨_, by simp [State.sq, State.letIn, pick]; rfl⟩

theorem Squall.setTag_engines (x : Squall) (k : Nat) (t : Tag) : (x.setTag k t).engines = x.engines := rfl

theorem State.emptySlot_engines (s : State) (q : Fin 64) (k : Nat) : ((s.emptySlot q k).sq q).engines = (s.sq q).engines := by
  obtain ⟨w, hw⟩ := ((s.updSq q fun x => x.setTag k {}).undefine (inSlot q k)).letIn_sq q k true q
  simp [State.emptySlot, hw, Squall.setTag_engines]

theorem State.consume_engines (s : State) (q : Fin 64) (k : Nat) : ((s.consume q k).sq q).engines = (s.sq q).engines := by
  dsimp only [State.consume]
  split
  · split
    · exact s.emptySlot_engines q k
    · simp [Squall.setTag_engines]
  all_goals rfl

theorem State.foldl_consume_engines (s : State) (q : Fin 64) (l : List Nat) :
    ((l.foldl (fun u k => u.consume q k) s).sq q).engines = (s.sq q).engines := by
  apply foldl_keeps (g := fun u : State => (u.sq q).engines)
  intro u k
  exact u.consume_engines q k

@[simp] theorem State.doneReading_engines (s : State) (q : Fin 64) (seq part : Nat) (f : Nat → Bool) :
    ((s.doneReading q seq part f).sq q).engines = (s.sq q).engines := by
  simp [State.doneReading, State.foldl_consume_engines]

/-! ## Verdicts and repeats -/

/-- The pending repeats of an engine and the count of those performed: what a clean verdict's releases leave alone. -/
def Engine.repeatState (x : Engine) : List (Nat × Nat) × Nat := (x.repeats, x.passRepeat)

theorem Engine.repeatState_passes (x : Engine) (l : List Pass) : ({ x with passes := l } : Engine).repeatState = x.repeatState := rfl

theorem State.cleanUp_repeatState (s : State) (q : Fin 64) (e : Fin 4) (p : Pass) :
    ((s.cleanUp q e p).eng q e).repeatState = (s.eng q e).repeatState := by
  dsimp only [State.cleanUp]
  repeat' split
  all_goals simp [State.eng, Engine.repeatState, Engine.dropRows, Engine.dropSecond, Engine.setOp]

theorem Engine.foldl_fillAcc_repeatState (l : List (Nat × Nat)) (x : Engine) :
    (l.foldl (fun z o => z.fillAcc o.1) x).repeatState = x.repeatState := by
  apply foldl_keeps (g := Engine.repeatState)
  intro z o
  rfl

theorem State.foldl_mergeAcc_sq (q : Fin 64) (e : Fin 4) (p : Pass) (v : State → Nat × Nat → W32) (m : State → Nat × Nat → Mark)
    (l : List (Nat × Nat)) (s : State) : (l.foldl (fun u o => u.mergeAcc q e p o.1 o.2 false (v u o) (m u o)) s).sq = s.sq := by
  apply foldl_keeps (g := State.sq)
  intro u o
  exact u.mergeAcc_sq q e p o.1 o.2 false _ _

theorem State.emptyHalf_repeatState (s : State) (q : Fin 64) (e : Fin 4) (h : Fin 2) :
    ((s.emptyHalf q e h).eng q e).repeatState = (s.eng q e).repeatState := by
  simp [State.eng, State.emptyHalf, Engine.repeatState, Engine.setOp]

/-- A repeat is performed once: it is counted, and the repeats of its pass are pending no more (R50). -/
theorem State.doRepeat_repeatState (s : State) (q : Fin 64) (e : Fin 4) (p : Pass) :
    ((s.doRepeat q e p).eng q e).repeatState = ((s.eng q e).repeats.filter (fun r => r.1 != p.seq), (s.eng q e).passRepeat + 1) := by
  have hhalf (u : State) (h : Fin 2) (b : Bool) : ((if b then u.emptyHalf q e h else u).eng q e).repeatState = (u.eng q e).repeatState := by
    cases b
    · rfl
    · exact u.emptyHalf_repeatState q e h
  dsimp only [State.doRepeat]
  rw [State.cleanUp_repeatState]
  generalize (s.eng q e).repeatHalf = half, (s.eng q e).repeatBank = bank
  simp only [State.eng] at hhalf ⊢
  simp only [State.updPass, State.updEng_sq, pick_upd_same, Engine.foldl_fillAcc_repeatState, State.lifeAdd_sq, State.activity_sq,
    State.coreAccess_sq, State.foldl_mergeAcc_sq, Engine.repeatState_passes, hhalf]
  rfl

/-! ## The commands -/

theorem exec_passRepeat (s : State) (q : Fin 64) (e : Fin 4) : exec (.passRepeat q e none) s = .next (s.nextRepeat q e) := rfl
theorem exec_heldPassEject (s : State) (q : Fin 64) (e : Fin 4) : exec (.heldPassEject q e none) s = .next (s.ejectHeld q e) := rfl

/-- A settled pass without overflows is clean (R50). -/
theorem exec_passVerdict_clean {s : State} {q : Fin 64} {e : Fin 4} {p : Pass}
    (hp : (s.eng q e).passes.find? (fun p => p.verdict == .none && p.settled) = some p) (ho : p.ovf = []) :
    exec (.passVerdict q e) s =
      .next ((State.updPass s.ok q e p.seq fun y => { y with verdict := .clean }).cleanUp q e { p with verdict := .clean }) := by
  have h : exec (.passVerdict q e) s = execPassVerdict q e s := rfl
  simp only [h, execPassVerdict, hp, ho, if_true]

/-- A settled pass with overflows asks for a repeat behind some pass (R50, R91). -/
theorem exec_passVerdict_overflow {s : State} {q : Fin 64} {e : Fin 4} {p : Pass}
    (hp : (s.eng q e).passes.find? (fun p => p.verdict == .none && p.settled) = some p) (ho : p.ovf ≠ []) :
    ∃ after, exec (.passVerdict q e) s = .next (s.ok.updEng q e fun y => { y with
      passes := updFirst y.passes (·.seq == p.seq) fun z => { z with verdict := .repeatWanted }
      repeats := y.repeats ++ [(p.seq, after)] }) := by
  have h : exec (.passVerdict q e) s = execPassVerdict q e s := rfl
  simp only [h, execPassVerdict, hp, ho, if_false]
  exact ⟨_, rfl⟩

/-- The oldest pending repeat comes at its place (R50, R91). -/
theorem nextRepeat_of_pending {s : State} {q : Fin 64} {e : Fin 4} {p : Pass} {after : Nat} {rest : List (Nat × Nat)}
    (hr : (s.eng q e).repeats = (p.seq, after) :: rest) (hp : (s.eng q e).passOf p.seq = some p) :
    s.nextRepeat q e = if s.repeatDue q e after then s.ok.doRepeat q e p else s.waits := by
  simp only [State.nextRepeat, hr, hp]

/-- Have the rows ahead of a held row promoted: those of the passes before its pass, and those of its own pass before it (R51). -/
theorem rowsAhead_iff {x : Engine} {h : Pass} {row : Nat} :
    ((x.passes.all fun y => decide (h.seq ≤ y.seq) || !y.tiled || y.settled) = true ∧ h.sums.all (· == row) = true) ↔
      (∀ y ∈ x.passes, y.seq < h.seq → y.tiled = true → y.settled = true) ∧ ∀ c, pick h.sums c = row := by
  refine and_congr ?_ ?_
  · simp only [List.all_eq_true, Bool.or_eq_true, decide_eq_true_eq, Bool.not_eq_true']
    refine forall₂_congr fun y _ => ⟨fun hy hs ht => ?_, fun hy => ?_⟩
    · simpa [ht, Nat.not_le.2 hs] using hy
    · rcases Nat.lt_or_ge y.seq h.seq with hs | hs
      · cases ht : y.tiled <;> simp_all
      · exact .inl (.inl hs)
  · simp only [Vector.all_eq_true, beq_iff_eq]
    exact ⟨fun hy c => hy c.val c.isLt, fun hy i hi => hy ⟨i, hi⟩⟩

/-- HELD_PASS_EJECT where the array is held for a row that waits for the oldest repeat, whose place has not come (R51). -/
theorem ejectHeld_of_held {s : State} {q : Fin 64} {e : Fin 4} {p h : Pass} {after row : Nat} {rest : List (Nat × Nat)}
    (hr : (s.eng q e).repeats = (p.seq, after) :: rest) (hp : (s.eng q e).passOf p.seq = some p)
    (hh : (s.eng q e).holding = some (h.seq, row)) (ho : (s.eng q e).passOf h.seq = some h)
    (hw : (s.eng q e).waitsForRepeat h row = true) (hd : s.repeatDue q e after = false) :
    let ahead := (∀ y ∈ (s.eng q e).passes, y.seq < h.seq → y.tiled = true → y.settled = true) ∧ ∀ c, pick h.sums c = row
    (ahead → s.ejectHeld q e = (s.ok.updEng q e fun y => { y with
      hold := none, passes := updFirst y.passes (·.seq == h.seq) fun z => { z with entered := row } }).doRepeat q e p) ∧
    (¬ahead → s.ejectHeld q e = s.waits) := by
  intro ahead
  have hc : (!((s.eng q e).passes.all fun y => decide (h.seq ≤ y.seq) || !y.tiled || y.settled) || !h.sums.all (· == row)) = true ↔ ¬ahead := by
    refine Iff.trans ?_ (not_congr rowsAhead_iff)
    rw [← Bool.not_and, Bool.not_eq_true', ← Bool.not_eq_true, Bool.and_eq_true]
  refine ⟨fun ha => ?_, fun ha => ?_⟩
  · simp only [State.ejectHeld, hr, hp, hh, ho, hw, hd, eq_false fun hw => hc.1 hw ha]
    rfl
  · simp only [State.ejectHeld, hr, hp, hh, ho, hw, hd, hc.2 ha]
    rfl

theorem verdictsAndRepeats : Claim.VerdictsAndRepeats := by
  intro s q e p
  refine ⟨fun hp => ⟨fun ho => ?_, fun ho => ?_⟩, fun after rest hr hp => ⟨fun hd => ?_, fun hd => ?_, fun h row hh hq hw hd => ?_⟩⟩
  · exact exec_passVerdict_clean hp ho
  · obtain ⟨after, ht⟩ := exec_passVerdict_overflow hp ho
    exact ⟨_, after, ht, by simp [State.eng], by simp [State.eng], rfl⟩
  · have ht := nextRepeat_of_pending hr hp
    rw [if_pos hd] at ht
    have hs := s.ok.doRepeat_repeatState q e p
    simp only [Engine.repeatState, Prod.mk.injEq] at hs
    refine ⟨_, exec_passRepeat s q e, ht, ?_, ?_⟩ <;> rw [ht]
    · exact hs.2
    · simp [hs.1]
  · rw [exec_passRepeat, nextRepeat_of_pending hr hp, hd]
    rfl
  · obtain ⟨hgo, hstay⟩ := ejectHeld_of_held hr hp hh hq hw hd
    refine ⟨fun ha => ?_, fun ha => ?_⟩
    · rw [exec_heldPassEject, hgo ha]
    · rw [exec_heldPassEject, hstay ha]
      rfl

end Sys2Proof.Machine
end

section
/-!
PROOFS. Epilogues and retirement (R45, R58, R92, R99, R105, R119).
-/

namespace Sys2Proof.Machine

/-! ## Destination slots are acquired -/

theorem exec_epilogueRead (s : State) (q : Fin 64) (e : Fin 4) : exec (.epilogueRead q e none) s = .next (s.epilogueRead q e) := rfl

theorem State.foldl_acquire_engines (s : State) (q : Fin 64) (l : List Nat) :
    ((l.foldl (fun u k => u.acquire q k) s).sq q).engines = (s.sq q).engines := by
  apply foldl_keeps (g := fun u : State => (u.sq q).engines)
  intro u k
  simp [State.acquire, Squall.setTag_engines]

theorem State.foldl_acquire_mem (s : State) (q : Fin 64) (l : List Nat) : (l.foldl (fun u k => u.acquire q k) s).mem = s.mem := by
  apply foldl_keeps (g := State.mem)
  intro u k
  rfl

@[simp] theorem Engine.drainAcc_passes (x : Engine) (row : Nat) : (x.drainAcc row).passes = x.passes := by
  unfold Engine.drainAcc
  lift_lets
  intro other free
  split <;> rfl

/-- EPILOGUE_READ of a row whose destination slots can be acquired (R45, R92). -/
theorem epilogueRead_of_free {s : State} {q : Fin 64} {e : Fin 4} {p : Pass} {r : Nat}
    (hp : (s.eng q e).passes.findSome? (fun p => (p.unread.find? fun r => (s.eng q e).rowFinal p r).map fun r => (p, r)) = some (p, r))
    (hf : (s.sq q).firstTaken p.acq (p.destSlots r) = none) :
    let t := s.epilogueRead q e
    (t.eng q e).passes = updFirst (s.eng q e).passes (·.seq == p.seq) (fun y => { y with
      acq := y.acq ++ (p.destSlots r).filter fun k => !p.acq.contains k
      reads := y.reads ++ [(r, s.epiWords q e p r)] }) ∧
    t.mem = if p.tiled then (s.undefine (inRange (accAt q e r) 512)).mem else s.mem := by
  have hm (l : List Nat) : (l.foldl (fun u k => u.acquire q k) (s.ok.unwatch q (reqWrite (reqEpilogue e)))).mem = s.mem :=
    State.foldl_acquire_mem ..
  simp only [State.epilogueRead, hp, hf]
  cases p.tiled
  · exact ⟨by simp [State.eng, State.updPass, State.foldl_acquire_engines], hm _⟩
  · refine ⟨by simp [State.eng, State.updPass, State.foldl_acquire_engines], ?_⟩
    simp only [if_true, State.updEng_mem, State.undefine_mem, State.updPass_mem, hm]

/-! ## Slots are released -/

theorem Squall.setTag_tag_same (x : Squall) (k : Nat) {t : Tag} (ht : t.st ≠ .empty) : (x.setTag k t).tag k = t := by
  simp [Squall.tag, Squall.setTag, ht, assoc_assocSet_same]

theorem Squall.setTag_tag_other (x : Squall) {k j : Nat} (h : j ≠ k) {t : Tag} (ht : t.st ≠ .empty) : (x.setTag k t).tag j = x.tag j := by
  simp [Squall.tag, Squall.setTag, ht, assoc_assocSet_other _ h]

/-- A slot that a writer has released for `count` readers. -/
def Squall.Released (x : Squall) (k count : Nat) : Prop := (x.tag k).st = .full ∧ (x.tag k).readers = count

theorem Squall.Released.of_tags {x y : Squall} {k count : Nat} (h : y.tags = x.tags) (hx : x.Released k count) : y.Released k count := by
  simpa [Squall.Released, Squall.tag, h] using hx

/-- A release changes of a Squall the slot's tag, the count of fills and the watchdogs (R105, R107). -/
theorem State.release_sq (s : State) (q : Fin 64) (k count : Nat) (info : Tag) :
    ∃ t fills w, (s.release q k count info).sq q = { (s.sq q).setTag k t with fills := fills, watch := w } ∧ t.st = .full ∧ t.readers = count := by
  unfold State.release
  lift_lets
  intro t late s1 shift
  obtain ⟨w, hw⟩ := ({ s1 with squalls := s1.squalls.mapIdx shift } : State).letIn_sq q k false q
  have hs : ({ s1 with squalls := s1.squalls.mapIdx shift } : State).sq q = shift q.val (s1.sq q) := by
    simp [State.sq, pick]
  refine ⟨{ info with st := .full, readers := count, order := (s.sq q).fills, late := late }, (s.sq q).fills + 1, w, ?_, rfl, rfl⟩
  rw [hw, hs, State.updSq_sq]
  rfl

theorem State.release_engines (s : State) (q : Fin 64) (k count : Nat) (info : Tag) :
    ((s.release q k count info).sq q).engines = (s.sq q).engines := by
  obtain ⟨t, fills, w, h, -⟩ := s.release_sq q k count info
  rw [h]; rfl

theorem State.release_holds (s : State) (q : Fin 64) (k count : Nat) (info : Tag) :
    ((s.release q k count info).sq q).holds = (s.sq q).holds := by
  obtain ⟨t, fills, w, h, -⟩ := s.release_sq q k count info
  rw [h]; rfl

theorem State.release_released (s : State) (q : Fin 64) (k count : Nat) (info : Tag) {j : Nat} (hj : j = k ∨ (s.sq q).Released j count) :
    ((s.release q k count info).sq q).Released j count := by
  obtain ⟨t, fills, w, h, ht, hc⟩ := s.release_sq q k count info
  have hne : t.st ≠ .empty := by simp [ht]
  have htag : ((s.release q k count info).sq q).tag j = ((s.sq q).setTag k t).tag j := by rw [h]; rfl
  by_cases hk : j = k
  · subst hk
    rw [Squall.Released, htag, Squall.setTag_tag_same _ _ hne]
    exact ⟨ht, hc⟩
  · rw [Squall.Released, htag, Squall.setTag_tag_other _ hk hne]
    exact hj.resolve_left hk

theorem State.foldl_release_engines (s : State) (q : Fin 64) (count : Nat) (l : List Nat) :
    ((l.foldl (fun v k => v.release q k count {}) s).sq q).engines = (s.sq q).engines := by
  apply foldl_keeps (g := fun u : State => (u.sq q).engines)
  intro u k
  exact u.release_engines ..

theorem State.foldl_release_holds (s : State) (q : Fin 64) (count : Nat) (l : List Nat) :
    ((l.foldl (fun v k => v.release q k count {}) s).sq q).holds = (s.sq q).holds := by
  apply foldl_keeps (g := fun u : State => (u.sq q).holds)
  intro u k
  exact u.release_holds ..

theorem State.foldl_release_mem (s : State) (q : Fin 64) (count : Nat) (l : List Nat) :
    (l.foldl (fun v k => v.release q k count {}) s).mem = s.mem := by
  apply foldl_keeps (g := State.mem)
  intro u k
  rfl

theorem State.foldl_release_released (s : State) (q : Fin 64) (count : Nat) {l : List Nat} {j : Nat} (hj : j ∈ l ∨ (s.sq q).Released j count) :
    ((l.foldl (fun v k => v.release q k count {}) s).sq q).Released j count := by
  induction l generalizing s with
  | nil => simpa using hj
  | cons k l ih =>
    refine ih _ ?_
    rcases hj with hj | hj
    · rcases List.mem_cons.1 hj with hk | hl
      · exact .inr (s.release_released q k count {} (.inl hk))
      · exact .inl hl
    · exact .inr (s.release_released q k count {} (.inr hj))

theorem State.updPass_tags (s : State) (q : Fin 64) (e : Fin 4) (n : Nat) (f : Pass → Pass) : ((s.updPass q e n f).sq q).tags = (s.sq q).tags := by
  simp [State.updPass]

/-- The end of reads that an issue has not begun releases nothing (R106). -/
theorem State.doneReading_of_no_reads {s : State} {q : Fin 64} {seq : Nat} (h : (s.sq q).holds.all (fun h => h.1 != seq) = true)
    (part : Nat) (f : Nat → Bool) :
    (s.doneReading q seq part f).mem = s.mem ∧ ((s.doneReading q seq part f).sq q).tags = (s.sq q).tags := by
  have hn : (s.sq q).holds.filter (fun h => h.1 == seq && h.2.1 == part && f h.2.2) = [] := by
    rw [List.filter_eq_nil_iff]
    intro x hx
    have := List.all_eq_true.1 h x hx
    simp_all
  simp [State.doneReading, hn]

/-! ## A row read is written (R99, R105, R106) -/

theorem exec_epilogueWrite (s : State) (q : Fin 64) (e : Fin 4) : exec (.epilogueWrite q e none) s = .next (s.epilogueWrite q e) := rfl

/-- EPILOGUE_WRITE of the oldest row read, its operands being ready. -/
theorem epilogueWrite_of_ready {s : State} {q : Fin 64} {e : Fin 4} {p : Pass} {r : Nat} {words : List (W32 × Mark)}
    {rest : List (Nat × List (W32 × Mark))} (hp : (s.eng q e).passes.find? (fun p => p.reads ≠ []) = some p) (hr : p.reads = (r, words) :: rest)
    (hready : s.SlotsReady q (p.rc.epi.peeks r ++ p.rc.epi.ewSlots r)) :
    let left := (List.range p.rc.rows).filter fun k => k ≠ r ∧ !p.written.contains k
    let full := p.acq.filter fun k => !left.any fun y => (p.destSlots y).contains k
    let t := s.epilogueWrite q e
    (t.eng q e).passes = updFirst (s.eng q e).passes (·.seq == p.seq) (fun y => { y with
      reads := rest, written := y.written ++ [r], acq := y.acq.filter fun k => !full.contains k }) ∧
    ((s.sq q).holds.all (fun h => h.1 != p.seq) = true →
      t.mem = (s.storeCore q (p.rc.daddr + r * p.rc.dstride) (p.rc.epi.encode (p.rounds r) (s.epiSteps q p.rc.epi r words))).mem ∧
      ∀ k ∈ full, (t.sq q).Released k p.rc.ocount) := by
  have ha := hready.eraseDups.awaitSlots (reqEpilogue e)
  have hv : s.SameButReads (s.unwatch q (reqEpilogue e)) q := (State.SameButReads.refl s q).unwatch _
  simp only [State.epilogueWrite, hp, hr, ha, hv.bytes.epiSteps]
  refine ⟨?_, fun hn => ?_⟩
  · simp [State.eng, State.updPass, State.foldl_release_engines, updFirst_updFirst]
  · refine ⟨(State.doneReading_of_no_reads ?_ _ _).1.trans ?_, fun k hk => .of_tags (State.doneReading_of_no_reads ?_ _ _).2 ?_⟩
    · simpa [State.updPass, State.foldl_release_holds] using hn
    · rw [State.updPass_mem, State.foldl_release_mem, State.updPass_mem]
      exact ((hv.bytes.ok.coreAccess ..).storeCore ..).mem
    · simpa [State.updPass, State.foldl_release_holds] using hn
    · exact .of_tags (State.updPass_tags ..) (State.foldl_release_released _ q p.rc.ocount (.inl hk))

/-! ## Retirement -/

theorem passRetire_of_done {s : State} {q : Fin 64} {e : Fin 4} {p : Pass}
    (hp : (s.eng q e).passes.find? (fun p => !p.retired && p.verdict == .clean && (!p.rc.final || p.written.length == p.rc.rows)) = some p) :
    ∃ t, exec (.passRetire q e) s = .next t ∧ (t.eng q e).passes = updFirst (s.eng q e).passes (·.seq == p.seq) (fun y => { y with retired := true }) ∧
      (t.sq q).open_ = (s.sq q).open_.filter (fun r => r.1 != p.seq) ∧ t.mem = s.mem ∧ (t.sq q).tags = (s.sq q).tags := by
  have h : exec (.passRetire q e) s = execPassRetire q e s := rfl
  simp only [h, execPassRetire, hp]
  refine ⟨_, rfl, ?_, ?_, rfl, ?_⟩ <;> simp [State.eng, State.updPass, Squall.retire]

theorem epiloguesWriteAndRetire : Claim.EpiloguesWriteAndRetire := by
  intro s q e p
  refine ⟨fun r hp => ⟨fun hf => ⟨_, exec_epilogueRead s q e, epilogueRead_of_free hp hf⟩, fun k hk => ?_⟩,
    fun r words rest hp hr hready => ⟨_, exec_epilogueWrite s q e, epilogueWrite_of_ready hp hr hready⟩, passRetire_of_done⟩
  rw [exec_epilogueRead]
  simp only [State.epilogueRead, hp, hk]

/-- Settles O56: promotion, verdicts with their repeats, and epilogues, each from what the engine holds. -/
theorem passesGiveTheirResults : Obligations.PassesGiveTheirResults := ⟨sumsArePromoted, verdictsAndRepeats, epiloguesWriteAndRetire⟩

end Sys2Proof.Machine
end

section
/-!
PROOFS. Numbers of chapter 3 (R40, R67, R70, R78, R125): elements of a block, the sentinels of MAXPLUS and MINPLUS, plain floating codes
that are encoded to themselves, and the order of binary32 operands.
-/

namespace Sys2Proof.Machine

/-! ## Elements of a block (R67) -/

theorem blockElementsScale : Claim.BlockElementsScale := by
  intro f c x _
  unfold blockElem
  cases f.elem x <;> rfl

/-! ## The sentinels of MAXPLUS and MINPLUS (R40) -/

/-- A comparing cell whose one pair has a finite sum: the term overflows, or is compared with the sum from above. -/
theorem Sum.cell_compare_one {op : PassOp} (hop : op = .maxplus ∨ op = .minplus) (e : Int) (s : Sum) {a w : Val} {neg : Bool} {m : Nat}
    {x : Int} (h : a.add w = .fin neg m x) :
    let t := onGrid e neg m x
    s.cell op e [(a, w)] =
      if t ≤ fieldMin ∧ op = .maxplus ∨ t ≥ fieldMax ∧ op = .minplus ∨ t < fieldMin ∨ t > fieldMax then { s with ovf := true }
      else { s with field := if op = .maxplus then max s.field t else min s.field t } := by
  rcases hop with rfl | rfl <;> simp [Sum.cell, pairTerm, h, Sum.flag, Val.finite, List.filter_cons]

theorem Sum.cell_maxplus_overflows {e : Int} {s : Sum} {a w : Val} {neg : Bool} {m : Nat} {x : Int} (h : a.add w = .fin neg m x)
    (ht : onGrid e neg m x ≤ fieldMin) : (s.cell .maxplus e [(a, w)]).ovf = true := by
  rw [Sum.cell_compare_one (.inl rfl) e s h, if_pos (.inl ⟨ht, rfl⟩)]

theorem Sum.cell_minplus_overflows {e : Int} {s : Sum} {a w : Val} {neg : Bool} {m : Nat} {x : Int} (h : a.add w = .fin neg m x)
    (ht : fieldMax ≤ onGrid e neg m x) : (s.cell .minplus e [(a, w)]).ovf = true := by
  rw [Sum.cell_compare_one (.inr rfl) e s h, if_pos (.inr (.inl ⟨ht, rfl⟩))]

theorem Sum.cell_maxplus_within {e : Int} {s : Sum} {a w : Val} {neg : Bool} {m : Nat} {x : Int} (h : a.add w = .fin neg m x)
    (hlo : fieldMin < onGrid e neg m x) (hhi : onGrid e neg m x ≤ fieldMax) :
    s.cell .maxplus e [(a, w)] = { s with field := max s.field (onGrid e neg m x) } := by
  have hin : ¬(onGrid e neg m x ≤ fieldMin ∧ PassOp.maxplus = .maxplus ∨ onGrid e neg m x ≥ fieldMax ∧ PassOp.maxplus = .minplus ∨
      onGrid e neg m x < fieldMin ∨ onGrid e neg m x > fieldMax) := by
    rintro (⟨hle, _⟩ | ⟨_, hop⟩ | hlt | hgt)
    · omega
    · cases hop
    · omega
    · omega
  rw [Sum.cell_compare_one (.inl rfl) e s h, if_neg hin, if_pos rfl]

/-- A sum without flags that still holds its operation's sentinel is promoted as the infinity that the sentinel stands for. -/
theorem Sum.value_of_sentinel {s : Sum} (hnan : s.nan = false) (hpinf : s.pinf = false) (hninf : s.ninf = false) (e : Int) :
    (s.field = fieldMin → s.value .maxplus e = f32Inf true) ∧ (s.field = fieldMax → s.value .minplus e = f32Inf false) :=
  ⟨fun h => by simp [Sum.value, hnan, hpinf, hninf, h], fun h => by simp [Sum.value, hnan, hpinf, hninf, h]⟩

theorem sentinelsMeanNoValue : Claim.SentinelsMeanNoValue := fun e _ _ _ _ _ _ =>
  ⟨fun hnan hpinf hninf => Sum.value_of_sentinel hnan hpinf hninf e, fun h =>
    ⟨Sum.cell_maxplus_overflows h, Sum.cell_minplus_overflows h, fun hlo hhi => by simp [Sum.cell_maxplus_within h hlo hhi]⟩⟩

/-- Settles O59: the cases of R67, and R40's sentinels at promotion and in a cell. -/
theorem blockElementsAndSentinels : Obligations.BlockElementsAndSentinels := ⟨blockElementsScale, sentinelsMeanNoValue⟩

/-! ## The grid of a format -/

/-- n x 2^q with n > 0 is a number of the format's precision: its significand fits, and it is normal or at the least exponent. -/
structure FFmt.OnGrid (l : FFmt) (n : Nat) (q : Int) : Prop where
  pos : 0 < n
  fits : n < 2 ^ (l.m + 1)
  exponent : q = 1 - (l.bias : Int) - l.m ∨ 2 ^ l.m ≤ n ∧ 1 - (l.bias : Int) - l.m ≤ q

theorem FFmt.OnGrid.gridAt {l : FFmt} {n : Nat} {q : Int} (h : l.OnGrid n q) : l.gridAt n q = q := by
  obtain ⟨hpos, hlt, hq⟩ := h
  have hlog : n.log2 < l.m + 1 := (Nat.log2_lt (Nat.ne_of_gt hpos)).2 hlt
  unfold FFmt.gridAt floorLog2
  rcases hq with hq | ⟨hn, hq⟩
  · omega
  · have hlow : l.m ≤ n.log2 := (Nat.le_log2 (Nat.ne_of_gt hpos)).2 hn
    omega

/-- A magnitude on the grid of its own exponent is not changed by rounding. -/
@[simp] theorem roundTo_self (rnd : Rounding) (n : Nat) (q : Int) : roundTo rnd n q q = n := by
  simp [roundTo, pow2]

theorem pow2_le_pow2 {p q : Int} (h : p ≤ q) : pow2 p ≤ pow2 q :=
  Nat.pow_le_pow_right Nat.two_pos (Int.toNat_le_toNat h)

/-- A magnitude whose significand and exponent are both no greater is no greater. -/
theorem magGt_of_le {a b : Nat} {p q : Int} (hab : a ≤ b) (hpq : p ≤ q) : magGt a p b q = false := by
  rw [magGt, decide_eq_false_iff_not, Nat.not_lt]
  exact Nat.mul_le_mul hab (pow2_le_pow2 (by omega))

/-! ## The plain floating formats (Table 3.2, Table 3.3) -/

/-- A layout whose greatest exponent field is kept for infinities and NaNs: its largest finite value has every other bit set. -/
structure FFmt.Ieee (l : FFmt) : Prop where
  maxN : l.maxN = 2 ^ (l.m + 1) - 1
  maxQ : l.maxQ = (2 ^ l.e : Nat) - 2 - l.bias - l.m
  two_le : 2 ≤ l.e

/-- BF16, FP16 and binary32 (R78). -/
def Fmt.Plain (f : Fmt) : Prop := f = .bf16 ∨ f = .fp16 ∨ f = .fp32

theorem Fmt.Plain.layout {f : Fmt} (hf : f.Plain) : ∃ l, f.layout = some l ∧ l.Ieee ∧ f.width = l.e + l.m + 1 := by
  rcases hf with rfl | rfl | rfl <;> exact ⟨_, rfl, ⟨by decide, by decide, by decide⟩, rfl⟩

/-- The value of a code of a plain format (R69, R70), from its three fields. -/
theorem Fmt.Plain.elem_eq {f : Fmt} (hf : f.Plain) {l : FFmt} (hl : f.layout = some l) (x : Nat) :
    f.elem x =
      if bitsAt x l.m l.e = 2 ^ l.e - 1 then (if bitsAt x 0 l.m = 0 then .inf (bitAt x (l.e + l.m)) else .nan)
      else if bitsAt x l.m l.e = 0 then .fin (bitAt x (l.e + l.m)) (bitsAt x 0 l.m) (1 - (l.bias : Int) - l.m)
      else .fin (bitAt x (l.e + l.m)) (2 ^ l.m + bitsAt x 0 l.m) ((bitsAt x l.m l.e : Int) - l.bias - l.m) := by
  rcases hf with rfl | rfl | rfl <;> simp [Fmt.elem, hl]

/-! ## Codes from their fields -/

/-- The sign bit of a code, in its place. -/
def FFmt.signBits (l : FFmt) (neg : Bool) : Nat := if neg then 2 ^ (l.e + l.m) else 0

/-- A code is its sign, its exponent field and its fraction, each in its place. -/
theorem FFmt.fields_eq (l : FFmt) {x : Nat} (h : x < 2 ^ (l.e + l.m + 1)) :
    l.signBits (bitAt x (l.e + l.m)) + bitsAt x l.m l.e * 2 ^ l.m + bitsAt x 0 l.m = x := by
  have htop : x / 2 ^ (l.e + l.m) < 2 := Nat.div_lt_of_lt_mul (Nat.pow_succ .. ▸ h)
  have hsign : l.signBits (bitAt x (l.e + l.m)) = 2 ^ (l.e + l.m) * (x / 2 ^ (l.e + l.m)) := by
    have hbit : bitAt x (l.e + l.m) = (x / 2 ^ (l.e + l.m) == 1) := by
      rw [bitAt, bitsAt, Nat.shiftRight_eq_div_pow, Nat.pow_one, Nat.mod_eq_of_lt htop]
    rw [hbit, signBits]
    rcases Nat.le_one_iff_eq_zero_or_eq_one.1 (Nat.le_of_lt_succ htop) with h0 | h1
    · simp [h0]
    · simp [h1]
  have hdiv : x / 2 ^ l.m / 2 ^ l.e = x / 2 ^ (l.e + l.m) := by rw [Nat.div_div_eq_div_mul, ← Nat.pow_add, Nat.add_comm]
  calc l.signBits (bitAt x (l.e + l.m)) + bitsAt x l.m l.e * 2 ^ l.m + bitsAt x 0 l.m
      = 2 ^ l.m * (2 ^ l.e * (x / 2 ^ l.m / 2 ^ l.e) + x / 2 ^ l.m % 2 ^ l.e) + x % 2 ^ l.m := by
        rw [hsign, hdiv, bitsAt, bitsAt, Nat.shiftRight_eq_div_pow, Nat.shiftRight_zero, Nat.mul_add, ← Nat.mul_assoc, ← Nat.pow_add,
          Nat.add_comm l.m, Nat.mul_comm (2 ^ l.m)]
    _ = x := by rw [Nat.div_add_mod, Nat.div_add_mod]

/-- The code of a magnitude below the least normal one. -/
theorem FFmt.code_subnormal (l : FFmt) (neg : Bool) {n : Nat} (h : n < 2 ^ l.m) (q : Int) : l.code neg n q = l.signBits neg + n := by
  simp [FFmt.code, FFmt.signBits, h]

/-- The code of a normal magnitude: its exponent field and its fraction. -/
theorem FFmt.code_normal (l : FFmt) (neg : Bool) {m : Nat} (h : m < 2 ^ l.m) (e : Nat) :
    l.code neg (2 ^ l.m + m) ((e : Int) - l.bias - l.m) = l.signBits neg + e * 2 ^ l.m + m := by
  have hcarry : 2 ^ l.m + m ≠ 2 ^ (l.m + 1) := by rw [Nat.pow_succ]; omega
  have hfield : ((e : Int) - l.bias - l.m + l.m + l.bias).toNat = e := by omega
  simp only [FFmt.code, FFmt.signBits, if_neg (Nat.not_lt.2 (Nat.le_add_right (2 ^ l.m) m)), if_neg hcarry, hfield, Nat.add_sub_cancel_left]

/-! ## Plain floating codes are encoded to themselves (R78) -/

theorem encodePlain_inf {f : Fmt} {l : FFmt} (hl : f.layout = some l) (sat : Bool) (rnd : Rounding) (neg : Bool) :
    encodePlain f sat rnd (.inf neg) = l.signBits neg + (2 ^ l.e - 1) * 2 ^ l.m := by
  simp [encodePlain, hl, FFmt.signBits]

/-- A number of a format, no greater than its largest one, is encoded as it stands: it is not rounded and does not overflow. -/
theorem encodePlain_of_onGrid {f : Fmt} {l : FFmt} (hl : f.layout = some l) (hi : l.Ieee) (sat : Bool) (rnd : Rounding) (neg : Bool)
    {n : Nat} {q : Int} (hg : l.OnGrid n q) (hq : q ≤ l.maxQ) : encodePlain f sat rnd (.fin neg n q) = l.code neg n q := by
  have hlt := hg.fits
  have hmax : magGt n q l.maxN l.maxQ = false := magGt_of_le (by rw [hi.maxN]; omega) hq
  simp [encodePlain, hl, Nat.ne_of_gt hg.pos, hg.gridAt, hmax]

/-- A number with exponent field 0, or a zero, is encoded from its sign and its fraction. -/
theorem encodePlain_subnormal {f : Fmt} {l : FFmt} (hl : f.layout = some l) (hi : l.Ieee) (sat : Bool) (rnd : Rounding) (neg : Bool)
    {m : Nat} (hm : m < 2 ^ l.m) : encodePlain f sat rnd (.fin neg m (1 - (l.bias : Int) - l.m)) = l.signBits neg + m := by
  rcases m.eq_zero_or_pos with rfl | hpos
  · simp [encodePlain, hl, l.code_subnormal neg hm]
  · have hg : l.OnGrid m (1 - (l.bias : Int) - l.m) := ⟨hpos, by rw [Nat.pow_succ]; omega, .inl rfl⟩
    have hfield : 2 ^ 2 ≤ 2 ^ l.e := Nat.pow_le_pow_right Nat.two_pos hi.two_le
    rw [encodePlain_of_onGrid hl hi sat rnd neg hg (by rw [hi.maxQ]; omega), l.code_subnormal neg hm]

/-- A normal number is encoded from its sign, its exponent field and its fraction. -/
theorem encodePlain_normal {f : Fmt} {l : FFmt} (hl : f.layout = some l) (hi : l.Ieee) (sat : Bool) (rnd : Rounding) (neg : Bool)
    {m e : Nat} (hm : m < 2 ^ l.m) (hpos : 0 < e) (htop : e < 2 ^ l.e - 1) :
    encodePlain f sat rnd (.fin neg (2 ^ l.m + m) ((e : Int) - l.bias - l.m)) = l.signBits neg + e * 2 ^ l.m + m := by
  have hg : l.OnGrid (2 ^ l.m + m) ((e : Int) - l.bias - l.m) := ⟨by omega, by rw [Nat.pow_succ]; omega, .inr ⟨by omega, by omega⟩⟩
  rw [encodePlain_of_onGrid hl hi sat rnd neg hg (by rw [hi.maxQ]; omega), l.code_normal neg hm]

theorem plainCodesRoundTrip : Claim.PlainCodesRoundTrip := by
  intro f sat x hf hx hnan
  have hp : f.Plain := hf
  obtain ⟨l, hl, hi, hw⟩ := hp.layout
  have hfields := l.fields_eq (hw ▸ hx)
  have hfrac : bitsAt x 0 l.m < 2 ^ l.m := Nat.mod_lt _ (Nat.two_pow_pos _)
  have hexp : bitsAt x l.m l.e < 2 ^ l.e := Nat.mod_lt _ (Nat.two_pow_pos _)
  have helem := hp.elem_eq hl x
  by_cases htop : bitsAt x l.m l.e = 2 ^ l.e - 1
  · have hinf : bitsAt x 0 l.m = 0 :=
      Decidable.by_contra fun hm => hnan (by rw [helem, if_pos htop, if_neg hm])
    rw [helem, if_pos htop, if_pos hinf, encodePlain_inf hl, ← htop]
    omega
  · by_cases hsub : bitsAt x l.m l.e = 0
    · rw [helem, if_neg htop, if_pos hsub, encodePlain_subnormal hl hi sat .rne _ hfrac]
      simpa [hsub] using hfields
    · rw [helem, if_neg htop, if_neg hsub, encodePlain_normal hl hi sat .rne _ hfrac (by omega) (by omega)]
      exact hfields

/-! ## The order of binary32 operands (R125) -/

theorem Val.add_comm (a b : Val) : a.add b = b.add a := by
  cases a with
  | nan => cases b <;> rfl
  | inf s => cases b with
    | nan => rfl
    | inf t => by_cases h : s = t <;> simp [Val.add, h, Ne.symm]
    | fin => rfl
  | fin s m e => cases b with
    | nan => rfl
    | inf => rfl
    | fin t n g => simp only [Val.add, Int.min_comm e g, Bool.and_comm s t, Int.add_comm]

theorem Val.mul_comm (a b : Val) : a.mul b = b.mul a := by
  cases a with
  | nan => cases b <;> rfl
  | inf s => cases b <;> simp [Val.mul, bne_comm]
  | fin s m e => cases b <;> simp [Val.mul, bne_comm, Nat.mul_comm, Int.add_comm]

theorem binary32IsCommutative : Claim.Binary32IsCommutative := by
  intro a b
  refine ⟨congrArg toF32 (Val.add_comm ..), congrArg toF32 (Val.mul_comm ..), fun h => ?_⟩
  rw [f32Add, f32Mul, h]
  exact ⟨rfl, rfl⟩

/-- Settles O60: codes of the plain formats round trip, and binary32 sums and products commute. -/
theorem numbersRoundTrip : Obligations.NumbersRoundTrip := ⟨plainCodesRoundTrip, binary32IsCommutative⟩

end Sys2Proof.Machine
end

section
/-!
PROOFS. STEP_SUBMIT (R373) and the gates of chains (R165, R166, R168): an item is judged as in the state before the step, an entry that
passes every check of its own is left to that judgement, and an item that enters a gate is the last of the chain's.
-/

namespace Sys2Proof.Machine

/-! ## What an item is judged by does not depend on the answer of the step -/

theorem State.ok_byteAt (s : State) : s.ok.byteAt = s.byteAt := (State.SameBytes.refl s).ok.byteAt
theorem State.ok_word (s : State) : s.ok.word = s.word := (State.SameBytes.refl s).ok.word
theorem State.ok_seqOf (s : State) : s.ok.seqOf = s.seqOf := rfl
theorem State.ok_itemRegion (s : State) : s.ok.itemRegion = s.itemRegion := rfl
theorem State.ok_regionsFit (s : State) : s.ok.regionsFit = s.regionsFit := rfl

theorem State.ok_maskObject (s : State) : s.ok.maskObject = s.maskObject := by
  unfold State.maskObject
  rw [State.ok_word]

theorem State.ok_itemMask (s : State) : s.ok.itemMask = s.itemMask := by
  unfold State.itemMask
  rw [State.ok_itemRegion, State.ok_maskObject]

theorem State.ok_tileCode (s : State) : s.ok.tileCode = s.tileCode := by
  unfold State.tileCode
  rw [State.ok_byteAt]

theorem State.ok_bitmapAt (s : State) : s.ok.bitmapAt = s.bitmapAt := by
  unfold State.bitmapAt
  rw [State.ok_tileCode]

theorem State.ok_treeRow (s : State) : s.ok.treeRow = s.treeRow := by
  unfold State.treeRow
  rw [State.ok_word, State.ok_bitmapAt]

theorem State.ok_treeOk (s : State) : s.ok.treeOk = s.treeOk := by
  unfold State.treeOk
  rw [State.ok_treeRow]

theorem State.ok_maskOk (s : State) : s.ok.maskOk = s.maskOk := by
  unfold State.maskOk
  rw [State.ok_word, State.ok_tileCode, State.ok_treeOk]

theorem State.ok_acceptFails (s : State) : s.ok.acceptFails = s.acceptFails := by
  unfold State.acceptFails
  rw [State.ok_seqOf, State.ok_itemRegion, State.ok_itemMask, State.ok_regionsFit, State.ok_maskOk, State.ok_srv]

theorem State.ok_entryItem (s : State) : s.ok.entryItem = s.entryItem := by
  unfold State.entryItem State.entryHandles
  rw [State.ok_word]

/-! ## The checks of an entry (R373) -/

/-- An entry that passes every check of STEP_SUBMIT itself: what is left to judge is its item (R373). -/
structure SubmitValid (s : State) (c : Cmd) (m : Model) (ch : Fin 16) (f : Family) : Prop where
  chain : ch.val = c.f 96 4
  role : s.eci.role ≠ some .cache
  model : s.modelFor c (BitVec.ofNat 32 (c.f 64 32)) = some m
  family : m.image.familyOf ch = some f
  inImage : ch.val < m.image.chains
  rows : c.f 112 11 + c.f 104 7 ≠ 0
  seq : c.f 128 16 = 0xFFFF ∧ (m.image.attn.getD ch.val {}).attn = false ∨
    c.f 128 16 ≠ 0xFFFF ∧ (s.seqFor c m.id (c.f 128 16)).isSome = true
  runs : s.roleRuns f = true
  handles : m.image.regionSlots.length ≤ 16 ∧ c.f 736 48 = 0 ∨ 16 < m.image.regionSlots.length ∧ s.readable (c.f 736 48) = true
  mask : (s.entryItem c m.image).maskOff = 0 ∨
    ∀ r, s.itemRegion (s.entryItem c m.image) (m.image.attn.getD ch.val {}).maskSlot = some r → s.readable r.base = true

namespace SubmitValid

variable {s : State} {c : Cmd} {m : Model} {ch : Fin 16} {f : Family}

theorem ok (h : SubmitValid s c m ch f) : SubmitValid s.ok c m ch f :=
  { h with mask := by rw [State.ok_entryItem]; exact h.mask }

theorem not_unsequenced (h : SubmitValid s c m ch f) : ¬ (c.f 128 16 = 0xFFFF ∧ (m.image.attn.getD ch.val {}).attn = true) := by
  rintro ⟨he, hattn⟩
  obtain ⟨-, hplain⟩ | ⟨hne, -⟩ := h.seq
  · exact Bool.false_ne_true (hplain.symm.trans hattn)
  · exact hne he

theorem not_unknown (h : SubmitValid s c m ch f) : ¬ (c.f 128 16 ≠ 0xFFFF ∧ (s.seqFor c m.id (c.f 128 16)).isNone = true) := by
  rintro ⟨hne, hnone⟩
  obtain ⟨he, -⟩ | ⟨-, hsome⟩ := h.seq
  · exact hne he
  · exact Option.isSome_iff_ne_none.1 hsome (Option.isNone_iff_eq_none.1 hnone)

theorem not_extraHandles (h : SubmitValid s c m ch f) : ¬ (m.image.regionSlots.length ≤ 16 ∧ c.f 736 48 ≠ 0) := by
  obtain h | h := h.handles <;> omega

theorem not_handlesUnreadable (h : SubmitValid s c m ch f) :
    ¬ (16 < m.image.regionSlots.length ∧ (!s.readable (c.f 736 48)) = true) := by
  rintro ⟨hmany, hbad⟩
  obtain ⟨hfew, -⟩ | ⟨-, hgood⟩ := h.handles
  · omega
  · simp [hgood] at hbad

theorem not_maskUnreadable (h : SubmitValid s c m ch f) : ¬ ((s.entryItem c m.image).maskOff ≠ 0 ∧
    ((s.itemRegion (s.entryItem c m.image) (m.image.attn.getD ch.val {}).maskSlot).any fun r => !s.readable r.base) = true) := by
  rintro ⟨hoff, hany⟩
  obtain ⟨r, hr, hbad⟩ := (Option.any_eq_true _ _).1 hany
  simp [h.mask.resolve_left hoff r hr] at hbad

/-- No check of the entry ends the command or lets it wait, so its item goes where R373 sends it. -/
theorem body (h : SubmitValid s c m ch f) : stepSubmitBody c s = s.acceptItem c m ch f (s.entryItem c m.image) := by
  have hch : c.f 96 4 % 16 = ch.val := by rw [← h.chain]; exact Nat.mod_eq_of_lt ch.isLt
  simp only [stepSubmitBody, hch, Fin.eta, if_neg h.role, h.model, h.family, if_neg (Nat.not_le_of_lt h.inImage), if_neg h.rows,
    if_neg h.not_unsequenced, if_neg h.not_unknown, if_neg h.not_extraHandles, h.runs, Bool.not_true, Bool.false_eq_true, if_false,
    if_neg h.not_handlesUnreadable, if_neg h.not_maskUnreadable]

end SubmitValid

theorem exec_stepSubmit (src : Src) (s : State) :
    exec (.stepSubmit src) s = .next (s.command 0x2A src (fun _ => submitFields) stepSubmitBody) := rfl

theorem submittedItemsEnter : Claim.SubmittedItemsEnter := by
  intro s src c m ch f ha hch hrole hm hf hlt hrows p hseq hrun hbind i n v hmask
  have hv : SubmitValid s c m ch f := ⟨hch, hrole, hm, hf, hlt, hrows, hseq, hrun, hbind, hmask⟩
  rw [exec_stepSubmit, ha.command, hv.ok.body, State.ok_entryItem, State.acceptItem, State.ok_acceptFails, State.ok_itemMask]
  refine ⟨fun hfits => ?_, fun st hfails => ?_⟩
  · rw [hfits]; rfl
  · rw [hfails]

/-! ## Gates (R165, R166, R168) -/

/-- The items of a chain that no step runs yet, in the order in which they came: those of its closed steps, then those of its gate. -/
def Chain.undispatched (c : Chain) : List Item := c.closed.flatMap (·.items) ++ (c.gate.map (·.items)).getD []

theorem Chain.close_gate (c : Chain) (w : CloseWhy) (now : Nat) : (c.close w now).gate = none := by
  unfold Chain.close
  split
  · assumption
  · rfl

theorem Chain.close_run (c : Chain) (w : CloseWhy) (now : Nat) : (c.close w now).run = c.run := by
  unfold Chain.close
  split <;> rfl

theorem Chain.close_closed {c : Chain} {g : Gate} (h : c.gate = some g) (w : CloseWhy) (now : Nat) :
    (c.close w now).closed = c.closed ++ [{ items := g.items, tOpen := g.tOpen, tClose := now, why := w }] := by
  simp [Chain.close, h]

/-- Closing a gate moves its items behind those of the closed steps. -/
theorem Chain.close_undispatched (c : Chain) (w : CloseWhy) (now : Nat) : (c.close w now).undispatched = c.undispatched := by
  cases h : c.gate <;> simp [Chain.undispatched, Chain.close, h]

/-- What entering can do: the gate may close, the item comes last in the gate then open, and that gate may close. -/
theorem Chain.enter_cases (x : Chain) (f : Family) (limit now : Nat) (i : Item) (flush : Bool) :
    ∃ c g, (c = x ∨ ∃ w, c = x.close w now) ∧ g.items = (c.gate.map (·.items)).getD [] ++ [i] ∧
      (x.enter f limit now i flush = { c with gate := some g } ∨
        ∃ w, x.enter f limit now i flush = { c with gate := some g }.close w now) := by
  unfold Chain.enter
  extract_lets r before c1 g g1 c2
  refine ⟨c1, g1, ?_, ?_, ?_⟩
  · cases hb : before with
    | none => exact .inl (by simp only [c1, hb])
    | some w => exact .inr ⟨w, by simp only [c1, hb]⟩
  · cases hg : c1.gate <;> simp [g1, g, hg]
  · split
    · exact .inr ⟨.flush, rfl⟩
    · split
      · exact .inr ⟨.fill, rfl⟩
      · split
        · exact .inr ⟨.flush, rfl⟩
        · exact .inl rfl

theorem exec_gustExpire_of_expired {s : State} {m : BitVec 32} {ch : Fin 16} {x : Chain} {g : Gate} (hx : s.chain m ch = some x)
    (hg : x.gate = some g) (hexp : g.expired s.now = true) :
    exec (.gustExpire m ch) s = .next (State.updChain s.ok m ch fun c => c.close .gust s.now) := by
  have he : exec (.gustExpire m ch) s = execGustExpire m ch s := rfl
  simp only [he, execGustExpire, hx, Option.bind_some, hg, hexp, if_true]

theorem gatesFillAndClose : Claim.GatesFillAndClose := by
  refine ⟨fun x f limit now i flush => ?_, fun s m ch x g hx hg hdue => ?_⟩
  · obtain ⟨c, g, hc, hg, hy⟩ := x.enter_cases f limit now i flush
    obtain ⟨hitems, hrun⟩ : c.undispatched = x.undispatched ∧ c.run = x.run := by
      obtain rfl | ⟨w, rfl⟩ := hc
      · exact ⟨rfl, rfl⟩
      · exact ⟨x.close_undispatched w now, x.close_run w now⟩
    have hz : ({ c with gate := some g } : Chain).undispatched = x.undispatched ++ [i] := by
      rw [← hitems]
      simp [Chain.undispatched, hg]
    obtain hy | ⟨w, hy⟩ := hy
    · rw [hy]
      exact ⟨⟨_, .inl ⟨g, rfl, hg⟩⟩, hz, hrun⟩
    · rw [hy]
      exact ⟨⟨_, .inr ⟨Chain.close_gate .., _, _, Chain.close_closed rfl w now, hg⟩⟩, (Chain.close_undispatched ..).trans hz,
        (Chain.close_run ..).trans hrun⟩
  · have hus : us g.limitUs = g.limitUs * 1000 := rfl
    exact exec_gustExpire_of_expired hx hg (decide_eq_true (by omega))

/-- Settles O24: an entry that passes its own checks is left to the judgement of its item, and a gate closes only around an entering
item, which comes last. -/
theorem itemsEnterTheirGate : Obligations.ItemsEnterTheirGate := ⟨submittedItemsEnter, gatesFillAndClose⟩

end Sys2Proof.Machine
end

section
/-!
PROOFS. Dispatch of closed steps (R146, R147, R184, R417), block sets of sequences (R184), and waves (R401).
-/

namespace Sys2Proof.Machine

/-! ## Dispatch -/

/-- A step that nothing holds back is judged by its indices, then by the units its variant binds, then by its Fronts. -/
theorem exec_stepDispatch_of_ready {s : State} {i : BitVec 32} {ch : Fin 16} {m : Model} {c : Chain} {k : Closed} {l : List Closed} {f : Family}
    {idx : List Nat} {v : Variant} (hm : s.model i = some m) (hc : s.chain i ch = some c) (hk : c.closed = k :: l)
    (hf : m.image.familyOf ch = some f) (hrun : c.run = none) (hdev : s.eci.devState = .serving ∨ s.eci.devState = .degraded)
    (hawake : s.pwr.sleep = .awake) (hsw : m.switching = []) (hexp : s.exportAhead m k.items = false)
    (hidx : s.indices m ch f k.items = idx) (hv : m.image.variants.getD (f.variantAt idx) {} = v) :
    exec (.stepDispatch i ch) s = .next (
      if !f.idxOk idx then s.ok.endUndispatched i ch k .selectRange 0xFFFF
      else if s.variantOffline m v then s.ok.endUndispatched i ch k .unitOffline (f.variantAt idx)
      else if !s.frontsFree (m.runFronts v) then s.waits
      else s.dispatch m ch k idx (f.variantAt idx)) := by
  have hx : exec (.stepDispatch i ch) s = execStepDispatch i ch s := rfl
  have hserving : ¬ (s.eci.devState ≠ .serving ∧ s.eci.devState ≠ .degraded) := fun h => hdev.elim h.1 h.2
  have hstill : ¬ (s.pwr.sleep ≠ .awake ∨ (!m.switching.isEmpty) = true ∨ s.exportAhead m k.items = true) := by
    simp [hawake, hsw, hexp]
  simp only [hx, execStepDispatch, hm, hc, hk, hf, hrun, hidx, hv, Option.isSome_none, Bool.false_eq_true, if_false, if_neg hserving,
    if_neg hstill]

theorem closedStepsDispatch : Claim.ClosedStepsDispatch := by
  intro s i ch m c k l f hm hc hk hf hrun hdev hawake hsw hexp idx vi v p
  rw [exec_stepDispatch_of_ready (idx := idx) (v := v) hm hc hk hf hrun hdev hawake hsw hexp rfl rfl]
  refine ⟨fun hidx => ?_, fun hidx hoff => ?_, fun hidx hoff hfree => ?_, fun items u hidx hoff hfree hpool hcov => ?_⟩
  · simp only [hidx, Bool.not_false, if_true]
  · simp only [hidx, hoff, vi, Bool.not_true, Bool.false_eq_true, if_false, if_true]
  · simp only [hidx, hoff, hfree, Bool.not_true, Bool.not_false, Bool.false_eq_true, if_false, if_true, State.waits, State.answer]
  · simp only [hidx, hoff, hfree, Bool.not_true, Bool.false_eq_true, if_false, State.dispatch, hpool, Option.any_none, hcov]
    rfl

/-! ## Block sets of a sequence -/

@[simp] theorem State.putBytes_srv (s : State) (pa : Nat) (l : List Byte) : (s.putBytes pa l).srv = s.srv := (s.putBytes_record pa l).srv

@[simp] theorem State.putPinned_srv (s : State) (m : Model) (va n v : Nat) : (s.putPinned m va n v).srv = s.srv := by
  unfold State.putPinned
  split
  · exact s.putBytes_srv ..
  · rfl

/-- A block table is written to memory alone. -/
@[simp] theorem State.writeTable_srv (s : State) (m : Model) (q : Seq) : (s.writeTable m q).srv = s.srv := by
  unfold State.writeTable
  split
  · rfl
  · exact foldl_keeps (g := State.srv) (fun u _ => u.putPinned_srv ..) _ s

theorem sequencesTakeBlocks : Claim.SequencesTakeBlocks := by
  intro s i h m q hm hq himp hclose hcap hbegun
  have hx : exec (.kvAllocate i h) s = execKvAllocate i h s := rfl
  simp only [hx, execKvAllocate, hm, hq, himp, hclose, hbegun, decide_eq_false (Nat.not_le_of_lt hcap), Bool.or_self, Bool.not_true,
    Bool.false_eq_true, if_false]
  refine ⟨fun sub t ha => ?_, fun t ha => ?_, fun t ha => ?_⟩
  · rw [ha]
    refine ⟨_, rfl, rfl, ?_⟩
    rw [State.ok_srv]
    split
    · exact ⟨rfl, rfl⟩
    · split
      · rw [State.writeTable_srv]
        exact ⟨rfl, rfl⟩
      · exact ⟨rfl, rfl⟩
  · rw [ha]; rfl
  · rw [ha]; rfl

/-! ## Waves -/

theorem wavesReleaseInOrder : Claim.WavesReleaseInOrder := by
  intro s f i ch w m c r hm hc hr hphase hend hf hw hbit
  have hx : exec (.waveRelease f i ch w) s = execWaveRelease f i ch w s := rfl
  have hus : us (2 * w.val) = 2000 * w.val := by rw [us]; omega
  have hfront : r.fronts.contains f = true := List.elem_eq_true_of_mem hf
  have hwave : (w.val == 0) = false := beq_false_of_ne fun h => hw (Fin.ext h)
  simp only [hx, execWaveRelease, hm, hc, hr, hphase, hend, hbit, hus, hfront, hwave, Option.bind_some, Option.isSome_none, bne_self_eq_false,
    Bool.not_true, Bool.false_or, Bool.or_false, Bool.or_eq_true, bne_iff_ne, decide_eq_true_eq]
  refine ⟨fun hprev hdue => ?_, fun hearly => ?_⟩
  · rw [if_neg fun h => h.elim (· hprev) (Nat.not_lt_of_le hdue)]
  · rw [if_pos hearly]
    rfl

/-- Settles O51: dispatch by the branches of its judgement, block sets by what the pool answers, waves by their order and time. -/
theorem stepsDispatchAndRun : Obligations.StepsDispatchAndRun := ⟨closedStepsDispatch, sequencesTakeBlocks, wavesReleaseInOrder⟩

end Sys2Proof.Machine
end

section
/-!
PROOFS. Key-value transfers (R212, R213), firmware staging and commit (R419, R422, R423), and scrubs (R265, R284) complete: an operation
that may end and whose source is readable runs its body, and each body's branch is chosen by the state before the step.
-/

namespace Sys2Proof.Machine

/-! ## Long operations that may end -/

/-- Only an operation that stands under the handle may end (R382). -/
theorem State.op_of_endable {s : State} {h : Nat} {k : LongKind} {o : LongOp} (he : s.endable h k = some o) : s.op h = some o := by
  unfold State.endable at he
  split at he
  case h_1 => cases he
  case h_2 p hp =>
    split at he
    · cases he
    · split at he
      · rw [hp, he]
      · cases he

theorem State.complete_of_endable {s : State} {h : Nat} {k : LongKind} {o : LongOp} {src : List Nat} (he : s.endable h k = some o)
    (hr : src.all s.readable = true) (body : LongOp → State → State) : s.complete h k src body = body o s.ok := by
  rw [State.complete, he, hr]
  rfl

/-! ## Key-value transfers -/

/-- A sender whose destination stands ready ends (R212, R213); where it streams and its items ended before data moved, it takes n_x now. -/
theorem exec_kvTransferComplete_export {s : State} {t : Transfer} {o : LongOp} (ht : s.transfer t.op = some t) (hexp : t.isExport = true)
    (hready : t.peerReady = true) (hheld : t.peerHeld = false) (he : s.endable t.op .kvExport = some o)
    (hitems : t.nx = none → ∀ c ∈ s.srv.chains, ∀ i ∈ c.items, s.exportsItem t i = false) :
    exec (.kvTransferComplete t.op) s = .next (State.finishExport (if t.stream = true ∧ t.nx = none then
      State.updTransfer s.ok t.op fun x => { x with nx := (s.seqOf t.model t.seq).map (·.n) } else s.ok) o t) := by
  have hidle : (t.nx.isNone && s.srv.chains.any fun c => c.items.any (s.exportsItem t)) = false := by
    cases hnx : t.nx with
    | some nx => rfl
    | none => simpa using hitems hnx
  have hx : exec (.kvTransferComplete t.op) s = execKvTransferComplete t.op s := rfl
  simp only [hx, execKvTransferComplete, ht, hexp, he, hready, hheld, hidle, if_true, Bool.not_true, Bool.or_self, Bool.false_eq_true,
    if_false, Bool.and_eq_true, Option.isNone_iff_eq_none]
  split <;> rfl

/-- A receiver ends once its blocks are reserved and the exporter's data stands whole. -/
theorem exec_kvTransferComplete_import {s : State} {t : Transfer} {o : LongOp} {nx : Nat} (ht : s.transfer t.op = some t)
    (himp : t.isExport = false) (hnx : t.nx = some nx) (hres : t.reserved = true) (hend : t.streamEnd = some 0 ∨ t.stream = true)
    (he : s.endable t.op .kvImport = some o) : exec (.kvTransferComplete t.op) s = .next (State.finishImport s.ok o t nx) := by
  have hwhole : (t.reserved && (t.streamEnd == some 0 || t.stream)) = true := by simpa [hres] using hend
  have hx : exec (.kvTransferComplete t.op) s = execKvTransferComplete t.op s := rfl
  simp only [hx, execKvTransferComplete, ht, himp, he, hnx, hwhole, if_true, Bool.false_eq_true, if_false]

theorem transfersComplete : Claim.TransfersComplete := fun _ _ _ ht =>
  ⟨exec_kvTransferComplete_export ht, fun _ => exec_kvTransferComplete_import ht⟩

/-! ## Firmware -/

theorem State.ok_bytes (s : State) : s.ok.bytes = s.bytes := (State.SameBytes.refl s).ok.bytes

/-- Staging ends once its source is readable; an image of the management port stands in the slot already and needs no source. -/
theorem exec_fwStageComplete {s : State} {op : Nat} {o : LongOp} (he : s.endable op .fwStage = some o)
    (hr : o.ref.src = .mgmt ∨ s.readable (fld o.entry 64 48) = true) : exec (.fwStageComplete op) s = .next (s.ok.finishStage o) := by
  have hx : exec (.fwStageComplete op) s = execFwStageComplete op s := rfl
  rw [hx, execFwStageComplete, State.op_of_endable he]
  refine congrArg _ (State.complete_of_endable he ?_ _)
  split
  · rfl
  case h_2 hsrc => simpa using hr.resolve_left fun h => hsrc (congrArg some h)

/-- The image that staging wrote: the management port's stands in the slot, another source's in memory. -/
def State.stagedImage (s : State) (o : LongOp) : List Byte :=
  match o.ref.src with
  | .mgmt => (pick s.boot.slots s.boot.other).image
  | _ => s.bytes (fld o.entry 64 48) (fld o.entry 128 32)

/-- The state that a staging which fails leaves: the slot that is not ACTIVE holds no valid image. -/
def State.stagingLost (s : State) : State := s.updBoot fun b => { b with staged := none, slots := upd b.slots b.other fun _ => {} }

theorem State.ok_stagedImage (s : State) (o : LongOp) : s.ok.stagedImage o = s.stagedImage o := by
  rw [State.stagedImage, State.ok_bytes]
  rfl

/-- The three ends of staging (R422): a bad image, an image below the fused counter, and a verified one. -/
theorem State.finishStage_eq (s : State) (o : LongOp) : s.finishStage o =
    if (s.stagedImage o).length = fld o.entry 128 32 ∧ fwVerifies (s.stagedImage o) = true then
      if s.boot.fuses.val ≤ (fwManifest (s.stagedImage o)).svn then
        (s.updBoot fun b => { b with staged := some b.other, slots := upd b.slots b.other fun _ => fwSlot (s.stagedImage o) }).endOp o .done 0 0
      else s.stagingLost.failOp o .fwRollback 0 0
    else s.stagingLost.failOp o .fwInvalid 0 0 := by
  have hbad : ((s.stagedImage o).length ≠ fld o.entry 128 32 ∨ (!fwVerifies (s.stagedImage o)) = true) ↔
      ¬ ((s.stagedImage o).length = fld o.entry 128 32 ∧ fwVerifies (s.stagedImage o) = true) := by
    rw [Bool.not_eq_true', ← Bool.not_eq_true, Classical.not_and_iff_not_or_not]
  split
  · next hwhole =>
    have hgood := mt hbad.mp (not_not_intro hwhole)
    split
    · next hsvn => exact (if_neg hgood).trans (if_neg (Nat.not_lt_of_le hsvn))
    · next hsvn => exact (if_neg hgood).trans (if_pos (Nat.lt_of_not_le hsvn))
  · next hbroken => exact if_pos (hbad.mpr hbroken)

@[simp] theorem State.writeLifetime_eci (s : State) : s.writeLifetime.eci = s.eci := rfl

/-- A commit in a state where steps may run: the staged slot is ACTIVE on trial, and the module drains (R423). -/
theorem fwCommitBody_of_staged {s : State} {f : Fin 2} (c : Cmd) (hops : s.eci.ops = []) (hstaged : s.boot.staged = some f)
    (hdev : s.eci.devState = .ready ∨ s.eci.devState = .serving ∨ s.eci.devState = .degraded) :
    let u := (s.updBoot fun b => { b with active := f, trial := true, staged := none }).writeLifetime
    fwCommitBody c s = ((u.begin c).updEci fun e =>
      { e with devState := .draining, stateBefore := e.devState, drainWhy := some (.fwCommit, c.ref) }).tryDrain := by
  rw [fwCommitBody, if_neg (not_not_intro hops), hstaged]
  obtain hdev | hdev | hdev := hdev <;> simp only [State.writeLifetime_eci, State.updBoot_eci, hdev]

theorem exec_fwCommit (src : Src) (s : State) : exec (.fwCommit src) s = .next (s.command 0x4A src (fun _ => []) fwCommitBody) := rfl

/-! ## Scrubs -/

theorem exec_scrubComplete {s : State} {op : Nat} {o : LongOp} (he : s.endable op .scrub = some o) :
    let what := fld o.entry 64 2
    let n := if what = 0 then s.flashBlocks.length else s.patrolUnits
    exec (.scrubComplete op) s = .next (((List.range (n - o.passed)).foldl (fun u k => u.scrubPart what (o.passed + k)) s.ok).endOp o
      .done 0 (res [(192, n)])) := by
  have hx : exec (.scrubComplete op) s = execScrubComplete op s := rfl
  rw [hx, execScrubComplete, State.complete_of_endable he rfl]
  intros
  rfl

theorem firmwareAndScrubComplete : Claim.FirmwareAndScrubComplete := by
  refine ⟨fun s op o he hr => ?_, fun s src c f ha hops hstaged hdev => ?_, fun s op o he => exec_scrubComplete he⟩
  · rw [exec_fwStageComplete he hr, State.finishStage_eq, State.ok_stagedImage]
    rfl
  · rw [exec_fwCommit, ha.command]
    exact congrArg _ (fwCommitBody_of_staged (s := s.ok) c hops hstaged hdev)

/-- Settles O25, by the branch of each completion that the state before the step chooses. -/
theorem transfersFirmwareAndScrubComplete : Obligations.TransfersFirmwareAndScrubComplete :=
  ⟨transfersComplete, firmwareAndScrubComplete⟩

end Sys2Proof.Machine
end

section
/-!
PROOFS. What a report (an event, a counter, a count of the lifetime record) and an access asked of a DRAM channel leave unchanged (R18, R277,
R411, R418).
-/

namespace Sys2Proof.Machine

/-! ## Counters -/

@[simp] theorem State.count_ctr_same (s : State) (c : Ctr) : (s.count c).ctr c = s.ctr c + 1 := by
  simp [State.count, State.add, State.ctr, assoc_assocSet_same]

theorem State.count_ctr_other (s : State) {c d : Ctr} (h : d ≠ c) : (s.count c).ctr d = s.ctr d := by
  simp [State.count, State.add, State.ctr, assoc_assocSet_other _ h]

@[simp] theorem State.lifeAdd_marks (s : State) (sec idx n : Nat) : (s.lifeAdd sec idx n).marks = s.marks := rfl
@[simp] theorem State.lifeAdd_ctr (s : State) (sec idx n : Nat) : (s.lifeAdd sec idx n).ctr = s.ctr := rfl
@[simp] theorem State.updDram_ctr (s : State) (f : Dram → Dram) : (s.updDram f).ctr = s.ctr := rfl

theorem State.ctr_of_ctrs {s t : State} (h : t.ctrs = s.ctrs) (c : Ctr) : t.ctr c = s.ctr c := by
  rw [State.ctr, State.ctr, h]

/-! ## Reports -/

/-- A state without what a report changes: the logs, the counters, the management port's interrupts and the vectors sent. -/
def State.unreported (s : State) : State := { s with eci := {}, mgmt := {}, logs := {}, ctrs := [] }

/-- What only reports differs in those parts alone. -/
theorem State.eq_of_unreported {s t : State} (h : t.unreported = s.unreported) (he : t.eci = s.eci) :
    t = { s with mgmt := t.mgmt, logs := t.logs, ctrs := t.ctrs } := by
  have ht : t = { s with eci := t.eci, mgmt := t.mgmt, logs := t.logs, ctrs := t.ctrs } :=
    congrArg (fun u : State => { u with eci := t.eci, mgmt := t.mgmt, logs := t.logs, ctrs := t.ctrs }) h
  rw [he] at ht
  exact ht

section
variable {s t : State} (h : t.unreported = s.unreported)
include h
theorem State.mem_of_unreported : t.mem = s.mem := (congrArg State.mem h :)
theorem State.marks_of_unreported : t.marks = s.marks := (congrArg State.marks h :)
theorem State.tiers_of_unreported : t.tiers = s.tiers := (congrArg State.tiers h :)
theorem State.dram_of_unreported : t.dram = s.dram := (congrArg State.dram h :)
end

@[simp] theorem State.updLogs_unreported (s : State) (f : Logs → Logs) : (s.updLogs f).unreported = s.unreported := rfl
@[simp] theorem State.count_unreported (s : State) (c : Ctr) : (s.count c).unreported = s.unreported := rfl
@[simp] theorem State.lifeAdd_unreported (s : State) (sec idx n : Nat) : (s.lifeAdd sec idx n).unreported = s.unreported := rfl

theorem State.vector64_unreported (s : State) : s.vector64.unreported = s.unreported := by
  unfold State.vector64
  split
  · rfl
  · split <;> rfl

theorem State.vector64_ctrs (s : State) : s.vector64.ctrs = s.ctrs := by
  unfold State.vector64
  split
  · rfl
  · split <;> rfl

section
variable (s : State) (cls : Fin 5) (code : Nat) (unit : BitVec 32) (ses : BitVec 16) (args : Nat)

theorem State.event_unreported : (s.event cls code unit ses args).unreported = s.unreported := by
  unfold State.event
  extract_lets e r was s1 s2 m s3
  have h2 : s2.unreported = s.unreported := by simp only [s2]; split <;> simp [s1]
  have h3 : s3.unreported = s.unreported := by simp only [s3]; split <;> exact h2
  split
  · rw [State.vector64_unreported, h3]
  · exact h3

/-- An event of class 0 sends no vector. -/
theorem State.event_zero_eci : (s.event 0 code unit ses args).eci = s.eci := by
  unfold State.event
  extract_lets e r was s1 s2 m s3
  have h2 : s2.eci = s.eci := by simp only [s2]; split <;> rfl
  have h3 : s3.eci = s.eci := by simp only [s3]; split <;> exact h2
  rw [if_neg (by decide)]
  exact h3

/-- An event counts those that the log lost, and nothing else. -/
theorem State.event_ctr {c : Ctr} (hc : c ≠ .eventLost) : (s.event cls code unit ses args).ctr c = s.ctr c := by
  unfold State.event
  extract_lets e r was s1 s2 m s3
  have h2 : s2.ctr c = s.ctr c := by
    simp only [s2]
    split
    · exact s1.count_ctr_other hc
    · rfl
  have h3 : s3.ctr c = s.ctr c := by simp only [s3]; split <;> exact h2
  split
  · exact (State.ctr_of_ctrs s3.vector64_ctrs c).trans h3
  · exact h3

@[simp] theorem State.event_mem : (s.event cls code unit ses args).mem = s.mem := State.mem_of_unreported (s.event_unreported ..)
@[simp] theorem State.event_marks : (s.event cls code unit ses args).marks = s.marks := State.marks_of_unreported (s.event_unreported ..)
@[simp] theorem State.event_tiers : (s.event cls code unit ses args).tiers = s.tiers := State.tiers_of_unreported (s.event_unreported ..)
@[simp] theorem State.event_dram : (s.event cls code unit ses args).dram = s.dram := State.dram_of_unreported (s.event_unreported ..)

end

/-! ## Accesses asked of a channel -/

/-- A state without what waits at its channels. -/
def State.unasked (s : State) : State := s.updDram fun d => { d with channels := Vector.replicate 576 {} }

section
variable {s t : State} (h : t.unasked = s.unasked)
include h
theorem State.mem_of_unasked : t.mem = s.mem := (congrArg State.mem h :)
theorem State.marks_of_unasked : t.marks = s.marks := (congrArg State.marks h :)
theorem State.ctrs_of_unasked : t.ctrs = s.ctrs := (congrArg State.ctrs h :)
theorem State.patrolLines_of_unasked : t.dram.patrolLines = s.dram.patrolLines := (congrArg (·.dram.patrolLines) h :)
end

theorem State.dramAsk_unasked (s : State) (cls : Nat) (write checked : Bool) (pa n : Nat) :
    (s.dramAsk cls write checked pa n).unasked = s.unasked := by
  have asked {β : Type} (f : State → β → DramReq) (l : List β) (u : State) :
      (l.foldl (fun u b => u.ask (f u b)) u).unasked = u.unasked :=
    foldl_keeps (g := State.unasked) (f := fun u b => u.ask (f u b)) (fun _ _ => rfl) l u
  unfold State.dramAsk
  split
  · rfl
  · extract_lets lines s1
    have h1 : s1.unasked = s.unasked := asked _ _ _
    split
    · exact h1
    · exact (asked _ _ _).trans h1

section
variable (s : State) (cls : Nat) (write : Bool) (pa n : Nat)

@[simp] theorem State.dramUse_mem : (s.dramUse cls write pa n).mem = s.mem := State.mem_of_unasked (s.dramAsk_unasked ..)
@[simp] theorem State.dramUse_marks : (s.dramUse cls write pa n).marks = s.marks := State.marks_of_unasked (s.dramAsk_unasked ..)
@[simp] theorem State.dramUse_ctrs : (s.dramUse cls write pa n).ctrs = s.ctrs := State.ctrs_of_unasked (s.dramAsk_unasked ..)

end

end Sys2Proof.Machine
end

section
/-!
PROOFS. DRAM channels (R278, R281 to R283, R285): the request that arbitration chooses, its access, and what error correction finds in a line.
-/

namespace Sys2Proof.Machine

/-! ## Arbitration -/

/-- The chosen request is one of the class that is served next. -/
theorem State.nextAccess_mem {s : State} {c : Channel} {r : DramReq} (h : s.nextAccess c = some r) :
    r ∈ c.queue ∧ c.nextClass = some r.cls := by
  unfold State.nextAccess at h
  split at h
  · cases h
  next k hk =>
    have hown : r ∈ c.queue.filter (·.cls == k) := by
      dsimp only at h
      split at h
      · exact List.mem_of_head? h
      · rcases Option.or_eq_some_iff.1 h with h | ⟨_, h⟩
        · rcases Option.or_eq_some_iff.1 h with h | ⟨_, h⟩
          · exact List.mem_of_find?_eq_some h
          · exact List.mem_of_find?_eq_some h
        · exact List.mem_of_head? h
    obtain ⟨hmem, hcls⟩ := List.mem_filter.1 hown
    exact ⟨hmem, by rw [hk, eq_of_beq hcls]⟩

theorem any_cls_eq_true {l : List DramReq} {k : Nat} : (l.any (·.cls == k)) = true ↔ ∃ x ∈ l, x.cls = k := by
  simp

/-- Class 3 short of its share goes first. -/
theorem Channel.nextClass_share {c : Channel} (h3 : ∃ x ∈ c.queue, x.cls = 3) (hs : (c.last.filter (· == 3)).length < 2) :
    c.nextClass = some 3 := by
  simp only [Channel.nextClass, any_cls_eq_true.2 h3, decide_eq_true hs, Bool.and_self, if_true]

/-- Where class 3 takes no share, the highest class that waits goes. -/
theorem Channel.nextClass_of_no_share {c : Channel} (hs : (∀ x ∈ c.queue, x.cls ≠ 3) ∨ 2 ≤ (c.last.filter (· == 3)).length) :
    ((∃ x ∈ c.queue, x.cls = 1) → c.nextClass = some 1) ∧
    ((∀ x ∈ c.queue, x.cls ≠ 1) → (∃ x ∈ c.queue, x.cls = 2) → c.nextClass = some 2) := by
  have hshare : ¬ ((c.queue.any (·.cls == 3) && decide ((c.last.filter (· == 3)).length < 2)) = true) := by
    rw [Bool.and_eq_true, any_cls_eq_true, decide_eq_true_eq]
    rintro ⟨⟨x, hx, h3⟩, hlt⟩
    exact hs.elim (fun h => h x hx h3) (Nat.not_le_of_lt hlt)
  refine ⟨fun h1 => ?_, fun h1 h2 => ?_⟩
  · rw [Channel.nextClass, if_neg hshare, if_pos (any_cls_eq_true.2 h1)]
  · have hno : ¬ (c.queue.any (·.cls == 1) = true) := fun h =>
      let ⟨x, hx, hk⟩ := any_cls_eq_true.1 h
      h1 x hx hk
    rw [Channel.nextClass, if_neg hshare, if_neg hno, if_pos (any_cls_eq_true.2 h2)]

theorem arbitrationFollowsClasses : Claim.ArbitrationFollowsClasses := by
  intro s c r h
  obtain ⟨hmem, hcls⟩ := State.nextAccess_mem h
  have chosen {k : Nat} (hk : c.nextClass = some k) : r.cls = k := Option.some.inj (hcls.symm.trans hk)
  exact ⟨hmem, fun h3 hs => chosen (Channel.nextClass_share h3 hs), fun hs h1 => chosen ((Channel.nextClass_of_no_share hs).1 h1),
    fun hs h1 h2 => chosen ((Channel.nextClass_of_no_share hs).2 h1 h2)⟩

/-! ## An access -/

theorem channelsServeTheirChoice : Claim.ChannelsServeTheirChoice := by
  intro s ch ecc r h
  have hx (e : Ecc) : exec (.dramAccess ch e) s = execDramAccess ch e s := rfl
  refine ⟨(State.nextAccess_mem h).1, fun hno => ?_, fun hawake hadmits => ?_⟩
  · have hheld : (s.pwr.sleep.deep || !s.admits ch) = true := by simpa using hno
    simp only [hx, execDramAccess, h, hheld, if_true]
    rfl
  · have hgo : (s.pwr.sleep.deep || !s.admits ch) = false := by simp [hawake, hadmits]
    intro u
    simp only [hx, execDramAccess, h, hgo, Bool.false_eq_true, if_false]
    refine ⟨fun hmet => ?_, fun hw hc => ?_, ?_⟩
    · rw [if_pos (by simpa using hmet)]
      rfl
    · rw [if_neg (by simp [hw, hc])]
      rfl
    · split <;> rfl

/-! ## What error correction finds -/

/-- Advice to retire a row's pages is reported, one event after another. -/
theorem State.adviseRetire_unreported (s : State) (pa : Nat) : (s.adviseRetire pa).unreported = s.unreported :=
  foldl_keeps (g := State.unreported) (fun _ _ => State.event_unreported ..) _ s

theorem State.adviseRetire_ctr (s : State) (pa : Nat) {c : Ctr} (hc : c ≠ .eventLost) : (s.adviseRetire pa).ctr c = s.ctr c :=
  foldl_keeps (g := fun u => u.ctr c) (fun _ _ => State.event_ctr _ _ _ _ _ _ hc) _ s

theorem State.fixBack_unasked (s : State) (pa : Nat) : (s.fixBack pa).unasked = s.unasked := by
  unfold State.fixBack
  extract_lets
  split
  · rfl
  · exact State.dramAsk_unasked ..

/-- A corrected line stays as it is and is counted; all else goes to the row's counts, the write-back and the reports (R283). -/
theorem State.dramFixed_line (s : State) (pa : Nat) :
    (s.dramFixed pa).mem = s.mem ∧ (s.dramFixed pa).marks = s.marks ∧ (s.dramFixed pa).ctr .dramCorrected = s.ctr .dramCorrected + 1 := by
  have hback := s.fixBack_unasked pa
  unfold State.dramFixed
  extract_lets at_ home row s1
  have hmem : s1.mem = s.mem := by simp [s1, State.mem_of_unasked hback]
  have hmarks : s1.marks = s.marks := by simp [s1, State.marks_of_unasked hback]
  have hctr : s1.ctr .dramCorrected = s.ctr .dramCorrected + 1 := by simp [s1, State.ctr_of_ctrs (State.ctrs_of_unasked hback)]
  split
  · split
    · have hadv (u : State) := u.adviseRetire_unreported at_
      exact ⟨(State.mem_of_unreported (hadv _)).trans hmem, (State.marks_of_unreported (hadv _)).trans hmarks,
        (State.adviseRetire_ctr _ _ (by decide)).trans hctr⟩
    · exact ⟨hmem, hmarks, hctr⟩
  · exact ⟨hmem, hmarks, hctr⟩

theorem State.redirect_ctrs (s : State) (page spare : Nat) : (s.redirect page spare).ctrs = s.ctrs := by
  have marked (f : Nat → Nat) (m : Nat → Mark) (l : List Nat) (u : State) : (l.foldl (fun u a => u.setMark (f a) (m a)) u).ctrs = u.ctrs :=
    foldl_keeps (g := State.ctrs) (f := fun u a => u.setMark (f a) (m a)) (fun _ _ => rfl) l u
  exact (marked _ _ _ _).trans (State.putBytes_record ..).ctrs

/-- Retiring a page counts nothing among the module's counters. -/
theorem State.retirePage_ctrs {s u : State} {page : Nat} (h : s.retirePage page = some u) : u.ctrs = s.ctrs := by
  unfold State.retirePage at h
  extract_lets m n spare s1 at h
  split at h
  · cases h
  · obtain rfl := Option.some.inj h
    rw [State.updDram_ctrs, State.dramUse_ctrs, State.redirect_ctrs, State.dramUse_ctrs]

/-- An uncorrectable line is counted once, whether or not it takes a weight frame's page with it. -/
theorem State.dramBad_ctr (s : State) (pa : Nat) : (s.dramBad pa).ctr .dramUncorrected = s.ctr .dramUncorrected + 1 := by
  unfold State.dramBad
  extract_lets a at_ args s1
  have h1 : s1.ctr .dramUncorrected = s.ctr .dramUncorrected + 1 :=
    (State.event_ctr _ _ _ _ _ _ (by decide)).trans (State.count_ctr_same ..)
  split
  · exact h1
  · extract_lets
    split
    · exact h1
    · split
      next h3 => exact (State.ctr_of_ctrs (State.retirePage_ctrs h3) _).trans h1
      · exact h1

/-- Outside the weight frames an uncorrectable line is marked where it lies, and its bytes stay. -/
theorem State.dramBad_of_no_weight {s : State} {pa : Nat} (h : s.weightAt (pa / 64 * 64) = none) :
    (s.dramBad pa).markAt (pa / 64 * 64) = .unreadable ∧ (s.dramBad pa).mem = s.mem := by
  unfold State.dramBad
  extract_lets a at_ args s1
  have hw : s1.weightAt a = none := by
    have ht : s1.tiers = s.tiers := State.event_tiers ..
    rw [State.weightAt, ht]
    exact h
  rw [hw]
  have hd : s1.dram = s.dram := State.event_dram ..
  have hm : s1.marks = assocSet s.marks (chunkOf (s.real a)) .unreadable := State.event_marks ..
  refine ⟨?_, State.event_mem ..⟩
  have hreal : s1.real a = s.real a := by rw [State.real, State.real, hd]
  rw [State.markAt, hreal, hm, assoc_assocSet_same]
  rfl

/-- A line corrected to another codeword is one that holds open data, by the model's choice free bytes (log 42), and was corrected (R282). -/
theorem State.dramCheck_miscorrected (s : State) (pa : Nat) :
    s.dramCheck pa .miscorrected =
      ((s.putBytes (pa / 64 * 64) ((List.range 64).map fun i => Config.freeByte s.free (pa / 64 * 64 + i))).draw).dramFixed pa := rfl

theorem eccMarksUncorrectableLines : Claim.EccMarksUncorrectableLines := by
  intro s pa
  obtain ⟨hmem, hmarks, hctr⟩ := s.dramFixed_line pa
  refine ⟨rfl, hctr, hmem, hmarks, ?_, ?_, s.dramBad_ctr pa, State.dramBad_of_no_weight⟩
  · rw [State.dramCheck_miscorrected, (State.dramFixed_line ..).2.2, State.ctr_of_ctrs ((State.draw_ctrs _).trans (s.putBytes_record ..).ctrs)]
  · rw [State.dramCheck_miscorrected, (State.dramFixed_line ..).1, State.draw_mem]

/-- Settles O38: arbitration by the class it serves next, an access by what its channel and its request allow, and what error correction
finds by what each outcome leaves unchanged. -/
theorem dramChannelsServeRequests : Obligations.DramChannelsServeRequests :=
  ⟨channelsServeTheirChoice, arbitrationFollowsClasses, eccMarksUncorrectableLines⟩

end Sys2Proof.Machine
end

section
/-!
PROOFS. Upkeep of the DRAM (R270, R278 to R281, R284, R288, R291): aged prefetches, refreshes, the patrol, temperatures and imbalance windows.
-/

namespace Sys2Proof.Machine

/-! ## Refresh and patrol -/

/-- The banks of a channel: 48 of a pseudo-channel of HBM3E, 16 of a channel of LPDDR5X (Table 10.1). -/
theorem lt_banksOf {ch : Fin 576} {bank : Fin 48} (h : 512 ≤ ch.val → bank.val < 16) : bank.val < banksOf (if ch.val < 512 then 0 else 1) := by
  split
  · exact bank.isLt
  next hl => exact h (Nat.le_of_not_lt hl)

/-- The line that the patrol reads next: behind the last populated one a new pass begins. -/
def State.patrolLineAt (s : State) : Nat := if s.populated s.dram.patrolAt = true then s.dram.patrolAt else 0

/-- A line of the patrol asked of its channel and passed, not yet counted as a unit. -/
def State.patrolPassed (s : State) (checked : Bool) : State :=
  (s.dramAsk 3 false checked s.patrolLineAt 64).updDram fun d => { d with
    patrolAt := if s.populated (s.patrolLineAt + 64) then s.patrolLineAt + 64 else 0, patrolLines := (d.patrolLines + 1) % 2 ^ 20
    patrolSince := if s.populated (s.patrolLineAt + 64) then d.patrolSince else s.now }

theorem State.patrolLine_eq (s : State) (checked : Bool) : s.patrolLine checked =
    if (s.patrolPassed checked).dram.patrolLines = 0 then (s.patrolPassed checked).count .dramScrubbed else s.patrolPassed checked := rfl

theorem State.patrolPassed_effect (s : State) (checked : Bool) :
    (s.patrolPassed checked).dram.patrolAt = (if s.populated (s.patrolLineAt + 64) = true then s.patrolLineAt + 64 else 0) ∧
    (s.patrolPassed checked).dram.patrolLines = (s.dram.patrolLines + 1) % 2 ^ 20 ∧
    (s.patrolPassed checked).mem = s.mem ∧ (s.patrolPassed checked).marks = s.marks ∧ (s.patrolPassed checked).ctrs = s.ctrs := by
  have hask := s.dramAsk_unasked 3 false checked s.patrolLineAt 64
  refine ⟨?_, ?_, ?_, ?_, ?_⟩
  · rw [State.patrolPassed, State.updDram_dram]
  · rw [State.patrolPassed, State.updDram_dram, State.patrolLines_of_unasked hask]
  · rw [State.patrolPassed, State.updDram_mem, State.mem_of_unasked hask]
  · rw [State.patrolPassed, State.updDram_marks, State.marks_of_unasked hask]
  · rw [State.patrolPassed, State.updDram_ctrs, State.ctrs_of_unasked hask]

/-- The count of a unit of 2^20 lines leaves the DRAM and the memory alone. -/
theorem State.countUnit_effect (u : State) :
    let t := if u.dram.patrolLines = 0 then u.count .dramScrubbed else u
    t.dram = u.dram ∧ t.mem = u.mem ∧ t.marks = u.marks ∧
      t.ctr .dramScrubbed = u.ctr .dramScrubbed + (if u.dram.patrolLines = 0 then 1 else 0) := by
  dsimp only
  split <;> simp

/-- One line of the patrol moves its place and is counted; 2^20 lines are one unit of DRAM_SCRUBBED. -/
theorem State.patrolLine_effect (s : State) (checked : Bool) :
    (s.patrolLine checked).dram.patrolAt = (if s.populated (s.patrolLineAt + 64) = true then s.patrolLineAt + 64 else 0) ∧
    (s.patrolLine checked).dram.patrolLines = (s.dram.patrolLines + 1) % 2 ^ 20 ∧
    (s.patrolLine checked).mem = s.mem ∧ (s.patrolLine checked).marks = s.marks ∧
    (s.patrolLine checked).ctr .dramScrubbed = s.ctr .dramScrubbed + (if (s.dram.patrolLines + 1) % 2 ^ 20 = 0 then 1 else 0) := by
  obtain ⟨hat, hlines, hmem, hmarks, hctrs⟩ := s.patrolPassed_effect checked
  obtain ⟨hd, hm, hk, hc⟩ := (s.patrolPassed checked).countUnit_effect
  rw [← State.patrolLine_eq] at hd hm hk hc
  rw [hlines, State.ctr_of_ctrs hctrs] at hc
  rw [hd]
  exact ⟨hat, hlines, hm.trans hmem, hk.trans hmarks, hc⟩

theorem exec_patrolScrub {s : State} (hawake : s.pwr.sleep.deep = false) (hinit : s.eci.devState ≠ .uninit) (hboot : s.eci.devState ≠ .booting)
    (ecc : Ecc) : exec (.patrolScrub ecc) s = .next ((s.ok.patrolLine true).dramCheck s.patrolLineAt ecc) := by
  have hx : exec (.patrolScrub ecc) s = execPatrolScrub ecc s := rfl
  have hruns : s.patrols = true := by simp [State.patrols, hawake, hinit, hboot]
  rw [hx, execPatrolScrub, if_pos hruns]
  rfl

theorem channelUpkeep : Claim.ChannelUpkeep := by
  refine ⟨?_, ?_, ?_⟩
  · intro s ch due hdue
    have hx : exec (.prefetchAgePromote ch) s = execPrefetchAgePromote ch s := rfl
    rw [hx, execPrefetchAgePromote]
    exact congrArg _ (if_pos hdue)
  · intro s ch bank
    dsimp only
    intro hawake hbank hdue
    have hx : exec (.refreshDue ch bank) s = execRefreshDue ch bank s := rfl
    simp only [hx, execRefreshDue, hawake, decide_eq_false (Nat.not_le_of_lt (lt_banksOf hbank)), decide_eq_false (Nat.not_lt_of_le hdue),
      Bool.or_self, Bool.false_eq_true, if_false, Bool.and_eq_true, decide_eq_true_eq]
    rfl
  · intro s hawake hinit hboot pa
    have hx := exec_patrolScrub hawake hinit hboot
    exact ⟨fun ecc => ⟨_, hx ecc, hx .clean⟩, _, hx .clean, s.ok.patrolLine_effect true⟩

/-! ## Temperatures -/

theorem Device.level_le_three (d : Device) : d.level ≤ 3 := by
  unfold Device.level
  split
  · exact Nat.le_refl 3
  · split
    · decide
    · split <;> decide

/-- The step after the thresholds of a list that a reading passes. -/
def dramRaise (c : Int) (level j : Nat) : Nat := if c > dramLimit (j + 1) then max level (j + 1) else level

theorem le_dramRaise (c : Int) (level j : Nat) : level ≤ dramRaise c level j := by
  unfold dramRaise
  split
  · exact Nat.le_max_left ..
  · exact Nat.le_refl _

theorem le_foldl_dramRaise {c : Int} {k : Nat} (hc : dramLimit (k + 1) < c) {l : List Nat} (hk : k ∈ l) (level : Nat) :
    k + 1 ≤ l.foldl (dramRaise c) level := by
  induction l generalizing level with
  | nil => cases hk
  | cons j l ih =>
    rcases List.mem_cons.1 hk with rfl | hk
    · refine List.foldlRecOn (motive := (k + 1 ≤ ·)) l _ ?_ fun n hn j _ => Nat.le_trans hn (le_dramRaise c n j)
      rw [dramRaise, if_pos hc]
      exact Nat.le_max_right ..
    · exact ih hk _

/-- A reading above a threshold puts the step at it or higher, and no step down goes below it (R280). -/
theorem le_dramStep (l : Nat) {k : Nat} {c : Int} (hk : k < 3) (hc : dramLimit (k + 1) < c) : k + 1 ≤ dramStep l c := by
  refine List.foldlRecOn (motive := (k + 1 ≤ ·)) _ _ (le_foldl_dramRaise hc (List.mem_range.2 hk) l) fun n hn _ _ => ?_
  split
  next hdown =>
    have hne : k + 1 ≠ n := by
      rintro rfl
      omega
    omega
  next => exact hn

/-- At 83 degrees or below no threshold is passed, and every step goes down (R280). -/
theorem dramStep_eq_zero {l : Nat} {c : Int} (hl : l ≤ 3) (hc : c ≤ 83) : dramStep l c = 0 := by
  have hlimit (k : Nat) : 83 ≤ dramLimit (k + 1) - 2 := by simp only [dramLimit]; omega
  have hup (m k : Nat) : (if c > dramLimit (k + 1) then max m (k + 1) else m) = m := if_neg (by have := hlimit k; omega)
  have hdown (m : Nat) : (if 0 < m ∧ c ≤ dramLimit m - 2 then m - 1 else m) = m - 1 := by
    cases m with
    | zero => exact if_neg fun h => Nat.lt_irrefl 0 h.1
    | succ m => exact if_pos ⟨Nat.succ_pos m, Int.le_trans hc (hlimit m)⟩
  have hr : List.range 3 = [0, 1, 2] := rfl
  simp only [dramStep, hup, hdown, hr, List.foldl_cons, List.foldl_nil]
  omega

theorem dramStep_le_three {l : Nat} (hl : l ≤ 3) (c : Int) : dramStep l c ≤ 3 := by
  refine List.foldlRecOn (motive := (· ≤ 3)) _ _ (List.foldlRecOn (motive := (· ≤ 3)) _ _ hl fun n hn j hj => ?_) fun n hn _ _ => ?_
  · have hlt := List.mem_range.1 hj
    split
    · exact Nat.max_le.2 ⟨hn, hlt⟩
    · exact hn
  · split
    · exact Nat.le_trans (Nat.sub_le n 1) hn
    · exact hn

/-- What a device keeps of a reading: refresh rate and throttle by the step of Table 10.5. -/
def Device.read (d : Device) (c : Int) (now : Nat) : Device :=
  let k := dramStep d.level c
  { celsius := c, rate := if k = 0 then 1 else if k = 1 then 2 else 4, throttled := k == 3, readAt := some now }

/-- The rate is 1 below every threshold, 2 above the first, 4 from the second on; the throttle stands above the third (R280, R281). -/
theorem Device.read_follows_thresholds (d : Device) (c : Int) (now : Nat) :
    (105 < c → (d.read c now).rate = 4 ∧ (d.read c now).throttled = true) ∧
    (95 < c → (d.read c now).rate = 4) ∧ (85 < c → 2 ≤ (d.read c now).rate) ∧
    (c ≤ 83 → (d.read c now).rate = 1 ∧ (d.read c now).throttled = false) := by
  have above {k : Nat} (hk : k < 3) (hc : dramLimit (k + 1) < c) := le_dramStep d.level hk hc
  have fast (h : 2 ≤ dramStep d.level c) : (d.read c now).rate = 4 := by
    simp only [Device.read]
    rw [if_neg (by omega), if_neg (by omega)]
  refine ⟨fun hc => ?_, fun hc => fast (above (k := 1) (by decide) hc), fun hc => ?_, fun hc => ?_⟩
  · have h3 : dramStep d.level c = 3 := Nat.le_antisymm (dramStep_le_three d.level_le_three c) (above (k := 2) (by decide) hc)
    exact ⟨fast (by omega), by rw [Device.read, h3]; rfl⟩
  · have h1 : 1 ≤ dramStep d.level c := above (k := 0) (by decide) hc
    simp only [Device.read]
    rw [if_neg (by omega)]
    split <;> decide
  · simp only [Device.read, dramStep_eq_zero d.level_le_three hc]
    exact ⟨rfl, rfl⟩

/-- Milliseconds above a threshold enter the lifetime record, and nothing else changes. -/
theorem foldl_lifeAdd_effect {c : Int} {idx : Nat → Nat} (l : List Nat) (s : State) :
    (l.foldl (fun u j => if c > dramLimit (j + 1) then u.lifeAdd 4 (idx j) 1 else u) s).unreported = s.unreported ∧
    (l.foldl (fun u j => if c > dramLimit (j + 1) then u.lifeAdd 4 (idx j) 1 else u) s).eci = s.eci :=
  ⟨foldl_keeps (g := State.unreported) (fun _ _ => by split <;> simp) l s, foldl_keeps (g := State.eci) (fun _ _ => by split <;> rfl) l s⟩

/-- A reading that is due sets its device's entry; all else that it does is to report. -/
theorem exec_dramTempRead {s : State} {d : Fin 32} (c : Int) (hdue : ∀ x, (pick s.dram.devices d).readAt = some x → x + 1000000 ≤ s.now) :
    ∃ t, exec (.dramTempRead d c) s = .next t ∧
      t.unreported = (s.ok.updDram fun x => { x with devices := upd x.devices d fun y => y.read c s.now }).unreported ∧ t.eci = s.eci := by
  have hx : exec (.dramTempRead d c) s = execDramTempRead d c s := rfl
  have hms : ms 1 = 1000000 := rfl
  have hready : ((pick s.dram.devices d).readAt.any fun t => decide (s.now < t + 1000000)) = false := by
    cases h : (pick s.dram.devices d).readAt with
    | none => rfl
    | some x =>
      rw [Option.any_some, decide_eq_false_iff_not]
      exact Nat.not_lt_of_le (hdue x h)
  rw [hx, execDramTempRead]
  simp only [hms, hready, Bool.false_eq_true, if_false]
  refine ⟨_, rfl, ?_, ?_⟩
  · split
    · exact (foldl_lifeAdd_effect ..).1
    · exact (State.event_unreported ..).trans (foldl_lifeAdd_effect ..).1
  · split
    · exact (foldl_lifeAdd_effect ..).2
    · exact (State.event_zero_eci ..).trans (foldl_lifeAdd_effect ..).2

theorem dramTemperatureSetsTheRate : Claim.DramTemperatureSetsTheRate := by
  intro s d c hdue
  obtain ⟨t, hx, hrep, heci⟩ := exec_dramTempRead c hdue
  have hdram := State.dram_of_unreported hrep
  have hdev : t.dram.devices = upd s.dram.devices d fun y => y.read c s.now := congrArg Dram.devices hdram
  have hentry : pick t.dram.devices d = (pick s.dram.devices d).read c s.now := by rw [hdev, pick_upd_same]
  obtain ⟨h105, h95, h85, h83⟩ := (pick s.dram.devices d).read_follows_thresholds c s.now
  refine ⟨t, hx, ?_⟩
  rw [hentry]
  refine ⟨rfl, h105, h95, h85, h83, fun k hk => ?_, ?_⟩
  · rw [hdev, pick_upd_other _ hk]
  · rw [hdev]
    exact State.eq_of_unreported hrep heci

/-! ## Imbalance windows -/

/-- A state without the run counts and reports of imbalanced windows. -/
def State.unjudged (s : State) : State :=
  (s.updDram fun d => { d with imbRun := Vector.replicate 2 0, imbArmed := Vector.replicate 2 true }).unreported

section
variable {s t : State} (h : t.unjudged = s.unjudged)
include h
theorem State.now_of_unjudged : t.now = s.now := (congrArg State.now h :)
theorem State.mem_of_unjudged : t.mem = s.mem := (congrArg State.mem h :)
theorem State.imbWindow_of_unjudged : t.dram.imbWindow = s.dram.imbWindow := (congrArg (·.dram.imbWindow) h :)
theorem State.imbPending_of_unjudged : t.dram.imbPending = s.dram.imbPending := (congrArg (·.dram.imbPending) h :)
end

theorem State.unjudged_of_unreported {s t : State} (h : t.unreported = s.unreported) : t.unjudged = s.unjudged :=
  (congrArg State.unjudged h :)

/-- One memory's judgement reports, and sets its run and whether a report of it is due. -/
theorem State.imbOne_unjudged (s : State) (mem : Fin 2) (bin worst : Nat) : (s.imbOne mem bin worst).unjudged = s.unjudged := by
  unfold State.imbOne
  extract_lets w s1
  split
  · rfl
  · split
    · rw [State.unjudged_of_unreported (State.event_unreported ..)]
      rfl
    · rfl

theorem pick_map {α β : Type} {n : Nat} (v : Vector α n) (f : α → β) (i : Fin n) : pick (v.map f) i = f (pick v i) := by
  simp [pick]

theorem imbLast_bits (hb lb h l : Nat) : argBits [(0, hb), (3, lb), (16, h), (24, l)] = hb + 8 * lb + 65536 * h + 16777216 * l := by
  simp only [argBits, Nat.shiftLeft_eq]
  omega

/-- A window closes: its bins are kept, counts start anew, and a pending window and its run counts take effect. -/
def State.closeImbWindow (s : State) (last : BitVec 32) : State := s.updDram fun d => { d with
  imbLast := last, imbStart := s.now, channels := d.channels.map fun c => { c with count := 0 }
  imbWindow := d.imbPending.getD d.imbWindow, imbRun := if d.imbPending.isSome then Vector.replicate 2 0 else d.imbRun
  imbPending := none }

theorem State.closeImbWindow_effect (s : State) (last : BitVec 32) :
    let t := s.closeImbWindow last
    t.dram.imbLast = last ∧ t.dram.imbStart = s.now ∧ t.dram.imbWindow = s.dram.imbPending.getD s.dram.imbWindow ∧
      t.dram.imbPending = none ∧ (∀ k, (pick t.dram.channels k).count = 0) ∧
      (s.dram.imbPending.isSome = true → ∀ m, pick t.dram.imbRun m = 0) ∧ t.mem = s.mem := by
  refine ⟨rfl, rfl, rfl, rfl, fun k => ?_, fun hp m => ?_, rfl⟩
  · rw [State.closeImbWindow, State.updDram_dram, pick_map]
  · simp [State.closeImbWindow, hp, pick]

/-- MEM_IMB_LAST at the window's end: the bins of both memories and their busiest channels (R291). -/
def State.imbBins (s : State) : BitVec 32 :=
  let h := s.channelCounts 0
  let l := s.channelCounts 1
  BitVec.ofNat 32 (imbBin (h.foldl max 0) 256 h.sum + 8 * imbBin (l.foldl max 0) 64 l.sum + 65536 * busiest h + 16777216 * busiest l)

/-- Both memories judged at the window's end. -/
def State.imbJudged (s : State) : State :=
  let h := s.channelCounts 0
  let l := s.channelCounts 1
  (s.ok.imbOne 0 (imbBin (h.foldl max 0) 256 h.sum) (busiest h)).imbOne 1 (imbBin (l.foldl max 0) 64 l.sum) (busiest l)

theorem State.imbJudged_unjudged (s : State) : s.imbJudged.unjudged = s.ok.unjudged :=
  (State.imbOne_unjudged ..).trans (State.imbOne_unjudged ..)

/-- A window that is due closes once both memories are judged. -/
theorem exec_imbWindowEnd {s : State} (hdue : s.dram.imbStart + 1000 * (s.dram.imbWindow.toNat % 65536) ≤ s.now) :
    exec .imbWindowEnd s = .next (s.imbJudged.closeImbWindow s.imbBins) := by
  have hx : exec .imbWindowEnd s = execImbWindowEnd s := rfl
  have hwait : us (bitsAt s.dram.imbWindow.toNat 0 16) = 1000 * (s.dram.imbWindow.toNat % 65536) := by
    simp only [us, bitsAt, Nat.shiftRight_zero]
    omega
  rw [State.closeImbWindow, State.now_of_unjudged s.imbJudged_unjudged, State.imbBins, ← imbLast_bits, hx, execImbWindowEnd, hwait,
    if_neg (Nat.not_lt_of_le hdue)]
  rfl

theorem imbalanceWindowsEnd : Claim.ImbalanceWindowsEnd := by
  intro s hdue h l
  have hjudged := s.imbJudged_unjudged
  have heffect := s.imbJudged.closeImbWindow_effect s.imbBins
  rw [State.imbPending_of_unjudged hjudged, State.imbWindow_of_unjudged hjudged, State.now_of_unjudged hjudged,
    State.mem_of_unjudged hjudged] at heffect
  exact ⟨_, exec_imbWindowEnd hdue, heffect⟩

/-- Settles O39: upkeep of a channel by the branch its conditions choose, temperatures by the thresholds a reading passes, and windows by what
their end leaves of the judgement. -/
theorem dramUpkeep : Obligations.DramUpkeep := ⟨channelUpkeep, dramTemperatureSetsTheRate, imbalanceWindowsEnd⟩

end Sys2Proof.Machine
end

section
/-!
PROOFS. Pages and units leave service (R23, R286, R329, R413, R415 to R417): retirement, resets with their self-test, and failures.
-/

namespace Sys2Proof.Machine

/-! ## PAGE_RETIRE -/

theorem exec_pageRetire (src : Src) (s : State) : exec (.pageRetire src) s = .next (s.command 0x48 src (fun _ => [(64, 48, anyVal)]) pageRetireBody) := rfl

theorem pageRetireBody_of_retired {s : State} {c : Cmd} (hp : s.populated (c.f 64 48) = true)
    (hdone : (assoc s.dram.retired (c.f 64 48 / 4096)).isSome = true) : pageRetireBody c s = s.done c 0 0 := by
  simp only [pageRetireBody, Config.pageBytes, hp, hdone, Bool.not_true, Bool.false_eq_true, if_false, if_true]

theorem pageRetireBody_of_spare {s u : State} {c : Cmd} (hp : s.populated (c.f 64 48) = true)
    (hnew : assoc s.dram.retired (c.f 64 48 / 4096) = none) (hu : s.retirePage (c.f 64 48 / 4096) = some u) :
    pageRetireBody c s = (u.updLogs fun l => { l with life := { l.life with retirements := l.life.retirements ++
      [(if isHbm (c.f 64 48) then 0 else 1, s.dramLoc (s.badLine (c.f 64 48 / 4096)))] } }).done c 0 0 := by
  simp only [pageRetireBody, Config.pageBytes, hp, hnew, hu, Option.isSome_none, Bool.not_true, Bool.false_eq_true, if_false]

theorem pageRetireBody_of_full {s : State} {c : Cmd} (hp : s.populated (c.f 64 48) = true)
    (hnew : assoc s.dram.retired (c.f 64 48 / 4096) = none) (hfull : s.retirePage (c.f 64 48 / 4096) = none) :
    pageRetireBody c s = s.endCmd c .retireFull 0 0 0 := by
  simp only [pageRetireBody, Config.pageBytes, hp, hnew, hfull, Option.isSome_none, Bool.not_true, Bool.false_eq_true, if_false]

theorem pagesRetire : Claim.PagesRetire := by
  intro s src c ha hp page
  have hp' : s.ok.populated (c.f 64 48) = true := hp
  rw [exec_pageRetire, ha.command]
  refine ⟨fun hdone => ?_, fun hnew => ⟨fun u hu => ?_, fun hfull => ?_⟩⟩
  · rw [pageRetireBody_of_retired hp' hdone]
  · rw [pageRetireBody_of_spare hp' hnew hu]
    rfl
  · rw [pageRetireBody_of_full hp' hnew hfull]

/-! ## RESET_SCOPE and SELF_TEST_COMPLETE -/

theorem exec_resetScope (src : Src) (s : State) :
    exec (.resetScope src) s = .next (s.command 0x4B src (fun _ => [(64, 32, anyVal), (96, 1, anyVal)]) resetScopeBody) := rfl

/-- A unit that no reset under way holds is reset, and its command waits (R23, R416). -/
theorem resetScopeBody_of_free {s : State} {c : Cmd} {u : UnitRef} (hu : s.unitRef (BitVec.ofNat 32 (c.f 64 32)) = some u)
    (hk : u.kind ≠ 0x80) (hcold : c.f 96 1 = 1 → u.kind = 5)
    (hfree : ∀ r ∈ s.logs.resets, ∀ v, s.unitRef r.unit = some v → u.within v = false) :
    resetScopeBody c s = (((s.begin c).updLogs fun l => { l with
      resets := l.resets ++ [{ unit := BitVec.ofNat 32 (c.f 64 32), cold := c.f 96 1 == 1, waiting := [c.ref], since := s.now }] }).resetUnit
        u (c.f 96 1 == 1)).settle := by
  have hheld : ¬ (s.logs.resets.any fun r => (s.unitRef r.unit).any fun v => u.within v) = true := by
    rw [List.any_eq_true]
    rintro ⟨r, hr, hany⟩
    obtain ⟨v, hv, hw⟩ := (Option.any_eq_true _ _).1 hany
    exact Bool.false_ne_true ((hfree r hr v hv).symm.trans hw)
  have hwarm : ¬ ((c.f 96 1 == 1) = true ∧ u.kind ≠ 5) := fun h => h.2 (hcold (eq_of_beq h.1))
  unfold resetScopeBody
  extract_lets
  rw [hu]
  exact (if_neg hk).trans ((if_neg hwarm).trans (if_neg hheld))

theorem scopesResetAndAreTested : Claim.ScopesResetAndAreTested := by
  refine ⟨fun s src c u ha hu hk hcold hfree => ?_, fun s r u hr hu => ?_⟩
  · rw [← s.ok_unitRef] at hu hfree
    rw [exec_resetScope, ha.command, resetScopeBody_of_free hu hk hcold hfree]
    rfl
  · have hx (passed : Bool) : exec (.selfTestComplete passed) s = execSelfTestComplete passed s := rfl
    simp only [hx, execSelfTestComplete, hr, hu, if_true, Bool.false_eq_true, if_false, and_self]

/-! ## UNIT_FAILED and MODULE_FAILED -/

theorem failuresTakeUnitsOut : Claim.FailuresTakeUnitsOut := by
  refine ⟨fun s u cause hinit hboot hin => ?_, fun s cause hinit => ?_⟩
  · have hx : exec (.unitFailed u cause) s = execUnitFailed u cause s := rfl
    have hno : ¬ (s.eci.devState = .uninit ∨ s.eci.devState = .booting ∨ (!s.inServiceNow u) = true) := by
      simp [hinit, hboot, hin]
    rw [hx]
    exact congrArg _ (if_neg hno)
  · have hx : exec (.moduleFailed cause) s = execModuleFailed cause s := rfl
    rw [hx, execModuleFailed, if_neg hinit]
    exact ⟨_, rfl, rfl, rfl, rfl⟩

/-- Settles O27, by the branch of each command that the state before the step chooses. -/
theorem unitsAndPagesLeaveService : Obligations.UnitsAndPagesLeaveService :=
  ⟨pagesRetire, scopesResetAndAreTested, failuresTakeUnitsOut⟩

end Sys2Proof.Machine
end

section
/-!
PROOFS. The setting registers (R8, R167, R291, R307, R309, R332, R400): a legal value is taken, any other write leaves the register as it is.
-/

namespace Sys2Proof.Machine

/-- Outside UNINIT die K serves a register write (R361). -/
theorem State.served_of_init {s : State} (h : s.eci.devState ≠ .uninit) (f : State → State) : s.served f = f s.ok := if_neg h

/-! ## Fields of a written word -/

theorem bitAt_toNat {w : Nat} (v : BitVec w) (i : Nat) : bitAt v.toNat i = v.getLsbD i := by
  rw [bitAt, bitsAt, Nat.shiftRight_eq_div_pow, Nat.pow_one, ← BitVec.testBit_toNat, Nat.testBit_eq_decide_div_mod_eq]
  rfl

/-- A field depends on its own bits alone. -/
theorem bitsAt_congr {w lo n : Nat} {v u : BitVec w} (h : ∀ i, lo ≤ i → i < lo + n → v.getLsbD i = u.getLsbD i) :
    bitsAt v.toNat lo n = bitsAt u.toNat lo n := by
  refine Nat.eq_of_testBit_eq fun i => ?_
  simp only [bitsAt, Nat.testBit_mod_two_pow, Nat.testBit_shiftRight, BitVec.testBit_toNat]
  by_cases hi : i < n
  · rw [h (lo + i) (Nat.le_add_right lo i) (Nat.add_lt_add_left hi lo)]
  · simp [hi]

/-! ## Ranged registers -/

theorem State.writeGust_eq (s : State) (v : BitVec 32) :
    let g := v.toNat % 2 ^ 17
    s.writeGust v = { s with eci := { s.eci with
      gustDefault := if 10 ≤ g ∧ g ≤ 100000 then BitVec.ofNat 32 g else s.eci.gustDefault } } := by
  intro g
  have hx : s.writeGust v = if 10 ≤ g ∧ g ≤ 100000 then s.updEci fun x => { x with gustDefault := BitVec.ofNat 32 g } else s := rfl
  by_cases hg : 10 ≤ g ∧ g ≤ 100000
  · rw [hx, if_pos hg, if_pos hg]
    rfl
  · rw [hx, if_neg hg, if_neg hg]

theorem State.writeDevTimeout_eq (s : State) (v : BitVec 32) :
    let g := v.toNat % 2 ^ 17
    s.writeDevTimeout v = { s with coh := { s.coh with
      devTimeout := if 10 ≤ g ∧ g ≤ 100000 then BitVec.ofNat 32 g else s.coh.devTimeout } } := by
  intro g
  have hx : s.writeDevTimeout v = if 10 ≤ g ∧ g ≤ 100000 then s.updCoh fun x => { x with devTimeout := BitVec.ofNat 32 g } else s := rfl
  by_cases hg : 10 ≤ g ∧ g ≤ 100000
  · rw [hx, if_pos hg, if_pos hg]
    rfl
  · rw [hx, if_neg hg, if_neg hg]

/-- The three fields of MEM_IMB_WINDOW (Table 10.8). -/
theorem imbWindow_fields (v : BitVec 32) :
    bitsAt v.toNat 0 16 = v.toNat % 65536 ∧ bitsAt v.toNat 16 3 = v.toNat / 65536 % 8 ∧ bitsAt v.toNat 20 12 = v.toNat / 2 ^ 20 := by
  have hv : v.toNat / 2 ^ 20 < 2 ^ 12 := Nat.div_lt_of_lt_mul v.isLt
  exact ⟨rfl, congrArg (· % 8) (Nat.shiftRight_eq_div_pow v.toNat 16),
    (congrArg (· % 2 ^ 12) (Nat.shiftRight_eq_div_pow v.toNat 20)).trans (Nat.mod_eq_of_lt hv)⟩

theorem State.writeImbWindow_eq (s : State) (v : BitVec 32) :
    let w := v.toNat % 65536
    let th := v.toNat / 65536 % 8
    let pe := v.toNat / 2 ^ 20
    s.writeImbWindow v = { s with dram := { s.dram with
      imbPending := if 100 ≤ w ∧ w ≤ 10000 ∧ 1 ≤ th ∧ th ≤ 5 ∧ 1 ≤ pe
        then some (BitVec.ofNat 32 (w + 65536 * th + 2 ^ 20 * pe)) else s.dram.imbPending } } := by
  obtain ⟨hw, hth, hpe⟩ := imbWindow_fields v
  have hword (a b c : Nat) : a + b <<< 16 + c <<< 20 = a + 65536 * b + 2 ^ 20 * c := by
    simp only [Nat.shiftLeft_eq]
    omega
  intro w th pe
  have hx : s.writeImbWindow v = if 100 ≤ w ∧ w ≤ 10000 ∧ 1 ≤ th ∧ th ≤ 5 ∧ 1 ≤ pe
      then s.updDram fun d => { d with imbPending := some (BitVec.ofNat 32 (w + 65536 * th + 2 ^ 20 * pe)) } else s := by
    simp only [State.writeImbWindow, hw, hth, hpe, hword]
    rfl
  by_cases h : 100 ≤ w ∧ w ≤ 10000 ∧ 1 ≤ th ∧ th ≤ 5 ∧ 1 ≤ pe
  · rw [hx, if_pos h, if_pos h]
    rfl
  · rw [hx, if_neg h, if_neg h]

theorem rangedRegistersTakeLegalValues : Claim.RangedRegistersTakeLegalValues := by
  intro s v hinit g w th pe
  have hgust : exec (.eciGustDefault v) s = .next (s.served fun t => t.writeGust v) := rfl
  have htimeout : exec (.cohDevTimeout v) s = .next (s.served fun t => t.writeDevTimeout v) := rfl
  have hwindow : exec (.memImbWindow v) s = .next (s.served fun t => t.writeImbWindow v) := rfl
  rw [hgust, htimeout, hwindow]
  simp only [State.served_of_init hinit, State.writeGust_eq, State.writeDevTimeout_eq, State.writeImbWindow_eq]
  exact ⟨rfl, rfl, rfl⟩

/-! ## The order mode and its lock -/

theorem State.writeLock_eq (s : State) (v : BitVec 32) : s.writeLock v = s.updCoh fun c => { c with locked := c.locked || v.getLsbD 0 } := by
  rw [State.writeLock, bitAt_toNat]
  cases v.getLsbD 0
  · simp [State.updCoh]
  · simp

theorem orderModeUntilLocked : Claim.OrderModeUntilLocked := by
  intro s k w v hinit
  have hmode : exec (.cohOrderMode k w) s = .next (s.ok.writeOrderMode k w) := congrArg _ (State.served_of_init hinit _)
  have hlock : exec (.cohCfgLock v) s = .next (s.ok.writeLock v) := congrArg _ (State.served_of_init hinit _)
  rw [hmode, hlock, State.writeLock_eq, State.writeOrderMode, State.ok, State.answer_coh]
  exact ⟨fun h => by rw [h]; rfl, fun h => by rw [h]; rfl, rfl⟩

/-! ## PWR_CAP_MODE -/

/-- The readable fields of PWR_CAP_MODE, MODE and its argument (R400). -/
def capFields (v : BitVec 32) : Nat := bitsAt v.toNat 0 2 + 256 * bitsAt v.toNat 8 16

theorem capFields_eq (v : BitVec 32) : capFields v = v.toNat % 4 + 256 * (v.toNat / 256 % 65536) := by
  simp [capFields, bitsAt, Nat.shiftRight_eq_div_pow]

theorem State.writeCapMode_of_mode {s : State} {v : BitVec 32} (h : bitsAt v.toNat 0 2 ≤ 1) :
    s.writeCapMode v = s.updPwr fun p => { p with
      capMode := BitVec.ofNat 32 (capFields v)
      capModeDue := some (BitVec.ofNat 32
        (if (v.getLsbD 4 || s.pwr.capModeDue.any fun w => w.getLsbD 4) = true then capFields v + 16 else capFields v)) } := by
  have hfields : bitsAt v.toNat 0 2 + bitsAt v.toNat 8 16 <<< 8 = capFields v := by
    rw [capFields, Nat.shiftLeft_eq, Nat.mul_comm]
  have hclear (n : Nat) (b : Bool) : (n + if b = true then 16 else 0) = if b = true then n + 16 else n := by
    cases b <;> rfl
  simp only [State.writeCapMode, bitAt_toNat, hfields, hclear]
  exact if_neg (Nat.not_le_of_lt (Nat.lt_succ_of_le h))

theorem State.writeCapMode_of_reserved {s : State} {v : BitVec 32} (h : 2 ≤ bitsAt v.toNat 0 2) : s.writeCapMode v = s := if_pos h

/-- LEARN_CLEAR is bit 4, which lies in no readable field. -/
theorem getLsbD_learnClear {i : Nat} (h : i ≠ 4) : (16 : BitVec 32).getLsbD i = false :=
  Nat.testBit_two_pow_of_ne (n := 4) h.symm

/-- Words that differ at LEARN_CLEAR alone have the same readable fields. -/
theorem capFields_congr {v u : BitVec 32} (h : ∀ i < 32, i ≠ 4 → u.getLsbD i = v.getLsbD i) :
    bitsAt u.toNat 0 2 = bitsAt v.toNat 0 2 ∧ capFields u = capFields v := by
  have hmode : bitsAt u.toNat 0 2 = bitsAt v.toNat 0 2 := bitsAt_congr fun i _ hi => h i (by omega) (by omega)
  have harg : bitsAt u.toNat 8 16 = bitsAt v.toNat 8 16 := bitsAt_congr fun i _ hi => h i (by omega) (by omega)
  exact ⟨hmode, by rw [capFields, capFields, hmode, harg]⟩

theorem capFields_clear (v : BitVec 32) : bitsAt (v &&& ~~~16).toNat 0 2 = bitsAt v.toNat 0 2 ∧ capFields (v &&& ~~~16) = capFields v :=
  capFields_congr fun i hi h4 => by simp only [BitVec.getLsbD_and, BitVec.getLsbD_not, getLsbD_learnClear h4, hi]; simp

theorem capFields_set (v : BitVec 32) : bitsAt (v ||| 16).toNat 0 2 = bitsAt v.toNat 0 2 ∧ capFields (v ||| 16) = capFields v :=
  capFields_congr fun i _ h4 => by simp only [BitVec.getLsbD_or, getLsbD_learnClear h4, Bool.or_false]

theorem capModeWaitsForThePeriod : Claim.CapModeWaitsForThePeriod := by
  intro s v hinit rw wasClear
  have hset : exec (.capModeSet v) s = .next (s.ok.writeCapMode (v &&& ~~~16)) := congrArg _ (State.served_of_init hinit _)
  have hclear : exec (.learnClear v) s = .next (s.ok.writeCapMode (v ||| 16)) := congrArg _ (State.served_of_init hinit _)
  have hmode : bitsAt v.toNat 0 2 = v.toNat % 4 := by simp [bitsAt]
  obtain ⟨hm0, hf0⟩ := capFields_clear v
  obtain ⟨hm1, hf1⟩ := capFields_set v
  have h0 : (v &&& ~~~16).getLsbD 4 = false := by simp
  have h1 : (v ||| 16).getLsbD 4 = true := by simp
  rw [hset, hclear]
  refine ⟨fun h => ?_, fun h => ?_⟩
  · rw [State.writeCapMode_of_mode (by omega), State.writeCapMode_of_mode (by omega), hf0, hf1, h0, h1, capFields_eq, Bool.false_or,
      Bool.true_or, if_pos rfl]
    exact ⟨rfl, rfl⟩
  · exact ⟨congrArg _ (State.writeCapMode_of_reserved (by omega)), congrArg _ (State.writeCapMode_of_reserved (by omega))⟩

/-! ## The HDM decoder -/

theorem hdmDecoderCommits : Claim.HdmDecoderCommits := by
  intro s ways base size
  have hx : exec (.hdmDecoderCommit ways base size) s = execHdmDecoderCommit ways base size s := rfl
  rw [hx, execHdmDecoderCommit]
  refine ⟨fun hways hbase hsize => ?_, fun hno => ?_⟩
  · simp only [hways, hbase, hsize, and_self, if_true]
    rfl
  · have hno' : ¬ (ways = 1 ∧ base.toNat % 0x10000000 = 0 ∧ size.toNat % 0x10000000 = 0) := by
      rintro ⟨hways, hbase, hsize⟩
      exact hno.elim (· hways) (·.elim (· hbase) (· hsize))
    simp only [hno', if_false]
    rfl

/-- Settles O14: a ranged register by its range, the order mode by its lock, PWR_CAP_MODE by its MODE, the HDM decoder by its alignment. -/
theorem settingRegistersTakeLegalValues : Obligations.SettingRegistersTakeLegalValues :=
  ⟨rangedRegistersTakeLegalValues, orderModeUntilLocked, capModeWaitsForThePeriod, hdmDecoderCommits⟩

end Sys2Proof.Machine
end

section
/-!
PROOFS. Cache operations of a core, its fences, and its entry to traps (R295, R297, R309, R310, R322).
-/

namespace Sys2Proof.Machine

/-! ## Cache operations -/

section
variable {s : State} {c : Fin 64} {a : Nat} {attr : PageAttr}

/-- A cache operation acts once the core's store buffer has drained as far as it can. -/
theorem State.cbo_of_absent (hrun : s.coreRuns c = true) (hty : (((s.coreWorks c).drainAll c).memType a).under attr = .absent)
    (on off : State → State) : s.cbo c a attr on off = ((s.coreWorks c).drainAll c).coreFault 7 a := by
  simp only [State.cbo, hrun, hty, Bool.not_true, Bool.false_eq_true, if_false]

theorem State.cbo_of_cacheable (hrun : s.coreRuns c = true) (hty : (((s.coreWorks c).drainAll c).memType a).under attr = .cacheable)
    (hsb : ∀ b ∈ (((s.coreWorks c).drainAll c).core c).sb, b.pa / 64 ≠ a / 64) (on off : State → State) :
    s.cbo c a attr on off = on ((s.coreWorks c).drainAll c) := by
  have hnone : ((((s.coreWorks c).drainAll c).core c).sb.any fun b => b.pa / 64 == a / 64) = false := by
    simpa only [List.any_eq_false, beq_iff_eq] using hsb
  simp only [State.cbo, hrun, hty, hnone, Bool.not_true, Bool.false_eq_true, if_false]

theorem State.cbo_of_other (hrun : s.coreRuns c = true) (hcache : (((s.coreWorks c).drainAll c).memType a).under attr ≠ .cacheable)
    (habsent : (((s.coreWorks c).drainAll c).memType a).under attr ≠ .absent) (on off : State → State) :
    s.cbo c a attr on off = off ((s.coreWorks c).drainAll c) := by
  simp only [State.cbo, hrun, Bool.not_true, Bool.false_eq_true, if_false]
  split
  case h_1 h => exact absurd h habsent
  case h_2 h => exact absurd h hcache
  all_goals rfl

end

section
variable {s : State} {c : Fin 64} {line : Nat}

theorem State.cleanLine_of_dirty {l : CLine} (hl : (s.core c).line line = some l) (hm : l.st = .m) :
    s.cleanLine c line = (s.writeBack l).updCore c fun x => x.changeLine line fun y => { y with st := .e } := by
  simp only [State.cleanLine, hl, hm, beq_self_eq_true, if_true]

theorem State.cleanLine_of_clean (h : ∀ l, (s.core c).line line = some l → l.st ≠ .m) : s.cleanLine c line = s := by
  rw [State.cleanLine]
  split
  case h_1 l hl => exact if_neg fun hm => h l hl (eq_of_beq hm)
  case h_2 => rfl

end

/-! ## The arms of the cache operations -/

section
variable (s : State) (c : Fin 64) (pa : BitVec 48) (attr : PageAttr)

theorem exec_cboClean : exec (.cboClean c pa attr) s = .next (s.cbo c pa.toNat attr (fun t => t.cleanLine c (pa.toNat / 64)) id) := rfl

theorem exec_cboFlush : exec (.cboFlush c pa attr) s = .next (s.cbo c pa.toNat attr (fun t => t.flushLine c (pa.toNat / 64)) id) := rfl

theorem exec_cboInval_drop : exec (.cboInval c pa attr 3) s =
    .next (s.cbo c pa.toNat attr (fun t => t.updCore c fun x => x.dropLine (pa.toNat / 64)) id) := rfl

theorem exec_cboInval_flush : exec (.cboInval c pa attr 1) s = exec (.cboFlush c pa attr) s := rfl

/-- CBO_ZERO of a cacheable line. -/
def State.zeroLine (t : State) : State :=
  if isHost pa.toNat then t.fillCore c { line := pa.toNat / 64, st := .m, data := List.replicate 64 0 }
  else if (t.core c).owns (pa.toNat / 64) then t.updCore c fun x =>
    (x.hit (pa.toNat / 64)).changeLine (pa.toNat / 64) fun _ => { line := pa.toNat / 64, st := .m, data := List.replicate 64 0 }
  else t.waits

/-- CBO_ZERO of other memory, by what holds the address. -/
def State.zeroOther (t : State) : State :=
  match t.memType pa.toNat with
  | .chip => (t.putBytes (64 * (pa.toNat / 64)) (List.replicate 64 0)).markRange (64 * (pa.toNat / 64)) 64 .none
  | .window => t.debugWrite (.core c) (64 * (pa.toNat / 64)) (List.replicate 64 0)
  | .peer => peerStore c t { pa := 64 * (pa.toNat / 64), data := List.replicate 64 0, cacheable := false }
  | .device => (List.range 8).foldl (fun u i => u.regWrite (64 * (pa.toNat / 64) + 8 * i - registerBase) 8 0 (.core c)) t
  | .cacheable =>
    if isHost pa.toNat then t.hostWrite (64 * (pa.toNat / 64)) (List.replicate 64 0) .none none 0
    else (t.store (64 * (pa.toNat / 64)) (List.replicate 64 0) .none).dramUse 3 true (64 * (pa.toNat / 64)) 64
  | .nonCacheable | .absent => t

theorem exec_cboZero : exec (.cboZero c pa attr) s =
    .next (s.cbo c pa.toNat attr (fun t => t.zeroLine c pa) fun t => t.zeroOther c pa) := rfl

end

theorem cacheOperations : Claim.CacheOperations := by
  intro s c pa attr hrun line zeros u ty
  refine ⟨fun hty hsb => ?_, fun hcache habsent => ?_, fun hty i hi => ?_⟩
  · have hon (on off : State → State) : s.cbo c pa.toNat attr on off = on u := State.cbo_of_cacheable hrun hty hsb on off
    rw [exec_cboInval_flush, exec_cboInval_drop, exec_cboClean, exec_cboFlush, exec_cboZero, hon, hon, hon, hon]
    refine ⟨fun l hl hm => ?_, fun hclean => ?_, rfl, rfl, fun hown hdram => ?_, fun hhost => ?_⟩
    · rw [State.flushLine, State.cleanLine_of_dirty hl hm]
      exact ⟨rfl, rfl⟩
    · rw [State.flushLine, State.cleanLine_of_clean hclean]
      exact ⟨rfl, rfl⟩
    · rw [State.zeroLine, hdram, if_neg Bool.false_ne_true]
      exact congrArg _ (if_pos hown)
    · exact congrArg _ (if_pos hhost)
  · have hzero : exec (.cboZero c pa attr) s = .next (u.zeroOther c pa) := by
      rw [exec_cboZero, State.cbo_of_other hrun hcache habsent]
    have hoff (on : State → State) : s.cbo c pa.toNat attr on id = u := State.cbo_of_other hrun hcache habsent on id
    rw [hzero, exec_cboClean, exec_cboFlush, hoff, hoff]
    refine ⟨rfl, rfl, fun b hb => ?_, fun h => ?_, fun h => ?_, fun h => ?_, fun h hdram => ?_, fun h hhost => ?_⟩
    · rcases hb with rfl | rfl
      · rw [exec_cboInval_flush, exec_cboFlush, hoff]
      · rw [exec_cboInval_drop, hoff]
    · rw [State.zeroOther, h]
    · rw [State.zeroOther, h]
    · rw [State.zeroOther, h]
    · rw [State.zeroOther, h, hdram]
      rfl
    · rw [State.zeroOther, h, hhost]
      rfl
  · have hfault (on off : State → State) : s.cbo c pa.toNat attr on off = u.coreFault 7 pa.toNat := State.cbo_of_absent hrun hty on off
    simp only [List.mem_cons, List.not_mem_nil, or_false] at hi
    rcases hi with rfl | rfl | rfl | rfl | rfl
    · rw [exec_cboClean, hfault]; rfl
    · rw [exec_cboFlush, hfault]; rfl
    · rw [exec_cboInval_flush, exec_cboFlush, hfault]; rfl
    · rw [exec_cboInval_drop, hfault]; rfl
    · rw [exec_cboZero, hfault]; rfl

/-! ## Fences and traps -/

@[simp] theorem State.updCore_core (s : State) (c : Fin 64) (f : CoreSt → CoreSt) : (s.updCore c f).core c = f (s.core c) :=
  pick_upd_same s.cores c f

/-- A core that runs an instruction leaves WFI and is otherwise as it was. -/
@[simp] theorem State.coreWorks_core (s : State) (c : Fin 64) : (s.coreWorks c).core c = { s.core c with wfi := false } := s.ok.updCore_core c _

/-- What a fence over writes waits for: stores in the buffer, device stores without an answer, stores on their way to a peer, and
writes on their way to the host (R310, R322). -/
def State.storesAhead (v : State) (c : Fin 64) : Prop :=
  (v.core c).sb ≠ [] ∨ (v.core c).dev.any (·.isStore) ∨
    (v.dnb.reqs.any fun r => match r.what with
      | .coreStore d _ _ => d == c
      | _ => false) ∨
    v.cxl.egress.any fun e => e.task.isNone && e.session == 0

theorem exec_coreFence_of_pending {s : State} {c : Fin 64} {va : Nat} (hrun : s.coreRuns c = true) (h : (s.core c).pending = some va) (b : Bool) :
    exec (.coreFence c b) s = .next ((s.coreWorks c).raisePending c va) := by
  have hx : exec (.coreFence c b) s = execCoreFence c b s := rfl
  simp only [hx, execCoreFence, hrun, State.coreWorks_core, h, Bool.not_true, Bool.false_eq_true, if_false]

theorem exec_coreFence_reads {s : State} {c : Fin 64} (hrun : s.coreRuns c = true) (h : (s.core c).pending = none) :
    exec (.coreFence c false) s = .next (s.coreWorks c) := by
  have hx : exec (.coreFence c false) s = execCoreFence c false s := rfl
  simp only [hx, execCoreFence, hrun, State.coreWorks_core, h, Bool.not_true, Bool.not_false, Bool.false_eq_true, if_false, if_true]

theorem exec_coreFence_writes {s : State} {c : Fin 64} (hrun : s.coreRuns c = true) (h : (s.core c).pending = none) :
    let v := ((s.coreWorks c).drainAll c).drainEgress
    (v.storesAhead c → exec (.coreFence c true) s = .next v.waits) ∧ (¬ v.storesAhead c → exec (.coreFence c true) s = .next v) := by
  have hx : exec (.coreFence c true) s = execCoreFence c true s := rfl
  simp only [hx, execCoreFence, hrun, State.coreWorks_core, h, Bool.not_true, Bool.false_eq_true, if_false]
  exact ⟨fun hv => congrArg _ (if_pos hv), fun hv => congrArg _ (if_neg hv)⟩

theorem exec_trapEntry {s : State} {c : Fin 64} (hrun : s.coreRuns c = true) :
    let u := (s.coreWorks c).drainAll c
    exec (.trapEntry c) s = .next (if (u.core c).sb ≠ [] then u.waits else u.updCore c fun x => { x with irq := false }) := by
  have hx : exec (.trapEntry c) s = execTrapEntry c s := rfl
  simp only [hx, execTrapEntry, hrun, Bool.not_true, Bool.false_eq_true, if_false]

theorem fencesAndTrapsDrainStores : Claim.FencesAndTrapsDrainStores := by
  intro s c hrun u v
  refine ⟨fun va b h => exec_coreFence_of_pending hrun h b, fun h => ⟨exec_coreFence_reads hrun h, fun hsb hdev hpeer hhost => ?_, fun hsb => ?_⟩,
    fun hsb => ?_, fun hsb => ?_⟩
  · refine (exec_coreFence_writes hrun h).2 ?_
    rintro (hb | hb | hb | hb)
    · exact hb hsb
    · obtain ⟨d, hd, hst⟩ := List.any_eq_true.1 hb
      exact Bool.false_ne_true ((hdev d hd).symm.trans hst)
    · obtain ⟨r, hr, hw⟩ := List.any_eq_true.1 hb
      split at hw
      case h_1 d va n hwhat => exact hpeer r hr va n (by rw [hwhat, eq_of_beq hw])
      case h_2 => exact Bool.false_ne_true hw
    · obtain ⟨e, he, hw⟩ := List.any_eq_true.1 hb
      obtain ⟨htask, hses⟩ := Bool.and_eq_true_iff.1 hw
      exact hhost e he (Option.isNone_iff_eq_none.1 htask) (eq_of_beq hses)
  · exact (exec_coreFence_writes hrun h).1 (.inl hsb)
  · rw [exec_trapEntry hrun]
    exact congrArg _ (if_neg (not_not_intro hsb))
  · rw [exec_trapEntry hrun]
    exact congrArg _ (if_pos hsb)

/-- Settles O33: a cache operation by the memory that it meets, a fence and a trap by the stores that are still ahead of them. -/
theorem cacheOperationsAndFences : Obligations.CacheOperationsAndFences := ⟨cacheOperations, fencesAndTrapsDrainStores⟩

end Sys2Proof.Machine
end

section
/-!
PROOFS. Device accesses of a core that leave it and stay without an answer (R308, R309): what waits of a store is its value as well as its
addresses, its size and its age.
-/

namespace Sys2Proof.Machine

/-- An empty store buffer has nothing to drain. -/
theorem State.drainAll_of_empty {s : State} {c : Fin 64} (h : (s.core c).sb = []) : s.drainAll c = s := by
  rw [State.drainAll, h]
  rfl

/-- A device access with nothing before it leaves the core. -/
theorem State.deviceAccess_of_ready {s : State} {c : Fin 64} {a size : Nat} {form : CoreForm} (hrun : s.coreRuns c = true)
    (hpending : (s.core c).pending = none) (hform : deviceFaults a size form = false) (htype : (s.coreWorks c).memType a ≠ .absent)
    (hsb : (s.core c).sb = []) (hdev : (s.core c).dev = []) (cause : Nat) (go : State → State) :
    s.deviceAccess c a size form cause go = go (s.coreWorks c) := by
  have hdrain : (s.coreWorks c).drainAll c = s.coreWorks c := State.drainAll_of_empty (by rw [State.coreWorks_core, hsb])
  simp [State.deviceAccess, hrun, hpending, hform, htype, hdrain, hsb, hdev]

/-- A DEVICE_STORE without an answer waits with its value. -/
theorem exec_deviceStore_unanswered {s : State} {c : Fin 64} {pa : BitVec 48} {size : Nat} {form : CoreForm} (hrun : s.coreRuns c = true)
    (hpending : (s.core c).pending = none) (hform : deviceFaults pa.toNat size form = false) (htype : (s.coreWorks c).memType pa.toNat ≠ .absent)
    (hsb : (s.core c).sb = []) (hdev : (s.core c).dev = []) (va v : BitVec 64) :
    ∃ t, exec (.deviceStore c pa va size v form false) s = .next t ∧
      (t.core c).dev = [{ isStore := true, pa := pa.toNat, va := va.toNat, size := size, since := s.now, val := v.toNat }] := by
  have hx : exec (.deviceStore c pa va size v form false) s = execDeviceStore c pa va size v form false s := rfl
  rw [hx, execDeviceStore]
  dsimp only
  rw [State.deviceAccess_of_ready hrun hpending hform htype hsb hdev]
  refine ⟨_, congrArg _ (if_pos rfl), ?_⟩
  rw [State.updCore_core, State.coreWorks_core, hdev]
  rfl

/-- A module that has come up, its cores running with nothing under way. -/
def cameUp : State := { State.reset with
  boot := { State.reset.boot with supply := .inRange, stage := 9, resetN := true }
  eci := { State.reset.eci with devState := .ready } }

/-- Refutes O34: the statement has a DEVICE_STORE without an answer wait with the value 0, while the model keeps the value to be stored, which
DEV_TIMEOUT may still perform. A store of 100 to COH_DEV_TIMEOUT waits with 100. -/
theorem not_deviceAccessesOfCores : ¬ Obligations.DeviceAccessesOfCores := by
  unfold Obligations.DeviceAccessesOfCores
  rintro ⟨hreach, -⟩
  have hrun : cameUp.coreRuns 0 = true := by decide +kernel
  have hpending : (cameUp.core 0).pending = none := by decide +kernel
  have hform : deviceFaults (0x038000002340 : BitVec 48).toNat 4 .plain = false := by decide
  have htype : (cameUp.coreWorks 0).memType (0x038000002340 : BitVec 48).toNat ≠ .absent := by decide +kernel
  have hsb : (cameUp.core 0).sb = [] := by decide +kernel
  have hdev : (cameUp.core 0).dev = [] := by decide +kernel
  obtain ⟨-, hready⟩ := hreach cameUp 0 0x038000002340 0 100 4 .plain false hrun
  have hdrain : (cameUp.coreWorks 0).drainAll 0 = cameUp.coreWorks 0 := State.drainAll_of_empty (by rw [State.coreWorks_core, hsb])
  obtain ⟨-, t, hstore, hwaits⟩ := ((hready hpending).2 hform htype (by rw [hdrain, State.coreWorks_core, hsb])
    (by rw [hdrain, State.coreWorks_core, hdev])).1 rfl
  obtain ⟨u, hstore', hkeeps⟩ := exec_deviceStore_unanswered hrun hpending hform htype hsb hdev 0 100
  obtain rfl : t = u := Host.Outcome.next.inj (hstore.symm.trans hstore')
  have hval := congrArg (List.map DevAcc.val) (hwaits.symm.trans hkeeps)
  exact absurd hval (by decide)

end Sys2Proof.Machine
end

section
/-!
PROOFS. Coherent requests, snoops, answers and write-backs (R285, R300 to R304, R306).
-/

namespace Sys2Proof.Machine

/-! ## The first element of a kind -/

/-- A change of the first element of a kind leaves what it keeps of every element as it was. -/
theorem map_find?_updFirst {α β : Type} (l : List α) (p : α → Bool) {q : α → Bool} {f : α → α} {g : α → β} (hq : ∀ a, q (f a) = q a)
    (hg : ∀ a, g (f a) = g a) : ((updFirst l p f).find? q).map g = (l.find? q).map g := by
  induction l with
  | nil => rfl
  | cons a l ih => cases hp : p a <;> cases hqa : q a <;> simp [updFirst, hp, hqa, hq, hg, ih]

/-- The first element of a kind after its change. -/
theorem find?_updFirst {α : Type} (l : List α) {p : α → Bool} {f : α → α} (hp : ∀ a, p (f a) = p a) :
    (updFirst l p f).find? p = (l.find? p).map f := by
  induction l with
  | nil => rfl
  | cons a l ih => cases h : p a <;> simp [updFirst, h, hp, ih]

theorem any_updFirst {α : Type} (l : List α) (p : α → Bool) {q : α → Bool} {f : α → α} (hq : ∀ a, q (f a) = q a) :
    (updFirst l p f).any q = l.any q := by
  induction l with
  | nil => rfl
  | cons a l ih => cases h : p a <;> simp [updFirst, h, hq, ih]

/-! ## Requests after a change -/

theorem State.req_updReq {s : State} {id : Nat} {f : CohReq → CohReq} (hf : ∀ x, (f x).id = x.id := by intro _; rfl) :
    (s.updReq id f).req id = (s.req id).map f :=
  find?_updFirst s.coh.reqs fun x => congrArg (· == id) (hf x)

/-- Two changes of one request are one. -/
theorem State.updReq_updReq (s : State) (id : Nat) {f : CohReq → CohReq} (g : CohReq → CohReq)
    (hf : ∀ x, (f x).id = x.id := by intro _; rfl) :
    (s.updReq id f).updReq id g = s.updReq id fun x => g (f x) :=
  congrArg (fun l => s.updCoh fun x => { x with reqs := l }) (updFirst_updFirst s.coh.reqs g fun x => congrArg (· == id) (hf x))

/-! ## COH_REQUEST -/

theorem State.arrive_eq (s : State) (r : CohReq) :
    s.arrive r = s.updReq r.id fun x => if s.blocked r then { x with phase := .nacked } else x.start := by
  rw [State.arrive]
  split <;> rfl

/-- A core may have 32 misses outstanding (Table 11.1). -/
def State.manyMisses (s : State) (a : Agent) : Bool :=
  match a with
  | .core _ => decide (32 ≤ (s.coh.reqs.filter fun r => r.agent == a).length)
  | .sched _ | .dma _ | .cluster | .ioProxy | .kEngines => false

theorem State.manyMisses_eq_false {s : State} {a : Agent} (h : ∀ c, a = .core c → (s.coh.reqs.filter fun r => r.agent == a).length < 32) :
    s.manyMisses a = false := by
  cases a with
  | core c => exact decide_eq_false (Nat.not_le_of_lt (h c rfl))
  | _ => rfl

/-- A state with a new request at the end of its list. -/
def State.enterReq (s : State) (a : Agent) (line : Nat) (k : CohKind) : State := s.ok.updCoh fun x =>
  { x with reqs := x.reqs ++ [{ id := s.coh.nextReq, agent := a, line := line, kind := k }], nextReq := x.nextReq + 1 }

theorem exec_cohRequest {s : State} {a : Agent} {line : BitVec 42} {k : CohKind} (hdram : isDram (64 * line.toNat) = true)
    (hpop : s.populated (64 * line.toNat) = true) (hmay : mayAsk a k = true) (hneed : s.satisfied a line.toNat k = false)
    (hnew : ∀ r ∈ s.coh.reqs, r.agent = a → r.line ≠ line.toNat) (hfew : s.manyMisses a = false) :
    exec (.cohRequest a line k) s = .next ((s.enterReq a line.toNat k).arrive { id := s.coh.nextReq, agent := a, line := line.toNat, kind := k }) := by
  have hx : exec (.cohRequest a line k) s = execCohRequest a line k s := rfl
  have hnone : ((s.coh.reqs.filter fun r => r.agent == a).any fun r => r.line == line.toNat) = false := by
    simpa [List.any_eq_false] using hnew
  rw [hx, execCohRequest]
  dsimp only
  rw [hdram, hpop, hmay, hneed, hnone]
  cases a with
  | core c => exact congrArg _ (if_neg (ne_true_of_eq_false hfew))
  | _ => rfl

theorem coherentRequestsAreOrdered : Claim.CoherentRequestsAreOrdered := by
  intro s a line k hdram hpop hmay hneed hnew hfew hfresh r u
  have hu : s.enterReq a line.toNat k = u := rfl
  have hreq : u.req r.id = some r := by
    have hnone : s.coh.reqs.find? (·.id == s.coh.nextReq) = none := hfresh
    show (s.coh.reqs ++ [r]).find? (·.id == s.coh.nextReq) = some r
    simp [List.find?_append, hnone, r]
  refine ⟨_, exec_cohRequest hdram hpop hmay hneed hnew (State.manyMisses_eq_false hfew), ?_, ?_⟩
  · rw [hu, State.arrive_eq, State.req_updReq fun x => by split <;> rfl, hreq, Option.map_some]
    rfl
  · rw [hu, State.arrive_eq]
    rfl

/-! ## COH_SNOOP -/

/-- An agent's answer to a snoop is on its way. -/
def State.heard (s : State) (a : Agent) (id : Nat) (nack : Bool) : State :=
  s.updReq id fun x => { x with waiting := x.waiting.filter (· != a), answers := x.answers ++ [(a, nack)] }

/-- A reservation of the line by this agent for the request (own) or for another. -/
def State.gave (s : State) (a : Agent) (r : CohReq) (own : Bool) : Bool :=
  !r.escalates && s.coh.reservations.any fun p => p.line == r.line && p.owner == a && (p.req == r.id) == own

theorem State.gave_false_iff {s : State} {a : Agent} {r : CohReq} : s.gave a r false = true ↔
    r.escalates = false ∧ ∃ p ∈ s.coh.reservations, p.line = r.line ∧ p.owner = a ∧ p.req ≠ r.id := by
  simp [State.gave, List.any_eq_true, and_assoc]

theorem State.gave_true_iff {s : State} {a : Agent} {r : CohReq} : s.gave a r true = true ↔
    r.escalates = false ∧ ∃ p ∈ s.coh.reservations, p.line = r.line ∧ p.owner = a ∧ p.req = r.id := by
  simp [State.gave, List.any_eq_true, and_assoc]

/-- In owner-ordered mode an owner reserves its turn for the first request that it hears (R306). -/
def State.reserves (s : State) (a : Agent) (r : CohReq) (l : CLine) : Bool :=
  s.ownerOrdered r.line && (l.st == .m || l.st == .e) && !r.escalates && !s.gave a r true

theorem State.reserves_iff {s : State} {a : Agent} {r : CohReq} {l : CLine} : s.reserves a r l = true ↔
    s.ownerOrdered r.line = true ∧ (l.st = .m ∨ l.st = .e) ∧ r.escalates = false ∧
      ¬ ∃ p ∈ s.coh.reservations, p.line = r.line ∧ p.owner = a ∧ p.req = r.id := by
  have hgave := s.gave_true_iff (a := a) (r := r)
  simp only [State.reserves, Bool.and_eq_true, Bool.or_eq_true, Bool.not_eq_true', beq_iff_eq, and_assoc, ← Bool.not_eq_true, hgave, not_and]
  exact and_congr_right fun _ => and_congr_right fun _ => and_congr_right fun h => ⟨fun k => k h, fun k _ => k⟩

/-- The owner's reservation of its turn. -/
def State.reserved (s : State) (a : Agent) (r : CohReq) (l : CLine) : State :=
  if s.reserves a r l then
    s.ok.updCoh fun x => { x with reservations := x.reservations ++ [{ line := r.line, req := r.id, owner := a }] }
  else s.ok

/-- What a holder of the line does: it gives it up to S or I, and a dirty line goes back with a NACK (R302). -/
def State.giveUp (s : State) (a : Agent) (r : CohReq) (l : CLine) : State :=
  let u := if r.kind = .read then s.shareHeld a r.line else s.dropHeld a r.line
  if l.st = .m then (u.updReq r.id fun x => { x with writeback := some (a, l.data), backPoison := l.poison }).heard a r.id true
  else u.heard a r.id false

section
variable {s : State} {a : Agent} {r : CohReq} (hreq : s.req r.id = some r) (hphase : r.phase = .snooping) (ha : a ∈ r.waiting)
include hreq hphase ha

theorem exec_cohSnoop_missed (hl : s.held a r.line = none) : exec (.cohSnoop a r.id) s = .next (s.ok.heard a r.id (s.gave a r false)) := by
  have hx : exec (.cohSnoop a r.id) s = execCohSnoop a r.id s := rfl
  have hheard : (r.phase != .snooping || !r.waiting.contains a) = false := by simp [hphase, ha]
  rw [hx, execCohSnoop, hreq]
  dsimp only
  rw [hheard, hl]
  rfl

theorem exec_cohSnoop_held {l : CLine} (hl : s.held a r.line = some l) : exec (.cohSnoop a r.id) s =
    .next (if s.gave a r false then s.ok.heard a r.id true else (s.reserved a r l).giveUp a r l) := by
  have hx : exec (.cohSnoop a r.id) s = execCohSnoop a r.id s := rfl
  have hheard : (r.phase != .snooping || !r.waiting.contains a) = false := by simp [hphase, ha]
  rw [hx, execCohSnoop, hreq]
  dsimp only
  rw [hheard, hl]
  simp only [State.giveUp, ← beq_iff_eq (a := r.kind), ← beq_iff_eq (a := l.st)]
  rfl

end

theorem snoopsTakeTheLine : Claim.SnoopsTakeTheLine := by
  intro s a r hreq hphase ha heard other mine
  refine ⟨fun hother => ?_, fun hother => ?_⟩
  · have hgave := State.gave_false_iff.2 hother
    cases hl : s.held a r.line with
    | none => rw [exec_cohSnoop_missed hreq hphase ha hl, hgave]; rfl
    | some l => rw [exec_cohSnoop_held hreq hphase ha hl, if_pos hgave]; rfl
  · have hgave := mt State.gave_false_iff.1 hother
    refine ⟨fun hl => ?_, fun l v hl hmine hnot => ?_⟩
    · rw [exec_cohSnoop_missed hreq hphase ha hl, eq_false_of_ne_true hgave]
      rfl
    · have hv : s.reserved a r l = v := by
        by_cases h : s.reserves a r l = true
        · rw [State.reserved, if_pos h, hmine (State.reserves_iff.1 h)]
          rfl
        · rw [State.reserved, if_neg h, hnot (mt State.reserves_iff.2 h)]
      rw [exec_cohSnoop_held hreq hphase ha hl, if_neg hgave, hv]
      exact ⟨fun hst => congrArg _ (if_neg hst), fun hst => congrArg _ (if_pos hst)⟩

/-! ## COH_SNOOP_ANSWER -/

/-- A request with an answer of an agent taken off. -/
def CohReq.answered (r : CohReq) (a : Agent) (nack : Bool) : CohReq := { r with answers := dropFirst r.answers (· == (a, nack)) }

/-- A NACK stands while its write-back is still to arrive (R304). -/
def CohReq.noted (r : CohReq) (nack : Bool) : CohReq := { r with nackSeen := r.nackSeen || (nack && r.writeback.isSome) }

def CohReq.grant (r : CohReq) : CohReq := { r with phase := .granted }

theorem exec_cohSnoopAnswer {s : State} {a : Agent} {r : CohReq} {b : Bool} (hreq : s.req r.id = some r)
    (hans : r.answers.find? (·.1 == a) = some (a, b)) :
    let u := s.ok.updReq r.id (·.answered a b)
    exec (.cohSnoopAnswer a r.id) s = .next (
      if r.phase ≠ .snooping then u
      else if b = true ∧ r.escalates = false then u.updReq r.id fun x => { x with phase := .nacked }
      else (u.updReq r.id (·.noted b)).trySend r.id) := by
  have hx : exec (.cohSnoopAnswer a r.id) s = execCohSnoopAnswer a r.id s := rfl
  rw [hx, execCohSnoopAnswer, hreq]
  dsimp only
  rw [hans]
  simp only [bne_iff_ne, Bool.and_eq_true, Bool.not_eq_true']
  rfl

/-! ## Grants sent -/

/-- May the grant of a request be sent: every answer is in, none a NACK that stands, and no write-back of the line is on its way. -/
def State.sendable (s : State) (r : CohReq) : Bool :=
  r.phase == .snooping && r.waiting.isEmpty && r.answers.isEmpty && !r.nackSeen &&
    !s.coh.reqs.any fun x => x.line == r.line && x.writeback.isSome

/-- A change that leaves lines and write-backs alone makes no grant sendable. -/
theorem State.sendable_updReq (s : State) (id : Nat) {f : CohReq → CohReq} (r : CohReq)
    (hf : ∀ x, ((f x).line == r.line && (f x).writeback.isSome) = (x.line == r.line && x.writeback.isSome) := by intro _; rfl) :
    (s.updReq id f).sendable r = s.sendable r :=
  congrArg (fun b => r.phase == .snooping && r.waiting.isEmpty && r.answers.isEmpty && !r.nackSeen && !b) (any_updFirst s.coh.reqs _ hf)

theorem State.trySend_of_sendable {s : State} {r : CohReq} {id : Nat} (hreq : s.req id = some r) (h : s.sendable r = true) :
    s.trySend id = s.updReq id CohReq.grant := by
  rw [State.trySend, hreq]
  exact if_pos h

/-- The last answer, clean, to a request whose line no write-back is on its way to sends its grant. -/
theorem exec_cohSnoopAnswer_last {s : State} {a : Agent} {r : CohReq} (hreq : s.req r.id = some r) (hphase : r.phase = .snooping)
    (hwaiting : r.waiting = []) (hans : r.answers = [(a, false)]) (hseen : r.nackSeen = false)
    (hback : ∀ x ∈ s.coh.reqs, x.line = r.line → x.writeback = none) :
    exec (.cohSnoopAnswer a r.id) s = .next (s.ok.updReq r.id fun x => ((x.answered a false).noted false).grant) := by
  have hfind : r.answers.find? (·.1 == a) = some (a, false) := by simp [hans]
  have hnone : (s.coh.reqs.any fun x => x.line == r.line && x.writeback.isSome) = false := by
    simpa [List.any_eq_false] using hback
  have hsend : (s.ok.updReq r.id fun x => (x.answered a false).noted false).sendable ((r.answered a false).noted false) = true := by
    rw [State.sendable_updReq]
    simp [State.sendable, CohReq.answered, CohReq.noted, dropFirst, hphase, hwaiting, hans, hseen, hnone]
  have hmet : (s.ok.updReq r.id fun x => (x.answered a false).noted false).req r.id = some ((r.answered a false).noted false) := by
    rw [State.req_updReq]
    exact congrArg _ hreq
  rw [exec_cohSnoopAnswer hreq hfind, if_neg (not_not_intro hphase), if_neg fun h => Bool.false_ne_true h.1, State.updReq_updReq,
    State.trySend_of_sendable hmet hsend, State.updReq_updReq]

/-- A grant sent changes the phase of one request at most. -/
theorem State.trySend_cases (s : State) (id : Nat) :
    s.trySend id = s ∨ s.trySend id = s.updReq id CohReq.grant := by
  rw [State.trySend]
  split
  · exact .inl rfl
  · dsimp only
    split
    · exact .inr rfl
    · exact .inl rfl

@[simp] theorem State.trySend_mem (s : State) (id : Nat) : (s.trySend id).mem = s.mem := by
  rcases s.trySend_cases id with h | h
  · rw [h]
  · rw [h]; rfl

@[simp] theorem State.trySend_cores (s : State) (id : Nat) : (s.trySend id).cores = s.cores := by
  rcases s.trySend_cases id with h | h
  · rw [h]
  · rw [h]; rfl

theorem State.trySend_writeback (s : State) (id k : Nat) :
    ((s.trySend id).req k).map (·.writeback) = (s.req k).map (·.writeback) := by
  rcases s.trySend_cases id with h | h
  · rw [h]
  · rw [h]
    exact map_find?_updFirst s.coh.reqs _ (fun _ => rfl) fun _ => rfl

/-! ## COH_WRITEBACK -/

theorem exec_cohWriteback {s : State} {a : Agent} {r : CohReq} {data : List Byte} (hreq : s.req r.id = some r)
    (hback : r.writeback = some (a, data)) : exec (.cohWriteback a r.id) s = .next (s.ok.backLands r data) := by
  have hx : exec (.cohWriteback a r.id) s = execCohWriteback a r.id s := rfl
  simp [hx, execCohWriteback, hreq, hback]

/-- A store leaves the cores and the coherence state alone. -/
theorem State.store_cores_coh (s : State) (pa : Nat) (data : List Byte) (m : Mark) :
    (s.store pa data m).cores = s.cores ∧ (s.store pa data m).coh = s.coh := by
  let g (u : State) := (u.cores, u.coh)
  have marked (f : State → Nat → Mark) (l : List Nat) (u : State) : g (l.foldl (fun u a => u.setMark a (f u a)) u) = g u :=
    foldl_keeps (g := g) (f := fun u a => u.setMark a (f u a)) (fun _ _ => rfl) l u
  have hput : g (s.putBytes pa data) = g s := by rw [s.putBytes_eq]
  have hmark : g ((s.putBytes pa data).markRange pa data.length m) = g s := (marked ..).trans hput
  have hstore : g (s.store pa data m) = g s := by
    dsimp only [State.store]
    split
    · exact (foldl_keeps (g := g) (f := fun u a => u.bumpGen a) (fun _ _ => rfl) _ _).trans hmark
    · exact hmark
  exact Prod.mk.inj hstore

theorem State.cores_of_unasked {s t : State} (h : t.unasked = s.unasked) : t.cores = s.cores := (congrArg State.cores h :)
theorem State.coh_of_unasked {s t : State} (h : t.unasked = s.unasked) : t.coh = s.coh := (congrArg State.coh h :)

/-- A write-back lands: the line is in memory, and the request waits for it no more. -/
theorem State.backLands_effect {s : State} {r : CohReq} (hreq : s.req r.id = some r) (data : List Byte) :
    ((s.backLands r data).req r.id).map (·.writeback) = some none ∧
    (s.backLands r data).mem = (s.store (64 * r.line) data (if r.backPoison then .unreadable else .none)).mem ∧
    (s.backLands r data).cores = s.cores := by
  unfold State.backLands
  extract_lets s1
  obtain ⟨hcores, hcoh⟩ := s.store_cores_coh (64 * r.line) data (if r.backPoison then .unreadable else .none)
  have hask := (s.store (64 * r.line) data (if r.backPoison then .unreadable else .none)).dramAsk_unasked 1 true false (64 * r.line) 64
  have hreq1 : ((s.store (64 * r.line) data (if r.backPoison then .unreadable else .none)).dramUse 1 true (64 * r.line) 64).req r.id = some r := by
    rw [State.req, State.dramUse, State.coh_of_unasked hask, hcoh]
    exact hreq
  refine ⟨?_, ?_, ?_⟩
  · refine (foldl_keeps (g := fun u : State => (u.req r.id).map (·.writeback)) (fun u k => u.trySend_writeback k r.id) _ s1).trans ?_
    rw [State.req_updReq, hreq1]
    rfl
  · exact (foldl_keeps (g := State.mem) State.trySend_mem _ s1).trans (State.dramUse_mem ..)
  · exact (foldl_keeps (g := State.cores) State.trySend_cores _ s1).trans ((State.cores_of_unasked hask).trans hcores)

theorem answersGrantOrRefuse : Claim.AnswersGrantOrRefuse := by
  intro s a r hreq
  refine ⟨fun b hans => ?_, fun hphase hwaiting hans hseen hback => ?_, fun data hback => ?_⟩
  · rw [exec_cohSnoopAnswer hreq hans]
    refine ⟨fun hphase => congrArg _ (if_pos hphase), fun hphase hb hesc => ?_, fun hphase hclean => ?_⟩
    · rw [if_neg (not_not_intro hphase), if_pos ⟨hb, hesc⟩]
      rfl
    · have hno : ¬ (b = true ∧ r.escalates = false) := by
        rintro ⟨hb, hesc⟩
        rcases hclean with h | h
        · exact Bool.false_ne_true (h.symm.trans hb)
        · exact Bool.false_ne_true (hesc.symm.trans h)
      rw [if_neg (not_not_intro hphase), if_neg hno]
      rfl
  · refine ⟨_, exec_cohSnoopAnswer_last hreq hphase hwaiting hans hseen hback, ?_, rfl⟩
    rw [State.req_updReq]
    refine (congrArg _ hreq).trans ?_
    simp [CohReq.answered, CohReq.noted, CohReq.grant, hans, hseen, dropFirst]
  · exact ⟨_, exec_cohWriteback hreq hback, State.backLands_effect (s := s.ok) hreq data⟩

/-- Settles O36: a request by the line's rounds, a snoop by what the agent holds and whom its turn is reserved for, an answer by whether it is a
NACK, a write-back by what it leaves in memory and in its request. -/
theorem coherentRequestsSnoopAndAnswer : Obligations.CoherentRequestsSnoopAndAnswer :=
  ⟨coherentRequestsAreOrdered, snoopsTakeTheLine, answersGrantOrRefuse⟩

end Sys2Proof.Machine
end

section
/-!
PROOFS. The CXL link, the ways to lose its host, PERST_N and REFCLK, and pushes to the host (R326, R330, R338 to R341, R432).
-/

namespace Sys2Proof.Machine

/-! ## The link's state -/

@[simp] theorem State.ok_linkUp (s : State) : s.ok.linkUp = s.linkUp := rfl

theorem State.leftL0_of_linkUp {s : State} (h : s.linkUp = true) : s.cxl.leftL0 = none :=
  Option.isNone_iff_eq_none.1 (Bool.and_eq_true_iff.1 h).1

theorem State.linkUp_of_leftL0 {s : State} {t : Nat} (h : s.cxl.leftL0 = some t) : s.linkUp = false := by
  rw [State.linkUp, h]
  rfl

theorem State.not_training_of_linkUp {s : State} (h : s.linkUp = true) : s.cxl.state ≠ .training := by
  intro ht
  have hstate := (Bool.and_eq_true_iff.1 h).2
  rw [ht] at hstate
  exact Bool.false_ne_true hstate

theorem Cxl.upState_ne_training (c : Cxl) : c.upState ≠ .training := by
  unfold Cxl.upState
  split
  · decide
  · split <;> decide

theorem Cxl.upState_ne_down (c : Cxl) : c.upState ≠ .down := by
  unfold Cxl.upState
  split
  · decide
  · split <;> decide

theorem State.cxlState_of_ne {s : State} {x : LinkState} (h : s.cxl.state ≠ x) :
    s.cxlState x = s.updCxl fun c => { c with state := x, tState := s.now } := if_neg h

/-- A change of the link's state changes its time besides, and nothing else. -/
theorem State.cxlState_eq (s : State) (x : LinkState) :
    s.cxlState x = s.updCxl fun c => { c with state := x, tState := (s.cxlState x).cxl.tState } := by
  rw [State.cxlState]
  split
  · next h => rw [← h]; rfl
  · rfl

section
variable (s : State) (x : LinkState)

@[simp] theorem State.cxlState_state : (s.cxlState x).cxl.state = x := by rw [s.cxlState_eq]; rfl
@[simp] theorem State.cxlState_leftL0 : (s.cxlState x).cxl.leftL0 = s.cxl.leftL0 := by rw [s.cxlState_eq]; rfl
@[simp] theorem State.cxlState_eci : (s.cxlState x).eci = s.eci := by rw [s.cxlState_eq]; rfl
@[simp] theorem State.cxlState_mem : (s.cxlState x).mem = s.mem := by rw [s.cxlState_eq]; rfl

end

/-! ## Training and recovery -/

theorem exec_cxlLinkUp {s : State} (hstate : s.cxl.state = .training ∨ s.cxl.state = .down) (hleft : s.cxl.leftL0 = none)
    (hperst : s.boot.perstN = true) (hcode : s.cxl.microcode = true) (lanes gt : Nat) : exec (.cxlLinkUp lanes gt) s = .next (
      if lanes < 8 then s.ok.cxlState .down
      else
        let u := s.ok.updCxl fun c => { c with width := if 16 ≤ lanes then 16 else 8, speed := gt }
        u.cxlState u.cxl.upState) := by
  have hx : exec (.cxlLinkUp lanes gt) s = execCxlLinkUp lanes gt s := rfl
  have hdue : ¬ ((s.cxl.state ≠ .training ∧ s.cxl.state ≠ .down) ∨ s.cxl.leftL0.isSome ∨ !s.boot.perstN ∨ !s.cxl.microcode) := by
    simpa [hleft, hperst, hcode, ← or_iff_not_imp_left] using hstate
  rw [hx, execCxlLinkUp, if_neg hdue]

/-- The width that a link trains to, by its good lanes, and its rate give its state. -/
theorem Cxl.upState_trained (c : Cxl) (lanes gt : Nat) :
    ({ c with width := if 16 ≤ lanes then 16 else 8, speed := gt } : Cxl).upState =
      if gt < 32 then .pcieOnly else if lanes < 16 then .degraded else .up := by
  by_cases h : 16 ≤ lanes
  · simp [Cxl.upState, h, Nat.not_lt.2 h]
  · simp [Cxl.upState, h, Nat.lt_of_not_le h]

theorem exec_cxlLinkRecovery {s : State} (h : s.linkUp = true) : exec .cxlLinkRecovery s = .next s.ok.leaveL0 := by
  have hx : exec .cxlLinkRecovery s = execCxlLinkRecovery s := rfl
  rw [hx, execCxlLinkRecovery, if_pos h]

theorem State.leaveL0_of_linkUp {s : State} (h : s.linkUp = true) :
    s.leaveL0 = (s.countExit.updCxl fun c => { c with leftL0 := some s.now }).cxlState .training := by
  rw [State.leaveL0, h]
  rfl

@[simp] theorem State.countExit_eci (s : State) : s.countExit.eci = s.eci := rfl
@[simp] theorem State.countExit_mem (s : State) : s.countExit.mem = s.mem := rfl
@[simp] theorem State.countExit_cxl (s : State) : s.countExit.cxl = { s.cxl with retrains := s.cxl.retrains + 1 } := rfl

theorem State.countExit_ctr (s : State) : s.countExit.ctr .cxlRetrain = s.ctr .cxlRetrain + 1 := s.count_ctr_same .cxlRetrain

/-- An exit from L0 is counted in the link, the counters and the lifetime record; the link then trains. -/
theorem State.leaveL0_eq {s : State} (h : s.linkUp = true) :
    s.leaveL0 = s.countExit.updCxl fun c => { c with state := .training, leftL0 := some s.now, tState := s.now } := by
  have hne : (s.countExit.updCxl fun c => { c with leftL0 := some s.now }).cxl.state ≠ .training := State.not_training_of_linkUp (s := s) h
  rw [State.leaveL0_of_linkUp h, State.cxlState_of_ne hne]
  rfl

theorem exec_cxlLinkL0 {s : State} {t0 : Nat} (hleft : s.cxl.leftL0 = some t0) (hnow : s.now ≤ t0 + 50000000) : exec .cxlLinkL0 s =
    .next ((s.ok.updCxl fun c => { c with leftL0 := none }).cxlState s.cxl.upState).drainEgress := by
  have hx : exec .cxlLinkL0 s = execCxlLinkL0 s := rfl
  rw [hx, execCxlLinkL0, hleft]
  exact congrArg _ (if_pos hnow)

theorem cxlLinkTrains : Claim.CxlLinkTrains := by
  intro s lanes gt
  refine ⟨fun hstate hleft hperst hcode => ?_, fun hup => ?_, fun t0 hleft hnow hstate => ?_⟩
  · rw [exec_cxlLinkUp hstate hleft hperst hcode]
    refine ⟨fun hlanes htraining => ?_, fun hlanes => ?_⟩
    · have hne : s.ok.cxl.state ≠ .down := by rw [State.ok_cxl, htraining]; decide
      rw [if_pos hlanes, State.cxlState_of_ne hne]
      rfl
    · have hne (c : Cxl) : s.cxl.state ≠ c.upState := by
        rcases hstate with h | h
        · rw [h]; exact c.upState_ne_training.symm
        · rw [h]; exact c.upState_ne_down.symm
      rw [if_neg (Nat.not_lt.2 hlanes), ← Cxl.upState_trained s.cxl]
      exact congrArg Host.Outcome.next (State.cxlState_of_ne (hne _))
  · refine ⟨_, exec_cxlLinkRecovery hup, ?_⟩
    rw [State.leaveL0_eq (s := s.ok) hup]
    exact ⟨rfl, rfl, rfl, s.ok.countExit_ctr, rfl, rfl⟩
  · have hne : (s.ok.updCxl fun c => { c with leftL0 := none }).cxl.state ≠ s.cxl.upState := by
      rw [State.updCxl_cxl, State.ok_cxl, hstate]
      exact (Cxl.upState_ne_training _).symm
    rw [exec_cxlLinkL0 hleft hnow, State.cxlState_of_ne hne]
    rfl

/-! ## What ends with a session leaves the link alone -/

@[simp] theorem State.finish_cxl (s : State) (r : RecRef) (st : Status) (d h x : Nat) : (s.finish r st d h x).cxl = s.cxl := by
  unfold State.finish
  extract_lets s1
  exact (State.nextBad_record ..).cxl.trans (State.final_record ..).cxl

@[simp] theorem State.freeBlock_cxl (s : State) (m : BitVec 32) (sub : Nat) : (s.freeBlock m sub).cxl = s.cxl := by
  unfold State.freeBlock
  split
  · rfl
  · extract_lets s1
    split <;> rfl

@[simp] theorem State.dropSeq_cxl (s : State) (q : Seq) : (s.dropSeq q).cxl = s.cxl := by
  unfold State.dropSeq
  extract_lets s1
  refine foldl_keeps (g := State.cxl) (fun u sub => ?_) _ s1
  split
  · rfl
  · exact u.freeBlock_cxl ..

@[simp] theorem State.closeSeq_cxl (s : State) (m : BitVec 32) (h : Nat) : (s.closeSeq m h).cxl = s.cxl := by
  unfold State.closeSeq
  split
  · rfl
  · split
    · rfl
    · exact s.dropSeq_cxl _

@[simp] theorem State.dropCopy_cxl (s : State) (place n : Nat) : (s.dropCopy place n).cxl = s.cxl := by
  refine (foldl_keeps (g := State.cxl) (fun u b => ?_) _ _).trans (State.updTiers_cxl ..)
  split <;> rfl

@[simp] theorem State.nowInstalled_cxl (s : State) (m : BitVec 32) (i : Nat) (o : WObject) (place : Nat) :
    (s.nowInstalled m i o place).cxl = s.cxl :=
  foldl_keeps (g := State.cxl) (f := fun u (x : Installed) => u.dropCopy x.place x.frames) (fun u _ => u.dropCopy_cxl ..) _ s

@[simp] theorem State.switchCopies_cxl (s : State) (m : Model) : (s.switchCopies m).cxl = s.cxl := by
  refine foldl_keeps (g := State.cxl) (fun u x => ?_) _ s
  split
  · rfl
  · next o _ => exact u.nowInstalled_cxl m.id x.1 o x.2

@[simp] theorem State.evictModel_cxl (s : State) (m : BitVec 32) : (s.evictModel m).cxl = s.cxl := by
  unfold State.evictModel
  extract_lets s' s0 s1 s2 s3
  have h' : s'.cxl = s.cxl := by
    simp only [s']
    split
    · exact s.switchCopies_cxl _
    · rfl
  have h3 : s3.cxl = s.cxl := (foldl_keeps (g := State.cxl) State.dropSeq_cxl _ s').trans h'
  split
  · split
    · exact h3
    · split <;> exact h3
    · split <;> exact h3
    · exact h3
  · exact h3

@[simp] theorem State.dropSession_cxl (s : State) (id : BitVec 16) : (s.dropSession id).cxl = s.cxl := by
  unfold State.dropSession
  split
  · rfl
  · extract_lets s0 s1 s2 s3
    have h1 : s1.cxl = s.cxl := foldl_keeps (g := State.cxl) (fun u _ => u.closeSeq_cxl ..) _ s0
    have h3 : s3.cxl = s.cxl := by
      simp only [s3]
      split
      · exact h1
      · exact (foldl_keeps (g := State.cxl) (fun u _ => u.evictModel_cxl _) _ s2).trans h1
    split <;> exact h3

@[simp] theorem State.tryDetach_cxl (s : State) : s.tryDetach.cxl = s.cxl := by
  unfold State.tryDetach
  split
  · rfl
  · exact (State.dropSession_cxl ..).trans (State.finish_cxl ..)

theorem State.tryDetach_of_none {s : State} (h : s.eci.detaching = []) : s.tryDetach = s := by
  rw [State.tryDetach, h]
  rfl

/-! ## Host loss -/

/-- A waiting record that is written changes the command interface as its record does. -/
@[simp] theorem State.putPost_eci (s : State) (p : Post) : (s.putPost p).eci = (s.cqPut p.q p.body).eci := by
  unfold State.putPost
  extract_lets s1
  split <;> rfl

@[simp] theorem State.putPost_cxl (s : State) (p : Post) : (s.putPost p).cxl = s.cxl := by
  have hput := (s.cqPut_record p.q p.body).cxl
  unfold State.putPost
  extract_lets s1
  split <;> exact hput

/-- The parts of the command interface that a DETACH reads and no record changes. -/
def State.attached (s : State) : List Session × List (RecRef × BitVec 16) := (s.eci.sessions, s.eci.detaching)

theorem State.putPost_attached (s : State) (p : Post) : (s.putPost p).attached = s.attached := by
  rw [State.attached, State.putPost_eci, (s.cqPut_record p.q p.body).eci]
  rfl

theorem State.postsToShadow_attached (s : State) (p : Fin 64 → Bool) : (s.postsToShadow p).attached = s.attached :=
  foldl_keeps (g := State.attached) State.putPost_attached _ _

theorem State.postsToShadow_cxl (s : State) (p : Fin 64 → Bool) : (s.postsToShadow p).cxl = s.cxl :=
  foldl_keeps (g := State.cxl) State.putPost_cxl _ _

theorem State.event_cxl (s : State) (cls : Fin 5) (code : Nat) (unit : BitVec 32) (ses : BitVec 16) (args : Nat) :
    (s.event cls code unit ses args).cxl = s.cxl := (congrArg State.cxl (s.event_unreported ..) :)

/-- A change of some elements that leaves what is looked for as it is changes the element found. -/
theorem find?_updWhere {α : Type} (l : List α) {p q : α → Bool} {f : α → α} (hq : ∀ a, q (f a) = q a) :
    (updWhere l p f).find? q = (l.find? q).map fun a => if p a then f a else a := by
  have h : q ∘ (fun a => if p a then f a else a) = q := by
    funext a
    cases hp : p a <;> simp [hp, hq]
  rw [updWhere, List.find?_map, h]

section
variable (s : State) (who : Session → Bool) (gone : Egress → Bool) (cause session : Nat)

/-- Host loss takes the lost requests out of the egress and changes nothing else of the link. -/
theorem State.loseHost_cxl : (s.loseHost who gone cause session).cxl = { s.cxl with egress := s.cxl.egress.filter fun e => !gone e } := by
  unfold State.loseHost
  extract_lets ids bound dead s1 s2 s3 s4
  have h2 : s2.cxl = s1.cxl := by
    refine foldl_keeps (g := State.cxl) (fun u e => ?_) dead s1
    split <;> rfl
  rw [State.tryDetach_cxl, State.event_cxl, State.count_cxl, State.postsToShadow_cxl]
  exact h2

/-- The sessions that a host loss takes are lost and stay attached, where no DETACH waits. -/
theorem State.loseHost_session {i : BitVec 16} {x : Session} (hdetach : s.eci.detaching = []) (hx : s.session i = some x) :
    (s.loseHost who gone cause session).session i = some (if who x then { x with lost := true } else x) := by
  unfold State.loseHost
  extract_lets ids bound dead s1 s2 s3 s4
  have h2 : s2.eci = s.eci := by
    refine foldl_keeps (g := State.eci) (fun u e => ?_) dead s1
    split <;> rfl
  obtain ⟨hs4, hd4⟩ := Prod.mk.inj (State.postsToShadow_attached s3 fun q => bound (s3.pair q))
  have hd : ((s4.count .hostLoss).event 0 0x0005 s4.moduleId (BitVec.ofNat 16 session) cause).eci = s4.eci := State.event_zero_eci ..
  rw [State.tryDetach_of_none]
  · rw [State.session, hd, hs4]
    refine (find?_updWhere (f := fun x => { x with lost := true }) s2.eci.sessions fun _ => rfl).trans ?_
    rw [h2]
    exact congrArg _ hx
  · rw [hd, hd4]
    exact (congrArg Eci.detaching h2).trans hdetach

end

theorem State.portLoss_cxl (s : State) (cause : Nat) : (s.portLoss cause).cxl = { s.cxl with egress := [] } := by
  refine (s.loseHost_cxl ..).trans ?_
  simp only [Bool.not_true, List.filter_false]

theorem State.portLoss_session {s : State} {i : BitVec 16} {x : Session} (hdetach : s.eci.detaching = []) (hx : s.session i = some x)
    (hport : x.onPkg = false) (cause : Nat) : (s.portLoss cause).session i = some { x with lost := true } := by
  refine (s.loseHost_session _ _ _ _ hdetach hx).trans ?_
  cases hlost : x.lost
  · rw [if_pos (by rw [hport]; rfl)]
  · rw [if_neg (by simp), ← hlost]

/-! ## The ways to lose the host -/

/-- The host of a state is lost under a cause, which leaves the link in a state. -/
structure State.HostLost (s : State) (cause : Nat) (after : LinkState) (t : State) : Prop where
  eci : t.eci = (s.portLoss cause).eci
  mem : t.mem = (s.portLoss cause).mem
  state : t.cxl.state = after
  leftL0 : t.cxl.leftL0 = none

theorem State.portLoss_hostLost {s : State} (h : s.cxl.leftL0 = none) (cause : Nat) : s.HostLost cause s.cxl.state (s.portLoss cause) :=
  ⟨rfl, rfl, by rw [State.portLoss_cxl], by rw [State.portLoss_cxl]; exact h⟩

theorem State.HostLost.countExit {s t : State} {cause : Nat} {after : LinkState} (h : s.HostLost cause after t) :
    s.HostLost cause after t.countExit := ⟨t.countExit_eci.trans h.eci, t.countExit_mem.trans h.mem, h.state, h.leftL0⟩

theorem State.HostLost.decoderReset {s t : State} {cause : Nat} {after : LinkState} (h : s.HostLost cause after t) :
    s.HostLost cause after t.decoderReset := ⟨h.eci, h.mem, h.state, h.leftL0⟩

theorem State.linkLost_hostLost (s : State) (cause : Nat) (after : LinkState) : s.HostLost cause after (s.linkLost cause after) := by
  have h : s.HostLost cause after (((s.portLoss cause).updCxl fun c => { c with leftL0 := none }).cxlState after) :=
    ⟨(State.cxlState_eci ..).trans (State.updCxl_eci ..), (State.cxlState_mem ..).trans (State.updCxl_mem ..), State.cxlState_state ..,
      (State.cxlState_leftL0 ..).trans (congrArg Cxl.leftL0 (State.updCxl_cxl ..))⟩
  unfold State.linkLost
  extract_lets t
  split
  · exact h.countExit
  · exact h

theorem State.HostLost.session {s t : State} {cause : Nat} {after : LinkState} (h : s.HostLost cause after t) {i : BitVec 16} {x : Session}
    (hx : s.session i = some x) (hport : x.onPkg = false) (hdetach : s.eci.detaching = []) : t.session i = some { x with lost := true } := by
  rw [State.session, h.eci]
  exact State.portLoss_session hdetach hx hport cause

/-- An event of the port that loses the host, from a state with the same command interface, does what the statement asks. -/
theorem exec_loses {s u t : State} {i : Instr} {cause : Nat} {after : LinkState} (hx : exec i s = .next t) (hu : u.eci = s.eci)
    (h : u.HostLost cause after t) :
    ∃ t, exec i s = .next t ∧ t.eci = (State.portLoss u cause).eci ∧ t.mem = (State.portLoss u cause).mem ∧ t.cxl.state = after ∧
      t.cxl.leftL0 = none ∧ ∀ i x, s.session i = some x → x.onPkg = false → s.eci.detaching = [] →
        t.session i = some { x with lost := true } := by
  refine ⟨t, hx, h.eci, h.mem, h.state, h.leftL0, fun i x hs hport hdetach => h.session ?_ hport ?_⟩
  · rw [State.session, hu]
    exact hs
  · rw [hu]
    exact hdetach

theorem State.linkAlive_iff {s : State} : s.linkAlive = true ↔ s.linkUp = true ∨ s.cxl.leftL0.isSome = true := Bool.or_eq_true_iff

theorem exec_cxlLinkTimeout {s : State} {t0 : Nat} (hleft : s.cxl.leftL0 = some t0) (hnow : t0 + 50000000 ≤ s.now) :
    exec .cxlLinkTimeout s = .next (s.ok.linkLost 0 .down) := by
  have hx : exec .cxlLinkTimeout s = execCxlLinkTimeout s := rfl
  rw [hx, execCxlLinkTimeout, hleft]
  exact congrArg _ (if_pos hnow)

theorem exec_cxlHotReset {s : State} (h : s.linkAlive = true) : exec .cxlHotReset s = .next (s.ok.linkLost 1 .training).decoderReset :=
  congrArg Host.Outcome.next (if_pos h)

theorem exec_cxlLinkDisable {s : State} (h : s.linkAlive = true) : exec .cxlLinkDisable s = .next (s.ok.linkLost 1 .down).decoderReset :=
  congrArg Host.Outcome.next (if_pos h)

theorem exec_cxlFlr {s : State} (h : s.linkUp = true) : exec .cxlFlr s = .next (s.ok.portLoss 2) :=
  congrArg Host.Outcome.next (if_pos h)

theorem exec_perstNAssert {s : State} (hperst : s.boot.perstN = true) (hdev : s.eci.devState ≠ .uninit) (hstate : s.cxl.state ≠ .down) :
    exec .perstNAssert s = .next ((s.ok.updBoot fun b => { b with perstN := false }).linkLost 3 .down).decoderReset := by
  have hx : exec .perstNAssert s = execPerstNAssert s := rfl
  rw [hx, execPerstNAssert, hperst]
  exact congrArg _ (if_neg (not_or.2 ⟨hdev, hstate⟩))

theorem portEventsLoseTheHost : Claim.PortEventsLoseTheHost := by
  intro s halive
  have hlive := State.linkAlive_iff.2 halive
  refine ⟨fun t0 hleft hnow => ?_, ?_, ?_, fun hup => ?_, fun hperst hdev hstate => ?_⟩
  · exact exec_loses (exec_cxlLinkTimeout hleft hnow) rfl (State.linkLost_hostLost ..)
  · exact exec_loses (exec_cxlHotReset hlive) rfl (State.linkLost_hostLost ..).decoderReset
  · exact exec_loses (exec_cxlLinkDisable hlive) rfl (State.linkLost_hostLost ..).decoderReset
  · exact exec_loses (exec_cxlFlr hup) rfl (State.portLoss_hostLost (s := s.ok) (State.leftL0_of_linkUp hup) 2)
  · exact exec_loses (exec_perstNAssert hperst hdev hstate) rfl
      (State.linkLost_hostLost { s with out := .done, boot := { s.boot with perstN := false } } 3 .down).decoderReset

/-! ## PERST_N and REFCLK -/

theorem exec_perstNDeassert {s : State} (h : s.boot.perstN = false) : exec .perstNDeassert s =
    .next (let u := s.ok.updBoot fun b => { b with perstN := true }
      if s.cxl.microcode then u.cxlState .training else u) := by
  have hx : exec .perstNDeassert s = execPerstNDeassert s := rfl
  rw [hx, execPerstNDeassert, h]
  rfl

theorem exec_cxlConfigRequest (s : State) :
    exec .cxlConfigRequest s = .next (if s.cxl.microcode ∧ s.boot.perstN then s.ok else s.answer .configRetry) := rfl

/-- A port that was UP trains again, and is counted. -/
def DnbPort.retrained (x : DnbPort) (now : Nat) : DnbPort :=
  if x.state.isUp then { x with state := .training, leftUp := some now, tState := now, retrains := x.retrains + 1, replays := [] } else x

theorem DnbPort.retrained_retrained (x : DnbPort) (now : Nat) : (x.retrained now).retrained now = x.retrained now := by
  cases h : x.state.isUp
  · simp [DnbPort.retrained, h]
  · have hr : x.retrained now = { x with state := .training, leftUp := some now, tState := now, retrains := x.retrains + 1, replays := [] } :=
      if_pos h
    rw [hr]
    rfl

/-- A port that trains again changes the ports, the counters and the lifetime record. -/
theorem State.retrainPort_eq (s : State) (p : Fin 4) : s.retrainPort p =
    { s with dnb := (s.retrainPort p).dnb, logs := (s.retrainPort p).logs, ctrs := (s.retrainPort p).ctrs } := by
  rw [State.retrainPort]
  split <;> rfl

theorem State.retrainPort_port (s : State) (p k : Fin 4) :
    (s.retrainPort p).port k = if k = p then (s.port k).retrained s.now else s.port k := by
  rw [State.retrainPort]
  by_cases hk : k = p
  · subst hk
    cases h : (s.port k).state.isUp
    · simp [DnbPort.retrained, h]
    · simp only [Bool.not_true, Bool.false_eq_true, if_false, if_true, DnbPort.retrained, h]
      exact pick_upd_same ..
  · rw [if_neg hk]
    split
    · rfl
    · exact pick_upd_other _ hk _

theorem State.retrainPorts_port (l : List (Fin 4)) (s : State) (k : Fin 4) :
    (l.foldl State.retrainPort s).port k = if k ∈ l then (s.port k).retrained s.now else s.port k := by
  induction l generalizing s with
  | nil => rfl
  | cons p l ih =>
    have hnow : (s.retrainPort p).now = s.now := by rw [s.retrainPort_eq]
    rw [List.foldl_cons, ih, hnow, s.retrainPort_port]
    by_cases hp : k = p
    · simp [hp, DnbPort.retrained_retrained]
    · simp [hp]

/-- What the Denbel ports' training leaves alone. -/
theorem State.retrainPorts_keep (l : List (Fin 4)) (s : State) :
    let t := l.foldl State.retrainPort s
    t.boot = s.boot ∧ t.mem = s.mem ∧ t.eci = s.eci ∧ t.cxl = s.cxl := by
  have h := foldl_keeps (g := fun u : State => (u.boot, u.mem, u.eci, u.cxl)) (f := State.retrainPort)
    (fun u p => by rw [u.retrainPort_eq]) l s
  simpa only [Prod.mk.injEq] using h

theorem exec_refclkLoss {s : State} (hhold : s.boot.holdover = false) (hsupply : s.boot.supply.on = true) : exec .refclkLoss s =
    .next ((List.finRange 4).foldl State.retrainPort (s.ok.updBoot fun b => { b with holdover := true }).leaveL0) := by
  have hx : exec .refclkLoss s = execRefclkLoss s := rfl
  simp [hx, execRefclkLoss, hhold, hsupply]

theorem State.leaveL0_keeps (s : State) :
    s.leaveL0.boot = s.boot ∧ s.leaveL0.mem = s.mem ∧ s.leaveL0.eci = s.eci ∧ s.leaveL0.dnb = s.dnb ∧ s.leaveL0.now = s.now := by
  cases h : s.linkUp
  · rw [State.leaveL0, h]
    exact ⟨rfl, rfl, rfl, rfl, rfl⟩
  · rw [State.leaveL0_eq h]
    exact ⟨rfl, rfl, rfl, rfl, rfl⟩

theorem trainingWaitsForPerst : Claim.TrainingWaitsForPerst := by
  intro s
  refine ⟨fun hperst hstate => ?_, fun hcode hperst => ?_, fun hnot => ?_, fun hhold hsupply => ?_⟩
  · have hne : (s.ok.updBoot fun b => { b with perstN := true }).cxl.state ≠ .training := hstate
    rw [exec_perstNDeassert hperst]
    dsimp only
    rw [State.cxlState_of_ne hne]
    rfl
  · rw [exec_cxlConfigRequest, if_pos ⟨hcode, hperst⟩]
    rfl
  · have hwait : ¬ (s.cxl.microcode = true ∧ s.boot.perstN = true) := by
      rintro ⟨hcode, hperst⟩
      rcases hnot with h | h
      · exact Bool.false_ne_true (h.symm.trans hcode)
      · exact Bool.false_ne_true (h.symm.trans hperst)
    rw [exec_cxlConfigRequest, if_neg hwait]
    rfl
  · let u := s.ok.updBoot fun b => { b with holdover := true }
    obtain ⟨hboot, hmem, heci, hdnb, hnow⟩ := u.leaveL0_keeps
    obtain ⟨hboot', hmem', heci', hcxl'⟩ := State.retrainPorts_keep (List.finRange 4) u.leaveL0
    refine ⟨_, exec_refclkLoss hhold hsupply, hboot'.trans hboot, hmem'.trans hmem, heci'.trans heci, fun hup => ?_, fun p hp => ?_⟩
    · rw [hcxl', State.leaveL0_eq (s := u) hup]
      rfl
    · have hport : u.leaveL0.port p = s.port p := by rw [State.port, hdnb]; rfl
      rw [State.retrainPorts_port, if_pos (List.mem_finRange p), hport, hnow, DnbPort.retrained, if_pos hp]
      exact ⟨rfl, rfl⟩

/-! ## Pushes to the host -/

theorem exec_hostPushComplete {s : State} {q : Fin 64} {p : Post} (h : s.eci.posts.find? (·.q == q) = some p) :
    exec (.hostPushComplete q) s = .next (if !s.linkUp then s.waits
      else (((s.ok.drainEgress).updEci fun e => { e with posts := dropFirst e.posts (·.q == q) }).putPost p).tryDetach) := by
  have hx : exec (.hostPushComplete q) s = execHostPushComplete q s := rfl
  rw [hx, execHostPushComplete, h]

theorem pushesFollowTheirOrder : Claim.PushesFollowTheirOrder := by
  intro s q p hpost
  rw [exec_hostPushComplete hpost]
  refine ⟨fun hup => ?_, fun u => u.putPost_eci p, fun hdown => ?_⟩
  · rw [hup]
    rfl
  · rw [hdown]
    rfl

/-- Settles O44: the link by the state that its training ends in, each loss of the host by the one loss of the port that it brings about,
REFCLK by the training of each port, and a push by whether the link carries traffic. -/
theorem cxlLinkAndHostPushes : Obligations.CxlLinkAndHostPushes :=
  ⟨cxlLinkTrains, portEventsLoseTheHost, trainingWaitsForPerst, pushesFollowTheirOrder⟩

end Sys2Proof.Machine
end

section
/-!
PROOFS. What every step of the block keeps: each command answers a next state that follows the state it met, and a step on an empty
queue follows it but for the time base; the statements about all steps are read off these two facts.
-/

namespace Sys2Proof.Machine

/-- Every command follows the state it meets: one law of a command for each row of the table. -/
theorem exec_follows {s t : State} (h : Follows s t) (c : Instr) : FollowsNext s (exec c t) :=
  match c with
  | .attach src => execAttach_follows h src
  | .detach src => execDetach_follows h src
  | .reattach src => execReattach_follows h src
  | .modelLoad src => execModelLoad_follows h src
  | .modelLoadComplete op => execModelLoadComplete_follows h op
  | .modelInstall src => execModelInstall_follows h src
  | .modelInstallComplete op => execModelInstallComplete_follows h op
  | .installSwitch model => execInstallSwitch_follows h model
  | .modelEvict src => execModelEvict_follows h src
  | .roleSet src => execRoleSet_follows h src
  | .policySet src => execPolicySet_follows h src
  | .powerCapSet src => execPowerCapSet_follows h src
  | .regionRegister src => execRegionRegister_follows h src
  | .regionRelease src => execRegionRelease_follows h src
  | .seqOpen src => execSeqOpen_follows h src
  | .seqClose src => execSeqClose_follows h src
  | .stepSubmit src => execStepSubmit_follows h src
  | .kvExport src => execKvExport_follows h src
  | .kvImport src => execKvImport_follows h src
  | .kvTransferComplete op => execKvTransferComplete_follows h op
  | .suspend src => execSuspend_follows h src
  | .resume src => execResume_follows h src
  | .cancel src => execCancel_follows h src
  | .longOpSafePoint op => execLongOpSafePoint_follows h op
  | .query src => execQuery_follows h src
  | .countersRead src => execCountersRead_follows h src
  | .logRead src => execLogRead_follows h src
  | .pageRetire src => execPageRetire_follows h src
  | .fwStage src => execFwStage_follows h src
  | .fwStageComplete op => execFwStageComplete_follows h op
  | .fwCommit src => execFwCommit_follows h src
  | .resetScope src => execResetScope_follows h src
  | .scrub src => execScrub_follows h src
  | .scrubComplete op => execScrubComplete_follows h op
  | .eciSqTail q v path => execEciSqTail_follows h q v path
  | .eciCqHead q v => execEciCqHead_follows h q v
  | .eciQCfg q v => execEciQCfg_follows h q v
  | .eciUrgDoorbell v => execEciUrgDoorbell_follows h v
  | .eciBeat v => execEciBeat_follows h v
  | .eciGustDefault v => execEciGustDefault_follows h v
  | .memImbWindow v => execMemImbWindow_follows h v
  | .cohOrderMode k v => execCohOrderMode_follows h k v
  | .cohCfgLock v => execCohCfgLock_follows h v
  | .cohDevTimeout v => execCohDevTimeout_follows h v
  | .capModeSet v => execCapModeSet_follows h v
  | .learnClear v => execLearnClear_follows h v
  | .hdmDecoderCommit ways hostBase hostSize => execHdmDecoderCommit_follows h ways hostBase hostSize
  | .registerWrite offset size v path => execRegisterWrite_follows h offset size v path
  | .sqFetch => execSqFetch_follows h
  | .hostPushComplete q => execHostPushComplete_follows h q
  | .gustExpire model chain => execGustExpire_follows h model chain
  | .stepDispatch model chain => execStepDispatch_follows h model chain
  | .kvAllocate model seq => execKvAllocate_follows h model seq
  | .waveRelease front model chain wave => execWaveRelease_follows h front model chain wave
  | .task sq parity => execTask_follows h sq parity
  | .endTask sq parity => execEndTask_follows h sq parity
  | .loop sq parity => execLoop_follows h sq parity
  | .endLoop sq parity => execEndLoop_follows h sq parity
  | .passMac sq parity => execPassMac_follows h sq parity
  | .passL1 sq parity => execPassL1_follows h sq parity
  | .passL2 sq parity => execPassL2_follows h sq parity
  | .passMaxplus sq parity => execPassMaxplus_follows h sq parity
  | .passMinplus sq parity => execPassMinplus_follows h sq parity
  | .passCmpcount sq parity => execPassCmpcount_follows h sq parity
  | .passEwise sq parity => execPassEwise_follows h sq parity
  | .tileStage sq e parity => execTileStage_follows h sq e parity
  | .tileLoad sq e parity => execTileLoad_follows h sq e parity
  | .rowFetch sq e parity => execRowFetch_follows h sq e parity
  | .rowEntry sq e parity => execRowEntry_follows h sq e parity
  | .sumPromote sq e row col parity => execSumPromote_follows h sq e row col parity
  | .passVerdict sq e => execPassVerdict_follows h sq e
  | .passRepeat sq e parity => execPassRepeat_follows h sq e parity
  | .heldPassEject sq e parity => execHeldPassEject_follows h sq e parity
  | .epilogueRead sq e parity => execEpilogueRead_follows h sq e parity
  | .epilogueWrite sq e parity => execEpilogueWrite_follows h sq e parity
  | .passRetire sq e => execPassRetire_follows h sq e
  | .vopAdd sq parity => execVopAdd_follows h sq parity
  | .vopMul sq parity => execVopMul_follows h sq parity
  | .vopFma sq parity => execVopFma_follows h sq parity
  | .vopMin sq parity => execVopMin_follows h sq parity
  | .vopMax sq parity => execVopMax_follows h sq parity
  | .vopCmp sq parity => execVopCmp_follows h sq parity
  | .vopSelect sq parity => execVopSelect_follows h sq parity
  | .vopExp2 sq parity => execVopExp2_follows h sq parity
  | .vopLog2 sq parity => execVopLog2_follows h sq parity
  | .vopRcp sq parity => execVopRcp_follows h sq parity
  | .vopRsqrt sq parity => execVopRsqrt_follows h sq parity
  | .vopSqrt sq parity => execVopSqrt_follows h sq parity
  | .vopTanh sq parity => execVopTanh_follows h sq parity
  | .vopSigmoid sq parity => execVopSigmoid_follows h sq parity
  | .vopSum sq parity => execVopSum_follows h sq parity
  | .vopRowMax sq parity => execVopRowMax_follows h sq parity
  | .vopRowMin sq parity => execVopRowMin_follows h sq parity
  | .vopNorm sq parity => execVopNorm_follows h sq parity
  | .vopSoftmax sq parity => execVopSoftmax_follows h sq parity
  | .vopRotary sq parity => execVopRotary_follows h sq parity
  | .vopTopk sq parity => execVopTopk_follows h sq parity
  | .vopGather sq parity => execVopGather_follows h sq parity
  | .vopScatter sq parity => execVopScatter_follows h sq parity
  | .vopMerge sq arrival parity => execVopMerge_follows h sq arrival parity
  | .vopMergeRoot sq arrival parity => execVopMergeRoot_follows h sq arrival parity
  | .dma sq parity => execDma_follows h sq parity
  | .dmaProgramStart sq ch parity => execDmaProgramStart_follows h sq ch parity
  | .dmaLoad sq ch parity => execDmaLoad_follows h sq ch parity
  | .dmaStore sq ch parity => execDmaStore_follows h sq ch parity
  | .dmaXfer sq ch parity => execDmaXfer_follows h sq ch parity
  | .dmaGather sq ch parity => execDmaGather_follows h sq ch parity
  | .dmaScatter sq ch parity => execDmaScatter_follows h sq ch parity
  | .dmaMove sq ch parity => execDmaMove_follows h sq ch parity
  | .dmaProgramComplete sq ch => execDmaProgramComplete_follows h sq ch
  | .fenceCore sq parity => execFenceCore_follows h sq parity
  | .fenceChip sq parity => execFenceChip_follows h sq parity
  | .fenceSys sq parity => execFenceSys_follows h sq parity
  | .fenceRetire sq => execFenceRetire_follows h sq
  | .slotRelease sq slot count => execSlotRelease_follows h sq slot count
  | .slotRead sq slot kind parity => execSlotRead_follows h sq slot kind parity
  | .tagStall sq => execTagStall_follows h sq
  | .taskFinal sq => execTaskFinal_follows h sq
  | .stepEnd model chain => execStepEnd_follows h model chain
  | .commitCopyComplete model chain ok => execCommitCopyComplete_follows h model chain ok
  | .prefixInsert model chain => execPrefixInsert_follows h model chain
  | .debugLoad path pa size parity => execDebugLoad_follows h path pa size parity
  | .debugStore path pa data => execDebugStore_follows h path pa data
  | .cboClean c pa attr => execCboClean_follows h c pa attr
  | .cboFlush c pa attr => execCboFlush_follows h c pa attr
  | .cboInval c pa attr cbie => execCboInval_follows h c pa attr cbie
  | .cboZero c pa attr => execCboZero_follows h c pa attr
  | .coreFence c predWrites => execCoreFence_follows h c predWrites
  | .trapEntry c => execTrapEntry_follows h c
  | .deviceLoad c pa size form answered => execDeviceLoad_follows h c pa size form answered
  | .deviceStore c pa va size v form answered => execDeviceStore_follows h c pa va size v form answered
  | .devTimeout c => execDevTimeout_follows h c
  | .storeDrainTimeout c => execStoreDrainTimeout_follows h c
  | .coreInvalidateDone c => execCoreInvalidateDone_follows h c
  | .cohRequest a line kind => execCohRequest_follows h a line kind
  | .cohSnoop a req => execCohSnoop_follows h a req
  | .cohSnoopAnswer a req => execCohSnoopAnswer_follows h a req
  | .cohWriteback a req => execCohWriteback_follows h a req
  | .cohGrant req ecc => execCohGrant_follows h req ecc
  | .cohNack req => execCohNack_follows h req
  | .nackRetry req => execNackRetry_follows h req
  | .escalationServe home => execEscalationServe_follows h home
  | .reservationExpire line => execReservationExpire_follows h line
  | .dramAccess ch ecc => execDramAccess_follows h ch ecc
  | .prefetchAgePromote ch => execPrefetchAgePromote_follows h ch
  | .refreshDue ch bank => execRefreshDue_follows h ch bank
  | .dramTempRead device celsius => execDramTempRead_follows h device celsius
  | .patrolScrub ecc => execPatrolScrub_follows h ecc
  | .imbWindowEnd => execImbWindowEnd_follows h
  | .weightFrameRead r fid => execWeightFrameRead_follows h r fid
  | .liftComplete fid crcOk => execLiftComplete_follows h fid crcOk
  | .flashReadRetry fid decoded => execFlashReadRetry_follows h fid decoded
  | .weightLateExpire r fid => execWeightLateExpire_follows h r fid
  | .kvDemoteComplete model sub => execKvDemoteComplete_follows h model sub
  | .kvPromote model sub => execKvPromote_follows h model sub
  | .predPrefetch model chain candidates => execPredPrefetch_follows h model chain candidates
  | .drizzleRelocate block => execDrizzleRelocate_follows h block
  | .drizzleScan block retried thresholdPassed => execDrizzleScan_follows h block retried thresholdPassed
  | .wearRelocate block => execWearRelocate_follows h block
  | .periodBoundary cpuWatts ioWatts => execPeriodBoundary_follows h cpuWatts ioWatts
  | .powerWindow inputMicroJoules railMicroJoules => execPowerWindow_follows h inputMicroJoules railMicroJoules
  | .droopFire die => execDroopFire_follows h die
  | .droopBurstEnd die => execDroopBurstEnd_follows h die
  | .tempSample readings => execTempSample_follows h readings
  | .thermalTrip die celsius => execThermalTrip_follows h die celsius
  | .tripRelease readings => execTripRelease_follows h readings
  | .frontCalmEnter front => execFrontCalmEnter_follows h front
  | .frontLullEnter front => execFrontLullEnter_follows h front
  | .moduleLullEnter => execModuleLullEnter_follows h
  | .frostEnter => execFrostEnter_follows h
  | .frontWake front => execFrontWake_follows h front
  | .moduleWake => execModuleWake_follows h
  | .wakeComplete => execWakeComplete_follows h
  | .inputLoss => execInputLoss_follows h
  | .inputLow => execInputLow_follows h
  | .inputOvervoltage => execInputOvervoltage_follows h
  | .inputRestore => execInputRestore_follows h
  | .refclkLoss => execRefclkLoss_follows h
  | .resetNAssert microseconds => execResetNAssert_follows h microseconds
  | .resetNDeassert addr cohProfile => execResetNDeassert_follows h addr cohProfile
  | .bootStart => execBootStart_follows h
  | .bootStageComplete failedStacks failedPackages failedUnits => execBootStageComplete_follows h failedStacks failedPackages failedUnits
  | .bootReady => execBootReady_follows h
  | .bootWatchdog => execBootWatchdog_follows h
  | .heartbeatTick => execHeartbeatTick_follows h
  | .heartbeatWatchdog => execHeartbeatWatchdog_follows h
  | .sessionBeatLapse session => execSessionBeatLapse_follows h session
  | .lifetimeRecordWrite => execLifetimeRecordWrite_follows h
  | .unitFailed u cause => execUnitFailed_follows h u cause
  | .moduleFailed cause => execModuleFailed_follows h cause
  | .cxlMemRead dpa size ecc => execCxlMemRead_follows h dpa size ecc
  | .cxlMemWrite dpa data poison => execCxlMemWrite_follows h dpa data poison
  | .bar4Read offset size requester ecc => execBar4Read_follows h offset size requester ecc
  | .bar4Write offset data requester poison => execBar4Write_follows h offset data requester poison
  | .cxlConfigRequest => execCxlConfigRequest_follows h
  | .cxlLinkRecovery => execCxlLinkRecovery_follows h
  | .cxlLinkL0 => execCxlLinkL0_follows h
  | .cxlLinkTimeout => execCxlLinkTimeout_follows h
  | .cxlHotReset => execCxlHotReset_follows h
  | .cxlLinkDisable => execCxlLinkDisable_follows h
  | .cxlFlr => execCxlFlr_follows h
  | .perstNAssert => execPerstNAssert_follows h
  | .identifyMemoryDevice => execIdentifyMemoryDevice_follows h
  | .getSupportedLogs => execGetSupportedLogs_follows h
  | .getLog offset length => execGetLog_follows h offset length
  | .getEventRecords log => execGetEventRecords_follows h log
  | .clearEventRecords log handles => execClearEventRecords_follows h log handles
  | .mailboxUnsupported opcode => execMailboxUnsupported_follows h opcode
  | .getVersion t => execGetVersion_follows h t
  | .getCapabilities t => execGetCapabilities_follows h t
  | .negotiateAlgorithms t => execNegotiateAlgorithms_follows h t
  | .getDigests t => execGetDigests_follows h t
  | .getCertificate t slot offset length => execGetCertificate_follows h t slot offset length
  | .challenge t slot nonce => execChallenge_follows h t slot nonce
  | .getMeasurements t index nonce => execGetMeasurements_follows h t index nonce
  | .mgmtEciRequest entry image => execMgmtEciRequest_follows h entry image
  | .mctpControl message => execMctpControl_follows h message
  | .i3cCcc code dynamicAddress => execI3cCcc_follows h code dynamicAddress
  | .dnbFlitReceive p flit decodable corrected => execDnbFlitReceive_follows h p flit decodable corrected
  | .dnbNak p ack => execDnbNak_follows h p ack
  | .dnbRetrain p => execDnbRetrain_follows h p
  | .dnbPortUp p lanes => execDnbPortUp_follows h p lanes
  | .dnbPortDown p => execDnbPortDown_follows h p
  | .dnbForward m => execDnbForward_follows h m
  | .dnbWr m => execDnbWr_follows h m
  | .dnbWrp m => execDnbWrp_follows h m
  | .dnbRd m ecc => execDnbRd_follows h m ecc
  | .dnbRdr m => execDnbRdr_follows h m
  | .dnbWack m => execDnbWack_follows h m
  | .dnbLift m => execDnbLift_follows h m
  | .dnbStreamOpen p m => execDnbStreamOpen_follows h p m
  | .dnbStreamFlit p stag data => execDnbStreamFlit_follows h p stag data
  | .dnbStreamEnd p m => execDnbStreamEnd_follows h p m
  | .dnbKvx m word => execDnbKvx_follows h m word
  | .dnbPod p neighbour => execDnbPod_follows h p neighbour
  | .peerTimeout tag => execPeerTimeout_follows h tag
  | .powerUp => execPowerUp_follows h
  | .inputInRange => execInputInRange_follows h
  | .perstNDeassert => execPerstNDeassert_follows h
  | .cxlLinkUp lanes gigatransfers => execCxlLinkUp_follows h lanes gigatransfers
  | .selfTestComplete passed => execSelfTestComplete_follows h passed
  | .coreLoad c pa size attr form parity => execCoreLoad_follows h c pa size attr form parity
  | .coreStore c pa size v attr form => execCoreStore_follows h c pa size v attr form
  | .uncorrectableFlashRead fid page => execUncorrectableFlashRead_follows h fid page
  | .reattachLockEnd => execReattachLockEnd_follows h

/-- A step follows the state it meets but for what the front of the queue was and what the time base shows. -/
theorem step_follows {s t : State} (h : step s = .next t) :
    s.boot.fuses ≤ t.boot.fuses ∧ (LegalState s → LegalState t) := by
  cases hp : s.pending with
  | nil =>
    have ht : t = s.idle := by simpa [step, hp] using h.symm
    have hf := s.idle_follows
    exact ht ▸ ⟨hf.fuses, fun hl => hf.legal ⟨hl.mem, hl.flash, hl.settings⟩⟩
  | cons c rest =>
    have hx : exec c { s with pending := rest } = .next t := by simpa [step, hp] using h
    have hf := exec_follows (.refl _) c t hx
    exact ⟨hf.fuses, fun hl => hf.legal ⟨hl.mem, hl.flash, hl.settings⟩⟩

/-- Settles O6: a step is a command or a nanosecond of the time base, and both keep a legal state legal. -/
theorem stepsKeepLegal : Obligations.StepsKeepLegal := fun _ _ h => (step_follows h).2

/-- Settles O7: the relation that every step keeps orders the fused counters. -/
theorem fusesNeverLowered : Obligations.FusesNeverLowered := fun _ _ h => (step_follows h).1

/-- Settles O8: the relation that every command keeps holds the queue and the clock. -/
theorem commandsKeepQueueAndClock : Obligations.CommandsKeepQueueAndClock := fun c s t h =>
  have hf := exec_follows (.refl s) c t h
  ⟨hf.queue, hf.clock⟩

/-- Settles O5: reset memory and flash are empty, and each setting stands at its value of reset. -/
theorem resetIsLegal : Obligations.ResetIsLegal where
  mem := rfl
  flash := rfl
  settings := {
    cap := ⟨by decide, by decide⟩
    capWanted := fun _ h => nomatch h
    mode := by decide
    modeDue := fun _ h => nomatch h
    devTimeout := by decide
    longOps := by decide }

/-- Settles O1, by the definition of a step on a queue that is not empty. -/
theorem stepRunsFrontCommand : Obligations.StepRunsFrontCommand := by
  intro c l s hp
  rw [step, hp]

/-- Settles O2: the tick keeps the queue and the clock that it is given, and runs with the supply on only. -/
theorem emptyQueueIdles : Obligations.EmptyQueueIdles := by
  intro s hp
  have hf := s.idle_follows
  refine ⟨s.idle, by rw [step, hp], hf.queue.trans hp, hf.clock, fun hoff => ?_⟩
  rw [State.idle, hoff]
  rfl

/-- Settles O3: the arm of each command is a meaning whose outcome is a next state. -/
theorem everyCommandAnswersNext : Obligations.EveryCommandAnswersNext := by
  intro c s
  cases c <;> exact ⟨_, rfl⟩

/-- Settles O4, by the values that the fields of the state have at reset. -/
theorem resetValues : Obligations.ResetValues := by
  refine ⟨rfl, ?_, rfl, rfl, rfl, rfl, rfl, ?_, rfl, rfl, rfl, ?_, ?_, ?_, rfl, rfl, rfl⟩ <;> decide

end Sys2Proof.Machine
end

section
/-!
PROOFS. Completion records (R365, R367): what ending, beginning and refusing a command leave alone, and where a record of a queue in
device memory stands.
-/

namespace Sys2Proof.Machine

/-! ## What the operations over records leave alone -/

theorem State.waiting_record (s : State) (l : List RecRef) : RecordOnly s (s.updEci fun e => { e with waiting := l }) :=
  RecordOnly.intro s.out s.mem { s.eci with waiting := l } s.mgmt.responses rfl

theorem State.endCmd_record (s : State) (c : Cmd) (st : Status) (d h x : Nat) : RecordOnly s (s.endCmd c st d h x) :=
  ((s.popEntry_record c.src).trans (State.final_record ..)).trans (State.nextBad_record ..)

theorem State.begin_record (s : State) (c : Cmd) : RecordOnly s (s.begin c) :=
  (s.popEntry_record c.src).trans (State.waiting_record ..)

theorem State.finish_record (s : State) (r : RecRef) (st : Status) (d h x : Nat) : RecordOnly s (s.finish r st d h x) :=
  ((s.waiting_record _).trans (State.final_record ..)).trans (State.nextBad_record ..)

theorem finalRecordsChangeRecordsOnly : Claim.FinalRecordsChangeRecordsOnly := fun s c st d h x =>
  ⟨s.endCmd_record c st d h x, s.begin_record c, s.unreserve_record c.src, s.finish_record c.ref st d h x⟩

/-! ## A record at the tail of its queue -/

@[simp] theorem State.updPair_pair (s : State) (q : Fin 64) (f : Pair → Pair) : (s.updPair q f).pair q = f (s.pair q) :=
  pick_upd_same ..

theorem State.updPair_pair_other (s : State) {q k : Fin 64} (h : k ≠ q) (f : Pair → Pair) : (s.updPair q f).pair k = s.pair k :=
  pick_upd_other _ h f

/-- A queue pair after a record has been written at its tail. -/
def Pair.posted (p : Pair) : Pair :=
  let wraps := p.cqTail.toNat + 1 == entriesOf p.cqLog2
  { p with
    cqTail := if wraps then 0 else p.cqTail + 1, phase := if wraps then !p.phase else p.phase
    reserved := p.reserved - 1, unread := p.unread + 1, shadowUnread := if p.shadow then p.shadowUnread + 1 else p.shadowUnread }

theorem State.putBytes_eci (s : State) (pa : Nat) (l : List Byte) : (s.putBytes pa l).eci = s.eci := by
  rw [s.putBytes_eq]

/-- A record written changes memory at the tail, its pair, and the interrupts sent. -/
theorem State.cqPut_effect (s : State) (q : Fin 64) (body : Entry) :
    (s.cqPut q body).mem = (s.putBytes ((s.pair q).cqNow q + 128 * (s.pair q).cqTail.toNat)
      (leBytes (recStamp s (s.pair q).phase (s.pair q).sqHead.toNat body).toNat 128)).mem ∧
    (s.cqPut q body).eci.pairs = upd s.eci.pairs q Pair.posted := by
  unfold State.cqPut
  extract_lets p e n wraps s1 s2 cxl
  have heci : s1.eci = s.eci := s.putBytes_eci ..
  have hmem : s2.mem = s1.mem := State.updPair_mem ..
  have hpairs : s2.eci.pairs = upd s.eci.pairs q Pair.posted := by
    simp only [s2, State.updPair, heci]
    rfl
  clear_value s2
  split
  · exact ⟨(State.updEci_mem ..).trans hmem, (congrArg Eci.pairs (State.updEci_eci ..)).trans hpairs⟩
  · exact ⟨hmem, hpairs⟩

theorem State.cqPut_pair (s : State) (q k : Fin 64) (body : Entry) :
    (s.cqPut q body).pair k = if k = q then (s.pair k).posted else s.pair k := by
  rw [State.pair, (s.cqPut_effect q body).2]
  split
  · next h => rw [h]; exact pick_upd_same ..
  · next h => exact pick_upd_other _ h _

theorem State.final_of_device {s : State} {r : RecRef} {q : Fin 64} (hsrc : r.src = .pair q)
    (hdev : isHost ((s.pair q).cqNow q) = false) (st : Status) (d h x : Nat) :
    s.final r st d h x = s.cqPut q (recBody r.cid q.val false st d h x) := by
  simp [State.final, State.record, hsrc, hdev]

theorem recordWrittenAtTail : Claim.RecordWrittenAtTail := by
  intro s r q st d h x hsrc hdev p t
  have ht : t = s.cqPut q (recBody r.cid q.val false st d h x) := State.final_of_device hsrc hdev st d h x
  have hq : t.pair q = p.posted := by rw [ht, State.cqPut_pair, if_pos rfl]
  rw [hq]
  refine ⟨by rw [ht]; exact (s.cqPut_effect q _).1, rfl, rfl, rfl, fun hw => ?_, fun hw => ?_, fun k hk => ?_⟩
  · simp [Pair.posted, hw]
  · simp [Pair.posted, hw]
  · rw [ht, State.cqPut_pair, if_neg hk]

/-- Settles O10, by the frame of each operation over records, and by the one write at the tail of a queue in device memory. -/
theorem recordsAreWrittenAtTheTail : Obligations.RecordsAreWrittenAtTheTail := ⟨finalRecordsChangeRecordsOnly, recordWrittenAtTail⟩

end Sys2Proof.Machine
end

section
/-!
PROOFS. Writes of the register window (R360, R361), the registers of a queue pair (R363 to R365), urgent doorbells, heartbeats (R375,
R383) and the fetch of a head entry (R364).
-/

namespace Sys2Proof.Machine

/-! ## The window and the registers -/

theorem State.served_of_uninit {s : State} (h : s.eci.devState = .uninit) (f : State → State) : s.served f = s.ok := if_pos h

/-- A write of the window at a register's own offset and size is served as that register's. -/
theorem exec_registerWrite {off : BitVec 16} {size : Nat} {r : RegName} (hr : regAt off.toNat size = some r) (w : BitVec 64) (path : Path)
    (s : State) : exec (.registerWrite off size w path) s = .next (s.served fun t => t.regStore size w.toNat path r) := by
  have hx : exec (.registerWrite off size w path) s = .next (s.regWrite off.toNat size w.toNat path) := rfl
  rw [hx]
  unfold State.regWrite
  rw [hr]
  rfl

theorem uninitDiscardsRegisterWrites : Claim.UninitDiscardsRegisterWrites := by
  intro s q k v w path h
  have hdrop (f : State → State) : (.next (s.served f) : Res) = .next { s with out := .done } := congrArg _ (State.served_of_uninit h f)
  refine ⟨fun c hc => ?_, fun off size hreg => ?_⟩
  · simp only [List.mem_cons, List.not_mem_nil, or_false] at hc
    rcases hc with rfl | rfl | rfl | rfl | rfl | rfl | rfl | rfl | rfl | rfl | rfl | rfl <;> exact hdrop _
  · obtain ⟨r, hr⟩ := Option.isSome_iff_exists.1 hreg
    rw [exec_registerWrite hr]
    exact hdrop _

theorem regAt_qCfg : ∀ q : Fin 64, regAt (BitVec.ofNat 16 (0x1010 + 0x20 * q.val)).toNat 4 = some (.qCfg q) := by decide
theorem regAt_sqTail : ∀ q : Fin 64, regAt (BitVec.ofNat 16 (0x1018 + 0x20 * q.val)).toNat 4 = some (.sqTail q) := by decide
theorem regAt_cqHead : ∀ q : Fin 64, regAt (BitVec.ofNat 16 (0x101C + 0x20 * q.val)).toNat 4 = some (.cqHead q) := by decide
theorem regAt_sqBase : ∀ q : Fin 64, regAt (BitVec.ofNat 16 (0x1000 + 0x20 * q.val)).toNat 8 = some (.sqBase q) := by decide
theorem regAt_cqBase : ∀ q : Fin 64, regAt (BitVec.ofNat 16 (0x1008 + 0x20 * q.val)).toNat 8 = some (.cqBase q) := by decide
theorem regAt_orderMode : ∀ k : Fin 40, regAt (BitVec.ofNat 16 (0x2200 + 8 * k.val)).toNat 8 = some (.orderMode k) := by decide
theorem regAt_urgEntry : ∀ (u : Fin 4) (b : Fin 16),
    regAt (BitVec.ofNat 16 (0x400 + 0x100 * u.val + 8 * b.val)).toNat 8 = some (.urgEntry u (8 * b.val)) := by decide

/-- Two changes of a pair that agree on it leave the same state. -/
theorem State.updPair_congr {s : State} {q : Fin 64} {f g : Pair → Pair} (h : f (s.pair q) = g (s.pair q)) : s.updPair q f = s.updPair q g := by
  have hp : f (s.eci.pairs[q.val]'q.isLt) = g (s.eci.pairs[q.val]'q.isLt) := h
  simp only [State.updPair, upd, hp]

theorem toNat_zeroExtend (v : BitVec 32) : (v.zeroExtend 64).toNat = v.toNat := by
  rw [BitVec.toNat_setWidth]
  omega

theorem ofNat_zeroExtend (v : BitVec 32) : BitVec.ofNat 32 (v.zeroExtend 64).toNat = v := by
  rw [toNat_zeroExtend, BitVec.ofNat_toNat, BitVec.setWidth_eq]

/-- A 32-bit write of the window is the write of its register with the same word. -/
theorem exec_registerWrite_word {off : BitVec 16} {r : RegName} (hr : regAt off.toNat 4 = some r) {f : BitVec 32 → State → State}
    {path : Path} (hf : ∀ (t : State) (n : Nat), t.regStore 4 n path r = f (BitVec.ofNat 32 n) t) (v : BitVec 32) (s : State) :
    exec (.registerWrite off 4 (v.zeroExtend 64) path) s = .next (s.served (f v)) := by
  rw [exec_registerWrite hr]
  refine congrArg _ (congrArg _ (funext fun t => ?_))
  rw [hf, ofNat_zeroExtend]

/-- The registers of the window that a write leaves as they are. -/
theorem regAt_readOnly : ∀ n ∈ [0x00, 0x04, 0x08, 0x10, 0x18, 0x20, 0x2108],
    regAt n 4 ∈ [some .id, some .version, some .caps, some .state, some .heartbeat, some .errSummary, some .imbLast] := by decide

theorem exec_registerWrite_readOnly {off : BitVec 16} (h : off.toNat ∈ [0x00, 0x04, 0x08, 0x10, 0x18, 0x20, 0x2108]) (v : BitVec 64)
    (path : Path) {s : State} (hs : s.eci.devState ≠ .uninit) : exec (.registerWrite off 4 v path) s = .next s.ok := by
  have hstill {r : RegName} (hr : regAt off.toNat 4 = some r) (hid : ∀ t : State, t.regStore 4 v.toNat path r = t) :
      exec (.registerWrite off 4 v path) s = .next s.ok := by
    rw [exec_registerWrite hr, State.served_of_init hs, hid]
  have hreg := regAt_readOnly _ h
  simp only [List.mem_cons, List.not_mem_nil, or_false] at hreg
  rcases hreg with hr | hr | hr | hr | hr | hr | hr <;> exact hstill hr fun _ => rfl

theorem exec_registerWrite_sqBase {s : State} {q : Fin 64} (hs : s.eci.devState ≠ .uninit) (hn : (s.pair q).session = none)
    (ha : (s.pair q).active = false) (w : BitVec 64) (path : Path) :
    exec (.registerWrite (BitVec.ofNat 16 (0x1000 + 0x20 * q.val)) 8 w path) s = .next (State.updPair s.ok q fun p => { p with sqBase := w }) := by
  rw [exec_registerWrite (regAt_sqBase q), State.served_of_init hs]
  refine congrArg _ (State.updPair_congr ?_)
  have hn' : (s.ok.pair q).session = none := hn
  have ha' : (s.ok.pair q).active = false := ha
  simp [hn', ha']

theorem exec_registerWrite_cqBase {s : State} {q : Fin 64} (hs : s.eci.devState ≠ .uninit) (hn : (s.pair q).session = none)
    (ha : (s.pair q).active = false) (w : BitVec 64) (path : Path) :
    exec (.registerWrite (BitVec.ofNat 16 (0x1008 + 0x20 * q.val)) 8 w path) s = .next (State.updPair s.ok q fun p => { p with cqBase := w }) := by
  rw [exec_registerWrite (regAt_cqBase q), State.served_of_init hs]
  refine congrArg _ (State.updPair_congr ?_)
  have hn' : (s.ok.pair q).session = none := hn
  have ha' : (s.ok.pair q).active = false := ha
  simp [hn', ha']

theorem windowWritesAreRegisterWrites : Claim.WindowWritesAreRegisterWrites := by
  intro s v w path
  have word {off : BitVec 16} {r : RegName} {f : BitVec 32 → State → State} (hr : regAt off.toNat 4 = some r)
      (hf : ∀ (t : State) (n : Nat), t.regStore 4 n path r = f (BitVec.ofNat 32 n) t) :=
    exec_registerWrite_word hr hf v s
  refine ⟨word (f := fun v t => t.writeUrgDoorbell v) (r := .urgDoorbell) (by decide) fun _ _ => rfl,
    word (f := fun v t => t.writeBeat v) (r := .beat) (by decide) fun _ _ => rfl,
    word (f := fun v t => t.writeGust v) (r := .gustDefault) (by decide) fun _ _ => rfl,
    word (f := fun v t => t.writeImbWindow v) (r := .imbWindow) (by decide) fun _ _ => rfl,
    word (f := fun v t => t.writeDevTimeout v) (r := .devTimeout) (by decide) fun _ _ => rfl,
    word (f := fun v t => t.writeLock v) (r := .cfgLock) (by decide) fun _ _ => rfl, fun q => ?_, fun k => ?_, fun hs => ?_⟩
  · exact ⟨word (f := fun v t => t.updPair q fun p => p.writeCfg v) (regAt_qCfg q) fun _ _ => rfl,
      word (f := fun v t => t.writeSqTail q v path) (regAt_sqTail q) fun _ _ => rfl,
      word (f := fun v t => t.writeCqHead q v) (regAt_cqHead q) fun _ _ => rfl⟩
  · rw [exec_registerWrite (regAt_orderMode k)]
    refine congrArg _ (congrArg _ (funext fun t => ?_))
    exact congrArg (t.writeOrderMode k) (BitVec.ofNat_toNat ..)
  · refine ⟨fun q hn ha => ⟨exec_registerWrite_sqBase hs hn ha w path, exec_registerWrite_cqBase hs hn ha w path⟩, fun u b => ?_, ?_,
      fun off hoff => exec_registerWrite_readOnly hoff _ path hs⟩
    · rw [exec_registerWrite (regAt_urgEntry u b), State.served_of_init hs]
      have h8 : 8 * (8 * b.val) = 64 * b.val := by omega
      simp only [State.regStore, h8]
    · rw [exec_registerWrite (r := .urgStatus) (by decide), State.served_of_init hs]
      simp only [State.regStore, toNat_zeroExtend]

theorem wrongSizeWritesAreRefused : Claim.WrongSizeWritesAreRefused := by
  intro s off size w c hr
  have hx (path : Path) : exec (.registerWrite off size w path) s = .next (s.regWrite off.toNat size w.toNat path) := rfl
  constructor <;> rw [hx] <;> unfold State.regWrite <;> rw [hr] <;> rfl

/-- Settles O11: the window's map of registers, and one served write for each register it reaches. -/
theorem windowWritesFollowTheRegisters : Obligations.WindowWritesFollowTheRegisters :=
  ⟨uninitDiscardsRegisterWrites, windowWritesAreRegisterWrites, wrongSizeWritesAreRefused⟩

/-! ## The registers of a pair -/

/-- Rousing a module depends on its sleep and shows in the power state alone. -/
theorem State.rouse_eq {s t : State} (h : t.pwr = s.pwr) : t.rouse = { t with pwr := s.rouse.pwr } := by
  rw [State.rouse, State.rouse, h]
  split
  · rw [State.updPwr, h]
    rfl
  · rw [← h]

theorem exec_eciSqTail {s : State} (hs : s.eci.devState ≠ .uninit) (q : Fin 64) (v : BitVec 32) (path : Path) :
    exec (.eciSqTail q v path) s = .next (s.ok.writeSqTail q v path) := congrArg _ (s.served_of_init hs _)

theorem exec_eciCqHead {s : State} (hs : s.eci.devState ≠ .uninit) (q : Fin 64) (v : BitVec 32) :
    exec (.eciCqHead q v) s = .next (s.ok.writeCqHead q v) := congrArg _ (s.served_of_init hs _)

theorem exec_eciQCfg {s : State} (hs : s.eci.devState ≠ .uninit) (q : Fin 64) (v : BitVec 32) :
    exec (.eciQCfg q v) s = .next (s.ok.updPair q fun p => p.writeCfg v) := congrArg _ (s.served_of_init hs _)

theorem sqTailMovesInsideTheQueue : Claim.SqTailMovesInsideTheQueue := by
  intro s q v path hs
  rw [exec_eciSqTail hs]
  unfold State.writeSqTail
  extract_lets p t lost
  refine ⟨fun ha ht hl => congrArg _ ?_, fun h => congrArg _ (if_pos ?_)⟩
  · refine (if_neg ?_).trans ?_
    rotate_left
    · rw [State.rouse_eq (s := s) (t := s.ok) rfl]
      rfl
    · have ha' : p.active = true := ha
      have ht' : ¬ entriesOf p.sqLog2 ≤ t := Nat.not_le_of_lt ht
      have hlost : lost = false := by
        dsimp only [lost]
        split
        · next x hx =>
          obtain ⟨i, hi, hx⟩ := Option.bind_eq_some_iff.1 hx
          exact hl i x hi hx
        · rfl
      simp [ha', ht', hlost]
  · have h' : p.active = false ∨ entriesOf p.sqLog2 ≤ t := h
    rcases h' with h' | h' <;> simp [h']

theorem State.deliverPair_of_free {s : State} {q : Fin 64} (h : s.eci.delivering.find? (·.q == q) = none) : s.deliverPair q = s := by
  rw [State.deliverPair, h]

theorem cqHeadFreesUnreadRecords : Claim.CqHeadFreesUnreadRecords := by
  intro s q v hs ha p n h k
  rw [exec_eciCqHead hs]
  unfold State.writeCqHead
  have ha' : (s.ok.pair q).active = true := ha
  refine ⟨fun hn hk hd => congrArg _ ((if_neg ?_).trans (State.deliverPair_of_free ?_)), fun hx => congrArg _ (if_pos ?_)⟩
  · have hn' : ¬ entriesOf (s.ok.pair q).cqLog2 ≤ bitsAt v.toNat 0 12 := Nat.not_le_of_lt hn
    have hk' : ¬ (s.ok.pair q).unread < (bitsAt v.toNat 0 12 + entriesOf (s.ok.pair q).cqLog2 - (s.ok.pair q).cqHead.toNat) %
        entriesOf (s.ok.pair q).cqLog2 := Nat.not_lt_of_le hk
    simp [ha', hn', hk']
  · exact List.find?_eq_none.2 fun d hm => by simpa using hd d hm
  · have hx' : entriesOf (s.ok.pair q).cqLog2 ≤ bitsAt v.toNat 0 12 ∨ (s.ok.pair q).unread <
        (bitsAt v.toNat 0 12 + entriesOf (s.ok.pair q).cqLog2 - (s.ok.pair q).cqHead.toNat) % entriesOf (s.ok.pair q).cqLog2 := hx
    rcases hx' with h | h <;> simp [h]

/-- A pair with the sizes, ENABLE and IRQ that a write of ECI_Q_CFG gives it. -/
def Pair.configured (p : Pair) (v : BitVec 32) : Pair :=
  { p with
    sqLog2 := BitVec.ofNat 4 (bitsAt v.toNat 0 4), cqLog2 := BitVec.ofNat 4 (bitsAt v.toNat 4 4)
    enable := bitAt v.toNat 8, irq := bitAt v.toNat 9 }

/-- A pair at the start of its queues. -/
def Pair.opened (p : Pair) : Pair :=
  { p with
    active := true, sqHead := 0, cqTail := 0, phase := true, sqTail := 0, cqHead := 0, reserved := 0, unread := 0, shadowUnread := 0, inbox := [] }

/-- ENABLE from 0 on a free pair: it opens where its bases and sizes are valid, and else stays inactive. -/
theorem Pair.writeCfg_free {p : Pair} {v : BitVec 32} (hn : p.session = none) (he : p.enable = false) :
    p.writeCfg v =
      if v.getLsbD 8 = true ∧ (p.configured v).configOk = true then (p.configured v).opened else { p.configured v with active := false } := by
  have hx : p.writeCfg v =
      if p.session.isSome then p
      else if !bitAt v.toNat 8 then { p.configured v with active := false }
      else if p.enable then { p.configured v with active := p.active && (p.configured v).configOk }
      else if (p.configured v).configOk then (p.configured v).opened else { p.configured v with active := false } := rfl
  rw [hx, hn, he, bitAt_toNat]
  cases v.getLsbD 8 <;> cases (p.configured v).configOk <;> rfl

theorem enableActivatesAValidPair : Claim.EnableActivatesAValidPair := by
  intro s q v hs hn he ha sq cq valid
  refine ⟨_, exec_eciQCfg hs q v, ?_⟩
  have hq : (s.ok.updPair q fun p => p.writeCfg v).pair q = (s.pair q).writeCfg v := State.updPair_pair ..
  have hother : ∀ k, k ≠ q → (s.ok.updPair q fun p => p.writeCfg v).pair k = s.pair k := fun k hk => State.updPair_pair_other _ hk _
  have hcq : BitVec.ofNat 4 (bitsAt v.toNat 4 4) = cq := by rw [bitsAt, Nat.shiftRight_eq_div_pow]; rfl
  have hvalid : ((s.pair q).configured v).configOk = valid := congrArg (fun l => queueOk _ sq && queueOk _ l) hcq
  have hen : bitAt v.toNat 8 = v.getLsbD 8 := bitAt_toNat v 8
  have hirq : bitAt v.toNat 9 = v.getLsbD 9 := bitAt_toNat v 9
  rw [hq, Pair.writeCfg_free hn he, hvalid]
  by_cases hok : v.getLsbD 8 = true ∧ valid = true
  · rw [if_pos hok]
    exact ⟨rfl, hcq, hen, hirq, iff_of_true rfl hok, fun _ => ⟨rfl, rfl, rfl, rfl⟩, rfl, hother⟩
  · rw [if_neg hok]
    exact ⟨rfl, hcq, hen, hirq, iff_of_false Bool.false_ne_true hok, fun h => absurd h Bool.false_ne_true, rfl, hother⟩

/-- Settles O12: a tail and a head in range are taken and any other ignored, and ENABLE from 0 to 1 checks the pair. -/
theorem queueRegistersMoveInsideQueues : Obligations.QueueRegistersMoveInsideQueues :=
  ⟨sqTailMovesInsideTheQueue, cqHeadFreesUnreadRecords, enableActivatesAValidPair⟩

/-! ## Urgent doorbells, heartbeats and the fetch -/

/-- What the urgent path takes is a known opcode. -/
theorem knownOpc_of_urgentOpc {o : Nat} (h : urgentOpc o = true) : knownOpc o = true := by
  have hm : mgmtOpc o = true := by simp_all [urgentOpc]
  simp only [mgmtOpc, List.contains_eq_mem, List.mem_cons, List.not_mem_nil, or_false, decide_eq_true_eq] at hm
  rcases hm with rfl | rfl | rfl | rfl | rfl | rfl | rfl | rfl | rfl | rfl | rfl | rfl | rfl <;> rfl

theorem exec_eciUrgDoorbell {s : State} (hs : s.eci.devState ≠ .uninit) (v : BitVec 32) :
    exec (.eciUrgDoorbell v) s = .next (s.ok.writeUrgDoorbell v) := congrArg _ (s.served_of_init hs _)

theorem exec_eciBeat {s : State} (hs : s.eci.devState ≠ .uninit) (v : BitVec 32) :
    exec (.eciBeat v) s = .next (s.ok.writeBeat v) := congrArg _ (s.served_of_init hs _)

theorem urgentDoorbellQueuesItsEntry : Claim.UrgentDoorbellQueuesItsEntry := by
  intro s u v hs hu
  obtain rfl : (⟨bitsAt v.toNat 0 2, Nat.mod_lt _ (by decide)⟩ : Fin 4) = u := Fin.ext hu
  rw [exec_eciUrgDoorbell hs]
  refine ⟨fun hb => congrArg _ (if_pos hb), fun hb hopc => congrArg _ ?_⟩
  unfold State.writeUrgDoorbell
  extract_lets u o s1
  have hb' : pick s.eci.urgBusy u = false := hb
  have hopc' : urgentOpc o = true := hopc
  rw [if_neg (by simp [hb']), if_neg (by simp [knownOpc_of_urgentOpc hopc']), if_neg (by simp [hopc']), State.rouse_eq (s := s) (t := s1) rfl]
  rfl

theorem State.session_id {s : State} {i : BitVec 16} {x : Session} (h : s.session i = some x) : x.id = i := by
  simpa using List.find?_some h

/-- A change of a session that leaves its number shows in that session alone. -/
theorem State.updSession_session (s : State) (i j : BitVec 16) {f : Session → Session} (hf : ∀ x, (f x).id = x.id) :
    (s.updSession i f).session j = (s.session j).map fun x => if x.id == i then f x else x :=
  find?_updWhere _ fun x => by rw [hf]

theorem State.updSession_session_same {s : State} {i : BitVec 16} {x : Session} (h : s.session i = some x) {f : Session → Session}
    (hf : ∀ x, (f x).id = x.id) : (s.updSession i f).session i = some (f x) := by
  rw [State.updSession_session _ _ _ hf, h, Option.map_some, if_pos (beq_iff_eq.2 (State.session_id h))]

theorem State.updSession_session_other (s : State) {i j : BitVec 16} (h : j ≠ i) {f : Session → Session} (hf : ∀ x, (f x).id = x.id) :
    (s.updSession i f).session j = s.session j := by
  rw [State.updSession_session _ _ _ hf]
  cases hx : s.session j with
  | none => rfl
  | some x => rw [Option.map_some, if_neg fun hi => h ((State.session_id hx).symm.trans (beq_iff_eq.1 hi))]

theorem beatRenewsItsSession : Claim.BeatRenewsItsSession := by
  intro s v x hs hx hl hb
  have hid : x.id = BitVec.ofNat 16 (v.toNat % 65536) := State.session_id hx
  have hkeep (y : Session) : (if y.lost || (y.beatMs != 0 && decide (y.lastBeat + ms y.beatMs < s.ok.now)) then y
      else { y with lastBeat := s.ok.now }).id = y.id := by split <;> rfl
  refine ⟨_, exec_eciBeat hs v, ?_, fun i hi => ?_, rfl⟩
  · refine (congrArg _ hid).trans ?_
    refine (State.updSession_session_same (s := s.ok) hx hkeep).trans (congrArg some (if_neg ?_))
    have hin : x.beatMs = 0 ∨ ¬ x.lastBeat + ms x.beatMs < s.now := hb.imp_right fun h => by
      rw [ms, Nat.mul_comm]
      omega
    rcases hin with h | h <;> simp [hl, h]
  · exact State.updSession_session_other s.ok (hid ▸ hi) hkeep

/-- Nothing is refused at a pair whose first entry is a command. -/
theorem State.flushBad_of_known {s : State} {q : Fin 64} (h : ∀ x ∈ (s.pair q).inbox.head?, knownOpc (opcOf x) = true) (n : Nat) :
    s.flushBad q n = s := by
  cases n with
  | zero => rfl
  | succ n =>
    rw [State.flushBad]
    split
    · rfl
    · split
      · rfl
      · next e l hl => rw [if_pos (h e (by rw [hl]; rfl))]

theorem fetchTakesTheHeadEntry : Claim.FetchTakesTheHeadEntry := by
  intro s q h1 h2 h3 ha hw hn p e hk
  have hx : exec .sqFetch s = .next (s.ok.fetch q) := by
    have hexec : exec .sqFetch s = execSqFetch s := rfl
    rw [hexec, execSqFetch, if_neg (by simp [h1, h2, h3]), if_neg (by simp [ha, hw]), hn]
  have hword : (s.ok.word ((s.ok.pair q).sqBase.toNat + 128 * (s.ok.pair q).sqHead.toNat) 128) =
      s.word (p.sqBase.toNat + 128 * p.sqHead.toNat) 128 := by rw [State.ok_word]; rfl
  rw [hx, State.fetch, hword]
  refine congrArg _ ((State.flushBad_of_known ?_ _).trans rfl)
  have hq := State.updPair_pair s.ok q fun x => { x with
    sqHead := if x.sqHead.toNat + 1 = entriesOf x.sqLog2 then 0 else x.sqHead + 1
    reserved := x.reserved + (if longOpc (opcOf e) then 2 else 1), inbox := x.inbox ++ [e] }
  intro x hx
  refine hk x ?_
  rwa [← show _ = p.inbox ++ [e] from congrArg Pair.inbox hq]

/-- Settles O13: a doorbell that finds its slot free, a beat in time, and the fetch of the pair whose turn it is. -/
theorem doorbellsBeatsAndFetches : Obligations.DoorbellsBeatsAndFetches :=
  ⟨urgentDoorbellQueuesItsEntry, beatRenewsItsSession, fetchTakesTheHeadEntry⟩

end Sys2Proof.Machine
end

section
/-!
PROOFS. Regions and sequences (R334, R182, R207), and SUSPEND, RESUME and CANCEL (R380, R382, R386).
-/

namespace Sys2Proof.Machine

/-! ## Regions -/

theorem State.ok_regionOk (s : State) : s.ok.regionOk = s.regionOk := rfl

theorem regionBody_inadmissible {c : Cmd} {s : State} (h : s.regionOk c.tenant (c.f 64 48) (c.f 128 32) = false) :
    regionBody c s = s.refuse c .regionInvalid 0 :=
  if_pos (by rw [h]; rfl)

theorem regionReleaseBody_of_region {c : Cmd} {s : State} {r : Region} (h : s.regionFor c (c.f 64 16) = some r) :
    regionReleaseBody c s =
      if s.openItems.any fun i => i.handles.contains (c.f 64 16) then s.refuse c .regionBusy 0
      else ((s.updEci fun e => { e with regions := e.regions.filter fun x => x.handle != r.handle }).unpattern [c.f 64 16]).done c 0 0 := by
  rw [regionReleaseBody, h]

theorem regionsComeAndGo : Claim.RegionsComeAndGo := by
  intro s src c
  refine ⟨fun hc => ?_, fun r hc hr => ?_⟩
  · have hx : exec (.regionRegister src) s = .next (regionBody c s.ok) := congrArg _ (hc.command _)
    refine ⟨fun hbad => by rw [hx, regionBody_inadmissible (s := s.ok) hbad], fun h hok hh => ?_⟩
    rw [hx, regionBody, if_neg (by rw [State.ok_regionOk, hok]; exact Bool.false_ne_true), State.ok_eci, hh]
    rfl
  · have hx : exec (.regionRelease src) s = .next (regionReleaseBody c s.ok) := congrArg _ (hc.command _)
    rw [hx, regionReleaseBody_of_region (s := s.ok) hr]
    refine ⟨fun hfree => congrArg _ (if_neg ?_), fun ⟨i, hi, hb⟩ => congrArg _ (if_pos ?_)⟩
    · have hfree' : ∀ i ∈ s.ok.openItems, c.f 64 16 ∉ i.handles := hfree
      simpa using hfree'
    · exact List.any_eq_true.2 ⟨i, hi, by simpa using hb⟩

/-! ## Sequences -/

theorem State.ok_readable (s : State) : s.ok.readable = s.readable := rfl
theorem State.ok_newHandle (s : State) : s.ok.newHandle = s.newHandle := rfl
theorem State.ok_seqFor (s : State) : s.ok.seqFor = s.seqFor := rfl
theorem State.ok_tokens (s : State) : s.ok.tokens = s.tokens := by
  unfold State.tokens
  rw [State.ok_word]

theorem State.ok_dirWalk (s : State) (m tenant : BitVec 32) (l : List (List (BitVec 32))) :
    ∀ (parent : Option Nat) (h : W64), s.ok.dirWalk m tenant parent h l = s.dirWalk m tenant parent h l := by
  induction l with
  | nil => exact fun _ _ => rfl
  | cons ids l ih =>
    intro parent h
    rw [State.dirWalk, State.dirWalk]
    simp only [ih]
    rfl

theorem sequencesOpenAndClose : Claim.SequencesOpenAndClose := by
  intro s src c m
  refine ⟨fun h hc hrole hm hread hins hh => ?_, fun hc hm hq => ?_⟩
  · intro k hits q u
    have hx : exec (.seqOpen src) s = .next (seqOpenBody c s.ok) := congrArg _ (hc.command _)
    have hnone : s.srv.chains.any (fun k => k.model == m.id && !k.inserting.isEmpty) = false := by
      simpa using hins
    have hhits : s.ok.dirWalk m.id c.tenant none (s.ok.rootHash m c.tenant) (cutBlocks k (s.ok.tokens (c.f 96 64) (64 * k))) = hits := by
      rw [State.ok_dirWalk, State.ok_tokens]
      rfl
    have hrole' : ¬ s.ok.eci.role = some .cache := hrole
    rw [hx, seqOpenBody, if_neg hrole', State.ok_modelFor, hm]
    dsimp only
    rw [if_neg (by rw [State.ok_readable, hread, State.ok_srv, hnone]; exact Bool.false_ne_true), State.ok_newHandle, hh]
    dsimp only
    rw [hhits]
  · have hx : exec (.seqClose src) s = .next (seqCloseBody c s.ok) := congrArg _ (hc.command _)
    obtain ⟨q, hq⟩ := Option.isSome_iff_exists.1 hq
    rw [hx, seqCloseBody]
    rw [State.ok_modelFor, hm]
    dsimp only
    rw [State.ok_seqFor, hq]

/-- Settles O19, by the body of each command under the conditions of its clause. -/
theorem regionsAndSequencesComeAndGo : Obligations.RegionsAndSequencesComeAndGo := ⟨regionsComeAndGo, sequencesOpenAndClose⟩

/-! ## SUSPEND, RESUME and CANCEL -/

theorem suspendBody_of_running {c : Cmd} {s : State} {o : LongOp} (hk : c.f 64 64 >>> 62 ≠ 3)
    (ho : s.opFor c (c.f 64 64 % 2 ^ 32) = .live o) (hst : o.st = .running) :
    suspendBody c s = (s.begin c).updOp o.handle fun x => { x with st := .suspending, suspenders := x.suspenders ++ [c.ref] } := by
  rw [suspendBody]
  dsimp only
  rw [if_neg hk, ho]
  dsimp only
  rw [hst]

theorem suspendBody_of_suspended {c : Cmd} {s : State} {o : LongOp} (hk : c.f 64 64 >>> 62 ≠ 3)
    (ho : s.opFor c (c.f 64 64 % 2 ^ 32) = .live o) (hst : o.st = .suspended) : suspendBody c s = s.done c 0 0 := by
  rw [suspendBody]
  dsimp only
  rw [if_neg hk, ho]
  dsimp only
  rw [hst]

theorem suspendBody_of_module {c : Cmd} {s : State} (hk : c.f 64 64 >>> 62 = 3) (hop : c.op = true)
    (hs : s.eci.devState = .ready ∨ s.eci.devState = .serving ∨ s.eci.devState = .degraded) :
    suspendBody c s = State.tryDrain ((s.begin c).updEci fun e => { e with
      devState := .draining, stateBefore := e.devState, drainWhy := some (.suspend, c.ref)
      ops := updWhere e.ops (·.st == .running) fun o => { o with st := .suspending, byModule := true } }) := by
  rw [suspendBody]
  dsimp only
  rw [if_pos hk, hop]
  rcases hs with h | h | h <;> rw [h] <;> rfl

theorem resumeBody_of_suspended {c : Cmd} {s : State} {o : LongOp} (hk : c.f 64 64 >>> 62 ≠ 3)
    (ho : s.opFor c (c.f 64 64 % 2 ^ 32) = .live o) (hst : o.st = .suspended) :
    resumeBody c s = ((s.updOp o.handle fun x => { x with st := .running, byModule := false }).tellHeld o false).done c 0 0 := by
  rw [resumeBody]
  dsimp only
  rw [if_neg hk, ho]
  dsimp only
  rw [hst]

theorem suspendAndResume : Claim.SuspendAndResume := by
  intro s src c o
  refine ⟨fun hc => ?_, fun hc => ?_⟩
  · have hx : exec (.suspend src) s = .next (suspendBody c s.ok) := congrArg _ (hc.command _)
    rw [hx]
    exact ⟨fun hk hop hs => congrArg _ (suspendBody_of_module hk hop hs), fun hk ho =>
      ⟨fun hst => congrArg _ (suspendBody_of_running hk ho hst), fun hst => congrArg _ (suspendBody_of_suspended hk ho hst)⟩⟩
  · have hx : exec (.resume src) s = .next (resumeBody c s.ok) := congrArg _ (hc.command _)
    rw [hx]
    refine ⟨fun hk hop hs => ?_, fun hk ho hst => congrArg _ (resumeBody_of_suspended hk ho hst)⟩
    intro mine
    rw [resumeBody]
    dsimp only
    rw [if_pos hk, hop, State.ok_eci, hs]
    rfl

theorem bitsAt_eq_div (x lo w : Nat) : bitsAt x lo w = x / 2 ^ lo % 2 ^ w := by rw [bitsAt, Nat.shiftRight_eq_div_pow]

/-- The items of a pair that a CANCEL names by their identifier, of the caller's tenant. -/
def Cmd.names (c : Cmd) (i : Item) : Bool :=
  i.ref.src == .pair ⟨c.f 64 64 / 65536 % 64, Nat.mod_lt _ (by decide)⟩ && i.ref.cid == BitVec.ofNat 16 (c.f 64 64 % 65536)
    && (c.all || i.tenant == c.tenant)

theorem cancelBody_of_live {c : Cmd} {s : State} {o : LongOp} (hk : c.f 64 64 >>> 62 = 0)
    (ho : s.opFor c (c.f 64 64 % 2 ^ 32) = .live o) (hst : o.st ≠ .suspended) :
    cancelBody c s = (s.begin c).updOp o.handle fun x => { x with st := .ending, cancellers := x.cancellers ++ [c.ref] } := by
  simp only [cancelBody, hk, ho]
  exact if_neg hst

theorem cancelBody_of_final {c : Cmd} {s : State} (hk : c.f 64 64 >>> 62 = 0) (ho : s.opFor c (c.f 64 64 % 2 ^ 32) = .final) :
    cancelBody c s = s.endCmd c .alreadyFinal 0 0 0 := by
  simp only [cancelBody, hk, ho]

theorem cancelBody_item {c : Cmd} {s : State} (hk : c.f 64 64 >>> 62 = 1) :
    cancelBody c s = if s.openItems.any c.names then ((s.cancelWhere fun _ i => c.names i).done c 0 0).settle
      else s.endCmd c .alreadyFinal 0 0 0 := by
  have hsrc : bitsAt (c.f 64 64) 16 6 = c.f 64 64 / 65536 % 64 := bitsAt_eq_div ..
  rw [cancelBody]
  simp only [hk, hsrc]
  rfl

theorem cancelBody_chain {c : Cmd} {s : State} (hk : c.f 64 64 >>> 62 = 2)
    (hm : (s.modelFor c (BitVec.ofNat 32 (c.f 64 64 / 65536 % 2 ^ 32))).isSome = true) :
    cancelBody c s = ((s.cancelWhere fun ch i => ch.model == BitVec.ofNat 32 (c.f 64 64 / 65536 % 2 ^ 32)
      && ch.chain.val == c.f 64 64 % 16 && (c.all || i.ref.session == c.session)).done c 0 0).settle := by
  obtain ⟨m, hm⟩ := Option.isSome_iff_exists.1 hm
  have hid : bitsAt (c.f 64 64) 16 32 = c.f 64 64 / 65536 % 2 ^ 32 := bitsAt_eq_div ..
  have hchain (k : Fin 16) : (k == ⟨bitsAt (c.f 64 64) 0 4, Nat.mod_lt _ (by decide)⟩) = (k.val == c.f 64 64 % 16) :=
    Bool.eq_iff_iff.2 (by simp only [beq_iff_eq, Fin.ext_iff]; rfl)
  rw [cancelBody]
  simp only [hk, hid, hm, hchain]

theorem cancelEndsItsTarget : Claim.CancelEndsItsTarget := by
  intro s src c o hc
  have hx : exec (.cancel src) s = .next (cancelBody c s.ok) := congrArg _ (hc.command _)
  rw [hx]
  refine ⟨fun hk ho hst => congrArg _ (cancelBody_of_live hk ho hst), fun hk ho => congrArg _ (cancelBody_of_final hk ho), fun hk => ?_,
    fun hk hm => congrArg _ (cancelBody_chain hk hm)⟩
  rw [cancelBody_item hk]
  exact ⟨fun h => congrArg _ (if_pos h), fun h => congrArg _ (if_neg (Bool.eq_false_iff.1 h))⟩

/-- Settles O20, by the target's kind and the state it is in. -/
theorem suspendResumeAndCancel : Obligations.SuspendResumeAndCancel := ⟨suspendAndResume, cancelEndsItsTarget⟩

end Sys2Proof.Machine
end

section
/-!
PROOFS. The device mailbox (R329, R411), the management port (R354, R355) and the SPDM responder (R356, R424, R425).
-/

namespace Sys2Proof.Machine

theorem next_congr {s t : State} (h : s = t) : (.next s : Res) = .next t := congrArg _ h

/-! ## The mailbox -/

theorem State.mailboxed_of_up {s : State} (hs : s.eci.devState ≠ .uninit) (hl : s.linkUp = true) (f : State → State) : s.mailboxed f = f s :=
  if_neg (by simp [hs, hl])

theorem leBytes_length (x n : Nat) : (leBytes x n).length = n := by
  induction n generalizing x with
  | zero => rfl
  | succ n ih => rw [leBytes, List.length_cons, ih]

theorem openBytes_length (k a n : Nat) : (openBytes k a n).length = n := by simp [openBytes]

theorem effectsLog_length : effectsLog.length = 20 := rfl

/-- The DRAM sizes that IDENTIFY_MEMORY_DEVICE gives stand behind its first sixteen bytes. -/
theorem take_drop_identify (x : Nat) (l : List Byte) :
    ((openBytes 0x4000 0 16 ++ leBytes x 8 ++ leBytes x 8 ++ l).drop 16).take 16 = leBytes x 8 ++ leBytes x 8 := by
  rw [List.append_assoc, List.append_assoc, List.drop_left' (openBytes_length ..), ← List.append_assoc,
    List.take_left' (by rw [List.length_append, leBytes_length])]

/-- Changes of elements outside a filter, that stay outside it, leave what it lets through. -/
theorem filter_updWhere_of_out {α : Type} (l : List α) {p q : α → Bool} {f : α → α} (h : ∀ a, p a = true → q a = false ∧ q (f a) = false) :
    (updWhere l p f).filter q = l.filter q := by
  induction l with
  | nil => rfl
  | cons a l ih =>
    have hl : updWhere (a :: l) p f = (if p a then f a else a) :: updWhere l p f := rfl
    rw [hl, List.filter_cons, List.filter_cons, ih]
    by_cases hp : p a = true
    · obtain ⟨ha, hf⟩ := h a hp
      rw [if_pos hp, ha, hf]
      rfl
    · rw [if_neg hp]

/-- The unread records of a log. -/
def Event.waitsIn (log : Fin 4) (e : Event) : Bool := !e.read && cxlLog e.cls == some log

theorem State.inLog_eq (s : State) (log : Fin 4) : s.inLog log = s.logs.events.filter (Event.waitsIn log) := by
  rw [State.inLog, State.unread, List.filter_filter]
  exact List.filter_congr fun e _ => Bool.and_comm ..

/-- The records of a log that CLEAR_EVENT_RECORDS marks read. -/
def Event.named (log : Fin 4) (handles : List Nat) (e : Event) : Bool := !e.read && cxlLog e.cls == some log && handles.contains e.handle

def State.clearRecords (s : State) (log : Fin 4) (handles : List Nat) : State :=
  (s.updLogs fun x => { x with events := updWhere x.events (Event.named log handles) fun e => { e with read := true } }).answer (.mailbox 0 [])

theorem exec_clearEventRecords {s : State} (hs : s.eci.devState ≠ .uninit) (hl : s.linkUp = true) (log : Fin 4) (handles : List Nat) :
    exec (.clearEventRecords log handles) s = .next (s.clearRecords log handles) := congrArg _ (State.mailboxed_of_up hs hl _)

theorem State.clearRecords_inLog (s : State) (log : Fin 4) (handles : List Nat) {e : Event} (he : e ∈ (s.clearRecords log handles).inLog log) :
    e.handle ∉ handles := by
  rw [State.inLog_eq, List.mem_filter] at he
  obtain ⟨hm, hw⟩ := he
  obtain ⟨a, -, rfl⟩ := List.mem_map.1 hm
  split at hw
  · exact absurd hw Bool.false_ne_true
  · next hn =>
    rw [if_neg hn]
    intro hin
    refine hn ?_
    simp only [Event.waitsIn, Bool.and_eq_true] at hw
    simp [Event.named, hw, hin]

theorem State.clearRecords_inLog_other (s : State) {log k : Fin 4} (h : k ≠ log) (handles : List Nat) :
    (s.clearRecords log handles).inLog k = s.inLog k := by
  rw [State.inLog_eq, State.inLog_eq]
  refine filter_updWhere_of_out _ fun e he => ⟨?_, rfl⟩
  simp only [Event.named, Bool.and_eq_true, beq_iff_eq] at he
  simp [Event.waitsIn, he.1.2, Ne.symm h]

/-- Settles O45, by the answer of each opcode. -/
theorem mailboxAnswers : Obligations.MailboxAnswers := by
  intro s log handles opc offset length hs hl
  have hbox (f : State → State) : s.mailboxed f = f s := State.mailboxed_of_up hs hl f
  refine ⟨⟨_, next_congr (hbox _), ?_, ?_⟩, next_congr (hbox _), ⟨(effectsLog.drop offset).take length, ?_, fun h => ?_⟩, next_congr (hbox _),
    ⟨_, exec_clearEventRecords hs hl log handles, rfl, fun e he => State.clearRecords_inLog _ _ _ he,
      fun k hk => State.clearRecords_inLog_other _ hk _, rfl⟩, fun h => ?_⟩
  · simp [openBytes_length, leBytes_length]
  · rw [List.append_assoc]
    exact take_drop_identify ..
  · refine next_congr ((hbox _).trans ?_)
    rw [effectsLog_length]
    split <;> rfl
  · rw [List.length_take, List.length_drop, effectsLog_length]
    omega
  · refine next_congr ((hbox _).trans (if_neg ?_))
    simpa using h

/-! ## The management port -/

theorem State.overMctp_of_init {s : State} (hs : s.eci.devState ≠ .uninit) (f : State → State) : s.overMctp f = f s := if_neg hs

theorem managementRequestsQueue : Claim.ManagementRequestsQueue := by
  intro s e image r
  refine ⟨fun hs hn => ?_, fun h => next_congr ?_⟩
  · have hx : exec (.mgmtEciRequest e image) s = .next (
        if !knownOpc (opcOf e) then s.ok.final r .invalidOpcode 0 0 0
        else if !mgmtOpc (opcOf e) then s.ok.final r .notOnPort 0 0 0
        else (if [0x40, 0x41, 0x42, 0x1A].contains (opcOf e) then s.ok else s.ok.rouse).updEci fun x =>
          { x with mgmtInbox := x.mgmtInbox ++ [(e, image)], arrivals := x.arrivals ++ [.mgmt] }) :=
      next_congr ((State.overMctp_of_init hs _).trans (if_neg (Nat.not_le_of_lt hn)))
    rw [hx]
    refine ⟨fun hk => by rw [hk]; rfl, fun hk hp => by rw [hk, hp]; rfl, fun hk hp => ⟨_, rfl, ?_⟩⟩
    rw [hk, hp]
    cases [0x40, 0x41, 0x42, 0x1A].contains (opcOf e) with
    | true => rfl
    | false =>
      have hr : s.ok.rouse = { s.ok with pwr := s.rouse.pwr } := State.rouse_eq rfl
      simp only [hr]
      rfl
  · by_cases hs : s.eci.devState = .uninit
    · exact if_pos hs
    · exact (State.overMctp_of_init hs _).trans (if_pos (h.resolve_right hs))

theorem i3cTakesAddresses : Claim.I3cTakesAddresses := by
  intro s m code a
  refine ⟨fun hs => ⟨fun h2 h3 h4 h5 => ?_, fun h2 => ?_⟩, fun hon => ?_⟩
  · exact next_congr ((State.overMctp_of_init hs _).trans (if_pos ⟨h2, h3, h4, h5⟩))
  · exact next_congr ((State.overMctp_of_init hs _).trans (if_neg fun h => h2 h.1))
  · refine next_congr ((if_neg (by simp [hon])).trans ?_)
    split
    · rfl
    · split <;> rfl

/-- Settles O46, by the answers of the target to requests, to control messages and to I3C codes. -/
theorem managementPortAnswers : Obligations.ManagementPortAnswers := ⟨managementRequestsQueue, i3cTakesAddresses⟩

/-! ## The SPDM responder -/

theorem State.spdmOn_of_reached {s : State} {p : Transport} (hs : s.eci.devState ≠ .uninit) (hl : p = .doe → s.linkUp = true)
    (f : State → State) : s.spdmOn p f = f s := by
  cases p with
  | mctp => exact State.overMctp_of_init hs f
  | doe => exact if_neg (by simp [hs, hl rfl])

theorem State.spdmReady_of_reached {s : State} {p : Transport} (hs : s.eci.devState ≠ .uninit) (hl : p = .doe → s.linkUp = true)
    (f : State → State) : s.spdmReady p f = if (s.spdmConn p).algsDone then f s else s.spdmError 4 :=
  State.spdmOn_of_reached hs hl _

theorem spdmConnectsInOrder : Claim.SpdmConnectsInOrder := by
  intro s p hs hl
  have hon (f : State → State) : s.spdmOn p f = f s := State.spdmOn_of_reached hs hl f
  refine ⟨next_congr (hon _), fun h => next_congr ((hon _).trans (if_pos h)), fun h => next_congr ((hon _).trans (if_pos h)),
    fun h => next_congr ((hon _).trans (if_neg (Bool.eq_false_iff.1 h))), fun h => next_congr ((hon _).trans (if_neg (Bool.eq_false_iff.1 h)))⟩

theorem spdmAttests : Claim.SpdmAttests := by
  intro s p slot offset length index nonce hs hl chain part
  have hready (f : State → State) := State.spdmReady_of_reached hs hl f
  refine ⟨fun ha => ?_, fun ha c hc => ?_⟩
  · have hon (f : State → State) : s.spdmReady p f = f s := (hready f).trans (if_pos ha)
    refine ⟨next_congr (hon _), next_congr ((hon _).trans ?_), next_congr ((hon _).trans (if_neg (not_not_intro rfl))), fun hi => ?_,
      fun h => next_congr ((hon _).trans (if_pos h)), fun h9 hff => next_congr ((hon _).trans (if_pos ⟨h9, hff⟩))⟩
    · by_cases h : slot ≠ 0 ∨ chain.length < offset
      · rw [if_pos h]
        exact if_pos h
      · rw [if_neg h]
        exact if_neg h
    · refine ⟨_, ?_, next_congr ((hon _).trans (if_neg ?_))⟩
      · have hcount : (if index = 0 then 9 else (if index = 0 then [] else if index = 0xFF then (List.range 9).map (· + 1) else [index]).length) =
            if index = 0 ∨ index = 0xFF then 9 else 1 := by
          by_cases h0 : index = 0
          · rw [if_pos h0, if_pos (Or.inl h0)]
          · by_cases hff : index = 0xFF
            · rw [if_neg h0, if_neg h0, if_pos hff, if_pos (Or.inr hff)]
              rfl
            · rw [if_neg h0, if_neg h0, if_neg hff, if_neg (not_or.2 ⟨h0, hff⟩)]
              rfl
        rw [List.append_assoc, List.cons_append, List.head?_cons, hcount]
        split <;> rfl
      · omega
  · have hoff (f : State → State) : s.spdmReady p f = s.spdmError 4 := (hready f).trans (if_neg (Bool.eq_false_iff.1 ha))
    simp only [List.mem_cons, List.not_mem_nil, or_false] at hc
    rcases hc with rfl | rfl | rfl | rfl <;> exact next_congr (hoff _)

/-- Settles O47, by the state of the connection that each request needs. -/
theorem spdmConnectsAndAttests : Obligations.SpdmConnectsAndAttests := ⟨spdmConnectsInOrder, spdmAttests⟩

end Sys2Proof.Machine
end

section
/-!
PROOFS. Sessions that begin, end, lapse and reattach (R374 to R377).
-/

namespace Sys2Proof.Machine

/-! ## What an ended sequence and an unloaded model leave alone -/

/-- A state without what sequences, models and the tiers hold. -/
def State.unserved (s : State) : State := { s with srv := {}, tiers := {} }

theorem State.freeBlock_unserved (s : State) (m : BitVec 32) (sub : Nat) : (s.freeBlock m sub).unserved = s.unserved := by
  unfold State.freeBlock
  split
  · rfl
  · extract_lets s1
    split <;> rfl

theorem State.dropSeq_unserved (s : State) (q : Seq) : (s.dropSeq q).unserved = s.unserved := by
  unfold State.dropSeq
  extract_lets s1
  refine foldl_keeps (g := State.unserved) (fun u sub => ?_) _ s1
  split
  · rfl
  · exact u.freeBlock_unserved ..

theorem State.closeSeq_unserved (s : State) (m : BitVec 32) (h : Nat) : (s.closeSeq m h).unserved = s.unserved := by
  unfold State.closeSeq
  split
  · rfl
  · split
    · rfl
    · exact s.dropSeq_unserved _

theorem State.reapSeqs_unserved (s : State) : s.reapSeqs.unserved = s.unserved :=
  foldl_keeps (g := State.unserved) State.dropSeq_unserved _ s

theorem State.dropCopy_unserved (s : State) (place n : Nat) : (s.dropCopy place n).unserved = s.unserved := by
  refine (foldl_keeps (g := State.unserved) (fun u b => ?_) _ _).trans rfl
  split <;> rfl

theorem State.nowInstalled_unserved (s : State) (m : BitVec 32) (i : Nat) (o : WObject) (place : Nat) :
    (s.nowInstalled m i o place).unserved = s.unserved :=
  foldl_keeps (g := State.unserved) (f := fun u (x : Installed) => u.dropCopy x.place x.frames) (fun u _ => u.dropCopy_unserved ..) _ s

theorem State.switchCopies_unserved (s : State) (m : Model) : (s.switchCopies m).unserved = s.unserved := by
  refine foldl_keeps (g := State.unserved) (fun u x => ?_) _ s
  split
  · rfl
  · next o _ => exact u.nowInstalled_unserved m.id x.1 o x.2

/-- A state without what the unloading of a model changes. -/
def State.unloaded (s : State) : State :=
  { s.unserved with
    squalls := Vector.replicate 64 {}, pwr := { s.pwr with demands := [] }, eci := { s.eci with devState := .uninit, stateBefore := .ready } }

theorem State.eci_of_unserved {s t : State} (h : t.unserved = s.unserved) : t.eci = s.eci := by
  have he := congrArg State.eci h
  exact he

theorem State.unloaded_of_unserved {s t : State} (h : t.unserved = s.unserved) : t.unloaded = s.unloaded := by
  have hu := congrArg State.unloaded h
  exact hu

/-- A model that is unloaded: what it leaves alone, and that it takes only SERVING back to READY. -/
theorem State.evictModel_unloaded (s : State) (m : BitVec 32) : (s.evictModel m).unloaded = s.unloaded ∧
    (s.eci.devState ≠ .serving → (s.evictModel m).eci.devState = s.eci.devState) := by
  unfold State.evictModel
  extract_lets s' s0 s1 s2 s3
  have h' : s'.unserved = s.unserved := by
    simp only [s']
    split
    · exact s.switchCopies_unserved _
    · rfl
  have h0 : s0.unserved = s'.unserved := foldl_keeps (g := State.unserved) State.dropSeq_unserved _ s'
  have hs0 : s0.unserved = s.unserved := h0.trans h'
  clear_value s0
  have h3 : s3.unloaded = s0.unloaded := by
    unfold State.unloaded State.unserved
    rfl
  have hdev0 : s3.eci.devState = s0.eci.devState := rfl
  clear_value s3
  have h3 : s3.unloaded = s.unloaded := h3.trans (State.unloaded_of_unserved hs0)
  have hdev : s3.eci.devState = s.eci.devState := hdev0.trans (congrArg Eci.devState (State.eci_of_unserved hs0))
  split
  · split
    · next hs => exact ⟨h3, fun hn => absurd (hdev.symm.trans hs) hn⟩
    · split <;> exact ⟨h3, fun _ => hdev⟩
    · split <;> exact ⟨h3, fun _ => hdev⟩
    · exact ⟨h3, fun _ => hdev⟩
  · exact ⟨h3, fun _ => hdev⟩

theorem State.evictModels_unloaded (s : State) (l : List Model) : (l.foldl (fun u m => u.evictModel m.id) s).unloaded = s.unloaded :=
  foldl_keeps (g := State.unloaded) (f := fun u (m : Model) => u.evictModel m.id) (fun u m => (u.evictModel_unloaded m.id).1) l s

/-! ## Sessions that end -/

/-- The command interface without a session: its regions, the session and what bound pairs to it are gone. -/
def Eci.without (e : Eci) (id : BitVec 16) : Eci :=
  { e with
    regions := e.regions.filter fun r => r.session != id
    sessions := e.sessions.filter fun y => y.id != id
    pairs := e.pairs.map fun p => if p.session == some id then { p with session := none, shadow := false, stopped := false, shadowUnread := 0 } else p }

theorem State.dropSession_eci {s : State} {id : BitVec 16} (h : (s.session id).isSome = true) :
    (s.dropSession id).eci.sessions = (s.eci.without id).sessions ∧ (s.dropSession id).eci.regions = (s.eci.without id).regions ∧
    (s.dropSession id).eci.pairs = (s.eci.without id).pairs := by
  unfold State.dropSession
  split
  · next hn => simp [hn] at h
  extract_lets s0 s1 s2 s3
  have h1 : s1.unserved = s0.unserved := foldl_keeps (g := State.unserved) (fun u _ => u.closeSeq_unserved ..) _ s0
  have h1e : s1.eci = s.eci := (State.eci_of_unserved h1).trans rfl
  have h2 : s2.eci = s.eci.without id := congrArg (Eci.without · id) h1e
  have h3 : s3.unloaded = s2.unloaded := by
    simp only [s3]
    split
    · rfl
    · exact State.evictModels_unloaded ..
  have hsessions : s3.eci.sessions = (s.eci.without id).sessions := (congrArg (fun u => u.eci.sessions) h3).trans (congrArg Eci.sessions h2)
  have hregions : s3.eci.regions = (s.eci.without id).regions := (congrArg (fun u => u.eci.regions) h3).trans (congrArg Eci.regions h2)
  have hpairs : s3.eci.pairs = (s.eci.without id).pairs := (congrArg (fun u => u.eci.pairs) h3).trans (congrArg Eci.pairs h2)
  split <;> exact ⟨hsessions, hregions, hpairs⟩

theorem droppedSessionsLeaveNothing : Claim.DroppedSessionsLeaveNothing := by
  intro s id h
  obtain ⟨hs, hr, hp⟩ := State.dropSession_eci h
  refine ⟨?_, fun q => ?_, fun r hm => ?_, fun i hi => ?_⟩
  · rw [State.session, hs]
    exact List.find?_eq_none.2 fun y hy => by simpa [Eci.without] using (List.mem_filter.1 hy).2
  · rw [State.pair, hp, Eci.without, pick_map]
    split
    · exact nofun
    · next hn => exact fun heq => hn (beq_iff_eq.2 heq)
  · rw [hr] at hm
    simpa [Eci.without] using (List.mem_filter.1 hm).2
  · rw [State.session, hs]
    rw [Eci.without, List.find?_filter, State.session]
    refine congrArg (List.find? · _) (funext fun y => ?_)
    by_cases hy : y.id = i
    · simp [hy, hi]
    · simp [hy]

/-! ## Sessions that begin -/

/-- Pairs are bound one by one: each that the test names has the session, whatever it had before. -/
theorem foldl_bind_session (p : Fin 64 → Bool) (id : BitVec 16) (k : Fin 64) (l : List (Fin 64)) : ∀ s : State,
    ((l.foldl (fun u q => if p q then u.updPair q fun x => { x with session := some id } else u) s).pair k).session =
      if k ∈ l ∧ p k = true then some id else (s.pair k).session := by
  induction l with
  | nil => exact fun s => (if_neg fun h => absurd h.1 List.not_mem_nil).symm
  | cons q l ih =>
    intro s
    rw [List.foldl_cons, ih]
    by_cases hk : k ∈ l ∧ p k = true
    · rw [if_pos hk, if_pos ⟨List.mem_cons_of_mem _ hk.1, hk.2⟩]
    · rw [if_neg hk]
      by_cases hq : k = q
      · subst hq
        cases hp : p k with
        | false => rw [if_neg Bool.false_ne_true, if_neg fun h => Bool.false_ne_true h.2]
        | true => rw [if_pos rfl, State.updPair_pair, if_pos ⟨List.mem_cons_self, rfl⟩]
      · have hout : ¬ (k ∈ q :: l ∧ p k = true) := fun h => hk ⟨(List.mem_cons.1 h.1).resolve_left hq, h.2⟩
        rw [if_neg hout]
        split
        · rw [State.updPair_pair_other _ hq]
        · rfl

theorem State.bindPairs_session (s : State) (id : BitVec 16) (p : Fin 64 → Bool) (k : Fin 64) :
    ((s.bindPairs id p).pair k).session = if p k = true then some id else (s.pair k).session := by
  rw [State.bindPairs, foldl_bind_session]
  simp only [List.mem_finRange, true_and]

theorem attachCreatesASession : Claim.AttachCreatesASession := by
  intro s q c hc hfree hsrc hpod hrole id tenant x u v held
  have hx : exec (.attach (.pair q)) s = .next (attachBody c s.ok) := congrArg _ (hc.command _)
  refine ⟨?_, fun k => ?_⟩
  · have hunbound : ¬ (s.ok.pair q).session.isSome = true := by
      have hn : (s.ok.pair q).session = none := hfree
      simp [hn]
    have hreach : ¬ (c.f 192 48 ≠ 0 ∧ (!s.ok.readable (c.f 192 48)) = true) := by
      rintro ⟨hne, hn⟩
      simp [State.ok_readable, (hpod.resolve_left hne).1] at hn
    have hagree : ¬ (c.f 176 3 ≠ 7 ∧ (s.ok.eci.sessions ≠ [] ∨ s.ok.srv.models ≠ []) ∧ s.ok.eci.role.map Role.code ≠ some (c.f 176 3)) := by
      rintro ⟨hne, hbusy, hother⟩
      rcases hrole with h | ⟨hs, hm⟩ | h
      · exact hne h
      · exact hbusy.elim (absurd hs) (absurd hm)
      · exact hother h
    have hbytes : s.ok.bytes (c.f 192 48) 4096 = s.bytes (c.f 192 48) 4096 := by rw [State.ok_bytes]
    have hlegal : ¬ (c.f 192 48 ≠ 0 ∧ s.ok.podRefused (s.bytes (c.f 192 48) 4096) = true) := by
      rintro ⟨hne, hn⟩
      exact absurd ((hpod.resolve_left hne).2.symm.trans hn) Bool.false_ne_true
    have hv : v = if c.f 192 48 ≠ 0 ∧ s.ok.eci.pod.isNone = true then (match podOf (s.bytes (c.f 192 48) 4096) with
        | some d => u.enterPod d
        | none => u) else u := by
      refine if_congr (and_congr_right fun _ => Option.isNone_iff_eq_none.symm) rfl rfl
    rw [hx, attachBody, hsrc, hv]
    dsimp only
    rw [hbytes]
    exact next_congr ((if_neg hunbound).trans ((if_neg hreach).trans ((if_neg hagree).trans (if_neg hlegal))))
  · refine (State.bindPairs_session ..).trans ?_
    simp only [Bool.or_eq_true, Bool.and_eq_true, beq_iff_eq, Option.isNone_iff_eq_none, and_assoc]
    rfl

theorem detachEndsWithItsSessionsWork : Claim.DetachEndsWithItsSessionsWork := by
  intro s src c hc w id hid hop
  have hx : exec (.detach src) s = .next (detachBody c s.ok) := congrArg _ (hc.command _)
  have hs : ¬ (s.ok.session id).isNone = true := by simpa [State.ok_session, ← Option.isSome_iff_ne_none] using hid
  rw [hx, detachBody]
  refine next_congr ((if_neg hs).trans (if_neg ?_))
  rintro ⟨hne, hn⟩
  exact absurd (hop.resolve_left hne) (by simpa using hn)

/-- Settles O16, by the pairs that a new session binds and by what a session that is dropped leaves. -/
theorem sessionsBeginAndEnd : Obligations.SessionsBeginAndEnd :=
  ⟨attachCreatesASession, detachEndsWithItsSessionsWork, droppedSessionsLeaveNothing⟩

end Sys2Proof.Machine
end

section
/-!
PROOFS. REATTACH, its lock, and sessions that lapse (R375, R376).
-/

namespace Sys2Proof.Machine

/-! ## Records leave the sessions and what binds the pairs to them -/

/-- The sessions, and for each pair its session and whether it is stopped. -/
def State.bound (s : State) : List Session × (Fin 64 → Option (BitVec 16) × Bool) :=
  (s.eci.sessions, fun k => ((s.pair k).session, (s.pair k).stopped))

theorem State.bound_of_eci {s t : State} (hs : t.eci.sessions = s.eci.sessions) (hp : t.eci.pairs = s.eci.pairs) : t.bound = s.bound := by
  have hpair (k : Fin 64) : t.pair k = s.pair k := congrArg (pick · k) hp
  simp only [State.bound, hs, hpair]

theorem State.updPair_bound (s : State) (q : Fin 64) {f : Pair → Pair} (hs : ∀ p, (f p).session = p.session)
    (ht : ∀ p, (f p).stopped = p.stopped) : (s.updPair q f).bound = s.bound := by
  refine Prod.ext rfl (funext fun k => ?_)
  by_cases hk : k = q
  · subst hk
    simp [State.bound, hs, ht]
  · simp [State.bound, State.updPair_pair_other _ hk]

theorem RecordOnly.sessions {s t : State} (h : RecordOnly s t) : t.eci.sessions = s.eci.sessions := by rw [h.eci]

theorem State.cqPut_bound (s : State) (q : Fin 64) (body : Entry) : (s.cqPut q body).bound = s.bound := by
  refine Prod.ext (s.cqPut_record q body).sessions (funext fun k => ?_)
  simp only [State.bound, State.cqPut_pair]
  split <;> rfl

theorem State.record_bound (s : State) (r : RecRef) (a : Bool) (st : Status) (d h x : Nat) : (s.record r a st d h x).bound = s.bound := by
  unfold State.record
  split
  · extract_lets
    split
    · rfl
    · exact State.cqPut_bound ..
  · split
    · split
      · rfl
      · exact State.bound_of_eci (State.sendMsix_record ..).sessions rfl
    · rfl
  · rfl

theorem State.flushBad_bound (q : Fin 64) (n : Nat) : ∀ s : State, (s.flushBad q n).bound = s.bound := by
  induction n with
  | zero => exact fun _ => rfl
  | succ n ih =>
    intro s
    rw [State.flushBad]
    split
    · rfl
    · split
      · rfl
      · split
        · rfl
        · exact (ih _).trans ((State.record_bound ..).trans (s.updPair_bound q (fun _ => rfl) fun _ => rfl))

theorem State.nextBad_bound (s : State) (src : Src) : (s.nextBad src).bound = s.bound := by
  cases src with
  | pair q => exact s.flushBad_bound ..
  | urgent _ => rfl
  | mgmt => rfl

theorem State.popEntry_bound (s : State) (src : Src) : (s.popEntry src).bound = s.bound := by
  cases src with
  | pair q => exact s.updPair_bound q (fun _ => rfl) fun _ => rfl
  | urgent _ => rfl
  | mgmt => rfl

theorem State.done_bound (s : State) (c : Cmd) (h x : Nat) : (s.done c h x).bound = s.bound :=
  (State.nextBad_bound ..).trans ((State.record_bound ..).trans (s.popEntry_bound _))

theorem State.begin_bound (s : State) (c : Cmd) : (s.begin c).bound = s.bound := s.popEntry_bound _

theorem State.finish_bound (s : State) (r : RecRef) (st : Status) (d h x : Nat) : (s.finish r st d h x).bound = s.bound :=
  (State.nextBad_bound ..).trans (State.record_bound ..)

theorem State.deliver_bound (n : Nat) : ∀ (s : State) (d : Deliver), (s.deliver d n).bound = s.bound := by
  induction n with
  | zero => exact fun _ _ => rfl
  | succ n ih =>
    intro s d
    rw [State.deliver]
    split
    · rfl
    · split
      · exact State.finish_bound ..
      · split
        · refine (ih _ _).trans ?_
          have hreserved (u : State) : (u.updPair d.q fun p => { p with reserved := p.reserved + 1 }).bound = u.bound :=
            u.updPair_bound d.q (fun _ => rfl) fun _ => rfl
          split
          · exact hreserved s
          · exact (State.cqPut_bound ..).trans (hreserved s)
        · rfl

theorem State.moveQueue_bound (s : State) (q : Fin 64) : (s.moveQueue q).bound = s.bound := by
  unfold State.moveQueue
  extract_lets p l s1
  split
  · rfl
  · have heci : s1.eci = s.eci := s.putBytes_eci ..
    have h1 : s1.bound = s.bound := State.bound_of_eci (congrArg Eci.sessions heci) (congrArg Eci.pairs heci)
    rw [State.updPair_bound, h1]
    · exact fun _ => rfl
    · exact fun _ => rfl

/-! ## REATTACH -/

theorem State.session_of_bound {s t : State} (h : t.bound = s.bound) (i : BitVec 16) : t.session i = s.session i := by
  have hs : t.eci.sessions = s.eci.sessions := congrArg Prod.fst h
  rw [State.session, hs]
  rfl

theorem State.pair_of_bound {s t : State} (h : t.bound = s.bound) (k : Fin 64) :
    (t.pair k).session = (s.pair k).session ∧ (t.pair k).stopped = (s.pair k).stopped :=
  Prod.mk.inj (congrFun (congrArg Prod.snd h) k)

/-- The lost session that a pair takes up again. -/
def State.revive (s : State) (q : Fin 64) (id : BitVec 16) : State :=
  let restart := s.updEci fun e => { e with
    pairs := e.pairs.mapIdx fun i p => if p.session == some id && i != q.val then { p with stopped := false, sqHead := 0, sqTail := 0 } else p }
  (restart.updPair q fun p => { p with session := some id, stopped := false }).updSession id fun y => { y with
    lost := false, lastBeat := s.now, onPkg := ((s.pair q).onPkg).getD y.onPkg }

theorem State.moveQueues_bound (s : State) (w : Nat) (id : BitVec 16) (l : List (Fin 64)) :
    (l.foldl (fun u k => if bitAt w k.val ∧ (u.pair k).session = some id then u.moveQueue k else u) s).bound = s.bound := by
  refine foldl_keeps (g := State.bound) (fun u k => ?_) l s
  split
  · exact u.moveQueue_bound k
  · rfl

/-- A change of the sessions alone after equal states, as far as sessions and pairs are bound. -/
theorem State.updSession_bound {s t : State} (h : t.bound = s.bound) (id : BitVec 16) (f : Session → Session) :
    (t.updSession id f).bound = (s.updSession id f).bound := by
  obtain ⟨hs, hp⟩ := Prod.mk.inj h
  refine Prod.ext ?_ hp
  have hx (u : State) : (u.updSession id f).bound.1 = updWhere u.eci.sessions (·.id == id) f := rfl
  rw [hx, hx, hs]

/-- The record of a REATTACH, written at once or after the items it delivers. -/
theorem State.rejoin_bound (s : State) (c : Cmd) (h x n : Nat) (d : Deliver) (p : Prop) [Decidable p] :
    (if p then s.done c h x else ((s.begin c).updEci fun e => { e with delivering := e.delivering ++ [d] }).deliver d n).bound = s.bound := by
  split
  · exact State.done_bound ..
  · exact (State.deliver_bound ..).trans (s.begin_bound c)

section
variable {s : State} {q : Fin 64} {c : Cmd} {x : Session} (hsrc : c.src = .pair q)
  (hx : s.session (BitVec.ofNat 16 (c.f 64 16)) = some x) (hl : x.lost = true) (hn : (s.pair q).session = none)
  (hlock : ∀ t, s.eci.reattachLockUntil = some t → t ≤ s.now)

include hlock in
theorem reattach_unlocked : s.eci.reattachLockUntil.any (fun t => decide (s.now < t)) = false := by
  cases hu : s.eci.reattachLockUntil with
  | none => rfl
  | some t => simpa using hlock t hu

include hsrc hx hl hn hlock

theorem reattachBody_of_wrong_token (htok : c.f 128 64 ≠ x.token.toNat) : reattachBody c s = s.badToken.refuse c .badToken 0 := by
  rw [reattachBody, hsrc]
  dsimp only
  rw [hx]
  dsimp only
  rw [reattach_unlocked hlock, if_neg Bool.false_ne_true, if_neg (by simp [hn]), if_neg (by simp [hl]), if_pos htok]

/-- A REATTACH with its token revives the session; the queues it moves and the records it writes leave that as it is. -/
theorem reattachBody_bound (htok : c.f 128 64 = x.token.toNat) : (reattachBody c s).bound =
    ((s.revive q (BitVec.ofNat 16 (c.f 64 16))).updSession (BitVec.ofNat 16 (c.f 64 16)) fun y => { y with journal := [] }).bound := by
  rw [reattachBody, hsrc]
  dsimp only
  rw [hx]
  dsimp only
  rw [reattach_unlocked hlock, if_neg Bool.false_ne_true, if_neg (by simp [hn]), if_neg (by simp [hl]), if_neg (not_not_intro htok), if_pos hl]
  have h3 := State.updSession_bound (State.moveQueues_bound (s.revive q (BitVec.ofNat 16 (c.f 64 16))) (c.f 192 64)
    (BitVec.ofNat 16 (c.f 64 16)) (List.finRange 64)) (BitVec.ofNat 16 (c.f 64 16)) fun y => { y with journal := [] }
  refine (State.rejoin_bound ..).trans ?_
  exact h3

end

theorem State.revive_session (s : State) (q : Fin 64) (id i : BitVec 16) :
    (s.revive q id).session i = (s.session i).map fun y => if y.id == id then { y with
      lost := false, lastBeat := s.now, onPkg := ((s.pair q).onPkg).getD y.onPkg } else y :=
  State.updSession_session _ id i fun _ => rfl

theorem State.revive_pair (s : State) (q : Fin 64) (id : BitVec 16) :
    ((s.revive q id).pair q).session = some id ∧ ((s.revive q id).pair q).stopped = false := by
  unfold State.revive
  extract_lets restart
  have h := restart.updPair_pair q fun p => { p with session := some id, stopped := false }
  exact ⟨congrArg Pair.session h, congrArg Pair.stopped h⟩

theorem reattachRevivesALostSession : Claim.ReattachRevivesALostSession := by
  intro s q c x hc hsrc hx hl hn hlock htok
  have hid : x.id = BitVec.ofNat 16 (c.f 64 16) := State.session_id hx
  have hexec : exec (.reattach (.pair q)) s = .next (reattachBody c s.ok) := congrArg _ (hc.command _)
  have hbound := reattachBody_bound (s := s.ok) hsrc hx hl hn hlock htok
  rw [← hid] at hbound
  rw [hexec]
  have hpair := State.pair_of_bound hbound q
  have hrevived := s.ok.revive_pair q x.id
  refine ⟨_, _, rfl, ?_, rfl, hpair.1.trans hrevived.1, hpair.2.trans hrevived.2, fun i hi => ?_⟩
  · have hs : (s.ok.revive q x.id).session x.id = some { x with
        lost := false, lastBeat := s.now, onPkg := ((s.pair q).onPkg).getD x.onPkg } := by
      have hx' : s.session x.id = some x := hid ▸ hx
      rw [State.revive_session, State.ok_session, hx', Option.map_some, if_pos (beq_self_eq_true _)]
      rfl
    exact (State.session_of_bound hbound _).trans (State.updSession_session_same hs fun _ => rfl)
  · rw [State.session_of_bound hbound, State.updSession_session_other _ hi, State.revive_session, State.ok_session]
    · cases hy : s.session i with
      | none => rfl
      | some y => rw [Option.map_some, if_neg (by simpa [State.session_id hy] using hi)]
    · exact fun _ => rfl

/-! ## Wrong tokens, the lock, and lapsed sessions -/

theorem State.badToken_effect (s : State) :
    let recent := s.eci.badTokens.filter fun t => decide (s.now < t + 60000000000)
    (recent.length < 7 → s.badToken = { s with eci := { s.eci with badTokens := recent ++ [s.now] } }) ∧
    (7 ≤ recent.length →
      s.badToken = { s with eci := { s.eci with badTokens := [], reattachLockUntil := some (s.now + 60000000000) } }) := by
  intro recent
  have hlen : (recent ++ [s.now]).length = recent.length + 1 := List.length_append
  have hx : s.badToken = s.updEci fun e =>
      if 8 ≤ (recent ++ [s.now]).length then { e with badTokens := [], reattachLockUntil := some (s.now + 60000000000) }
      else { e with badTokens := recent ++ [s.now] } := rfl
  rw [hx, hlen]
  refine ⟨fun h => ?_, fun h => ?_⟩
  · rw [State.updEci, if_neg (by omega)]
  · rw [State.updEci, if_pos (by omega)]

theorem wrongTokensLockReattach : Claim.WrongTokensLockReattach := by
  refine ⟨fun s q c x hc hsrc hx hl hn hlock htok => ?_, State.badToken_effect, fun s t hs ht => ?_⟩
  · have hexec : exec (.reattach (.pair q)) s = .next (reattachBody c s.ok) := congrArg _ (hc.command _)
    rw [hexec, reattachBody_of_wrong_token (s := s.ok) hsrc hx hl hn hlock htok]
  · have hexec : exec .reattachLockEnd s = execReattachLockEnd s := rfl
    rw [hexec, execReattachLockEnd, hs]
    exact next_congr (if_pos ht)

theorem lapsedSessionsAreLost : Claim.LapsedSessionsAreLost := by
  intro s i x hx hs hb hl hlate
  have hexec : exec (.sessionBeatLapse i) s = execSessionBeatLapse i s := rfl
  have hms : ms x.beatMs = 1000000 * x.beatMs := Nat.mul_comm ..
  rw [hexec, execSessionBeatLapse, hx]
  refine next_congr (if_neg ?_)
  rw [hms]
  rintro (h | h | h | h)
  · exact hb h
  · exact absurd (hl.symm.trans h) Bool.false_ne_true
  · omega
  · exact hs h

/-- Settles O17: a session is revived whatever records its REATTACH writes; a wrong token only counts; a late beat loses its session. -/
theorem lostSessionsReattach : Obligations.LostSessionsReattach :=
  ⟨reattachRevivesALostSession, wrongTokensLockReattach, lapsedSessionsAreLost⟩

end Sys2Proof.Machine
end

section
/-!
PROOFS. What the end of some work leaves standing (R377, R380, R382), and the long operations (R365, R381, R382).
-/

namespace Sys2Proof.Machine

/-! ## What stands while work ends: records, drains, detaches -/

/-- The boot, the logs, the power controller without its demands, the long operations, and the heartbeat. -/
def State.standing (s : State) : State :=
  { boot := s.boot, logs := s.logs, pwr := { s.pwr with demands := [] }
    eci := { ops := s.eci.ops, nextHandle := s.eci.nextHandle, heartbeat := s.eci.heartbeat, bootEndedAt := s.eci.bootEndedAt } }

theorem State.standing_of_unloaded {s t : State} (h : t.unloaded = s.unloaded) : t.standing = s.standing := (congrArg State.standing h :)

theorem State.standing_of_unserved {s t : State} (h : t.unserved = s.unserved) : t.standing = s.standing :=
  State.standing_of_unloaded (State.unloaded_of_unserved h)

theorem RecordOnly.standing {s t : State} (h : RecordOnly s t) : t.standing = s.standing := by
  rw [State.standing, State.standing, h.boot, h.logs, h.pwr, h.eci]

theorem State.boot_of_standing {s t : State} (h : t.standing = s.standing) : t.boot = s.boot := (congrArg State.boot h :)

theorem State.ops_of_standing {s t : State} (h : t.standing = s.standing) : t.eci.ops = s.eci.ops := (congrArg (fun u => u.eci.ops) h :)

theorem State.nextHandle_of_standing {s t : State} (h : t.standing = s.standing) : t.eci.nextHandle = s.eci.nextHandle := (congrArg (fun u => u.eci.nextHandle) h :)

/-- The final records of several commands, one after the other. -/
theorem State.finishes_standing (f : RecRef → Status) (l : List RecRef) (s : State) :
    (l.foldl (fun u r => u.finish r (f r) 0 0 0) s).standing = s.standing :=
  foldl_keeps (g := State.standing) (fun u _ => (u.finish_record ..).standing) l s

theorem State.failItem_standing (s : State) (m : BitVec 32) (i : Item) (st : Status) (n v : Nat) :
    (s.failItem m i st n v).standing = s.standing := (State.final_record ..).standing

theorem State.failAll_standing (s : State) (st : Status) : (s.failAll st).standing = s.standing :=
  foldl_keeps (g := State.standing) (f := fun (u : State) (c : Chain) => c.items.foldl (fun v i => v.failItem c.model i st c.seq 0xFFFF) u)
    (fun u c => foldl_keeps (g := State.standing) (fun v i => v.failItem_standing c.model i st c.seq 0xFFFF) c.items u) s.srv.chains s

theorem State.tryDrain_standing (s : State) : s.tryDrain.standing = s.standing := by
  unfold State.tryDrain
  split
  · rfl
  · split
    · split
      · exact (State.finish_record ..).standing
      · rfl
    · exact (State.finish_record ..).standing.trans (s.failAll_standing _)
    · rfl

theorem State.dropSession_standing (s : State) (id : BitVec 16) : (s.dropSession id).standing = s.standing := by
  unfold State.dropSession
  split
  · rfl
  extract_lets s0 s1 s2 s3
  have h1 : s1.unserved = s0.unserved := foldl_keeps (g := State.unserved) (fun u _ => u.closeSeq_unserved ..) _ s0
  have h2 : s2.standing = s1.standing := rfl
  have h3 : s3.standing = s2.standing := by
    simp only [s3]
    split
    · rfl
    · exact State.standing_of_unloaded (State.evictModels_unloaded ..)
  have h : s3.standing = s.standing := h3.trans (h2.trans (State.standing_of_unserved h1))
  clear_value s3
  split <;> exact h

theorem State.tryDetach_standing (s : State) : s.tryDetach.standing = s.standing := by
  unfold State.tryDetach
  split
  · rfl
  · exact (State.dropSession_standing ..).trans (State.finish_record ..).standing

theorem State.settle_standing (s : State) : s.settle.standing = s.standing :=
  (State.tryDetach_standing _).trans ((State.tryDrain_standing _).trans (State.standing_of_unserved s.reapSeqs_unserved))

/-! ## Long operations that begin -/

/-- The command interface with one operation more. -/
def State.opened (s : State) (o : LongOp) : State :=
  { s with eci := { s.eci with ops := s.eci.ops ++ [o], nextHandle := s.eci.nextHandle + 1 } }

/-- An operation of a command, as it begins. -/
def State.newOp (s : State) (c : Cmd) (k : LongKind) (m : BitVec 32) (total : Nat) : LongOp :=
  { handle := s.eci.nextHandle, kind := k, ref := c.ref, tenant := c.tenant, model := m, entry := c.e, total := total }

/-- The state in which a long operation begins its own work: its accepted record is written. -/
def State.startedOp (s : State) (c : Cmd) (k : LongKind) (m : BitVec 32) (total : Nat) : State :=
  let s1 := (s.popEntry c.src).updEci fun e => { e with ops := e.ops ++ [s.newOp c k m total], nextHandle := e.nextHandle + 1 }
  (s1.record c.ref true .done 0 s.eci.nextHandle 0).nextBad c.src

theorem State.startOp_eq (s : State) (c : Cmd) (k : LongKind) (m : BitVec 32) (total : Nat) (f : Nat → State → State) :
    s.startOp c k m total f = if 16 ≤ s.eci.ops.length then s.refuse c .longOpLimit 0 else f s.eci.nextHandle (s.startedOp c k m total) := rfl

theorem State.startedOp_record (s : State) (c : Cmd) (k : LongKind) (m : BitVec 32) (total : Nat) :
    RecordOnly (s.opened (s.newOp c k m total)) (s.startedOp c k m total) := by
  have hpop : (s.popEntry c.src).updEci (fun e => { e with ops := e.ops ++ [s.newOp c k m total], nextHandle := e.nextHandle + 1 }) =
      (s.opened (s.newOp c k m total)).popEntry c.src := by
    cases c.src <;> rfl
  rw [State.startedOp, hpop]
  exact (State.popEntry_record ..).trans ((State.record_record ..).trans (State.nextBad_record ..))

/-- What an operation does first depends on its start only as far as records leave it alone. -/
theorem State.startOp_congr {s : State} {c : Cmd} {k : LongKind} {m : BitVec 32} {total : Nat} {f g : Nat → State → State}
    (h : ∀ u, RecordOnly (s.opened (s.newOp c k m total)) u → f s.eci.nextHandle u = g s.eci.nextHandle u) :
    s.startOp c k m total f = s.startOp c k m total g := by
  rw [State.startOp_eq, State.startOp_eq, h _ (s.startedOp_record c k m total)]

theorem longOperationsBegin : Claim.LongOperationsBegin := by
  intro s c k m total f
  refine ⟨fun h => ⟨s.startedOp c k m total, ?_, ?_⟩, fun h => if_pos h⟩
  · rw [State.startOp_eq, if_neg (Nat.not_le_of_lt h)]
  · have hrec := s.startedOp_record c k m total
    have hops : (s.startedOp c k m total).eci.ops = s.eci.ops ++ [s.newOp c k m total] := by rw [hrec.eci]; rfl
    have hnext : (s.startedOp c k m total).eci.nextHandle = s.eci.nextHandle + 1 := by rw [hrec.eci]; rfl
    refine ⟨hops, hnext, ?_⟩
    rw [hops, hnext]
    exact hrec

/-! ## Long operations that end -/

theorem State.endOp_standing (s : State) (o : LongOp) (st : Status) (d x : Nat) : (s.endOp o st d x).standing =
    (s.updEci fun e => { e with ops := e.ops.filter fun x => x.handle != o.handle }).standing := by
  unfold State.endOp
  extract_lets s1 s2 s3 s4
  calc s4.settle.standing = s4.standing := s4.settle_standing
    _ = s3.standing := State.finishes_standing (fun _ => if st = .cancelled then .done else .alreadyFinal) _ s3
    _ = s2.standing := State.finishes_standing (fun _ => .alreadyFinal) _ s2
    _ = s1.standing := (State.final_record ..).standing

theorem endedOperationsAreFinal : Claim.EndedOperationsAreFinal := by
  intro s o st d x hpos hlt
  have hstand := s.endOp_standing o st d x
  have hnext : (s.endOp o st d x).eci.nextHandle = s.eci.nextHandle := (State.nextHandle_of_standing hstand :)
  have hgone : (s.endOp o st d x).op o.handle = none := by
    rw [State.op, State.ops_of_standing hstand]
    exact List.find?_eq_none.2 fun y hy => by simpa using (List.mem_filter.1 hy).2
  refine ⟨hgone, hnext, fun c _ => ?_⟩
  rw [State.opFor, hgone, hnext]
  exact if_pos ⟨hpos, hlt⟩

/-! ## Safe points -/

theorem State.scrubPart_eci (s : State) (what k : Nat) : (s.scrubPart what k).eci = s.eci := by
  unfold State.scrubPart
  split
  · split <;> rfl
  · exact (congrArg State.eci (s.dramAsk_unasked ..) :)

/-- The work of a load, of a staging and of a scrub on the way to a safe point leaves the command interface alone. -/
theorem State.opWork_eci {s : State} {o : LongOp} (hk : o.kind = .modelLoad ∨ o.kind = .fwStage ∨ o.kind = .scrub) :
    (s.opWork o).eci = s.eci := by
  unfold State.opWork
  rcases hk with h | h | h <;> rw [h]
  exact s.scrubPart_eci ..

theorem State.updOp_op {s : State} {o : LongOp} (h : s.op o.handle = some o) {f : LongOp → LongOp} (hf : ∀ y, (f y).handle = y.handle) :
    (s.updOp o.handle f).op o.handle = some (f o) := by
  have hfind : (s.updOp o.handle f).op o.handle = (s.op o.handle).map fun y => if y.handle == o.handle then f y else y :=
    find?_updWhere _ fun y => by rw [hf]
  rw [hfind, h, Option.map_some, if_pos (beq_self_eq_true _)]

theorem safePointsSuspendAndCancel : Claim.SafePointsSuspendAndCancel := by
  intro s o ho hlt hk x u
  have hwork : (s.ok.opWork o).op o.handle = some o := by
    rw [State.op, State.opWork_eci hk]
    exact ho
  have hu : u.op o.handle = some x := by
    have hmin : min o.total (o.passed + 1) = o.passed + 1 := Nat.min_eq_right hlt
    refine (State.updOp_op (f := fun y => { y with passed := min y.total (y.passed + 1) }) hwork fun _ => rfl).trans ?_
    rw [hmin]
  have hx : exec (.longOpSafePoint o.handle) s = execLongOpSafePoint o.handle s := rfl
  have hdue (hst : o.st ≠ .suspended) : ¬ (o.st = .suspended ∨ (!o.safeAhead) = true) := by
    simp [hst, LongOp.safeAhead, hlt]
  rw [hx, execLongOpSafePoint, ho]
  refine ⟨hu, fun hst => ?_, fun hst => ?_, fun hst => ?_⟩
  all_goals
    have hxst : x.st = _ := hst
    refine next_congr ((if_neg (hdue (by rw [hst]; decide))).trans ?_)
    dsimp only
    rw [hu]
    dsimp only
    rw [hxst]

/-! ## The commands that begin one -/

theorem State.ok_modelUsed (s : State) : s.ok.modelUsed = s.modelUsed := rfl
theorem State.ok_streamItem (s : State) : s.ok.streamItem = s.streamItem := rfl
theorem State.ok_manifestAt (s : State) (pa : Nat) : s.ok.manifestAt pa = s.manifestAt pa := by
  unfold State.manifestAt
  rw [State.ok_bytes, State.ok_word]

theorem RecordOnly.route {s t : State} (h : RecordOnly s t) (d : BitVec 8) : t.route d = s.route d := by
  have hself : t.eci.moduleIndex = s.eci.moduleIndex := by rw [h.eci]
  rw [State.route, State.route, hself, h.dnb]

section
variable {s : State} {src : Src} {c : Cmd}

theorem exec_modelLoad_begins (hc : Accepted s 0x10 src (fun _ => modelLoadFields) c) (hm : s.readable (c.f 64 48) = true)
    (hi : s.readable (c.f 128 48) = true) (hfree : s.modelUsed (BitVec.ofNat 32 (s.word (c.f 64 48 + 8) 4)) = false) :
    exec (.modelLoad src) s = .next (s.ok.startOp c .modelLoad (BitVec.ofNat 32 (s.word (c.f 64 48 + 8) 4))
      (max 1 (findSection (sectionsOf (s.bytes (c.f 128 48) 576)) 9).entries) fun _ t => t.rekey) := by
  have hx : exec (.modelLoad src) s = .next (modelLoadBody c s.ok) := congrArg _ (hc.command _)
  rw [hx, modelLoadBody]
  dsimp only
  rw [State.ok_readable, hm, hi, State.ok_word, State.ok_bytes, State.ok_modelUsed, hfree]
  rfl

theorem exec_modelInstall_begins (hc : Accepted s 0x11 src (fun _ => modelInstallFields) c) (hm : s.readable (c.f 64 48) = true) :
    exec (.modelInstall src) s = .next (s.ok.startOp c .modelInstall (s.manifestAt (c.f 64 48)).m.modelId
      ((installed (s.manifestAt (c.f 64 48)).m (c.f 192 32) (c.f 224 32)).foldl (fun n o => n + o.1.frames) 0)
      fun h t => t.updTiers fun x => { x with writing := x.writing ++ [(h, 0)] }) := by
  have hx : exec (.modelInstall src) s = .next (modelInstallBody c s.ok) := congrArg _ (hc.command _)
  rw [hx, modelInstallBody]
  dsimp only
  rw [State.ok_readable, hm, State.ok_manifestAt]
  rfl

theorem exec_kvExport_begins {m : Model} {p : AttnPlan} {q : Seq} (hc : Accepted s 0x30 src (fun _ => kvExportFields) c)
    (hrole : s.eci.role ≠ some .cache) (hm : s.modelFor c (BitVec.ofNat 32 (c.f 64 32)) = some m) (hp : m.plan = some p)
    (hq : s.seqFor c (BitVec.ofNat 32 (c.f 64 32)) (c.f 96 16) = some q) (hb : c.f 128 32 ≤ c.f 160 32)
    (hitem : c.f 120 1 = 1 → s.streamItem c (BitVec.ofNat 32 (c.f 64 32)) (c.f 96 16) = true)
    (hroute : (routePort (s.route (BitVec.ofNat 8 (c.f 112 8)))).isSome = true) :
    exec (.kvExport src) s = .next (s.ok.startOp c .kvExport (BitVec.ofNat 32 (c.f 64 32)) (c.f 160 32 + 1 - c.f 128 32) fun op u =>
      let t : Transfer := { op := op, isExport := true, tag := BitVec.ofNat 32 (c.f 192 32), peer := BitVec.ofNat 8 (c.f 112 8)
                            model := BitVec.ofNat 32 (c.f 64 32), seq := c.f 96 16, stream := c.f 120 1 == 1
                            b0 := c.f 128 32, b1 := c.f 160 32, known := true }
      let u1 := u.updSrv fun v => { v with transfers := v.transfers ++ [t] }
      u1.sendNow (kvxReady u1 t p true)) := by
  have hx : exec (.kvExport src) s = .next (kvExportBody c s.ok) := congrArg _ (hc.command _)
  have hrole' : ¬ s.ok.eci.role = some .cache := hrole
  have hstream : ((c.f 120 1 == 1) && !s.streamItem c (BitVec.ofNat 32 (c.f 64 32)) (c.f 96 16)) = false := by
    by_cases h : c.f 120 1 = 1
    · rw [hitem h]
      exact Bool.and_false _
    · rw [beq_false_of_ne h]
      rfl
  rw [hx, kvExportBody]
  dsimp only
  rw [if_neg hrole', State.ok_modelFor, hm]
  dsimp only
  rw [State.ok_seqFor, hq, hp]
  dsimp only
  rw [if_neg (Nat.not_lt_of_le hb), State.ok_streamItem, hstream, if_neg Bool.false_ne_true]
  refine next_congr (State.startOp_congr fun u hu => if_neg ?_)
  have hr : u.route (BitVec.ofNat 8 (c.f 112 8)) = s.route (BitVec.ofNat 8 (c.f 112 8)) := hu.route _
  rw [hr]
  simpa [← Option.isSome_iff_ne_none] using hroute

theorem State.seqFor_handle {m : BitVec 32} {h : Nat} (hq : (s.seqFor c m h).isSome = true) : (s.seqFor c m h).map (·.handle) = some h := by
  obtain ⟨q, hq⟩ := Option.isSome_iff_exists.1 hq
  obtain ⟨y, hy, hyq⟩ := Option.bind_eq_some_iff.1 hq
  obtain rfl : y = q := by
    split at hyq
    · exact Option.some.inj hyq
    · exact nomatch hyq
  have hh := List.find?_some (p := fun x : Seq => x.model == m && x.handle == h) hy
  rw [Bool.and_eq_true, beq_iff_eq, beq_iff_eq] at hh
  rw [hq, Option.map_some, hh.2]

theorem exec_fwStage_begins (hc : Accepted s 0x49 src fwStageFields c) : exec (.fwStage src) s = .next (fwStageBody c s.ok) :=
  congrArg _ (hc.command _)

theorem exec_scrub_begins (hc : Accepted s 0x4C src (fun _ => [(64, 2, inVals 0 1)]) c) : exec (.scrub src) s = .next (scrubBody c s.ok) :=
  congrArg _ (hc.command _)

end

theorem longCommandsBeginTheirOperation : Claim.LongCommandsBeginTheirOperation := by
  intro s src c
  refine ⟨fun hc hm hi => exec_modelLoad_begins hc hm hi, fun hc hm => exec_modelInstall_begins hc hm,
    fun m p q hc hrole => exec_kvExport_begins hc hrole, fun m p k hc hrole => ?_, fun hc => exec_fwStage_begins hc,
    fun hc => exec_scrub_begins hc⟩
  intro id peer tag hm hp hk himp hroute
  have hx : exec (.kvImport src) s = .next (kvImportBody c s.ok) := congrArg _ (hc.command _)
  have hrole' : ¬ s.ok.eci.role = some .cache := hrole
  have hdest : (if (c.f 96 16 == 0xFFFF) = true then s.newHandle m else (s.seqFor c id (c.f 96 16)).map (·.handle)) = some k := by
    rcases hk with ⟨h, hnew⟩ | ⟨h, hh, hq⟩
    · rw [if_pos (beq_iff_eq.2 h), hnew]
    · rw [if_neg fun hb => h (beq_iff_eq.1 hb), hh]
      exact State.seqFor_handle hq
  rw [hx, kvImportBody]
  dsimp only
  rw [if_neg hrole', State.ok_modelFor, hm]
  dsimp only
  rw [hp, State.ok_newHandle, State.ok_seqFor, hdest]
  dsimp only
  rw [State.ok_seqOf, himp, if_neg Bool.false_ne_true]
  refine next_congr (State.startOp_congr fun u hu => (if_neg ?_).trans ?_)
  · have hr : u.route peer = s.route peer := hu.route peer
    rw [hr]
    simpa [← Option.isSome_iff_ne_none] using hroute
  · by_cases h : c.f 96 16 = 0xFFFF
    · rw [if_pos (beq_iff_eq.2 h), if_pos h]
    · rw [if_neg fun hb => h (beq_iff_eq.1 hb), if_neg h]

/-- Settles O21: records leave an operation alone, its end takes it alone, and what lies before a safe point is counted there. -/
theorem longOperationsRunToTheirEnd : Obligations.LongOperationsRunToTheirEnd :=
  ⟨longOperationsBegin, longCommandsBeginTheirOperation, endedOperationsAreFinal, safePointsSuspendAndCancel⟩

end Sys2Proof.Machine
end

section
/-!
PROOFS. Input loss and return, RESET_N and the start of a boot (R390, R429 to R434).
-/

namespace Sys2Proof.Machine

/-! ## What resets keep -/

/-- The time base, the tiers, the power controller and the boot: what a record that waited leaves alone when it is written. -/
def State.unposted (s : State) : State := { now := s.now, tiers := s.tiers, pwr := s.pwr, boot := s.boot }

theorem RecordOnly.unposted {s t : State} (h : RecordOnly s t) : t.unposted = s.unposted := by
  rw [State.unposted, State.unposted, h.now, h.tiers, h.pwr, h.boot]

theorem State.putPost_unposted (s : State) (p : Post) : (s.putPost p).unposted = s.unposted := by
  have hput : (s.cqPut p.q p.body).unposted = s.unposted := (s.cqPut_record p.q p.body).unposted
  unfold State.putPost
  extract_lets s1
  split <;> exact hput

theorem State.postsToShadow_unposted (s : State) (p : Fin 64 → Bool) : (s.postsToShadow p).unposted = s.unposted :=
  foldl_keeps (g := State.unposted) State.putPost_unposted _ _

/-- What a warm reset keeps in flash, of the power controller and of the boot record. -/
theorem State.warmReset_kept (s : State) : s.warmReset.now = s.now ∧ s.warmReset.tiers.flash = s.tiers.flash ∧
    s.warmReset.tiers.installed = s.tiers.installed ∧ s.warmReset.pwr.cap = s.pwr.cap ∧ s.warmReset.boot = s.boot := by
  unfold State.warmReset
  extract_lets z pairOf u eci
  have h := (s.updEci fun e => { e with pairs := e.pairs.map pairOf }).postsToShadow_unposted fun _ => true
  exact ⟨(congrArg State.now h :), (congrArg (fun u => u.tiers.flash) h :), (congrArg (fun u => u.tiers.installed) h :),
    (congrArg (fun u => u.pwr.cap) h :), (congrArg State.boot h :)⟩

theorem State.coldReset_flash (s : State) : s.coldReset.tiers.flash = s.tiers.flash ∧ s.coldReset.tiers.installed = s.tiers.installed := by
  obtain ⟨-, hf, hi, -⟩ := s.warmReset_kept
  exact ⟨hf, hi⟩

theorem State.coldReset_mem (s : State) : s.coldReset.mem = s.mem.filter fun c => isHost c.1 :=
  List.filter_congr fun _ _ => Bool.or_false _

/-- A loss of input, a reset or a recovery: UNINIT, without sessions, models and memory but the host's; flash and the boot record stay. -/
structure State.Lost (s : State) (t : State) : Prop where
  devState : t.eci.devState = .uninit
  sessions : t.eci.sessions = []
  srv : t.srv = {}
  mem : t.mem = s.mem.filter fun c => isHost c.1
  flash : t.tiers.flash = s.tiers.flash
  installed : t.tiers.installed = s.tiers.installed
  slots : t.boot.slots = s.boot.slots
  active : t.boot.active = s.boot.active
  fuses : t.boot.fuses = s.boot.fuses

theorem State.coldReset_lost (s : State) : s.Lost s.coldReset where
  devState := rfl
  sessions := rfl
  srv := rfl
  mem := s.coldReset_mem
  flash := s.coldReset_flash.1
  installed := s.coldReset_flash.2
  slots := rfl
  active := rfl
  fuses := rfl

theorem State.powerLoss_lost (s : State) (cause : Nat) : s.Lost (s.powerLoss cause) := by
  unfold State.powerLoss
  extract_lets s1 s2
  have h2 : s2 = s1 ∨ s2 = s1.updEci fun e => { e with journal := some (s.makeJournal cause) } := by
    simp only [s2]
    split
    · exact .inl rfl
    · exact .inr rfl
  rcases h2 with h | h <;> rw [h]
  · exact { s1.coldReset_lost with }
  · exact { (s1.updEci _).coldReset_lost with }

theorem State.powerLoss_journal {s : State} (hu : s.eci.devState ≠ .uninit) (hb : s.eci.devState ≠ .booting) (cause : Nat) :
    (s.powerLoss cause).eci.journal = some (s.makeJournal cause) := by
  unfold State.powerLoss
  extract_lets s1 s2
  have h2 : s2 = s1.updEci fun e => { e with journal := some (s.makeJournal cause) } := if_neg (not_or.2 ⟨hu, hb⟩)
  rw [h2]
  rfl

/-! ## The supply -/

theorem State.causeInput_of_init {s : State} (h : s.eci.devState ≠ .uninit) : s.causeInput = s := if_neg fun hn => h hn.1

theorem State.causeInput_cases (s : State) : ∃ f : Option Journal → Option Journal, s.causeInput =
    s.updEci fun e => { e with journal := f e.journal } := by
  unfold State.causeInput
  extract_lets near
  split
  · exact ⟨Option.map fun j => if j.cause = 2 then { j with cause := 0 } else j, rfl⟩
  · exact ⟨id, rfl⟩

theorem inputLossKeepsFlashAndJournal : Claim.InputLossKeepsFlashAndJournal := by
  intro s hon p hp
  have hx : exec p.1 s = .next (s.ok.causeInput.supplyGone p.2) := by
    simp only [List.mem_cons, List.not_mem_nil, or_false] at hp
    rcases hp with rfl | rfl <;> exact next_congr (if_pos hon)
  have hlost : s.Lost (s.ok.causeInput.powerLoss 0) := by
    obtain ⟨f, hf⟩ := s.ok.causeInput_cases
    rw [hf]
    exact { (s.ok.updEci _).powerLoss_lost 0 with }
  refine ⟨_, hx, hlost.devState, rfl, ?_, rfl, hlost.sessions, hlost.srv, hlost.mem, hlost.flash, hlost.installed, hlost.slots, hlost.active,
    hlost.fuses, fun hu hb => ?_⟩
  · obtain ⟨f, hf⟩ := s.ok.causeInput_cases
    rw [hf]
    rfl
  · rw [State.causeInput_of_init (s := s.ok) hu]
    exact State.powerLoss_journal (s := s.ok) hu hb 0

theorem supplyComesBack : Claim.SupplyComesBack := fun _ =>
  ⟨fun h => next_congr (if_pos h), fun h => next_congr (if_pos h), fun h => next_congr (if_pos h), fun h => next_congr (if_pos h)⟩

/-! ## The reset pin and the start of a boot -/

theorem State.startBoot_state (s : State) (cold : Bool) : (s.startBoot cold).eci.devState = .booting ∧ (s.startBoot cold).boot.stage = 1 ∧
    (s.startBoot cold).boot.cold = cold ∧ (s.startBoot cold).boot.startedAt = s.now ∧
    (s.startBoot cold).boot.bootCount = s.boot.bootCount + 1 ∧ (s.startBoot cold).mem = s.mem ∧ (s.startBoot cold).tiers = s.tiers ∧
    (s.startBoot cold).pwr = s.pwr ∧ (s.startBoot cold).boot.active = s.boot.active ∧ (s.startBoot cold).boot.failed = s.boot.failed ∧
    (s.startBoot cold).boot.fellBack = s.boot.fellBack ∧ (s.startBoot cold).boot.trial = s.boot.trial := by
  unfold State.startBoot
  extract_lets off
  have hoff : ∃ o l, off = { s with boot := { s.boot with offSince := o }, logs := l } := by
    simp only [off]
    split
    · exact ⟨_, _, rfl⟩
    · exact ⟨_, _, rfl⟩
  obtain ⟨o, l, hoff⟩ := hoff
  rw [hoff]
  exact ⟨rfl, rfl, rfl, rfl, rfl, rfl, rfl, rfl, rfl, rfl, rfl, rfl⟩

theorem resetPinTakesTheModuleDown : Claim.ResetPinTakesTheModuleDown := by
  refine ⟨fun s us hr hus => ?_, fun s a p hr => ?_, fun s hu hon hgood hr hrel htrip => ?_, fun s hu => ?_⟩
  · have hx : exec (.resetNAssert us) s = .next s.ok.resetN :=
      next_congr ((if_neg (by simp [hr]; omega)).trans (if_pos hus))
    by_cases hu : s.eci.devState = .uninit
    · have hn : s.ok.resetN = s.ok.updBoot fun b => { b with resetN := false, stage := 0 } :=
        congrArg (fun u : State => u.updBoot fun b => { b with resetN := false, stage := 0 }) (if_pos hu)
      refine ⟨_, hx, ?_, ?_, ?_, fun h => absurd hu h⟩
      all_goals rw [hn]
      · exact hu
      · rfl
      · rfl
    · have hn : s.ok.resetN = (s.ok.powerLoss 2).updBoot fun b => { b with resetN := false, stage := 0 } :=
        congrArg (fun u : State => u.updBoot fun b => { b with resetN := false, stage := 0 }) (if_neg hu)
      refine ⟨_, hx, ?_, ?_, ?_, fun _ hb => ?_⟩
      all_goals rw [hn]
      · exact (s.ok.powerLoss_lost 2).devState
      · rfl
      · rfl
      · exact State.powerLoss_journal (s := s.ok) hu hb 2
  · exact next_congr (if_neg (by simp [hr]))
  · have hexec : exec .bootStart s = execBootStart s := rfl
    obtain ⟨hd, hst, hc, hs, hb, hm, ht, -⟩ := s.ok.startBoot_state true
    refine ⟨s.ok.startBoot true, ?_, hd, hst, hc, hs, hb, hm, ht⟩
    rw [hexec, execBootStart, hu]
    refine next_congr (if_pos ⟨hon, hgood, hr, hrel, ?_⟩)
    rw [htrip]
    rfl
  · have hexec : exec .bootStart s = execBootStart s := rfl
    obtain ⟨hd, hst, hc, -, -, -, -, hp, -⟩ := s.ok.warmReset.startBoot_state false
    obtain ⟨-, -, -, hcap, -⟩ := s.ok.warmReset_kept
    refine ⟨s.ok.warmBoot, ?_, hd, hst, hc, ?_⟩
    · rw [hexec, execBootStart, hu]
    · exact (congrArg Power.cap hp).trans hcap

/-- Settles O28: what each reset keeps, and the state in which a boot starts. -/
theorem supplyAndResetPins : Obligations.SupplyAndResetPins :=
  ⟨inputLossKeepsFlashAndJournal, supplyComesBack, resetPinTakesTheModuleDown⟩

end Sys2Proof.Machine
end

section
/-!
PROOFS. Bring-up, BOOT_READY, the boot watchdog and the heartbeat (R360, R414, R418 to R421, R436).
-/

namespace Sys2Proof.Machine

/-! ## Records of a module reset -/

/-- The boot, the device state and the heartbeat. -/
def State.phase (s : State) : Boot × DevState × BitVec 32 × Nat := (s.boot, s.eci.devState, s.eci.heartbeat, s.eci.bootEndedAt)

theorem RecordOnly.phase {s t : State} (h : RecordOnly s t) : t.phase = s.phase := by rw [State.phase, State.phase, h.boot, h.eci]

theorem State.endReset_phase (s : State) (r : UnitReset) (d : Nat) : (s.endReset r d).phase = s.phase := by
  unfold State.endReset
  extract_lets s1
  exact foldl_keeps (g := State.phase) (f := fun (u : State) (x : RecRef × Nat) => u.finish x.1 .done (if x.2 = 0 then d else 0) 0 0)
    (fun u _ => (u.finish_record ..).phase) _ s1

theorem State.endResets_phase (s : State) (d : Nat) (l : List UnitReset) : (l.foldl (fun u r => u.endReset r d) s).phase = s.phase :=
  foldl_keeps (g := State.phase) (f := fun (u : State) r => u.endReset r d) (fun u r => u.endReset_phase r d) l s

theorem State.romFault_phase (s : State) : s.romFault.eci.devState = .faulted ∧ s.romFault.boot = { s.boot with romFaulted := true, stage := 0 } := by
  unfold State.romFault
  extract_lets s1
  have h : ((s1.logs.resets.filter fun r => (s1.unitRef r.unit) == some .module).foldl (fun u r => u.endReset r 1) s1).phase = s1.phase :=
    State.endResets_phase ..
  exact ⟨(congrArg (fun p => p.2.1) h :), (congrArg Prod.fst h :)⟩

theorem State.fallBack_boot (s : State) :
    s.fallBack.boot = { s.boot with active := s.boot.other, trial := false, fellBack := true, failed := 0 } ∧ s.fallBack.now = s.now := by
  unfold State.fallBack
  extract_lets o s1
  have h := s1.event_unreported 0 0x0008 unitNone 0 (argBits [(0, o.val), (32, (pick s.boot.slots o).svn)])
  exact ⟨(congrArg State.boot h :), (congrArg State.now h :)⟩

/-! ## The stages of bring-up -/

/-- Stage 2: the slot that runs, if one can. -/
theorem State.verifyBoot_result (s : State) :
    (s.slotBoots s.boot.active = true → s.verifyBoot.boot.stage = 3 ∧ s.verifyBoot.boot.active = s.boot.active) ∧
    (s.slotBoots s.boot.active = false → s.slotBoots s.boot.other = true →
      s.verifyBoot.boot.stage = 3 ∧ s.verifyBoot.boot.active = s.boot.other ∧ s.verifyBoot.boot.trial = false) ∧
    (s.slotBoots s.boot.active = false → s.slotBoots s.boot.other = false →
      s.verifyBoot.eci.devState = .faulted ∧ s.verifyBoot.boot.romFaulted = true) := by
  unfold State.verifyBoot
  refine ⟨fun h => ?_, fun h g => ?_, fun h g => ?_⟩
  · rw [if_pos h]
    exact ⟨rfl, rfl⟩
  · rw [if_neg (Bool.eq_false_iff.1 h), if_pos g]
    have hb := s.fallBack_boot.1
    exact ⟨rfl, (congrArg Boot.active hb :), (congrArg Boot.trial hb :)⟩
  · rw [if_neg (Bool.eq_false_iff.1 h), if_neg (Bool.eq_false_iff.1 g)]
    obtain ⟨hd, hb⟩ := s.romFault_phase
    exact ⟨hd, by rw [hb]⟩

/-- Stage 3: a failed package stops the boot; without failures every stack is in force. -/
theorem State.trained_result (s : State) (badStacks packages : List Nat) :
    (packages ≠ [] → s.trained badStacks packages = s.updBoot fun b => { b with stopped := true }) ∧
    (packages = [] → badStacks = [] → (s.trained badStacks packages).boot.stage = 4 ∧ (s.trained badStacks packages).dram.excluded = 0 ∧
      (s.trained badStacks packages).tiers.poolSize = 784384) := by
  refine ⟨fun h => if_pos h, ?_⟩
  rintro rfl rfl
  exact ⟨rfl, rfl, rfl⟩

theorem bringUpGoesStageByStage : Claim.BringUpGoesStageByStage := by
  intro s badStacks packages units hb hstop hlo hhi
  have hexec : exec (.bootStageComplete badStacks packages units) s = execBootStageComplete badStacks packages units s := rfl
  have hdue : ¬ (s.eci.devState ≠ .booting ∨ s.boot.stopped = true) := by simp [hb, hstop]
  rw [hexec, execBootStageComplete, if_neg hdue]
  have hcases : s.boot.stage = 1 ∨ s.boot.stage = 2 ∨ s.boot.stage = 3 ∨ s.boot.stage = 4 ∨ s.boot.stage = 5 ∨ s.boot.stage = 6 ∨
      s.boot.stage = 7 ∨ s.boot.stage = 8 := by omega
  have never {n : Nat} {p : Prop} (hn : ¬ (n = 1 ∨ 6 ≤ n)) : n = 1 ∨ 6 ≤ n → p := fun h => absurd h hn
  rcases hcases with h | h | h | h | h | h | h | h <;> simp only [h]
  · exact ⟨_, rfl, nofun, nofun, nofun, nofun, nofun, fun _ => rfl⟩
  · exact ⟨_, rfl, fun _ => s.ok.verifyBoot_result, nofun, nofun, nofun, nofun, never (by decide)⟩
  · obtain ⟨hbad, hgood⟩ := s.ok.trained_result badStacks packages
    exact ⟨_, rfl, nofun, fun _ => ⟨fun hp => (hbad hp).trans (by rw [State.updBoot, ← h]; rfl), hgood⟩, nofun, nofun, nofun, never (by decide)⟩
  · exact ⟨_, rfl, nofun, nofun, fun _ => ⟨rfl, rfl⟩, nofun, nofun, never (by decide)⟩
  · exact ⟨_, rfl, nofun, nofun, nofun, fun _ => ⟨rfl, rfl⟩, nofun, never (by decide)⟩
  · exact ⟨_, rfl, nofun, nofun, nofun, nofun, nofun, fun _ => rfl⟩
  · exact ⟨_, rfl, nofun, nofun, nofun, nofun, fun _ => ⟨rfl, pick_upd_same ..⟩, fun _ => rfl⟩
  · exact ⟨_, rfl, nofun, nofun, nofun, nofun, nofun, fun _ => rfl⟩

/-! ## The end of a boot -/

theorem State.evictModels_devState (l : List Model) : ∀ s : State, s.eci.devState ≠ .serving →
    (l.foldl (fun u m => u.evictModel m.id) s).eci.devState = s.eci.devState := by
  induction l with
  | nil => exact fun _ _ => rfl
  | cons m l ih =>
    intro s h
    have hm := (s.evictModel_unloaded m.id).2 h
    exact (ih _ (hm ▸ h)).trans hm

theorem State.dropSession_devState {s : State} (h : s.eci.devState ≠ .serving) (id : BitVec 16) :
    (s.dropSession id).eci.devState = s.eci.devState := by
  unfold State.dropSession
  split
  · rfl
  extract_lets s0 s1 s2 s3
  have h1 : s1.unserved = s0.unserved := foldl_keeps (g := State.unserved) (fun u _ => u.closeSeq_unserved ..) _ s0
  have h2 : s2.eci.devState = s.eci.devState := (congrArg Eci.devState (State.eci_of_unserved h1) :)
  have h3 : s3.eci.devState = s.eci.devState := by
    simp only [s3]
    split
    · exact h2
    · exact (State.evictModels_devState _ s2 (h2 ▸ h)).trans h2
  clear_value s3
  split <;> exact h3

theorem State.tryDetach_devState {s : State} (h : s.eci.devState ≠ .serving) : s.tryDetach.eci.devState = s.eci.devState := by
  unfold State.tryDetach
  split
  · rfl
  · next d _ =>
    extract_lets s1
    have hf : (s1.finish d.1 .done 0 0 0).eci.devState = s.eci.devState := by rw [(s1.finish_record ..).eci]; rfl
    exact (State.dropSession_devState (hf ▸ h) _).trans hf

/-- A module that is neither draining nor serving stays in its state when some work ends. -/
theorem State.settle_devState {s : State} (hd : s.eci.devState ≠ .draining) (hs : s.eci.devState ≠ .serving) :
    s.settle.eci.devState = s.eci.devState := by
  have hr : s.reapSeqs.eci = s.eci := State.eci_of_unserved s.reapSeqs_unserved
  have ht : s.reapSeqs.tryDrain = s.reapSeqs := if_pos (.inl (hr ▸ hd))
  rw [State.settle, ht, State.tryDetach_devState (hr ▸ hs), hr]

theorem State.advanceFuses_val (s : State) : s.advanceFuses.boot.fuses.val =
    (let f := pick s.boot.slots s.boot.active
     if s.boot.trial = true ∧ f.advance = true ∧ s.boot.fuses.val < f.svn then min f.svn 128 else s.boot.fuses.val) := by
  unfold State.advanceFuses
  extract_lets f n
  have hval : (s.updBoot fun b => { b with trial := false, failed := 0, fellBack := false, fuses := ⟨min n 128, by omega⟩ }).boot.fuses.val =
      min n 128 := rfl
  rw [hval]
  simp only [n]
  split
  · rfl
  · omega

theorem bootReadyEndsTheTrial : Claim.BootReadyEndsTheTrial := by
  intro s hb hst hfail
  have hexec : exec .bootReady s = execBootReady s := rfl
  rw [hexec, execBootReady, if_neg (by simp [hb, hst]), hfail]
  extract_lets s1 s3
  have hphase : ((s3.logs.resets.filter fun r => s3.unitRef r.unit == some .module).foldl (fun u r => u.endReset r 0) s3).phase = s1.phase :=
    State.endResets_phase ..
  generalize hu : (s3.logs.resets.filter fun r => s3.unitRef r.unit == some .module).foldl (fun u r => u.endReset r 0) s3 = u at hphase
  have hboot : u.boot = s1.boot := (congrArg Prod.fst hphase :)
  have hdev : u.eci.devState = .ready := (congrArg (fun p => p.2.1) hphase :)
  have hbeat : u.eci.heartbeat = 0 := (congrArg (fun p => p.2.2.1) hphase :)
  have hend : u.eci.bootEndedAt = s.now := (congrArg (fun p => p.2.2.2) hphase :)
  have hstand := u.settle_standing
  have hb' : u.settle.boot = s1.boot := (State.boot_of_standing hstand).trans hboot
  refine ⟨_, rfl, ?_, (congrArg (fun v => v.eci.heartbeat) hstand :).trans hbeat, (congrArg (fun v => v.eci.bootEndedAt) hstand :).trans hend,
    congrArg Boot.trial hb', congrArg Boot.failed hb', (congrArg (fun b => b.fuses.val) hb').trans s.ok.advanceFuses_val⟩
  exact (State.settle_devState (by rw [hdev]; decide) (by rw [hdev]; decide)).trans hdev

/-! ## The boot watchdog -/

/-- The module after a boot that failed, as its next boot finds it. -/
def State.bootFailed (s : State) : State :=
  (if s.boot.cold then { s.ok.coldReset with logs := s.logs } else s.ok.warmReset).updBoot fun b =>
    { b with failed := s.boot.failed + 1, offSince := none }

theorem State.bootFailed_kept (s : State) : s.bootFailed.now = s.now ∧ s.bootFailed.boot.failed = s.boot.failed + 1 ∧
    s.bootFailed.boot.active = s.boot.active ∧ s.bootFailed.boot.slots = s.boot.slots ∧ s.bootFailed.boot.fuses = s.boot.fuses := by
  obtain ⟨hnow, -, -, -, hboot⟩ := s.ok.warmReset_kept
  unfold State.bootFailed
  split
  · exact ⟨hnow, rfl, rfl, rfl, rfl⟩
  · exact ⟨hnow, rfl, (congrArg Boot.active hboot :), (congrArg Boot.slots hboot :), (congrArg Boot.fuses hboot :)⟩

theorem bootWatchdogFallsBack : Claim.BootWatchdogFallsBack := by
  intro s hb hlate
  have hexec : exec .bootWatchdog s = .next (
      if s.boot.failed + 1 < 2 then s.bootFailed.startBoot s.boot.cold
      else if s.boot.fellBack then s.bootFailed.romFault
      else if s.bootFailed.slotBoots s.bootFailed.boot.other then s.bootFailed.fallBack.startBoot s.boot.cold
      else (s.bootFailed.updBoot fun b => { b with failed := 1 }).startBoot s.boot.cold) := by
    have hms : ms 10000 = 10000000000 := rfl
    refine next_congr (if_neg ?_)
    rw [hms]
    exact not_or.2 ⟨not_not_intro hb, Nat.not_lt.2 hlate⟩
  obtain ⟨hnow, hfailed, hactive, hslots, hfuses⟩ := s.bootFailed_kept
  have hother : s.bootFailed.boot.other = s.boot.other := by rw [Boot.other, hactive]; rfl
  refine ⟨_, hexec, fun h0 => ?_, fun h1 hfb hboots => ?_, fun h1 hfb => ?_⟩
  · rw [if_pos (by omega)]
    obtain ⟨hd, hst, -, hs, -, -, -, -, ha, hf, -⟩ := s.bootFailed.startBoot_state s.boot.cold
    exact ⟨hd, hst, by rw [hf, hfailed, h0], hs.trans hnow, ha.trans hactive⟩
  · have hok : s.bootFailed.slotBoots s.bootFailed.boot.other = true := by rw [State.slotBoots, hother, hslots, hfuses]; exact hboots
    rw [if_neg (by omega), hfb, if_neg Bool.false_ne_true, if_pos hok]
    obtain ⟨hd, hst, -, -, -, -, -, -, ha, -, hfell, htrial⟩ := s.bootFailed.fallBack.startBoot_state s.boot.cold
    have hback := s.bootFailed.fallBack_boot.1
    exact ⟨hd, hst, ha.trans ((congrArg Boot.active hback).trans hother), hfell.trans (congrArg Boot.fellBack hback),
      htrial.trans (congrArg Boot.trial hback)⟩
  · rw [if_neg (by omega), if_pos hfb]
    obtain ⟨hd, hrom⟩ := s.bootFailed.romFault_phase
    exact ⟨hd, by rw [hrom]⟩

/-! ## The heartbeat and the lifetime record -/

theorem State.init_of_firmwareRuns {s : State} (h : s.firmwareRuns = true) : s.eci.devState ≠ .uninit ∧ s.eci.devState ≠ .booting := by
  constructor <;> intro hd <;> rw [State.firmwareRuns, hd] at h <;> exact absurd h Bool.false_ne_true

theorem heartbeatAndLifetimeRecord : Claim.HeartbeatAndLifetimeRecord := by
  intro s
  refine ⟨fun hr ht => next_congr (if_pos ⟨hr, ht⟩), fun hr ht => ⟨_, next_congr (if_pos ⟨hr, ht⟩), (s.ok.powerLoss_lost 1).devState, ?_, rfl⟩,
    fun hu ht => next_congr (if_pos ⟨hu, ht⟩)⟩
  obtain ⟨hu, hb⟩ := State.init_of_firmwareRuns hr
  exact State.powerLoss_journal (s := s.ok) hu hb 1

/-- Settles O29: each stage on its own, the records that a boot still owes, and the watchdog's second failure. -/
theorem bringUpAndItsWatchdogs : Obligations.BringUpAndItsWatchdogs :=
  ⟨bringUpGoesStageByStage, bootReadyEndsTheTrial, bootWatchdogFallsBack, heartbeatAndLifetimeRecord⟩

end Sys2Proof.Machine
end

section
/-!
PROOFS. Power periods and windows, droop bursts, temperature and the thermal trip (R389 to R404).
-/

namespace Sys2Proof.Machine

/-! ## What the power controller leaves alone -/

/-- Everything but the power controller, the counters and the logs. -/
def State.unpowered (s : State) : State := { s with pwr := {}, ctrs := [], logs := {} }

theorem State.eq_of_unpowered {s t : State} (h : t.unpowered = s.unpowered) : t = { s with pwr := t.pwr, ctrs := t.ctrs, logs := t.logs } :=
  (congrArg (fun u : State => { u with pwr := t.pwr, ctrs := t.ctrs, logs := t.logs }) h :)

theorem State.updPwr_unpowered (s : State) (f : Power → Power) : (s.updPwr f).unpowered = s.unpowered := rfl

theorem State.countedLife_unpowered (s : State) (c : Ctr) (sec idx n : Nat) : ((s.count c).lifeAdd sec idx n).unpowered = s.unpowered := rfl

/-- The state with nothing noted of the Fronts' power. -/
def State.unfronted (s : State) : State := { s with pwr := { s.pwr with fronts := Vector.replicate 8 {} } }

theorem State.formEstimates_unfronted (l : List (Fin 8)) (s : State) : (l.foldl (fun u f => u.formEstimate f) s).unfronted = s.unfronted :=
  foldl_keeps (g := State.unfronted) (f := fun u f => u.formEstimate f) (fun _ _ => rfl) l s

theorem State.formEstimates_pwr (l : List (Fin 8)) (s : State) : ∃ f, (l.foldl (fun u f => u.formEstimate f) s).pwr = { s.pwr with fronts := f } :=
  ⟨_, (congrArg (fun u : State => { u.pwr with fronts := (l.foldl (fun u f => State.formEstimate u f) s).pwr.fronts })
    (State.formEstimates_unfronted l s) :)⟩

theorem State.formEstimates_unpowered (l : List (Fin 8)) (s : State) : (l.foldl (fun u f => u.formEstimate f) s).unpowered = s.unpowered :=
  foldl_keeps (g := State.unpowered) (f := fun u f => u.formEstimate f) (fun _ _ => rfl) l s

theorem State.setShares_unpowered (s : State) : s.setShares.unpowered = s.unpowered := s.updPwr_unpowered _

theorem State.setShares_pwr (s : State) : ∃ f c i, s.setShares.pwr = { s.pwr with fronts := f, cpuShare := c, ioShare := i } := ⟨_, _, _, rfl⟩

theorem State.capChanged_unpowered (s : State) : s.capChanged.unpowered = s.unpowered := (State.updPwr_unpowered ..).trans (s.countedLife_unpowered ..)

theorem State.takeCap_unpowered (s : State) : s.takeCap.unpowered = s.unpowered := by
  unfold State.takeCap
  split
  · rfl
  · exact (State.capChanged_unpowered _).trans (s.updPwr_unpowered _)

theorem State.takeMode_unpowered (s : State) : s.takeMode.unpowered = s.unpowered := by
  unfold State.takeMode
  split
  · rfl
  · exact (State.capChanged_unpowered _).trans (s.updPwr_unpowered _)

/-! ## The period's boundary -/

theorem State.takeCap_pwr (s : State) : ∃ c, s.takeCap.pwr =
    { s.pwr with cap := s.pwr.capWanted.getD s.pwr.cap, capWanted := none, lastChange := c } := by
  unfold State.takeCap
  split
  case h_1 h => exact ⟨s.pwr.lastChange, by rw [h, Option.getD_none]; exact congrArg (fun w => { s.pwr with capWanted := w }) h⟩
  case h_2 w h => exact ⟨s.now, by rw [h]; rfl⟩

theorem State.takeMode_of_none {s : State} (h : s.pwr.capModeDue = none) : s.takeMode = s := by rw [State.takeMode, h]

theorem State.takeMode_of_some {s : State} {v : BitVec 32} (h : s.pwr.capModeDue = some v) : s.takeMode.pwr = { s.pwr with
    mode := BitVec.ofNat 2 (bitsAt v.toNat 0 2), lullAfter := BitVec.ofNat 8 (bitsAt v.toNat 8 8), frostAfter := BitVec.ofNat 8 (bitsAt v.toNat 16 8)
    demands := if bitAt v.toNat 4 then [] else s.pwr.demands, capModeDue := none, lastChange := s.now } := by
  rw [State.takeMode, h]
  rfl

theorem State.takeMode_kept (s : State) : s.takeMode.pwr.cap = s.pwr.cap ∧ s.takeMode.pwr.capWanted = s.pwr.capWanted ∧
    s.takeMode.pwr.capMode = s.pwr.capMode ∧ s.takeMode.pwr.capModeDue = none := by
  cases h : s.pwr.capModeDue
  · rw [State.takeMode_of_none h]
    exact ⟨rfl, rfl, rfl, h⟩
  · rw [State.takeMode_of_some h]
    exact ⟨rfl, rfl, rfl, rfl⟩

/-- The state after a boundary, from the one whose cap and mode have been taken. -/
def State.periodTaken (s s1 : State) (cpu io : Nat) : State :=
  let s2 := (List.finRange 8).foldl (fun u f => u.formEstimate f) s1
  let s3 := (s2.updPwr fun p => { p with cpuEst := cpu, ioEst := io, lastPeriod := some s.now }).setShares
  s3.updPwr fun p => { p with fronts := p.fronts.map FrontPwr.nextFractions }

theorem State.periodTaken_pwr (s s1 : State) (cpu io : Nat) : ∃ f c i, (s.periodTaken s1 cpu io).pwr =
    { s1.pwr with fronts := f, cpuShare := c, ioShare := i, cpuEst := cpu, ioEst := io, lastPeriod := some s.now } := by
  obtain ⟨f2, h2⟩ := State.formEstimates_pwr (List.finRange 8) s1
  unfold State.periodTaken
  extract_lets s2 s3
  replace h2 : s2.pwr = _ := h2
  obtain ⟨f3, c, i, h3⟩ := (s2.updPwr fun p => { p with cpuEst := cpu, ioEst := io, lastPeriod := some s.now }).setShares_pwr
  replace h3 : s3.pwr = _ := h3
  clear_value s3
  refine ⟨s3.pwr.fronts.map FrontPwr.nextFractions, c, i, ?_⟩
  rw [State.updPwr, h3, State.updPwr, h2]

theorem State.periodTaken_unpowered (s s1 : State) (cpu io : Nat) : (s.periodTaken s1 cpu io).unpowered = s1.unpowered :=
  (State.updPwr_unpowered _ _).trans ((State.setShares_unpowered _).trans ((State.updPwr_unpowered _ _).trans
    (State.formEstimates_unpowered ..)))

theorem bitAt_of_getLsbD {v : BitVec 32} {i : Nat} (h : v.getLsbD i = true) : bitAt v.toNat i = true := by
  rw [BitVec.getLsbD, Nat.testBit_eq_decide_div_mod_eq, decide_eq_true_eq] at h
  simp [bitAt, bitsAt_eq_div, h]

theorem periodBoundaryTakesSettings : Claim.PeriodBoundaryTakesSettings := by
  intro s cpu io hnow hlast hinit hdeep
  have hx : exec (.periodBoundary cpu io) s = .next (s.periodTaken s.ok.takeCap.takeMode cpu io) :=
    next_congr (if_neg fun h => by rcases h with h | h | h | h <;> simp_all [us])
  obtain ⟨c, hcap⟩ := s.ok.takeCap_pwr
  obtain ⟨hkcap, hkwant, hkmode, hkdue⟩ := s.ok.takeCap.takeMode_kept
  have hdue : s.ok.takeCap.pwr.capModeDue = s.pwr.capModeDue := by rw [hcap]; rfl
  have htake : s.ok.takeCap.takeMode.unpowered = s.ok.unpowered := (State.takeMode_unpowered _).trans (State.takeCap_unpowered _)
  obtain ⟨f, cs, is, hpwr⟩ := s.periodTaken_pwr s.ok.takeCap.takeMode cpu io
  have hall := (s.periodTaken_unpowered s.ok.takeCap.takeMode cpu io).trans htake
  refine ⟨_, hx, ?_, ?_, ?_, ?_, fun v hv => ?_, fun hv => ?_, ?_, ?_, ?_, State.eq_of_unpowered hall⟩
  all_goals rw [hpwr]
  · exact hkcap.trans (by rw [hcap]; rfl)
  · exact hkwant.trans (by rw [hcap])
  · exact hkdue
  · exact hkmode.trans (by rw [hcap]; rfl)
  · rw [State.takeMode_of_some (hdue.trans hv)]
    refine ⟨?_, ?_, ?_, fun hclear => if_pos (bitAt_of_getLsbD hclear)⟩ <;> simp [bitsAt_eq_div]
  · rw [State.takeMode_of_none (hdue.trans hv), hcap]
    exact ⟨rfl, rfl⟩

/-! ## The energy of a window -/

theorem State.add_ctr (s : State) (c : Ctr) (n : Nat) : (s.add c n).ctr c = s.ctr c + n := by
  simp [State.add, State.ctr, assoc_assocSet_same]

theorem State.add_ctr_other (s : State) {c d : Ctr} (h : d ≠ c) (n : Nat) : (s.add c n).ctr d = s.ctr d := by
  simp [State.add, State.ctr, assoc_assocSet_other _ h]

theorem nextFactor_range (c ratio : Rat) : 1 / 2 ≤ nextFactor c ratio ∧ nextFactor c ratio ≤ 2 :=
  ⟨le_max_left _ _, max_le (by norm_num) (min_le_left _ _)⟩

theorem FrontPwr.calibrate_factor {w : FrontPwr} (rail : Nat) (h : ∀ p, 1 / 2 ≤ pick w.factor p ∧ pick w.factor p ≤ 2) (p : Fin 4) :
    1 / 2 ≤ pick (w.calibrate rail).factor p ∧ pick (w.calibrate rail).factor p ≤ 2 := by
  unfold FrontPwr.calibrate
  extract_lets e next
  have hp : pick (Vector.ofFn next) p = next p := by simp [pick]
  rw [hp]
  simp only [next]
  split
  · exact nextFactor_range ..
  · exact h p

/-- A Front's power after a window: its factors moved where its rail was measured. -/
def windowed (rails : List Nat) (i : Nat) (w : FrontPwr) : FrontPwr := 
  match rails[i]? with
  | some m => w.calibrate m
  | none => w

theorem windowed_factor (rails : List Nat) (i : Nat) {w : FrontPwr} (h : ∀ p, 1 / 2 ≤ pick w.factor p ∧ pick w.factor p ≤ 2) (p : Fin 4) :
    1 / 2 ≤ pick (windowed rails i w).factor p ∧ pick (windowed rails i w).factor p ≤ 2 := by
  unfold windowed
  split
  · exact FrontPwr.calibrate_factor _ h p
  · exact h p

/-- The state after a window, before its excess is counted. -/
def State.windowTaken (s : State) (uj : Nat) (rails : List Nat) : State :=
  (s.ok.add .inputEnergyMj ((s.pwr.energyPart + uj) / 1000)).updPwr fun p => { p with
    energyPart := (s.pwr.energyPart + uj) % 1000, excess := max 0 ((uj : Rat) / 1000 - (p.cap : Rat)), lastWindow := some s.now
    fronts := p.fronts.mapIdx (windowed rails) }

theorem execPowerWindow_eq {s : State} {uj : Nat} {rails : List Nat} (hnow : s.now % 1000000 = 0) (hlast : s.pwr.lastWindow ≠ some s.now)
    (hinit : s.eci.devState ≠ .uninit) : exec (.powerWindow uj rails) s = .next
      (if 102000 * s.pwr.cap < 100 * uj then ((s.windowTaken uj rails).count .capExceed).lifeAdd 8 17 1 else s.windowTaken uj rails) := by
  exact next_congr (if_neg fun h => by rcases h with h | h | h <;> simp_all [ms])

theorem powerWindowCountsEnergy : Claim.PowerWindowCountsEnergy := by
  intro s uj rails hnow hlast hinit
  let t := s.windowTaken uj rails
  have henergy : 1000 * t.ctr .inputEnergyMj + t.pwr.energyPart = 1000 * s.ctr .inputEnergyMj + s.pwr.energyPart + uj := by
    have hc : t.ctr .inputEnergyMj = s.ctr .inputEnergyMj + (s.pwr.energyPart + uj) / 1000 := s.ok.add_ctr _ _
    have hp : t.pwr.energyPart = (s.pwr.energyPart + uj) % 1000 := rfl
    omega
  have hexceed : t.ctr .capExceed = s.ctr .capExceed := s.ok.add_ctr_other (by decide) _
  have hfactor : (∀ f p, 1 / 2 ≤ pick (s.front f).factor p ∧ pick (s.front f).factor p ≤ 2) →
      ∀ f p, 1 / 2 ≤ pick (t.front f).factor p ∧ pick (t.front f).factor p ≤ 2 := by
    intro h f p
    have hf : t.front f = windowed rails f.val (s.front f) := by
      simp [t, State.windowTaken, State.front, pick, State.updPwr, State.add, State.ok, State.answer]
    rw [hf]
    exact windowed_factor rails f.val (h f) p
  refine ⟨_, execPowerWindow_eq hnow hlast hinit, ?_⟩
  split
  · refine ⟨?_, Nat.mod_lt _ (by decide), rfl, rfl, ?_, hfactor, rfl⟩
    · exact (congrArg (fun n => 1000 * n + t.pwr.energyPart) (t.count_ctr_other (by decide))).trans henergy
    · exact (t.count_ctr_same _).trans (congrArg (· + 1) hexceed)
  · exact ⟨henergy, Nat.mod_lt _ (by decide), rfl, rfl, hexceed, hfactor, rfl⟩

theorem droopBurstsCount : Claim.DroopBurstsCount := fun s _ =>
  ⟨fun h => ⟨_, next_congr (if_neg h), s.ok.count_ctr_same _, rfl⟩, fun h => next_congr (if_pos h)⟩

/-! ## Temperature samples -/

theorem throttleStep_floor {k n : Int} {j : Nat} (h : 5 ≤ j) (hj : j ≤ 20) :
    5 ≤ (if n = k then max 5 (j - 1) else if n = -k then min 20 (j + 1) else j) % 21 := by
  split
  · omega
  · split <;> omega

/-- What a throttle changes: one consumer's factor, the ticks and the flags. -/
theorem State.throttle_pwr (s : State) (i : Fin 10) : ∃ ticks x flags,
    (s.throttle i).pwr = { s.pwr with thermalTick := ticks, thermal := upd s.pwr.thermal i fun _ => x, throttled := flags } ∧
      (5 ≤ (pick s.pwr.thermal i).val → 5 ≤ x.val) := by
  unfold State.throttle
  extract_lets temps top hot cool t n k k1 was now s1 args s2
  have hs2 : s2.pwr = s1.pwr := (congrArg State.pwr (State.event_unreported ..) :)
  refine ⟨s1.pwr.thermalTick, ⟨k1 % 21, by omega⟩, s1.pwr.throttled, ?_, fun h => throttleStep_floor h (by omega)⟩
  split
  · rfl
  · split
    · exact hs2
    · exact hs2

/-- A throttle factor not below 5 twentieths. -/
def State.Unthrottled (s : State) : Prop := ∀ i, 5 ≤ (pick s.pwr.thermal i).val

theorem State.throttle_kept (s : State) (i : Fin 10) :
    ((s.throttle i).pwr.temps, (s.throttle i).pwr.lastTemp) = (s.pwr.temps, s.pwr.lastTemp) := by
  obtain ⟨_, _, _, h, -⟩ := s.throttle_pwr i
  rw [h]

theorem State.throttles_kept (l : List (Fin 10)) (s : State) : (l.foldl (fun u i => u.throttle i) s).pwr.temps = s.pwr.temps ∧
    (l.foldl (fun u i => u.throttle i) s).pwr.lastTemp = s.pwr.lastTemp :=
  Prod.mk.inj (foldl_keeps (g := fun u : State => (u.pwr.temps, u.pwr.lastTemp)) (f := fun u i => u.throttle i) State.throttle_kept l s)

theorem State.throttle_floor {s : State} (h : s.Unthrottled) (i : Fin 10) : (s.throttle i).Unthrottled := by
  obtain ⟨_, x, _, hp, hx⟩ := s.throttle_pwr i
  intro j
  rw [hp]
  by_cases hj : j = i
  · subst hj
    exact (pick_upd_same s.pwr.thermal j fun _ => x).symm ▸ hx (h j)
  · exact (pick_upd_other s.pwr.thermal hj fun _ => x).symm ▸ h j

theorem State.throttles_floor (l : List (Fin 10)) {s : State} (h : s.Unthrottled) : (l.foldl (fun u i => u.throttle i) s).Unthrottled := by
  induction l generalizing s with
  | nil => exact h
  | cons i l ih => exact ih (State.throttle_floor h i)

theorem State.binTemps_pwr (s : State) (l : List Reading) : (s.binTemps l).pwr = s.pwr :=
  foldl_keeps (g := State.pwr) (f := fun u (r : Reading) => u.lifeAdd 1 (r.die * 23 + tempBin r.celsius) 1) (fun _ _ => rfl) _ s

theorem State.readTemps_one (s : State) {r : Reading} (h : r.die < 48) : (s.readTemps [r]).pwr.temps = assocSet s.pwr.temps r.die r.celsius := by
  simp [State.readTemps, State.updPwr, h]

theorem tempSampleKeepsReadings (s : State) (l : List Reading) (hon : s.boot.supply.on = true) (hnow : s.now % 100000 = 0)
    (hlast : s.pwr.lastTemp ≠ some s.now) :
    ∃ t, exec (.tempSample l) s = .next t ∧ t.pwr.temps = (s.readTemps l).pwr.temps ∧ t.pwr.lastTemp = some s.now ∧
      (∀ r : Reading, r.die < 48 → l = [r] →
        assoc t.pwr.temps r.die = some r.celsius ∧ ∀ d, d ≠ r.die → assoc t.pwr.temps d = assoc s.pwr.temps d) ∧
      ((∀ i, 5 ≤ (pick s.pwr.thermal i).val) → ∀ i, 5 ≤ (pick t.pwr.thermal i).val) := by
  let s1 := ((s.ok.readTemps l).binTemps l).updPwr fun p => { p with lastTemp := some s.now }
  have hx : exec (.tempSample l) s = .next ((List.finRange 10).foldl (fun u i => u.throttle i) s1) :=
    next_congr (if_neg fun h => by rcases h with h | h | h <;> simp_all [us])
  have hbin : ((s.ok.readTemps l).binTemps l).pwr = (s.ok.readTemps l).pwr := State.binTemps_pwr ..
  have h1 : s1.pwr = { (s.readTemps l).pwr with lastTemp := some s.now } := congrArg (fun w : Power => { w with lastTemp := some s.now }) hbin
  clear_value s1
  obtain ⟨htemps, htime⟩ := State.throttles_kept (List.finRange 10) s1
  rw [h1] at htemps htime
  refine ⟨_, hx, htemps, htime, fun r hr hl => ?_, fun h => State.throttles_floor _ fun i => ?_⟩
  · rw [htemps, hl, show _ = assocSet s.pwr.temps r.die r.celsius from s.readTemps_one hr]
    exact ⟨assoc_assocSet_same .., fun d hd => assoc_assocSet_other _ hd _⟩
  · rw [h1]
    exact h i

/-! ## What failing everything leaves standing -/

/-- The logs and the power controller without its demands: what the failure of work leaves alone. -/
def State.climate (s : State) : State := { logs := s.logs, pwr := { s.pwr with demands := [] } }

theorem State.climate_of_standing {s t : State} (h : t.standing = s.standing) : t.climate = s.climate := (congrArg State.climate h :)

theorem State.flushOutbox_climate (s : State) : s.flushOutbox.climate = s.climate := by
  unfold State.flushOutbox
  extract_lets go
  refine foldl_keeps (g := State.climate) (f := go) (fun u m => ?_) _ _
  simp only [go]
  split
  · rfl
  · split
    · rfl
    · split <;> rfl

theorem State.pump_climate (s : State) : s.pump.climate = s.climate :=
  (foldl_keeps (g := State.climate) (f := fun u p => State.drainPort u p) (fun _ _ => rfl) _ _).trans s.flushOutbox_climate

theorem State.sendNow_climate (s : State) (m : Msg) : (s.sendNow m).climate = s.climate := (State.pump_climate _).trans rfl

theorem State.dropTag_climate (s : State) (d src : BitVec 8) (tag : BitVec 16) : (s.dropTag d src tag).climate = s.climate := by
  unfold State.dropTag
  split <;> rfl

theorem State.endStream_climate (s : State) (op status : Nat) : (s.endStream op status).climate = s.climate := by
  unfold State.endStream
  split
  · rfl
  · exact (State.dropTag_climate ..).trans (State.sendNow_climate ..)

theorem State.putBytes_climate (s : State) (pa : Nat) (bs : List Byte) : (s.putBytes pa bs).climate = s.climate := by
  induction bs generalizing s pa with
  | nil => rfl
  | cons b bs ih => exact (ih ..).trans rfl

theorem State.putPinned_climate (s : State) (m : Model) (va n v : Nat) : (s.putPinned m va n v).climate = s.climate := by
  unfold State.putPinned
  split
  · exact s.putBytes_climate ..
  · rfl

theorem State.writeTable_climate (s : State) (m : Model) (q : Seq) : (s.writeTable m q).climate = s.climate := by
  unfold State.writeTable
  split
  · rfl
  · exact foldl_keeps (g := State.climate) (fun u _ => u.putPinned_climate ..) _ s

theorem State.climate_of_unserved {s t : State} (h : t.unserved = s.unserved) : t.climate = s.climate :=
  State.climate_of_standing (State.standing_of_unserved h)

theorem State.dropImport_climate (s : State) (t : Transfer) : (s.dropImport t).climate = s.climate := by
  unfold State.dropImport
  split
  · rfl
  next q _ =>
    split
    · exact State.climate_of_unserved (s.dropSeq_unserved q)
    · extract_lets keep s1 s2
      have h1 : s1.climate = s.climate := foldl_keeps (g := State.climate) (f := fun u sub => if sub == 0 then u else u.freeBlock t.model sub)
        (fun u sub => by split <;> [rfl; exact State.climate_of_unserved (u.freeBlock_unserved ..)]) _ s
      have h2 : s2.climate = s.climate := h1
      clear_value s2
      split
      · exact (State.writeTable_climate ..).trans h2
      · exact h2

theorem State.abortOp_climate (s : State) (o : LongOp) : (s.abortOp o).climate = s.climate := by
  unfold State.abortOp
  cases o.kind with
  | modelLoad => rfl
  | scrub => rfl
  | modelInstall => rfl
  | kvExport | kvImport =>
    dsimp only
    split
    · rfl
    · split
      · rfl
      · exact State.dropImport_climate ..
  | fwStage => rfl

theorem State.failOp_climate (s : State) (o : LongOp) (st : Status) (d x : Nat) : (s.failOp o st d x).climate = s.climate := by
  unfold State.failOp
  extract_lets told
  have htold : told.climate = s.climate := by
    simp only [told]
    split
    · split
      · rfl
      · exact s.sendNow_climate _
    · rfl
  clear_value told
  calc (((told.endStream o.handle 2).abortOp o).endOp o st d x).climate
    _ = ((told.endStream o.handle 2).abortOp o).climate := State.climate_of_standing (State.endOp_standing ..) |>.trans rfl
    _ = (told.endStream o.handle 2).climate := State.abortOp_climate ..
    _ = told.climate := State.endStream_climate ..
    _ = s.climate := htold

theorem State.failOps_climate (s : State) (st : Status) : (s.failOps st).climate = s.climate :=
  foldl_keeps (g := State.climate) (f := fun u o => u.failOp o st 0 0) (fun u o => u.failOp_climate o st 0 0) s.eci.ops s

theorem State.failEverything_climate (s : State) (st : Status) : (s.failEverything st).climate = s.climate := by
  unfold State.failEverything
  extract_lets s1
  have h1 : s1.climate = s.climate := by
    simp only [s1]
    split
    · exact State.climate_of_standing (State.finish_record ..).standing
    · rfl
  calc ((s1.failAll st).failOps st).tryDetach.climate
    _ = ((s1.failAll st).failOps st).climate := State.climate_of_standing (State.tryDetach_standing _)
    _ = (s1.failAll st).climate := State.failOps_climate ..
    _ = s1.climate := State.climate_of_standing (s1.failAll_standing st)
    _ = s.climate := h1

theorem State.fault_climate (s : State) : s.fault.climate = s.climate := s.failEverything_climate .moduleFault

/-! ## The thermal trip and its release -/

theorem State.vector64_logs (s : State) : s.vector64.logs = s.logs := by
  unfold State.vector64
  split
  · rfl
  · split <;> rfl

theorem State.event_writes (s : State) (cls : Fin 5) (code : Nat) (unit : BitVec 32) (session : BitVec 16) (args : Nat) :
    (s.event cls code unit session args).logs.life.writes = s.logs.life.writes := by
  unfold State.event
  extract_lets e r was s1 s2 m s3
  have h1 : s1.logs.life.writes = s.logs.life.writes := by
    simp only [s1, State.updLogs]
    split <;> rfl
  have h2 : s2.logs.life.writes = s.logs.life.writes := by
    simp only [s2]
    split <;> exact h1
  have h3 : s3.logs.life.writes = s.logs.life.writes := by
    simp only [s3]
    split <;> exact h2
  clear_value s3
  split
  · rw [State.vector64_logs, h3]
  · exact h3

theorem State.fault_faulted (s : State) : s.fault.eci.devState = .faulted ∧ s.fault.cxl.viral = true := ⟨rfl, rfl⟩

/-- What the loss of power after a trip, its lifetime record written, leaves of a state. -/
theorem State.tripPower_writeLifetime (s : State) : s.writeLifetime.tripPower.pwr.tripped = s.pwr.tripped ∧
    s.writeLifetime.tripPower.pwr.temps = s.pwr.temps ∧ s.writeLifetime.tripPower.logs.life.writes = s.logs.life.writes + 1 ∧
    s.writeLifetime.tripPower.eci.devState = s.eci.devState ∧ s.writeLifetime.tripPower.cxl = s.cxl ∧
    s.writeLifetime.tripPower.srv.models = [] ∧ s.writeLifetime.tripPower.boot.stage = 0 :=
  ⟨rfl, rfl, rfl, rfl, rfl, rfl, rfl⟩

theorem thermalTripFaults (s : State) (die : Nat) (c : Int) (hc : 115 < c) (hdie : die < 48) (hon : s.boot.supply.on = true)
    (htrip : s.pwr.tripped = false) (hinit : s.eci.devState ≠ .uninit) :
    ∃ t, exec (.thermalTrip die c) s = .next t ∧ t.pwr.tripped = true ∧ t.eci.devState = .faulted ∧ t.cxl.viral = true ∧ t.srv.models = [] ∧
      t.boot.stage = 0 ∧ assoc t.pwr.temps die = some c ∧ t.logs.life.writes = s.logs.life.writes + 1 := by
  let s1 := (s.ok.event 4 0x0401 s.moduleId 0 (argBits [(0, die), (8, (c % 256).toNat)])).lifeAdd 8 20 1
  let s2 := s1.updPwr fun p => { p with tripped := true, temps := assocSet p.temps die c }
  have hx : exec (.thermalTrip die c) s = .next s2.fault.writeLifetime.tripPower :=
    next_congr (if_neg (by simp [hon, htrip, hinit]; omega))
  have htripped : s2.pwr.tripped = true := rfl
  have htemps : assoc s2.pwr.temps die = some c := assoc_assocSet_same ..
  have hwrites : s2.logs.life.writes = s.logs.life.writes := s.ok.event_writes ..
  clear_value s2
  have hclimate := s2.fault_climate
  have hlogs : s2.fault.logs = s2.logs := (congrArg State.logs hclimate :)
  have hkept : s2.fault.pwr.tripped = s2.pwr.tripped ∧ s2.fault.pwr.temps = s2.pwr.temps :=
    ⟨(congrArg (fun u => u.pwr.tripped) hclimate :), (congrArg (fun u => u.pwr.temps) hclimate :)⟩
  obtain ⟨hdev, hviral⟩ := s2.fault_faulted
  obtain ⟨h1, h2, h3, h4, h5, h6, h7⟩ := s2.fault.tripPower_writeLifetime
  refine ⟨_, hx, h1.trans (hkept.1.trans htripped), h4.trans hdev, (congrArg Cxl.viral h5).trans hviral, h6, h7, ?_, ?_⟩
  · rw [h2, hkept.2, htemps]
  · rw [h3, hlogs, hwrites]

theorem State.warmReset_tripped (s : State) : s.warmReset.pwr.tripped = s.pwr.tripped := by
  unfold State.warmReset
  extract_lets z pairOf u eci
  exact (congrArg (fun u => u.pwr.tripped) ((s.updEci fun e => { e with pairs := e.pairs.map pairOf }).postsToShadow_unposted fun _ => true) :)

theorem tripReleaseBoots (s : State) (l : List Reading) (htrip : s.pwr.tripped = true) (hcool : (s.readTemps l).coolEnough = true) :
    (s.eci.devState = .uninit → ∃ t, exec (.tripRelease l) s = .next t ∧ t.pwr.tripped = false ∧ t.eci.devState = .uninit) ∧
    (s.pwr.tripReset = true → s.eci.devState ≠ .uninit →
      ∃ t, exec (.tripRelease l) s = .next t ∧ t.pwr.tripped = false ∧ t.eci.devState = .booting ∧ t.boot.stage = 1) := by
  let s2 := (s.readTemps l).ok.updPwr fun p => { p with tripped := false, tripReset := false }
  refine ⟨fun h => ⟨s2, ?_, rfl, h⟩, fun hr h => ⟨s2.warmBoot, ?_, ?_, ?_⟩⟩
  · exact next_congr ((if_neg (by simp [htrip, hcool, h])).trans (if_pos h))
  · exact next_congr ((if_neg (by simp [htrip, hcool, hr])).trans (if_neg h))
  · obtain ⟨-, -, -, -, -, -, -, hpwr, -⟩ := s2.warmReset.startBoot_state false
    exact (congrArg Power.tripped hpwr).trans s2.warmReset_tripped
  · obtain ⟨hdev, hstage, -⟩ := s2.warmReset.startBoot_state false
    exact ⟨hdev, hstage⟩

theorem temperatureThrottlesAndTrips : Claim.TemperatureThrottlesAndTrips :=
  ⟨tempSampleKeepsReadings, thermalTripFaults, tripReleaseBoots⟩

/-- Settles O30: a boundary's fold touches the Fronts' power alone, and what a trip fails leaves logs and temperatures standing. -/
theorem powerAndTemperatureControl : Obligations.PowerAndTemperatureControl :=
  ⟨periodBoundaryTakesSettings, powerWindowCountsEnergy, droopBurstsCount, temperatureThrottlesAndTrips⟩

end Sys2Proof.Machine
end

section
/-!
PROOFS. Sleep states of Fronts and of the module (R310, R405 to R408).
-/

namespace Sys2Proof.Machine

/-! ## Fronts -/

theorem frontsSleepAndWake : Claim.FrontsSleepAndWake := by
  intro s f hawake slept
  refine ⟨fun hs hq hr => ?_, fun t hs hb hr hdue => ?_, fun hwake => ⟨fun t hs => ?_, fun t hs => ?_⟩⟩
  · exact next_congr (if_pos (by simp [hawake, hs, hq, hr]))
  · have hif : (s.moduleAwake && ((s.now % ms 1 == 0 && s.pwr.lullAfter != 0 && decide (t + ms s.pwr.lullAfter.toNat ≤ s.now)) || s.cacheLull f) &&
        !s.frontBound f && !s.frontReset f) = true := by
      rcases hdue with h | ⟨hn, h0, hle⟩
      · simp [hawake, hb, hr, h]
      · simp only [hawake, hb, hr, ms, hn]
        simpa [Nat.mul_comm s.pwr.lullAfter.toNat, hle] using .inl h0
    have hx : exec (.frontLullEnter f) s = execFrontLullEnter f s := rfl
    rw [hx, execFrontLullEnter, hs]
    exact next_congr (if_pos hif)
  all_goals
    have hif : (s.moduleAwake && (s.frontBound f || s.frontReset f)) = true := by simpa [hawake] using hwake
    have hx : exec (.frontWake f) s = execFrontWake f s := rfl
    rw [hx, execFrontWake, hs]
    exact next_congr (if_pos hif)

/-! ## What a core writes back -/

/-- A core without lines in its caches. -/
def CoreSt.Emptied (x : CoreSt) : Prop := x.l1i = {} ∧ x.l1d = {} ∧ x.l2 = {}

theorem State.writeBack_cores (s : State) (l : CLine) : (s.writeBack l).cores = s.cores := by
  unfold State.writeBack
  extract_lets m
  split
  · unfold State.hostWrite
    split <;> rfl
  · exact (State.cores_of_unasked (State.dramAsk_unasked ..)).trans (s.store_cores_coh ..).1

theorem State.writeBackCore_cores (s : State) (c : Fin 64) : (s.writeBackCore c).cores =
    upd s.cores c fun x => { x with l1i := {}, l1d := {}, l2 := {}, reserved := none } := by
  unfold State.writeBackCore
  extract_lets dirty s1
  have h1 : s1.cores = s.cores := foldl_keeps (g := State.cores) State.writeBack_cores dirty s
  rw [State.updCore_cores, h1]

theorem State.writeBackCore_emptied {s : State} {c d : Fin 64} (h : d = c ∨ (s.core d).Emptied) : ((s.writeBackCore c).core d).Emptied := by
  rw [State.core, State.writeBackCore_cores]
  by_cases hd : d = c
  · rw [hd, pick_upd_same]
    exact ⟨rfl, rfl, rfl⟩
  · rw [pick_upd_other _ hd]
    exact h.resolve_left hd

theorem State.writeBackCores_emptied (l : List (Fin 64)) {s : State} {d : Fin 64} (h : d ∈ l ∨ (s.core d).Emptied) :
    ((l.foldl (fun u c => u.writeBackCore c) s).core d).Emptied := by
  induction l generalizing s with
  | nil => exact h.resolve_left List.not_mem_nil
  | cons c l ih =>
    rcases h with h | h
    · rcases List.mem_cons.1 h with rfl | h
      · exact ih (.inr (State.writeBackCore_emptied (.inl rfl)))
      · exact ih (.inl h)
    · exact ih (.inr (State.writeBackCore_emptied (.inr h)))

theorem State.sb_drained {s : State} (h : ∀ c, (s.core c).sb = []) : s.cores.toList.any (fun c => !c.sb.isEmpty) = false := by
  refine List.any_eq_false.2 fun x hx => ?_
  obtain ⟨i, hi, rfl⟩ := List.getElem_of_mem hx
  have hc := h ⟨i, by simpa using hi⟩
  simpa [State.core, pick] using hc

theorem moduleLullEnters {s : State} (hready : s.lullReady = true) (hdrained : ∀ c, ((State.drainCores s.ok).core c).sb = []) :
    ∃ t, exec .moduleLullEnter s = .next t ∧ t.pwr.sleep = .lull s.now ∧ t.pwr.wakeOwed = false ∧
      ∀ c, (t.core c).l1i = {} ∧ (t.core c).l1d = {} ∧ (t.core c).l2 = {} := by
  let s1 := s.ok.drainCores
  have hx : exec .moduleLullEnter s = .next (((List.finRange 64).foldl (fun u c => u.writeBackCore c) s1).updPwr fun p =>
      { p with sleep := .lull s.now, wakeOwed := false }) :=
    next_congr ((if_neg (by simp [hready])).trans (if_neg (Bool.eq_false_iff.1 (State.sb_drained hdrained))))
  have hempty c := State.writeBackCores_emptied (s := s1) (List.finRange 64) (.inl (List.mem_finRange c))
  generalize (List.finRange 64).foldl (fun u c => u.writeBackCore c) s1 = s2 at hx hempty
  exact ⟨_, hx, rfl, rfl, hempty⟩

theorem frostEnters {s : State} {t : Nat} (hs : s.pwr.sleep = .lull t) (hnow : s.now % 1000000 = 0) (hafter : s.pwr.frostAfter ≠ 0)
    (hdue : t + 1000000 * (1000 * s.pwr.frostAfter.toNat) ≤ s.now) :
    ∃ u, exec .frostEnter s = .next u ∧ u.pwr.sleep = .frost s.now ∧ u.mem = s.mem.filter fun c => !isChip c.1 := by
  have hx : exec .frostEnter s = .next ((s.ok.undefine isChip).updPwr fun p => { p with sleep := .frost s.now }) := by
    have h : exec .frostEnter s = execFrostEnter s := rfl
    rw [h, execFrostEnter, hs]
    exact next_congr (if_pos (by simpa [ms, hnow, Nat.mul_comm _ 1000000, hdue] using hafter))
  exact ⟨_, hx, rfl, rfl⟩

theorem moduleWakes {s : State} (howed : s.pwr.wakeOwed = true) (t : Nat) :
    (s.pwr.sleep = .lull t → ∃ u, exec .moduleWake s = .next u ∧ u.pwr.sleep = .waking s.now false ∧ u.pwr.wakeOwed = false ∧ u.ctr .wake = s.ctr .wake + 1) ∧
    (s.pwr.sleep = .frost t → ∃ u, exec .moduleWake s = .next u ∧ u.pwr.sleep = .waking s.now true ∧ u.pwr.wakeOwed = false ∧ u.ctr .wake = s.ctr .wake + 1) := by
  have hif : (s.pwr.wakeOwed || s.irqPending) = true := by simp [howed]
  have hx : exec .moduleWake s = execModuleWake s := rfl
  rw [hx, execModuleWake]
  constructor
  all_goals
    intro hs
    rw [hs]
    exact ⟨_, next_congr (if_pos hif), rfl, rfl, s.ok.count_ctr_same .wake⟩

/-! ## The end of a wake -/

theorem State.markRange_pwr (s : State) (pa n : Nat) (m : Mark) : (s.markRange pa n m).pwr = s.pwr :=
  foldl_keeps (g := State.pwr)
    (f := fun t a => t.setMark a (if pa ≤ a ∧ a + 64 ≤ pa + n then m else joinMark m (t.markAt a))) (fun _ _ => rfl) _ s

theorem State.reload_pwr (s : State) (a : Nat) : (s.reload a).pwr = s.pwr := by
  unfold State.reload
  extract_lets src
  clear_value src
  split
  · exact (State.markRange_pwr ..).trans (State.putBytes_record ..).pwr
  · rfl

theorem State.reloads_pwr {α : Type} (g : α → Nat) (l : List α) (s : State) : (l.foldl (fun u t => u.reload (g t)) s).pwr = s.pwr :=
  foldl_keeps (g := State.pwr) (f := fun u t => u.reload (g t)) (fun u t => u.reload_pwr (g t)) l s

theorem State.reloadSquall_pwr (s : State) (q : Fin 64) : (s.reloadSquall q).pwr = s.pwr := State.reloads_pwr ..

theorem State.reloadChip_pwr (s : State) : s.reloadChip.pwr = s.pwr :=
  foldl_keeps (g := State.pwr) (f := fun u (r : Nat × Nat) => (List.range (cdiv r.2 4096)).foldl (fun v k => v.reload (r.1 + 4096 * k)) u)
    (fun u r => u.reloads_pwr (fun k => r.1 + 4096 * k) _) s.residentChip s

theorem State.reloadSqualls_pwr (f : Fin 8) (l : List (Fin 8)) (s : State) : (l.foldl (fun u k =>
      let q := squallOf f k
      (u.updSq q fun x => { x with cache := {}, tlb := [] }).reloadSquall q) s).pwr = s.pwr :=
  foldl_keeps (g := State.pwr) (f := fun u k => (u.updSq (squallOf f k) fun x => { x with cache := {}, tlb := [] }).reloadSquall (squallOf f k))
    (fun _ _ => State.reloadSquall_pwr ..) l s

theorem State.undefine_updFront_pwr (s : State) (p : Nat → Bool) (f : Fin 8) (g : FrontPwr → FrontPwr) :
    ((s.undefine p).updFront f g).pwr = (s.updFront f g).pwr := rfl

theorem State.frontUp_pwr (s : State) (f : Fin 8) (deep : Bool) : (s.frontUp f deep).pwr = (s.updFront f fun w => { w with sleep := .awake }).pwr := by
  unfold State.frontUp
  extract_lets s1
  have h1 : s1.pwr = (s.updFront f fun w => { w with sleep := .awake }).pwr := State.undefine_updFront_pwr ..
  clear_value s1
  split
  · exact (State.reloadSqualls_pwr ..).trans h1
  · exact h1

theorem moduleWakeCompletes {s : State} {t : Nat} {deep : Bool} (hs : s.pwr.sleep = .waking t deep) :
    ∃ u, exec .wakeComplete s = .next u ∧ u.pwr.sleep = .awake := by
  have hx : exec .wakeComplete s = execWakeComplete s := rfl
  rw [hx, execWakeComplete, hs]
  refine ⟨_, rfl, ?_⟩
  dsimp only
  split
  · exact congrArg Power.sleep (State.reloadChip_pwr _)
  · rfl

/-- What a Front that wakes has to load again, by its sleep state. -/
def FrontSleep.wakingTo (f : Fin 8) : FrontSleep → Option (Fin 8 × Bool)
  | .waking _ deep => some (f, deep)
  | _ => none

/-- The end of the wake of the first Front that wakes. -/
def State.wakeFirst (s : State) : Option (Fin 8 × Bool) → State
  | some x => s.ok.frontUp x.1 x.2
  | none => s.notDue

theorem execWakeComplete_of_awake {s : State} (h : s.pwr.sleep = .awake) :
    exec .wakeComplete s = .next (s.wakeFirst ((List.finRange 8).findSome? fun g => (s.front g).sleep.wakingTo g)) := by
  have hx : exec .wakeComplete s = execWakeComplete s := rfl
  rw [hx, execWakeComplete, h]
  rfl

theorem findSome?_finRange {α : Type} {n : Nat} {g : Fin n → Option α} {i : Fin n} {a : α} (h : g i = some a) (hlow : ∀ j < i, g j = none) :
    (List.finRange n).findSome? g = some a := by
  refine List.findSome?_eq_some_iff.2 ⟨(List.finRange n).take i, i, (List.finRange n).drop (i + 1), ?_, h, fun j hj => ?_⟩
  · have hi : i.val < (List.finRange n).length := by simp
    have hcons := List.drop_eq_getElem_cons hi
    rw [List.getElem_finRange] at hcons
    exact (List.take_append_drop i.val _).symm.trans (congrArg _ hcons)
  · obtain ⟨k, hk, rfl⟩ := List.getElem_of_mem hj
    refine hlow _ ?_
    simp at hk ⊢
    exact hk

theorem frontWakeCompletes {s : State} {f : Fin 8} {t : Nat} {deep : Bool} (hmod : s.pwr.sleep = .awake) (hs : (s.front f).sleep = .waking t deep)
    (hlow : ∀ g : Fin 8, g < f → ∀ x d, (s.front g).sleep ≠ .waking x d) :
    ∃ u, exec .wakeComplete s = .next u ∧ (u.front f).sleep = .awake ∧ ∀ g, g ≠ f → u.front g = s.front g := by
  have hfind : (List.finRange 8).findSome? (fun g => (s.front g).sleep.wakingTo g) = some (f, deep) := by
    refine findSome?_finRange (by rw [hs]; rfl) fun g hg => ?_
    cases h : (s.front g).sleep with
    | waking x d => exact absurd h (hlow g hg x d)
    | awake => rfl
    | calm => rfl
    | lull => rfl
  have hx : exec .wakeComplete s = .next (s.ok.frontUp f deep) := (execWakeComplete_of_awake hmod).trans (by rw [hfind, State.wakeFirst])
  refine ⟨_, hx, ?_, fun g hg => ?_⟩
  · rw [State.front, State.frontUp_pwr]
    exact congrArg FrontPwr.sleep (State.updFront_front ..)
  · rw [State.front, State.frontUp_pwr]
    exact pick_upd_other _ hg _

theorem moduleSleepsAndWakes : Claim.ModuleSleepsAndWakes :=
  ⟨fun _ => moduleLullEnters, fun _ _ => frostEnters, fun _ t h => moduleWakes h t, fun _ _ _ => moduleWakeCompletes,
    fun _ _ _ _ => frontWakeCompletes⟩

/-- Settles O31: a core's write-back empties its own caches and no other's, and reloads leave the power controller alone. -/
theorem frontsAndModuleSleepAndWake : Obligations.FrontsAndModuleSleepAndWake := ⟨frontsSleepAndWake, moduleSleepsAndWakes⟩

end Sys2Proof.Machine
end

section
/-!
PROOFS. Incoming accesses: CXL.mem and BAR4 (R330 to R336).
-/

namespace Sys2Proof.Machine

/-! ## What error correction leaves of the coherence state -/

theorem State.coh_of_unreported {s t : State} (h : t.unreported = s.unreported) : t.coh = s.coh := (congrArg State.coh h :)

theorem State.dramUse_coh (s : State) (cls : Nat) (write : Bool) (pa n : Nat) : (s.dramUse cls write pa n).coh = s.coh :=
  State.coh_of_unasked (State.dramAsk_unasked ..)

theorem State.putBytes_coh (s : State) (pa : Nat) (l : List Byte) : (s.putBytes pa l).coh = s.coh := (State.putBytes_record ..).coh

theorem State.redirect_coh (s : State) (page spare : Nat) : (s.redirect page spare).coh = s.coh := by
  have marked (f : Nat → Nat) (m : Nat → Mark) (l : List Nat) (u : State) : (l.foldl (fun u a => u.setMark (f a) (m a)) u).coh = u.coh :=
    foldl_keeps (g := State.coh) (f := fun u a => u.setMark (f a) (m a)) (fun _ _ => rfl) l u
  exact (marked _ _ _ _).trans (State.putBytes_coh ..)

theorem State.retirePage_coh {s u : State} {page : Nat} (h : s.retirePage page = some u) : u.coh = s.coh := by
  unfold State.retirePage at h
  extract_lets m n spare s1 at h
  split at h
  · cases h
  · obtain rfl := Option.some.inj h
    calc ((s1.redirect page (spare / Config.pageBytes)).dramUse 3 true spare Config.pageBytes).coh
      _ = (s1.redirect page (spare / Config.pageBytes)).coh := State.dramUse_coh ..
      _ = s1.coh := State.redirect_coh ..
      _ = s.coh := State.dramUse_coh ..

theorem State.counted_coh (s : State) (c : Ctr) (sec idx n : Nat) (f : Dram → Dram) :
    (((s.count c).lifeAdd sec idx n).updDram f).coh = s.coh := rfl

theorem State.dramFixed_coh (s : State) (pa : Nat) : (s.dramFixed pa).coh = s.coh := by
  unfold State.dramFixed
  extract_lets at_ home row s1
  have h0 : s1.coh = (s.fixBack pa).coh := State.counted_coh ..
  have h1 : s1.coh = s.coh := h0.trans (State.coh_of_unasked (s.fixBack_unasked pa))
  clear_value s1
  split
  · split
    · exact (State.coh_of_unreported (State.adviseRetire_unreported ..)).trans h1
    · exact h1
  · exact h1

theorem State.dramBad_coh (s : State) (pa : Nat) : (s.dramBad pa).coh = s.coh := by
  unfold State.dramBad
  extract_lets a at_ args s1
  have h1 : s1.coh = s.coh := (State.coh_of_unreported (State.event_unreported ((s.setMark a .unreadable).count .dramUncorrected) ..)).trans rfl
  clear_value s1
  split
  · exact h1
  · extract_lets s2
    have h2 : s2.coh = s.coh := h1
    clear_value s2
    split
    · exact h2
    · split
      next h3 => exact (State.retirePage_coh h3).trans h2
      · exact h2

theorem State.dramCheck_coh (s : State) (pa : Nat) (ecc : Ecc) : (s.dramCheck pa ecc).coh = s.coh := by
  cases ecc with
  | clean => rfl
  | corrected => rw [State.dramCheck, State.dramFixed_coh]
  | miscorrected => rw [State.dramCheck, State.dramFixed_coh, State.draw_coh, State.putBytes_coh]
  | uncorrectable => rw [State.dramCheck, State.dramBad_coh]

/-- Accesses that wait at the channels do not show in the bytes read. -/
theorem State.load_of_unasked {s t : State} (h : t.unasked = s.unasked) : t.load = s.load := by
  have hret : t.dram.retired = s.dram.retired := (congrArg (fun u => u.dram.retired) h :)
  have hfree : t.free = s.free := (congrArg State.free h :)
  have hreal : t.real = s.real := by funext pa; simp only [State.real, hret]
  have hmark : t.markAt = s.markAt := by funext pa; simp only [State.markAt, hreal, State.marks_of_unasked h]
  have hbyte : t.byteAt = s.byteAt := by funext pa; simp only [State.byteAt, hreal, State.mem_of_unasked h, hfree]
  funext pa n
  induction n generalizing pa with
  | zero => rfl
  | succ n ih => simp only [State.load, hmark, hbyte, ih]

/-! ## Reads and writes of a requester -/

/-- An awake module with a request that has just arrived. -/
def State.asked (s : State) : State := { s with out := .done, pwr := { s.pwr with lastRequest := s.now } }

theorem State.asked_load (s : State) : s.asked.load = s.load := State.SameBytes.load ⟨rfl, rfl, rfl, rfl⟩

theorem State.whenAwake_of_awake {s : State} (h : s.pwr.sleep = .awake) (f : State → State) : s.whenAwake f = f s.asked := by
  have hrouse : s.rouse = s := if_neg (by rw [h]; decide)
  rw [State.whenAwake, if_neg (not_not.2 h), State.requested, hrouse]
  rfl

theorem State.readAs_of_unwritten {s : State} (h : s.coh.fresh = []) (o : Agent) (pa n : Nat) : s.readAs o pa n = (s.load pa n, s) := by
  rw [State.readAs, h]
  rfl

/-- The state in which an admitted read takes its bytes. -/
def State.checkedRead (s : State) (pa n : Nat) (ecc : Ecc) : State := (s.dramRead 1 pa n).dramCheck pa ecc

theorem State.checkedRead_coh (s : State) (pa n : Nat) (ecc : Ecc) : (s.checkedRead pa n ecc).coh = s.coh :=
  (State.dramCheck_coh ..).trans (State.coh_of_unasked (State.dramAsk_unasked ..))

theorem State.checkedRead_clean (s : State) (pa n : Nat) : (s.checkedRead pa n .clean).unasked = s.unasked := State.dramAsk_unasked ..

/-- A read whose chunks are all admitted without a snoop. -/
theorem State.inRead_admitted {s : State} {x : Inlet} {pa n : Nat} (hfresh : s.coh.fresh = [])
    (hall : ∀ a ∈ chunksOf pa n, s.admitted x false (max a pa) = some false) (port : InPort) (ecc : Ecc) :
    s.inRead x port pa n ecc = (some ((s.checkedRead pa n ecc).load pa n), s.checkedRead pa n ecc) := by
  have hfind : (chunksOf pa n).find? (fun c => (s.admitted x false (max c pa)).isNone) = none :=
    List.find?_eq_none.2 fun a ha => by simp [hall a ha]
  have hsnoop : (chunksOf pa n).foldl (fun u c => if u.admitted x false (max c pa) = some true then u.snoop false c 64 else u) s = s := by
    refine List.foldlRecOn (chunksOf pa n) _ (motive := fun u => u = s) rfl fun u hu c hc => ?_
    rw [hu]
    exact if_neg (by simp [hall c hc])
  unfold State.inRead
  rw [hfind]
  dsimp only
  rw [hsnoop]
  have hcoh : (s.checkedRead pa n ecc).coh.fresh = [] := by rw [State.checkedRead_coh, hfresh]
  exact congrArg (fun r : List MByte × State => (some r.1, r.2)) (State.readAs_of_unwritten hcoh .ioProxy pa n)

theorem State.denied_unreported (s : State) (port : InPort) (a : Nat) : (s.denied port a).mem = s.mem ∧ (s.denied port a).marks = s.marks ∧
    ∀ c, c ≠ .eventLost → (s.denied port a).ctr c = s.ctr c := by
  unfold State.denied
  split
  · exact ⟨State.event_mem .., State.event_marks .., fun c hc => State.event_ctr _ _ _ _ _ _ hc⟩
  · exact ⟨rfl, rfl, fun _ _ => rfl⟩

/-- A read of which a chunk is refused is counted and changes no memory. -/
theorem State.inRead_refused {s : State} {x : Inlet} {pa n : Nat} (hno : ∃ a ∈ chunksOf pa n, s.admitted x false (max a pa) = none)
    (port : InPort) (ecc : Ecc) : ∃ t, s.inRead x port pa n ecc = (none, t) ∧ t.mem = s.mem ∧ t.marks = s.marks ∧
      t.ctr .inDenyRead = s.ctr .inDenyRead + 1 := by
  have hsome : ((chunksOf pa n).find? fun c => (s.admitted x false (max c pa)).isNone).isSome := by
    obtain ⟨a, ha, hnone⟩ := hno
    exact List.find?_isSome.2 ⟨a, ha, by rw [hnone]; rfl⟩
  obtain ⟨c, hc⟩ := Option.isSome_iff_exists.1 hsome
  obtain ⟨hmem, hmarks, hctr⟩ := (s.count .inDenyRead).denied_unreported port (max c pa)
  refine ⟨(s.count .inDenyRead).denied port (max c pa), by rw [State.inRead, hc], hmem, hmarks, ?_⟩
  rw [hctr _ (by decide), State.count_ctr_same]

/-! ## CXL.mem -/

theorem State.cxlServes_of_up {s : State} (hup : s.linkUp = true) (hmode : s.cxl.state ≠ .pcieOnly) (hstage : s.boot.stage = 9) :
    s.cxlServes = true := by
  simp [State.cxlServes, hup, hmode, hstage]

/-- What CXL_MEM_READ answers with what its read found. -/
def State.cxlAnswer (size : Nat) : Option (List MByte) × State → State
  | (some l, u) => u.answerRead l
  | (none, u) => u.answer (.data (List.replicate size 0) .unreadable)

theorem exec_cxlMemRead {s : State} {dpa : BitVec 48} {size : Nat} (hserves : s.cxlServes = true) (hhdm : s.cxl.hdmCommitted = true)
    (hsize : 0 < size) (htop : dpa.toNat + size ≤ s.dramTop) (ecc : Ecc) : exec (.cxlMemRead dpa size ecc) s =
      .next (s.whenAwake fun t => State.cxlAnswer size (t.inRead .host 0 dpa.toNat size ecc)) :=
  next_congr (if_neg (by simp [hserves, hhdm]; omega))

theorem exec_cxlMemWrite {s : State} {dpa : BitVec 48} {data : List Byte} (hserves : s.cxlServes = true) (hhdm : s.cxl.hdmCommitted = true)
    (hdata : data ≠ []) (htop : dpa.toNat + data.length ≤ s.dramTop) (poison : Bool) : exec (.cxlMemWrite dpa data poison) s =
      .next (s.whenAwake fun t => t.inWrite .host 0 dpa.toNat (withMark (if poison then .unreadable else .none) data)) :=
  next_congr (if_neg (by simp [hserves, hhdm, hdata]; omega))

theorem cxlMemoryIsChecked : Claim.CxlMemoryIsChecked := by
  intro s dpa size data poison ecc hup hmode hstage hhdm u
  have hserves := State.cxlServes_of_up hup hmode hstage
  refine ⟨fun hsize htop hawake hfresh => ⟨fun hall => ?_, fun hno => ?_⟩, fun hdata htop hawake => ?_, fun hsize htop hasleep => ?_⟩
  · have hx (e : Ecc) : exec (.cxlMemRead dpa size e) s =
        .next ((s.asked.checkedRead dpa.toNat size e).answerRead ((s.asked.checkedRead dpa.toNat size e).load dpa.toNat size)) := by
      rw [exec_cxlMemRead hserves hhdm hsize htop, State.whenAwake_of_awake hawake, State.inRead_admitted (s := s.asked) hfresh hall]
      rfl
    have hclean := s.asked.checkedRead_clean dpa.toNat size
    have hload : (s.asked.checkedRead dpa.toNat size .clean).load = s.load := (State.load_of_unasked hclean).trans s.asked_load
    refine ⟨hx ecc, _, hx .clean, (State.mem_of_unasked hclean :), (State.marks_of_unasked hclean :), ?_⟩
    rw [hload]
    rfl
  · obtain ⟨t, ht, hmem, hmarks, hctr⟩ := State.inRead_refused (s := s.asked) hno 0 ecc
    refine ⟨State.cxlAnswer size (none, t), ?_, hmem, hmarks, rfl, hctr⟩
    rw [exec_cxlMemRead hserves hhdm hsize htop, State.whenAwake_of_awake hawake]
    exact congrArg (fun r => (.next (State.cxlAnswer size r) : Res)) ht
  · rw [exec_cxlMemWrite hserves hhdm hdata htop, State.whenAwake_of_awake hawake]
    rfl
  · rw [exec_cxlMemRead hserves hhdm hsize htop, State.whenAwake, if_pos hasleep]
    rfl

/-! ## BAR4 -/

/-- What BAR4_READ answers with what its read found. -/
def State.barAnswer : Option (List MByte) × State → State
  | (some l, u) => u.answerRead l
  | (none, u) => u.answer .unsupportedRequest

theorem exec_bar4Read {s : State} {off : BitVec 42} {size : Nat} {id : BitVec 16} (hup : s.linkUp = true) (hstage : s.boot.stage = 9)
    (hsize : 0 < size) (hmode : s.cxl.state ≠ .pcieOnly) (ecc : Ecc) : exec (.bar4Read off size id ecc) s =
      .next (s.whenAwake fun t => State.barAnswer (t.inRead (inletOf id) 0 off.toNat size ecc)) :=
  next_congr ((if_neg (by simp [hup, hstage]; omega)).trans (if_neg hmode))

theorem exec_bar4Write {s : State} {off : BitVec 42} {data : List Byte} {id : BitVec 16} (hup : s.linkUp = true) (hstage : s.boot.stage = 9)
    (hdata : data ≠ []) (hmode : s.cxl.state ≠ .pcieOnly) (poison : Bool) : exec (.bar4Write off data id poison) s =
      .next (s.whenAwake fun t => t.inWrite (inletOf id) 0 off.toNat (withMark (if poison then .unreadable else .none) data)) :=
  next_congr ((if_neg (by simp [hup, hstage, hdata])).trans (if_neg hmode))

theorem bar4IsCheckedByRequester : Claim.Bar4IsCheckedByRequester := by
  intro s off size data id poison ecc hup hstage hawake hfresh hsize hdata x u
  refine ⟨fun hmode => ⟨?_, fun hall => ?_, fun hno => ?_⟩, fun hpcie => ⟨?_, ?_⟩⟩
  · rw [exec_bar4Write hup hstage hdata hmode, State.whenAwake_of_awake hawake]
    rfl
  · have hx (e : Ecc) : exec (.bar4Read off size id e) s =
        .next ((s.asked.checkedRead off.toNat size e).answerRead ((s.asked.checkedRead off.toNat size e).load off.toNat size)) := by
      rw [exec_bar4Read hup hstage hsize hmode, State.whenAwake_of_awake hawake, State.inRead_admitted (s := s.asked) hfresh hall]
      rfl
    have hclean := s.asked.checkedRead_clean off.toNat size
    have hload : (s.asked.checkedRead off.toNat size .clean).load = s.load := (State.load_of_unasked hclean).trans s.asked_load
    refine ⟨hx ecc, _, hx .clean, (State.mem_of_unasked hclean :), ?_⟩
    rw [hload]
    rfl
  · obtain ⟨t, ht, hmem, -, hctr⟩ := State.inRead_refused (s := s.asked) hno 0 ecc
    refine ⟨State.barAnswer (none, t), ?_, hmem, rfl, hctr⟩
    rw [exec_bar4Read hup hstage hsize hmode, State.whenAwake_of_awake hawake]
    exact congrArg (fun r => (.next (State.barAnswer r) : Res)) ht
  · exact next_congr ((if_neg (by simp [hup, hstage]; omega)).trans (if_pos hpcie))
  · exact next_congr ((if_neg (by simp [hup, hstage, hdata])).trans (if_pos hpcie))

/-- Settles O42: an admitted read finds no DMA write on its way, so it loads memory as error correction leaves it. -/
theorem cxlMemoryAndBar4 : Obligations.CxlMemoryAndBar4 := ⟨cxlMemoryIsChecked, bar4IsCheckedByRequester⟩

end Sys2Proof.Machine
end

section
/-!
PROOFS. Peer requests and their answers (R285, R335, R348, R351, R352).
-/

namespace Sys2Proof.Machine

/-! ## Messages that arrive -/

theorem State.arrives_of_awake {s : State} {m : Msg} (hup : s.denbelUp = true) (hdst : m.dst = s.eci.moduleIndex) (hstage : s.boot.stage = 9)
    (hawake : s.pwr.sleep = .awake) (f : State → State) : s.arrives m f = f s.asked := by
  rw [State.arrives, if_neg (by simp [hup, hdst, hstage]), State.whenAwake_of_awake hawake]

theorem State.asked_byteAt (s : State) : s.asked.byteAt = s.byteAt := State.SameBytes.byteAt ⟨rfl, rfl, rfl, rfl⟩

/-- The bytes of a masked write: the enabled ones are the message's, the others stay. -/
theorem State.maskedChunk_byte (s : State) (a mask : Nat) (data : List Byte) (mark : Mark) {i : Nat} (hi : i < 64) :
    ((s.maskedChunk a mask data mark).map (·.1)).getD i 0 = if bitAt mask i then data.getD i 0 else s.byteAt (a + i) := by
  simp [State.maskedChunk, List.getD, hi]

/-- What DNB_RD answers with what its read found. -/
def State.peerAnswer (s : State) (m : Msg) (n : Nat) : Option (List MByte) × State → State
  | (some l, u) => u.sendNow (rdrMsg s.eci.moduleIndex m.src m.tag l)
  | (none, u) => u.sendNow (rdrMsg s.eci.moduleIndex m.src m.tag (withMark .unreadable (List.replicate n 0)))

theorem exec_dnbRd (m : Msg) (ecc : Ecc) (s : State) : exec (.dnbRd m ecc) s = .next (s.arrives m fun t => t.peerAnswer m (64 * m.aux.toNat)
    (t.inRead (.peer m.src.toNat) (t.portOf m.src) (m.addr.toNat / 64 * 64) (64 * m.aux.toNat) ecc)) := rfl

theorem peersReadAndWrite : Claim.PeersReadAndWrite := by
  intro s m ecc hup hdst hstage hawake u x a n mask
  have harrives := State.arrives_of_awake hup hdst hstage hawake
  refine ⟨next_congr (harrives _), fun hmask => ?_, fun hmask => ?_, fun i hi => ?_, fun hfresh hall => ?_, fun hno => ?_⟩
  · refine next_congr ((harrives _).trans ?_)
    exact congrArg (fun t : State => t.sendNow (wackMsg s.eci.moduleIndex m.src m.tag)) (if_neg hmask)
  · refine next_congr ((harrives _).trans ?_)
    exact congrArg (fun t : State => t.sendNow (wackMsg s.eci.moduleIndex m.src m.tag)) (if_pos hmask)
  · exact (State.maskedChunk_byte s.asked a mask _ _ hi).trans (by rw [State.asked_byteAt])
  · have hread := State.inRead_admitted (s := s.asked) hfresh hall (s.asked.portOf m.src) ecc
    rw [exec_dnbRd, harrives]
    exact congrArg (fun r => (.next (s.asked.peerAnswer m n r) : Res)) hread
  · obtain ⟨v, hv, hmem, -, hctr⟩ := State.inRead_refused (s := s.asked) hno (s.asked.portOf m.src) ecc
    refine ⟨v, ?_, hmem, hctr⟩
    rw [exec_dnbRd, harrives]
    exact congrArg (fun r => (.next (s.asked.peerAnswer m n r) : Res)) hv

/-! ## Answers -/

theorem State.finishSwitch_of_none {s : State} (h : s.dnb.switching = []) : s.finishSwitch = s := by
  unfold State.finishSwitch
  extract_lets busy ready
  have hready : ready = [] := by
    simp only [ready, h, List.filter_nil]
  rw [hready]
  rfl

theorem State.acknowledge_switching (d : BitVec 8) (n : Nat) (s : State) : (s.acknowledge d n).dnb.switching = s.dnb.switching := by
  induction n generalizing s with
  | zero => rfl
  | succ n ih =>
    rw [State.acknowledge]
    split
    · rfl
    · exact ih _

/-- What DNB_RDR does with its data, by the request that waits for them. -/
def State.gotData (s : State) (m : Msg) : Option PeerReq → State
  | none => s
  | some r =>
    if m.data.length ≠ 64 * r.chunks then s
    else if !s.wanted r then (s.dropReq r).finishSwitch
    else (s.updDnb fun d => { d with reqs := updFirst d.reqs (· == r) fun x => { x with got := msgData m } }).finishSwitch

theorem exec_dnbRdr (m : Msg) (s : State) : exec (.dnbRdr m) s = .next (s.arrives m fun t =>
    t.gotData m (t.dnb.reqs.find? fun r => r.tag == m.tag && r.dst == m.src && r.chunks != 0 && r.open_)) := rfl

theorem dataReachesItsRequest {s : State} {m : Msg} {r : PeerReq} (hswitch : s.dnb.switching = []) (hup : s.denbelUp = true)
    (hdst : m.dst = s.eci.moduleIndex) (hstage : s.boot.stage = 9) (hawake : s.pwr.sleep = .awake)
    (hfind : s.dnb.reqs.find? (fun x => x.tag == m.tag && x.dst == m.src && x.chunks != 0 && x.open_) = some r)
    (hlen : m.data.length = 64 * r.chunks) (hwanted : s.wanted r = true) :
    exec (.dnbRdr m) s = .next { s.asked with
      dnb := { s.dnb with reqs := updFirst s.dnb.reqs (· == r) fun x => { x with got := msgData m } } } := by
  have hf : s.asked.dnb.reqs.find? (fun x => x.tag == m.tag && x.dst == m.src && x.chunks != 0 && x.open_) = some r := hfind
  have hw : s.asked.wanted r = true := hwanted
  rw [exec_dnbRdr, State.arrives_of_awake hup hdst hstage hawake, hf, State.gotData, if_neg (not_not.2 hlen), if_neg (by rw [hw]; decide)]
  exact next_congr (State.finishSwitch_of_none (by exact hswitch))

theorem State.failReq_of_untasked {s : State} {r : PeerReq} (h : r.what = .write none ∨ r.what = .read none) : s.failReq r = s.dropReq r := by
  rcases h with h | h <;> rw [State.failReq, h]

theorem requestsTimeOut {s : State} {r : PeerReq} (hswitch : s.dnb.switching = [])
    (hfind : s.dnb.reqs.find? (fun x => x.tag == r.tag && x.open_) = some r) (hdue : r.since + 200000000 ≤ s.now) :
    ∃ t, exec (.peerTimeout r.tag) s = .next t ∧ (r.what = .write none ∨ r.what = .read none →
      t.dnb.reqs = dropFirst s.dnb.reqs (· == r) ∧ t.ctr .peerTimeout = s.ctr .peerTimeout + 1 ∧ t.mem = s.mem) := by
  have hx : exec (.peerTimeout r.tag) s = .next ((s.ok.count .peerTimeout).failReq r).finishSwitch := by
    have h : exec (.peerTimeout r.tag) s = execPeerTimeout r.tag s := rfl
    rw [h, execPeerTimeout, hfind]
    exact next_congr (if_neg (Nat.not_lt_of_le hdue))
  refine ⟨_, hx, fun hwhat => ?_⟩
  rw [State.failReq_of_untasked hwhat, State.finishSwitch_of_none (s := (s.ok.count .peerTimeout).dropReq r) hswitch]
  exact ⟨rfl, s.ok.count_ctr_same _, rfl⟩

theorem peerAnswersEndRequests : Claim.PeerAnswersEndRequests := by
  intro s m r hswitch
  refine ⟨fun hup hdst hstage hawake => ⟨fun hfind hlen hwanted => ?_, ?_, fun n => rfl⟩, fun hfind hdue => requestsTimeOut hswitch hfind hdue⟩
  · exact dataReachesItsRequest hswitch hup hdst hstage hawake hfind hlen hwanted
  · refine next_congr ((State.arrives_of_awake hup hdst hstage hawake _).trans ?_)
    exact State.finishSwitch_of_none ((State.acknowledge_switching _ _ s.asked).trans hswitch)

/-- Settles O49: what arrives at an awake module is performed at once, and with no switch under way an answer only ends requests. -/
theorem denbelPeersReadAndWrite : Obligations.DenbelPeersReadAndWrite := ⟨peersReadAndWrite, peerAnswersEndRequests⟩

end Sys2Proof.Machine
end

section
/-!
PROOFS. The Denbel link layer: flits, training and forwarding (R345, R347, R349, R350).
-/

namespace Sys2Proof.Machine

/-! ## Ports -/

@[simp] theorem State.updPort_port (s : State) (p : Fin 4) (f : DnbPort → DnbPort) : (s.updPort p f).port p = f (s.port p) :=
  pick_upd_same s.dnb.ports p f

theorem State.updPort_port_other (s : State) {p k : Fin 4} (h : k ≠ p) (f : DnbPort → DnbPort) : (s.updPort p f).port k = s.port k :=
  pick_upd_other s.dnb.ports h f

theorem State.drainPort_port (s : State) (p : Fin 4) : (s.drainPort p).port p = (s.port p).drain (s.port p).sendQ.length :=
  s.updPort_port p _

theorem State.drainPort_port_other (s : State) {p k : Fin 4} (h : k ≠ p) : (s.drainPort p).port k = s.port k := s.updPort_port_other h _

/-- A port with nothing to send is as it was. -/
theorem State.drainPort_of_empty {s : State} {p : Fin 4} (h : (s.port p).sendQ = []) : s.drainPort p = s := by
  have hsame : upd s.dnb.ports p (fun x => x.drain x.sendQ.length) = s.dnb.ports := by
    refine upd_eq_self _ _ ?_
    have hq : (pick s.dnb.ports p).sendQ = [] := h
    rw [hq]
    rfl
  rw [State.drainPort, State.updPort, hsame]

theorem State.drains_port_other (l : List (Fin 4)) {s : State} {p : Fin 4} (h : p ∉ l) : (l.foldl State.drainPort s).port p = s.port p := by
  induction l generalizing s with
  | nil => rfl
  | cons k l ih =>
    obtain ⟨hk, hl⟩ := not_or.1 (fun hp => h (List.mem_cons.2 hp))
    exact (ih hl).trans (s.drainPort_port_other hk)

theorem State.drains_port {l : List (Fin 4)} (hl : l.Nodup) {s : State} {p : Fin 4} (h : p ∈ l) :
    (l.foldl State.drainPort s).port p = (s.port p).drain (s.port p).sendQ.length := by
  induction l generalizing s with
  | nil => exact absurd h List.not_mem_nil
  | cons k l ih =>
    obtain ⟨hk, hl⟩ := List.nodup_cons.1 hl
    by_cases hp : p = k
    · subst hp
      exact (State.drains_port_other l hk).trans (s.drainPort_port p)
    · rw [List.foldl_cons, ih hl ((List.mem_cons.1 h).resolve_left hp), s.drainPort_port_other hp]

/-- With no message waiting for a port, each port sends what it can. -/
theorem State.pump_port {s : State} (h : s.dnb.outbox = []) (p : Fin 4) : s.pump.port p = (s.port p).drain (s.port p).sendQ.length := by
  have hflush : s.flushOutbox.port p = s.port p := by
    unfold State.flushOutbox
    rw [h]
    rfl
  rw [State.pump, State.drains_port (List.nodup_finRange 4) (List.mem_finRange p), hflush]

/-! ## Flits -/

theorem DnbPort.hear_kept (x : DnbPort) (f : Flit) : (x.hear f).rxSeq = x.rxSeq ∧ (x.hear f).nakOwed = x.nakOwed ∧
    (x.hear f).granted = x.granted ∧ (x.hear f).sendQ = x.sendQ ∧ (x.hear f).txSeq = x.txSeq ∧
    (x.hear f).replay = if f.ackv then ackFlits x.replay f.ack else x.replay := by
  unfold DnbPort.hear
  extract_lets rest x1
  split <;> exact ⟨rfl, rfl, rfl, rfl, rfl, rfl⟩

theorem DnbPort.accept_kept (x : DnbPort) (f : Flit) : (x.accept f).sendQ = x.sendQ ∧ (x.accept f).replay = x.replay := by
  unfold DnbPort.accept
  split <;> exact ⟨rfl, rfl⟩

theorem DnbPort.accept_awaited {x : DnbPort} {f : Flit} (h : f.seq = x.rxSeq) : (x.accept f).rxSeq = x.rxSeq + 1 ∧
    (x.accept f).nakOwed = x.nakOwed ∧ pick (x.accept f).granted (flitCost f).1 = pick x.granted (flitCost f).1 - (flitCost f).2 := by
  rw [DnbPort.accept, if_pos h]
  exact ⟨rfl, rfl, pick_upd_same ..⟩

theorem DnbPort.accept_other {x : DnbPort} {f : Flit} (h : f.seq ≠ x.rxSeq) : x.accept f = { x with nakOwed := true } := if_neg h

theorem portUndecodable {s : State} {p : Fin 4} (hup : (s.port p).state.isUp = true) (f : Flit) (fixed : Bool) :
    exec (.dnbFlitReceive p f false fixed) s = .next { s with
      out := .done, dnb := { s.dnb with ports := upd s.dnb.ports p fun x => { x with nakOwed := true } } } :=
  next_congr ((if_neg (by simp [hup])).trans (if_pos rfl))

theorem exec_dnbFlitReceive {s : State} {p : Fin 4} (hup : (s.port p).state.isUp = true) (f : Flit) (fixed : Bool) :
    exec (.dnbFlitReceive p f true fixed) s = .next (
      let u := if fixed then s.ok.count (portCtr .dnbFecCorr0 .dnbFecCorr1 .dnbFecCorr2 .dnbFecCorr3 p) else s.ok
      let v := u.updPort p fun x => x.hear f
      let w := if f.nak then v.replayPort p else v
      (if f.kind = 1 ∨ f.kind = 2 then w.updPort p fun x => x.accept f else w).drainPort p) :=
  next_congr ((if_neg (by simp [hup])).trans (if_neg (by decide)))

/-- A message flit without a NAK, as it is heard and accepted or not. -/
theorem messageFlitArrives {s : State} {p : Fin 4} {f : Flit} (hup : (s.port p).state.isUp = true) (hq : (s.port p).sendQ = [])
    (hnak : f.nak = false) (hkind : f.kind = 1) : exec (.dnbFlitReceive p f true false) s =
      .next ((s.ok.updPort p fun x => x.hear f).updPort p fun x => x.accept f) := by
  have hempty : (((s.ok.updPort p fun x => x.hear f).updPort p fun x => x.accept f).port p).sendQ = [] := by
    obtain ⟨-, -, -, hsend, -⟩ := (s.port p).hear_kept f
    rw [State.updPort_port, State.updPort_port, (DnbPort.accept_kept _ f).1]
    exact hsend.trans hq
  rw [exec_dnbFlitReceive hup]
  dsimp only
  rw [if_neg Bool.false_ne_true, if_neg (show ¬ f.nak = true by simp [hnak]), if_pos (show f.kind = 1 ∨ f.kind = 2 from .inl hkind),
    State.drainPort_of_empty hempty]

theorem flitsAcceptedInOrder {s : State} {p : Fin 4} {f : Flit} (hup : (s.port p).state.isUp = true) (hq : (s.port p).sendQ = [])
    (hnak : f.nak = false) (hkind : f.kind = 1) :
    let q := s.port p
    ∃ t, exec (.dnbFlitReceive p f true false) s = .next t ∧
      (f.seq = q.rxSeq → (t.port p).rxSeq = q.rxSeq + 1 ∧ (t.port p).nakOwed = q.nakOwed ∧
        pick (t.port p).granted (flitCost f).1 = pick q.granted (flitCost f).1 - (flitCost f).2) ∧
      (f.seq ≠ q.rxSeq → (t.port p).rxSeq = q.rxSeq ∧ (t.port p).nakOwed = true ∧ (t.port p).granted = q.granted) ∧
      (t.port p).replay = (if f.ackv then ackFlits q.replay f.ack else q.replay) ∧
      t = { s with out := .done, dnb := { s.dnb with ports := t.dnb.ports } } ∧ ∀ k, k ≠ p → t.port k = s.port k := by
  intro q
  obtain ⟨hrx, howed, hgranted, -, -, hreplay⟩ := q.hear_kept f
  refine ⟨_, messageFlitArrives hup hq hnak hkind, fun hseq => ?_, fun hseq => ?_, ?_, rfl, fun k hk => ?_⟩
  · rw [State.updPort_port, State.updPort_port]
    obtain ⟨h1, h2, h3⟩ := DnbPort.accept_awaited (hseq.trans hrx.symm)
    exact ⟨h1.trans (by rw [hrx]), h2.trans howed, h3.trans (by rw [hgranted])⟩
  · rw [State.updPort_port, State.updPort_port]
    have hother : (q.hear f).accept f = { q.hear f with nakOwed := true } := DnbPort.accept_other (by rw [hrx]; exact hseq)
    exact ⟨(congrArg DnbPort.rxSeq hother).trans hrx, congrArg DnbPort.nakOwed hother, (congrArg DnbPort.granted hother).trans hgranted⟩
  · rw [State.updPort_port, State.updPort_port]
    exact (DnbPort.accept_kept _ f).2.trans hreplay
  · rw [State.updPort_port_other _ hk, State.updPort_port_other _ hk]
    rfl

/-! ## Replays -/

theorem DnbPort.retrained_kept (x : DnbPort) (now : Nat) : (x.retrained now).replay = x.replay ∧ (x.retrained now).txSeq = x.txSeq ∧
    (x.retrained now).sendQ = x.sendQ := by
  unfold DnbPort.retrained
  split <;> exact ⟨rfl, rfl, rfl⟩

theorem State.retrainPort_ctr (s : State) (p : Fin 4) {c : Ctr} (h : c ≠ portCtr .dnbRetrain0 .dnbRetrain1 .dnbRetrain2 .dnbRetrain3 p) :
    (s.retrainPort p).ctr c = s.ctr c := by
  unfold State.retrainPort
  split
  · rfl
  · exact s.count_ctr_other h

theorem replayCtr_ne_retrainCtr : ∀ p : Fin 4, portCtr .dnbReplay0 .dnbReplay1 .dnbReplay2 .dnbReplay3 p ≠
    portCtr .dnbRetrain0 .dnbRetrain1 .dnbRetrain2 .dnbRetrain3 p := by decide

/-- A replay keeps what it sends again, counts it, and changes no other port. -/
theorem State.replayPort_kept (s : State) (p : Fin 4) : ((s.replayPort p).port p).replay = (s.port p).replay ∧
    ((s.replayPort p).port p).txSeq = (s.port p).txSeq ∧ ((s.replayPort p).port p).sendQ = (s.port p).sendQ ∧
    (s.replayPort p).ctr (portCtr .dnbReplay0 .dnbReplay1 .dnbReplay2 .dnbReplay3 p) =
      s.ctr (portCtr .dnbReplay0 .dnbReplay1 .dnbReplay2 .dnbReplay3 p) + (s.port p).replay.length ∧
    (s.replayPort p).mem = s.mem ∧ (s.replayPort p).eci = s.eci ∧ ∀ k, k ≠ p → (s.replayPort p).port k = s.port k := by
  unfold State.replayPort
  extract_lets l s1
  have hport : s1.port p = { s.port p with replays := l } := State.updPort_port ..
  have hctr : s1.ctr (portCtr .dnbReplay0 .dnbReplay1 .dnbReplay2 .dnbReplay3 p) =
      s.ctr (portCtr .dnbReplay0 .dnbReplay1 .dnbReplay2 .dnbReplay3 p) + (s.port p).replay.length := s.add_ctr ..
  have hother (k : Fin 4) (hk : k ≠ p) : s1.port k = s.port k := State.updPort_port_other _ hk _
  have hmem : s1.mem = s.mem := rfl
  have heci : s1.eci = s.eci := rfl
  clear_value s1
  split
  · obtain ⟨hreplay, htx, hsend⟩ := (s1.port p).retrained_kept s1.now
    have hp : (s1.retrainPort p).port p = (s1.port p).retrained s1.now := (s1.retrainPort_port p p).trans (if_pos rfl)
    refine ⟨?_, ?_, ?_, (s1.retrainPort_ctr p (replayCtr_ne_retrainCtr p)).trans hctr, ?_, ?_, fun k hk => ?_⟩
    · rw [hp, hreplay, hport]
    · rw [hp, htx, hport]
    · rw [hp, hsend, hport]
    · rw [s1.retrainPort_eq, ← hmem]
    · rw [s1.retrainPort_eq, ← heci]
    · rw [s1.retrainPort_port, if_neg hk, hother k hk]
  · exact ⟨by rw [hport], by rw [hport], by rw [hport], hctr, hmem, heci, hother⟩

theorem nakSendsTheRestAgain {s : State} {p : Fin 4} (hup : (s.port p).state.isUp = true) (hq : (s.port p).sendQ = []) (ack : BitVec 10) :
    let q := s.port p
    ∃ t, exec (.dnbNak p ack) s = .next t ∧ (t.port p).replay = ackFlits q.replay ack ∧ (t.port p).txSeq = q.txSeq ∧
      t.ctr (portCtr .dnbReplay0 .dnbReplay1 .dnbReplay2 .dnbReplay3 p) =
        s.ctr (portCtr .dnbReplay0 .dnbReplay1 .dnbReplay2 .dnbReplay3 p) + (ackFlits q.replay ack).length ∧
      t.mem = s.mem ∧ t.eci = s.eci ∧ ∀ k, k ≠ p → t.port k = s.port k := by
  intro q
  let heard : Flit := { emptyFlit with ack := ack, ackv := true, nak := true }
  let v := s.ok.updPort p fun x => x.hear heard
  have hx : exec (.dnbNak p ack) s = .next ((v.replayPort p).drainPort p) := next_congr (if_neg (by simp [hup]))
  obtain ⟨-, -, -, hsend, htx, hreplay⟩ := q.hear_kept heard
  have hv : v.port p = q.hear heard := State.updPort_port ..
  have hacked : (v.port p).replay = ackFlits q.replay ack := by rw [hv]; exact hreplay
  obtain ⟨h1, h2, h3, h4, h5, h6, h7⟩ := v.replayPort_kept p
  have hempty : ((v.replayPort p).port p).sendQ = [] := by rw [h3, hv]; exact hsend.trans hq
  refine ⟨v.replayPort p, by rw [hx, State.drainPort_of_empty hempty], h1.trans hacked, h2.trans ?_, ?_, h5, h6, fun k hk => ?_⟩
  · rw [hv]; exact htx
  · rw [h4, hacked]; rfl
  · exact (h7 k hk).trans (State.updPort_port_other _ hk _)

theorem flitsAreAcceptedInOrder : Claim.FlitsAreAcceptedInOrder := by
  intro s p f ack hup hq q
  exact ⟨fun fixed => ⟨portUndecodable hup f fixed, exec_dnbFlitReceive hup f fixed⟩, flitsAcceptedInOrder hup hq, nakSendsTheRestAgain hup hq ack⟩

/-! ## Training -/

/-- A message's flit costs no more than any class is granted at the start. -/
theorem msgFlit_affordable (m : Msg) : (flitCost (msgFlit m)).2 ≤ pick advertised (flitCost (msgFlit m)).1 := by
  have hmin : ∀ c : Fin 5, 32 ≤ pick advertised c := by decide
  have hcost : (flitCost (msgFlit m)).2 ≤ 32 := by
    have hk : (msgFlit m).kind ≠ 2 := by simp [msgFlit]
    rw [flitCost, if_neg hk]
    have hlen : bitsAt (leNat ((msgFlit m).payload.take 16)) 32 5 < 2 ^ 5 := Nat.mod_lt _ (by decide)
    dsimp only
    omega
  exact hcost.trans (hmin _)

/-- A port that is UP anew sends the one message it has. -/
theorem DnbPort.drain_first {x : DnbPort} {f : Flit} (hup : x.state.isUp = true) (hreplay : x.replay = []) (hq : x.sendQ = [f])
    (hcost : (flitCost f).2 ≤ pick x.credits (flitCost f).1) : x.drain x.sendQ.length = { x with sendQ := [] }.put f := by
  have hif : (x.state.isUp && decide (x.replay.length < 512) && decide ((flitCost f).2 ≤ pick x.credits (flitCost f).1)) = true := by
    simp [hup, hreplay, hcost]
  rw [hq, List.length_singleton, DnbPort.drain, hq]
  dsimp only
  rw [if_pos hif, DnbPort.drain]

/-- A port's link: its state, its width, and since when it trains. -/
def DnbPort.link (x : DnbPort) : LinkState × Nat × Option Nat := (x.state, x.width, x.leftUp)

theorem DnbPort.drain_link (n : Nat) (x : DnbPort) : (x.drain n).link = x.link := by
  induction n generalizing x with
  | zero => rfl
  | succ n ih =>
    rw [DnbPort.drain]
    split
    · rfl
    · split
      · exact ih _
      · rfl

/-- A port's link, memory and the command interface: what sending leaves alone. -/
def State.linked (p : Fin 4) (s : State) : (LinkState × Nat × Option Nat) × Memory × Eci := ((s.port p).link, s.mem, s.eci)

theorem State.of_linked {p : Fin 4} {s t : State} (h : t.linked p = s.linked p) : (t.port p).link = (s.port p).link ∧ t.mem = s.mem ∧ t.eci = s.eci :=
  ⟨(congrArg (·.1) h :), (congrArg (·.2.1) h :), (congrArg (·.2.2) h :)⟩

theorem State.updPort_linked (p : Fin 4) (s : State) (k : Fin 4) {f : DnbPort → DnbPort} (h : ∀ x, (f x).link = x.link) :
    (s.updPort k f).linked p = s.linked p := by
  by_cases hk : p = k
  · subst hk
    rw [State.linked, State.updPort_port, h]
    rfl
  · rw [State.linked, State.updPort_port_other _ hk]
    rfl

theorem State.pump_linked (p : Fin 4) (s : State) : s.pump.linked p = s.linked p := by
  have hflush : s.flushOutbox.linked p = s.linked p := by
    unfold State.flushOutbox
    extract_lets go
    refine foldl_keeps (g := State.linked p) (f := go) (fun u m => ?_) _ _
    simp only [go]
    split
    · rfl
    · split
      · exact u.updPort_linked p _ fun _ => rfl
      · split <;> rfl
  exact (foldl_keeps (g := State.linked p) (f := State.drainPort) (fun u k => u.updPort_linked p k fun x => x.drain_link _) _ _).trans hflush

/-- A port that comes UP at a number of lanes. -/
def DnbPort.upAt (lanes now : Nat) (y : DnbPort) : DnbPort := { y with
  state := if 16 ≤ lanes then .up else .degraded, width := if 16 ≤ lanes then 16 else 8, leftUp := none, tState := now, replays := [] }

/-- A port that starts anew, with one flit to send. -/
def DnbPort.anew (f : Flit) (y : DnbPort) : DnbPort := { y with
  txSeq := 0, rxSeq := 0, replay := [], nakOwed := false, credits := advertised, granted := advertised, sendQ := [f], streams := [], txTags := [] }

theorem exec_dnbPortUp {s : State} {p : Fin 4} {lanes : Nat} (hdown : (s.port p).state.isUp = false) (hheld : (s.port p).heldDown = false)
    (hmicro : s.cxl.microcode = true) (hlanes : 8 ≤ lanes) : exec (.dnbPortUp p lanes) s =
      .next (if (s.port p).leftUp.isSome then (s.ok.updPort p (DnbPort.upAt lanes s.now)).pump
        else ((s.ok.regainRoutes p).updPort p fun y => (y.upAt lanes s.now).anew (msgFlit (s.podMsg p))).pump) :=
  next_congr (if_neg (by simp [hdown, hheld, hmicro]; omega))

theorem DnbPort.upAt_isUp (lanes now : Nat) (y : DnbPort) : (y.upAt lanes now).state.isUp = true := by
  unfold DnbPort.upAt
  dsimp only
  split <;> rfl

/-- The first flit of a port that starts anew is its POD message. -/
theorem DnbPort.anew_drained (lanes now : Nat) (y : DnbPort) (m : Msg) : ((y.upAt lanes now).anew (msgFlit m)).drain 1 =
    { (y.upAt lanes now).anew (msgFlit m) with sendQ := [] }.put (msgFlit m) :=
  DnbPort.drain_first (x := (y.upAt lanes now).anew (msgFlit m)) (y.upAt_isUp lanes now) rfl rfl (msgFlit_affordable m)

theorem portsComeUp {s : State} {p : Fin 4} {lanes : Nat} (hdown : (s.port p).state.isUp = false) (hheld : (s.port p).heldDown = false)
    (hmicro : s.cxl.microcode = true) (hlanes : 8 ≤ lanes) :
    ∃ t, exec (.dnbPortUp p lanes) s = .next t ∧
      (t.port p).state = (if 16 ≤ lanes then .up else .degraded) ∧ (t.port p).width = (if 16 ≤ lanes then 16 else 8) ∧
      (t.port p).leftUp = none ∧ t.mem = s.mem ∧ t.eci = s.eci ∧
      ((s.port p).leftUp = none → s.dnb.outbox = [] → (t.port p).rxSeq = 0 ∧ (t.port p).txSeq = 1 ∧ (t.port p).streams = [] ∧
        (t.port p).replay.map (·.payload) = [padFlit (msgBytes (s.podMsg p))]) := by
  refine ⟨_, exec_dnbPortUp hdown hheld hmicro hlanes, ?_⟩
  split
  next hleft =>
    have h := (s.ok.updPort p (DnbPort.upAt lanes s.now)).pump_linked p
    obtain ⟨hlink, hmem, heci⟩ := State.of_linked h
    rw [State.updPort_port] at hlink
    exact ⟨congrArg (·.1) hlink, congrArg (·.2.1) hlink, congrArg (·.2.2) hlink, hmem, heci, fun hnone => by simp [hnone] at hleft⟩
  next hleft =>
    let v := (s.ok.regainRoutes p).updPort p fun y => (y.upAt lanes s.now).anew (msgFlit (s.podMsg p))
    have hv : v.port p = ((s.port p).upAt lanes s.now).anew (msgFlit (s.podMsg p)) := State.updPort_port ..
    have h := v.pump_linked p
    obtain ⟨hlink, hmem, heci⟩ := State.of_linked h
    rw [hv] at hlink
    refine ⟨congrArg (·.1) hlink, congrArg (·.2.1) hlink, congrArg (·.2.2) hlink, hmem, heci, fun _ hout => ?_⟩
    have hport : v.pump.port p = { ((s.port p).upAt lanes s.now).anew (msgFlit (s.podMsg p)) with sendQ := [] }.put (msgFlit (s.podMsg p)) :=
      (State.pump_port (s := v) hout p).trans (by rw [hv]; exact DnbPort.anew_drained ..)
    rw [show State.port _ p = _ from hport]
    exact ⟨rfl, rfl, rfl, rfl⟩

theorem portRetrains {s : State} {p : Fin 4} (hup : (s.port p).state.isUp = true) : ∃ t, exec (.dnbRetrain p) s = .next t ∧
    t.port p = { s.port p with state := .training, leftUp := some s.now, tState := s.now, retrains := (s.port p).retrains + 1, replays := [] } ∧
    (∀ k, k ≠ p → t.port k = s.port k) ∧ t.mem = s.mem ∧ t.eci = s.eci := by
  refine ⟨s.ok.retrainPort p, next_congr (if_pos hup), ?_, fun k hk => ?_, ?_, ?_⟩
  · exact (s.ok.retrainPort_port p p).trans ((if_pos rfl).trans (if_pos hup))
  · exact (s.ok.retrainPort_port p k).trans (if_neg hk)
  · rw [s.ok.retrainPort_eq]; rfl
  · rw [s.ok.retrainPort_eq]; rfl

theorem State.failUnreachable_of_idle {s : State} (hreqs : s.dnb.reqs = []) (htransfers : s.srv.transfers = []) (hlifts : s.tiers.lifts = [])
    (hunread : s.tiers.unreadable = []) : s.failUnreachable = s := by
  unfold State.failUnreachable
  extract_lets s1 s2 lost
  have h1 : s1 = s := by
    simp only [s1, hreqs]
    rfl
  have h2 : s2 = s := by
    simp only [s2, h1, htransfers]
    rfl
  clear_value lost s2
  subst h2
  rw [hlifts, List.filter_nil, List.foldl_nil, State.poisonDue, hunread, List.foldl_nil]

theorem portsTrain : Claim.PortsTrain := by
  intro s p lanes neighbour q
  refine ⟨portRetrains, portsComeUp, fun t0 hleft hdue => ?_, fun hup hpod hreqs hswitch htransfers hlifts hunread => ?_⟩
  · have hx : exec (.dnbPortDown p) s = execDnbPortDown p s := rfl
    have hl : (s.port p).leftUp = some t0 := hleft
    rw [hx, execDnbPortDown, hl]
    exact next_congr (if_pos hdue)
  · let v := s.ok.updPort p fun x => { x with neighbour := neighbour }
    have hcheck : v.checkNeighbour p = v := by
      have hv : v.eci.pod = none := hpod
      rw [State.checkNeighbour, hv]
    have hfail : v.failUnreachable = v := State.failUnreachable_of_idle hreqs htransfers hlifts hunread
    have hswitched : v.finishSwitch = v := State.finishSwitch_of_none hswitch
    have hx : exec (.dnbPod p neighbour) s = .next ((v.checkNeighbour p).failUnreachable).finishSwitch := 
      next_congr (if_neg (by rw [show (s.port p).state.isUp = true from hup]; decide))
    rw [hx, hcheck, hfail, hswitched]
    rfl

/-! ## Forwarding -/

theorem messagesAreForwarded : Claim.MessagesAreForwarded := by
  intro s m hup hdst
  have hx : exec (.dnbForward m) s = .next (s.ok.forward m) := next_congr (if_neg (by simp [hup, hdst]))
  have hroute : s.ok.route m.dst = s.route m.dst := rfl
  refine ⟨fun p hp hhops => ?_, fun h => ?_⟩
  · have hport : routePort (s.ok.route m.dst) = some p := by rw [hroute, hp]; exact dif_pos p.isLt
    rw [hx, State.forward, hport]
    exact next_congr (if_neg hhops)
  · rw [hx, State.forward]
    split
    next p hp =>
      refine next_congr (if_pos (h.resolve_right fun h15 => ?_))
      rw [hroute, h15] at hp
      simp [routePort] at hp
    · rfl

/-- Settles O48: a port with nothing to send is left by a drain as it was, and one that comes UP anew has credits for its POD message. -/
theorem denbelLinkLayer : Obligations.DenbelLinkLayer := ⟨flitsAreAcceptedInOrder, portsTrain, messagesAreForwarded⟩

end Sys2Proof.Machine
end
